-- ==== Sys2Proof/Word.lean ====
section
/-! DEFINITION. The plain value types of the Luaval 10: bytes, 64-bit words, 512-bit lines, 96-bit
instruction words, and the two ways a narrow value is widened (R3, R45, R97). -/

namespace Sys2Proof

/-- One byte of memory. -/
abbrev Byte := BitVec 8
/-- A g register, a predicate or a special register (R45). -/
abbrev Word := BitVec 64
/-- A v register, a scratchpad line or a cache line: 64 bytes, byte 0 in bits 7:0 (R3, R67). -/
abbrev Line := BitVec 512
/-- An instruction word (R22). -/
abbrev IWord := BitVec 96

/-- `sext(x[n-1:0])` of the manual: the low `n` bits of `x`, read as two's complement, as 64 bits. -/
def sextLow (n : Nat) (x : Word) : Word := (x.setWidth n).signExtend 64

/-- `zext(x[n-1:0])` of the manual. -/
def zextLow (n : Nat) (x : Word) : Word := (x.setWidth n).setWidth 64

end Sys2Proof
end

