-- ==== Sys2Proof/Machine/Float.lean ====
section
/-! DEFINITION. Number formats and floating arithmetic (R65 to R81, R90): the value of a pattern, exact
sums and products, rounding to nearest even with the exceptions of R76, conversions, quantisation. Every
function works on natural numbers and integers and evaluates on numerals. -/

namespace Sys2Proof.Machine

/-! ## Formats and values -/

/-- A floating format: exponent bits, fraction bits, and whether the all-ones exponent is an ordinary
binade but for one pattern, as in E4M3 (R69). -/
structure Fmt where
  eb : Nat
  mb : Nat
  fn : Bool
  deriving DecidableEq, Repr

/-- FP64 of Table 4.2. -/
def fp64 : Fmt := ⟨11, 52, false⟩
/-- FP32 of Table 4.2. -/
def fp32 : Fmt := ⟨8, 23, false⟩
/-- FP16 of Table 4.2. -/
def fp16 : Fmt := ⟨5, 10, false⟩
/-- BF16 of Table 4.2. -/
def bf16 : Fmt := ⟨8, 7, false⟩
/-- FP8 E4M3 of Table 4.2. -/
def e4m3 : Fmt := ⟨4, 3, true⟩
/-- FP8 E5M2 of Table 4.2. -/
def e5m2 : Fmt := ⟨5, 2, false⟩

/-- The exponent bias. -/
def Fmt.bias (f : Fmt) : Nat := 2 ^ (f.eb - 1) - 1
/-- The width of a pattern. -/
def Fmt.width (f : Fmt) : Nat := f.eb + f.mb + 1
/-- The all-ones exponent field with a zero fraction: the pattern of +∞ where the format has one. -/
def Fmt.infBits (f : Fmt) : Nat := (2 ^ f.eb - 1) * 2 ^ f.mb
/-- The pattern of the largest finite value. -/
def Fmt.maxBits (f : Fmt) : Nat := if f.fn then f.infBits + 2 ^ f.mb - 2 else f.infBits - 1
/-- The canonical NaN of Table 4.2. -/
def Fmt.nanBits (f : Fmt) : Nat := if f.fn then f.infBits + 2 ^ f.mb - 1 else f.infBits + 2 ^ (f.mb - 1)
/-- The sign bit. -/
def Fmt.signBit (f : Fmt) : Nat := 2 ^ (f.eb + f.mb)

/-- An exact value: a NaN, an infinity, or (−1)^neg · m · 2^e; a zero keeps its sign. -/
inductive FVal where
  | nan
  | inf (neg : Bool)
  | fin (neg : Bool) (m : Nat) (e : Int)
  deriving DecidableEq, Repr

/-- The value of a pattern (R69). -/
def decodeF (f : Fmt) (x : Nat) : FVal :=
  let neg := x / f.signBit % 2 == 1
  let e := x / 2 ^ f.mb % 2 ^ f.eb
  let fr := x % 2 ^ f.mb
  if e == 2 ^ f.eb - 1 && !f.fn then
    if fr == 0 then .inf neg else .nan
  else if f.fn && e == 2 ^ f.eb - 1 && fr == 2 ^ f.mb - 1 then .nan
  else if e == 0 then .fin neg fr (1 - (f.bias : Int) - f.mb)
  else .fin neg (2 ^ f.mb + fr) ((e : Int) - f.bias - f.mb)

/-- The number of bits of `n`. -/
def bitLen (n : Nat) : Nat := if n = 0 then 0 else Nat.log2 n + 1

/-- `m / 2^s` rounded to nearest, ties to even (R72). -/
def shiftRne (m s : Nat) : Nat :=
  let n := m / 2 ^ s
  let r := m % 2 ^ s
  if 2 ^ s < 2 * r ∨ (2 ^ s = 2 * r ∧ n % 2 = 1) then n + 1 else n

/-- The pattern, without its sign and with an unbounded exponent field, of m · 2^e rounded to nearest
even, and whether that is inexact. -/
def roundMag (f : Fmt) (m : Nat) (e : Int) : Nat × Bool :=
  if m = 0 then (0, false)
  else
    let lead : Int := e + bitLen m - 1
    let q : Int := max (lead - f.mb) (1 - (f.bias : Int) - f.mb)
    let n := if q ≤ e then m * 2 ^ (e - q).toNat else shiftRne m (q - e).toNat
    let inexact := if q ≤ e then false else m % 2 ^ (q - e).toNat != 0
    if n < 2 ^ f.mb then (n, inexact)
    else (((q + f.bias + f.mb).toNat) * 2 ^ f.mb + (n - 2 ^ f.mb), inexact)

/-- A rounded result with the exceptions that rounding raises (R76). -/
structure Rounded where
  bits : Nat
  overflow : Bool
  underflow : Bool
  inexact : Bool
  deriving DecidableEq, Repr

/-- A sign in its place. -/
def withSign (f : Fmt) (neg : Bool) (mag : Nat) : Nat := if neg then f.signBit + mag else mag

/-- Rounding a value into a format (R72, R73, R78): `sat` gives ± the largest finite value on overflow
and for an infinite source; otherwise overflow gives ±∞. E4M3 has no infinity, so every conversion
into it saturates. -/
def roundF (f : Fmt) (sat : Bool) : FVal → Rounded
  | .nan => ⟨f.nanBits, false, false, false⟩
  | .inf neg =>
    if sat || f.fn then ⟨withSign f neg f.maxBits, true, false, true⟩
    else ⟨withSign f neg f.infBits, false, false, false⟩
  | .fin neg m e =>
    let (mag, inexact) := roundMag f m e
    if f.maxBits < mag then
      ⟨withSign f neg (if sat || f.fn then f.maxBits else f.infBits), true, false, true⟩
    else ⟨withSign f neg mag, false, inexact && mag != 0 && decide (mag < 2 ^ f.mb), inexact⟩

/-- Rounding without exceptions. -/
def roundBits (f : Fmt) (v : FVal) : Nat := (roundF f false v).bits

/-! ## Exact arithmetic -/

/-- Whether a value is a NaN. -/
def FVal.isNan : FVal → Bool
  | .nan => true
  | _ => false
/-- Whether a value is an infinity. -/
def FVal.isInf : FVal → Bool
  | .inf _ => true
  | _ => false
/-- Whether a value is a zero of either sign. -/
def FVal.isZero : FVal → Bool
  | .fin _ m _ => m == 0
  | _ => false
/-- The sign of a value. -/
def FVal.neg? : FVal → Bool
  | .nan => false
  | .inf n => n
  | .fin n _ _ => n

/-- The value with the other sign. -/
def fNeg : FVal → FVal
  | .nan => .nan
  | .inf n => .inf (!n)
  | .fin n m e => .fin (!n) m e

/-- The magnitude. -/
def fAbs : FVal → FVal
  | .nan => .nan
  | .inf _ => .inf false
  | .fin _ m e => .fin false m e

/-- The signed integer n with n · 2^d = m · 2^e, for d ≤ e. -/
def scaled (neg : Bool) (m : Nat) (e d : Int) : Int :=
  let k : Int := m * 2 ^ (e - d).toNat
  if neg then -k else k

/-- The exact sum, with the signs of zero of R74. -/
def fAdd : FVal → FVal → FVal
  | .nan, _ => .nan
  | _, .nan => .nan
  | .inf a, .inf b => if a == b then .inf a else .nan
  | .inf a, _ => .inf a
  | _, .inf b => .inf b
  | .fin na ma ea, .fin nb mb eb =>
    if ma = 0 ∧ mb = 0 then .fin (na && nb) 0 0
    else
      let d := min ea eb
      let t := scaled na ma ea d + scaled nb mb eb d
      .fin (decide (t < 0)) t.natAbs d

/-- The exact product. -/
def fMul : FVal → FVal → FVal
  | .nan, _ => .nan
  | _, .nan => .nan
  | .inf a, .inf b => .inf (a != b)
  | .inf a, .fin b m _ => if m = 0 then .nan else .inf (a != b)
  | .fin a m _, .inf b => if m = 0 then .nan else .inf (a != b)
  | .fin a ma ea, .fin b mb eb => .fin (a != b) (ma * mb) (ea + eb)

/-- A value times a power of two. -/
def fScale (k : Int) : FVal → FVal
  | .fin n m e => .fin n m (e + k)
  | v => v

/-- A quotient known to `p` bits and more, its last bit set when bits were cut: rounding it into a
format of fewer than `p - 2` fraction bits rounds the exact quotient. -/
def divMag (p a b : Nat) (e : Int) : Nat × Int :=
  let k := p + bitLen b
  let q := a * 2 ^ k / b
  let sticky := if a * 2 ^ k % b = 0 then 0 else 1
  (2 * q + sticky, e - k - 1)

/-- The exact quotient, as far as rounding can see it. -/
def fDiv : FVal → FVal → FVal
  | .nan, _ => .nan
  | _, .nan => .nan
  | .inf _, .inf _ => .nan
  | .inf a, .fin b _ _ => .inf (a != b)
  | .fin a _ _, .inf b => .fin (a != b) 0 0
  | .fin a ma ea, .fin b mb eb =>
    if mb = 0 then (if ma = 0 then .nan else .inf (a != b))
    else
      let (m, e) := divMag 80 ma mb (ea - eb)
      .fin (a != b) m e

/-- The integer square root, bit by bit from bit `n` down. -/
def isqrtFrom (m : Nat) : Nat → Nat → Nat
  | 0, r => r
  | n + 1, r =>
    let r' := r + 2 ^ n
    isqrtFrom m n (if r' * r' ≤ m then r' else r)

/-- The integer square root. -/
def isqrt (m : Nat) : Nat := isqrtFrom m (bitLen m / 2 + 1) 0

/-- The exact square root, as far as rounding can see it; √−0 = −0 (R110). -/
def fSqrt : FVal → FVal
  | .nan => .nan
  | .inf n => if n then .nan else .inf false
  | .fin n m e =>
    if m = 0 then .fin n 0 0
    else if n then .nan
    else
      let odd := (e % 2).toNat
      let m' := m * 2 ^ (160 + odd)
      let r := isqrt m'
      let sticky := if r * r = m' then 0 else 1
      .fin false (2 * r + sticky) ((e - odd) / 2 - 80 - 1)

/-- 1/√a, as far as rounding can see it (R119). -/
def fRsqrt : FVal → FVal
  | .nan => .nan
  | .inf n => if n then .nan else .fin false 0 0
  | .fin n m e =>
    if m = 0 then .inf n
    else if n then .nan
    else
      let odd := (e % 2).toNat
      let m' := m * 2 ^ odd
      let k := 80 + bitLen m'
      let r := isqrt (2 ^ (2 * k) / m')
      let sticky := if r * r * m' = 2 ^ (2 * k) then 0 else 1
      .fin false (2 * r + sticky) (-((e - odd) / 2) - k - 1)

/-- ln 2 in units of 2^-256. -/
def ln2Fixed : Nat := 80260960185991308862233904206310070533990667611589946606122867505419956976171

/-- The sum of the first `n` terms of e^x in units of 2^-256, `term` being the next term and `k` its index. -/
def expTerms (x : Nat) : Nat → Nat → Nat → Nat → Nat
  | 0, _, _, acc => acc
  | n + 1, k, term, acc => expTerms x n (k + 1) (term * x / 2 ^ 256 / (k + 1)) (acc + term)

/-- 2^a (R119): exact for integers; otherwise 2^a is irrational, and its first 200 bits with a set last
bit stand for it. A value nearer to 0 than 2^-30 gives 1, which is what 2^a rounds to in every lane type. -/
def fExp2 : FVal → FVal
  | .nan => .nan
  | .inf n => if n then .fin false 0 0 else .inf false
  | .fin n m e =>
    if m = 0 then .fin false 1 0
    else if (bitLen m : Int) + e ≤ -30 then .fin false 1 0
    else if 20 < (bitLen m : Int) + e then (if n then .fin false 1 (-1000000) else .fin false 1 1000000)
    else
      -- a in units of 2^-256
      let a : Int := if 0 ≤ e + 256 then scaled n m (e + 256) 0 else 0
      let whole := a / 2 ^ 256
      let frac := (a % 2 ^ 256).toNat
      if frac = 0 then .fin false 1 whole
      else
        let x := frac * ln2Fixed / 2 ^ 256
        let y := expTerms x 70 0 (2 ^ 256) 0
        .fin false (2 * (y / 2 ^ 40) + 1) (whole - 216 - 1)

/-! ## Comparison -/

/-- Exact comparison of two values that are not NaN; −0 equals +0. -/
def fLt : FVal → FVal → Bool
  | .nan, _ => false
  | _, .nan => false
  | .inf a, .inf b => a && !b
  | .inf a, _ => a
  | _, .inf b => !b
  | .fin na ma ea, .fin nb mb eb =>
    let d := min ea eb
    decide (scaled na ma ea d < scaled nb mb eb d)

/-- Exact equality, with −0 = +0; false for a NaN. -/
def fEq (a b : FVal) : Bool := !a.isNan && !b.isNan && !fLt a b && !fLt b a

/-- The ordered comparison `a ≤ b`; false for a NaN. -/
def fLe (a b : FVal) : Bool := fLt a b || fEq a b

/-- The order of R74: exact comparison with −0 below +0. -/
def fBelow (a b : FVal) : Bool := fLt a b || (fEq a b && a.neg? && !b.neg?)

/-- `FMIN` of R74. -/
def fMin (a b : FVal) : FVal := if a.isNan then b else if b.isNan then a else if fBelow b a then b else a
/-- `FMAX` of R74. -/
def fMax (a b : FVal) : FVal := if a.isNan then b else if b.isNan then a else if fBelow a b then b else a

/-! ## Conversions to and from integers (R77, R79) -/

/-- The value of an integer. -/
def ofInt (x : Int) : FVal := .fin (decide (x < 0)) x.natAbs 0

/-- A finite value cut toward zero. -/
def truncF (neg : Bool) (m : Nat) (e : Int) : Int :=
  let k : Int := if 0 ≤ e then m * 2 ^ e.toNat else ((m / 2 ^ (-e).toNat : Nat) : Int)
  if neg then -k else k

/-- The result of a conversion to an integer in `lo .. hi`, whether the input was clamped or a NaN, and
whether a fraction was cut. -/
def toIntF (lo hi : Int) : FVal → Int × Bool × Bool
  | .nan => (0, true, false)
  | .inf n => (if n then lo else hi, true, false)
  | .fin n m e =>
    let t := truncF n m e
    if t < lo then (lo, true, false)
    else if hi < t then (hi, true, false)
    else (t, false, e < 0 && m % 2 ^ (-e).toNat != 0)

/-! ## Scalar operations with exceptions (R76) -/

/-- The five exceptions in the order of `FPCTL`: invalid, divide by zero, overflow, underflow, inexact. -/
def excBits (invalid div0 overflow underflow inexact : Bool) : BitVec 5 :=
  BitVec.ofBool inexact ++ BitVec.ofBool underflow ++ BitVec.ofBool overflow ++ BitVec.ofBool div0 ++
    BitVec.ofBool invalid

/-- A rounded result and its exceptions. -/
def finish (f : Fmt) (invalid div0 : Bool) (v : FVal) : Nat × BitVec 5 :=
  let r := roundF f false v
  (r.bits, excBits invalid div0 r.overflow r.underflow r.inexact)

/-- `FADD`, and `FSUB` on a negated second source. -/
def opAdd (f : Fmt) (a b : FVal) : Nat × BitVec 5 :=
  let v := fAdd a b
  finish f (v.isNan && !a.isNan && !b.isNan) false v

/-- `FMUL`. -/
def opMul (f : Fmt) (a b : FVal) : Nat × BitVec 5 :=
  let v := fMul a b
  finish f (v.isNan && !a.isNan && !b.isNan) false v

/-- `FFMA`: one rounding of d + a · b; 0 · ∞ raises invalid whatever d is (R110). -/
def opFma (f : Fmt) (d a b : FVal) : Nat × BitVec 5 :=
  let p := fMul a b
  let v := fAdd d p
  let badProduct := p.isNan && !a.isNan && !b.isNan
  finish f (badProduct || (v.isNan && !d.isNan && !p.isNan)) false v

/-- `FDIV`. -/
def opDiv (f : Fmt) (a b : FVal) : Nat × BitVec 5 :=
  let v := fDiv a b
  let div0 := b.isZero && !a.isZero && !a.isNan && !a.isInf
  finish f (v.isNan && !a.isNan && !b.isNan) div0 v

/-- `FSQRT`. -/
def opSqrt (f : Fmt) (a : FVal) : Nat × BitVec 5 :=
  let v := fSqrt a
  finish f (v.isNan && !a.isNan) false v

/-! ## Quantisation (R80, R81) -/

/-- The outcome of quantising one value: the element, and whether a saturation or an underflow is counted. -/
structure Quantised where
  elem : Nat
  sat : Bool
  unf : Bool
  deriving DecidableEq, Repr

/-- R80: a value into E4M3 or E5M2 under the block scale `e`. -/
def quantFp8 (f : Fmt) (e : Nat) (x : FVal) : Quantised :=
  if x.isNan || e == 255 then ⟨f.nanBits, true, false⟩
  else
    let y := fScale (127 - (e : Int)) x
    let r := roundF f true y
    ⟨r.bits, y.isInf || r.overflow, !y.isInf && !y.isZero && r.bits % f.signBit == 0⟩

/-- |y − b| of two finite values. -/
def fDist (y b : FVal) : FVal := fAbs (fAdd y (fNeg b))

/-- The lowest index of `cand` (a list of index and value) that no other candidate beats. -/
def bestBy (better : FVal → FVal → Bool) : List (Nat × FVal) → Option (Nat × FVal)
  | [] => none
  | c :: cs =>
    match bestBy better cs with
    | none => some c
    | some d => if better d.2 c.2 then some d else some c

/-- R81: a value into CB4 under the codebook entries `book` (BF16 values, lowest index first) and scale `e`. -/
def quantCb4 (book : List FVal) (e : Nat) (x : FVal) : Quantised :=
  if x.isNan || e == 255 then ⟨0, true, false⟩
  else
    let y := fScale (127 - (e : Int)) x
    let entries := (List.range book.length).zip book
    let finite := entries.filter (fun c => !c.2.isInf && !c.2.isNan)
    let chosen : Nat × Bool :=
      if y.isInf then
        match entries.find? (fun c => c.2 == y) with
        | some c => (c.1, false)
        | none =>
          ((bestBy (if y.neg? then (fun a b => fLt a b) else (fun a b => fLt b a)) entries).map (·.1) |>.getD 0, true)
      else if finite.isEmpty then
        ((entries.find? (fun c => c.2.neg? == y.neg?)).map (·.1) |>.getD 0, true)
      else
        ((bestBy (fun a b => fLt (fDist y a) (fDist y b)) finite).map (·.1) |>.getD 0,
          finite.all (fun c => fLt (fAbs c.2) (fAbs y)))
    ⟨chosen.1, chosen.2, !y.isZero && ((book[chosen.1]?).getD .nan).isZero⟩

/-! ## Storage formats (R65) -/

/-- The storage formats of Table 4.1. -/
inductive Storage where
  | cb4 | e4m3 | e5m2 | bf16 | fp16 | fp32 | int8 | int16 | int32
  deriving DecidableEq, Repr

/-- The format of a code; none for the reserved codes 9 to 15. -/
def storageOf (code : Nat) : Option Storage :=
  match code with
  | 0 => some .cb4 | 1 => some .e4m3 | 2 => some .e5m2 | 3 => some .bf16 | 4 => some .fp16
  | 5 => some .fp32 | 6 => some .int8 | 7 => some .int16 | 8 => some .int32 | _ => none

/-- Element bits of Table 4.1. -/
def Storage.bits : Storage → Nat
  | .cb4 => 4 | .e4m3 | .e5m2 | .int8 => 8 | .bf16 | .fp16 | .int16 => 16 | .fp32 | .int32 => 32

/-- The floating format of a storage format, where it has one. -/
def Storage.float? : Storage → Option Fmt
  | .e4m3 => some Machine.e4m3 | .e5m2 => some Machine.e5m2 | .bf16 => some Machine.bf16
  | .fp16 => some Machine.fp16 | .fp32 => some Machine.fp32 | _ => none

/-- The two's-complement value of the low `w` bits of `x` (R68). -/
def signedOf (w x : Nat) : Int :=
  let u := x % 2 ^ w
  if 2 * u < 2 ^ w then u else (u : Int) - 2 ^ w

/-- The low `w` bits of an integer. -/
def toBits (w : Nat) (x : Int) : Nat := (x % (2 : Int) ^ w).toNat

/-- The value of one stored element; a CB4 element through its codebook (R69, R71). -/
def storedValue (book : List FVal) (st : Storage) (x : Nat) : FVal :=
  match st.float? with
  | some f => decodeF f x
  | none =>
    match st with
    | .cb4 => (book[x % 16]?).getD (.fin false 0 0)
    | _ => ofInt (signedOf st.bits x)

/-- The 16 entries of a codebook slot (R71). -/
def bookOf (slot : BitVec 256) : List FVal :=
  (List.range 16).map (fun k => decodeF bf16 (slot.extractLsb' (16 * k) 16).toNat)

/-- One element converted between two storage formats as the stream engines do: saturating (R77 to R82). `e`
is the block scale and `book` the codebook. Equal formats are copied by the caller, uncounted. -/
def convertStored (book : List FVal) (e : Nat) (src dst : Storage) (x : Nat) : Quantised :=
  let v := storedValue book src x
  match dst with
  | .cb4 => quantCb4 book e v
  | .e4m3 => quantFp8 Machine.e4m3 e v
  | .e5m2 => quantFp8 Machine.e5m2 e v
  | .bf16 | .fp16 | .fp32 =>
    let f := (dst.float?).getD Machine.fp32
    let r := roundF f true v
    ⟨r.bits, v.isNan || v.isInf || r.overflow, !v.isNan && !v.isInf && !v.isZero && r.bits % f.signBit == 0⟩
  | .int8 | .int16 | .int32 =>
    let w := dst.bits
    let (t, clamped, _) := toIntF (-(2 : Int) ^ (w - 1)) (2 ^ (w - 1) - 1) v
    ⟨toBits w t, clamped, false⟩

end Sys2Proof.Machine
end

