-- ==== Sys2Proof/Syntax.lean ====
section
/-! DEFINITION. The instructions: one constructor for every row of the opcode table. The forms an
instruction word names carry their guard, hints, modifier and three operands; the steps of the device
that no word names carry the unit they happen at. -/

namespace Sys2Proof

/-- The guard of a word: GN and GP (R29). -/
structure Guard where
  neg : Bool
  p : BitVec 3
  deriving DecidableEq, Repr

/-- The hints of a word: YS, LU and SD (R31). -/
structure Hints where
  ys : Bool
  lu : Bool
  sd : BitVec 2
  deriving DecidableEq, Repr

/-- An operand field by its kind (R24). -/
inductive Operand where
  /-- A position the form does not use: its field is zero (R28). -/
  | unused
  /-- A g register with its TE bit. -/
  | g (idx : BitVec 5) (te : Bool)
  /-- A v register with its TE bit. -/
  | v (idx : BitVec 5) (te : Bool)
  /-- A predicate. -/
  | p (idx : BitVec 3)
  /-- A cursor, its post-increment enable and the signed increment in 4-byte units. -/
  | c (cur : BitVec 3) (post : Bool) (inc : BitVec 8)
  /-- A 21-bit immediate. -/
  | i (imm : BitVec 21)
  /-- A special register number. -/
  | s (num : BitVec 12)
  /-- A buffer descriptor: buffer, remote bit, core within the cluster, offset. -/
  | b (buf : BitVec 2) (remote : Bool) (core : BitVec 4) (off : BitVec 14)
  deriving DecidableEq, Repr

/-- What a word carries besides its cell. -/
structure Form where
  guard : Guard
  hints : Hints
  md : BitVec 3
  od : Operand
  oa : Operand
  ob : Operand
  deriving DecidableEq, Repr

/-- Where an arriving message waits: at an index of a core's injection queue, or of the messages units made. -/
inductive MsgFrom where
  | core (n k : Nat)
  | unit (k : Nat)
  | stolen (k : Nat)
  deriving DecidableEq, Repr

/-- The requests the Device Security Manager serves (R95, R311, R314, R320 to R329, R349, R359, R379, R384). The manual gives
no format of their 64-byte bodies, so a request is its meaning (log 11). -/
inductive DsmRequest where
  /-- Resources of a partition (Table 17.8): clusters, HBM slices, queue blocks, Crucible lines, quotas by
  die · 2 + class − 1, lease time in ns, bandwidth weight, keys, and the addresses of its two control blocks. -/
  | partition (p : Nat) (clusters slices blocks : List Nat) (crucible : Nat) (quota : List (Nat × Nat))
      (lease floor : Nat) (keys : List Nat) (supBlock tierBlock : Nat)
  /-- The physical address of a queue's control block. -/
  | queue (q block : Nat)
  /-- A context with its root RCB, its owners and its save area. -/
  | context (ctx p : Nat) (root : Word) (owners : List (BitVec 20)) (saveArea : Nat)
  | kill (ctx : Nat)
  | restart (ctx : Nat)
  /-- An owner's table. -/
  | owner (o : BitVec 20) (capacity : Nat)
  /-- An original entry, of `len` 64-byte units. -/
  | original (o : BitVec 20) (base len : Nat) (rights : BitVec 5)
  | consent (granter target : BitVec 20) (base len : Nat) (rights : BitVec 5)
  | sweep (o : BitVec 20) (base len : Nat)
  /-- A slice list: context, slice and limit in µs. -/
  | slices (p : Nat) (list : List (Nat × Nat × Nat))
  /-- Features of Table 22.1 the supervisor opens. -/
  | features (p : Nat) (bits : BitVec 6)
  /-- A collective group: the node of each rank, and the timeout in ns. -/
  | group (p g : Nat) (nodes : List Nat) (timeout : Nat)
  | tenant (die index : Nat) (valid : Bool) (rate burst ctx : Nat) (lo hi : Word)
  /-- The ring the holder of a trace unit gives it (R367). -/
  | trace (die ring log : Nat) (stop : Bool)
  deriving DecidableEq, Repr


/-- The instructions of the machine (spec/opcode_table.json). -/
inductive Instr where
  /-- ADD (R99). -/
  | add (f : Form)
  /-- SUB (R99). -/
  | sub (f : Form)
  /-- MUL (R99). -/
  | mul (f : Form)
  /-- MULH (R99). -/
  | mulh (f : Form)
  /-- DIV (R100). -/
  | div (f : Form)
  /-- DIVU (R100). -/
  | divu (f : Form)
  /-- REM (R100). -/
  | rem (f : Form)
  /-- REMU (R100). -/
  | remu (f : Form)
  /-- NEG (R99). -/
  | neg (f : Form)
  /-- ABS (R99). -/
  | abs (f : Form)
  /-- MIN (R99). -/
  | min (f : Form)
  /-- MAX (R99). -/
  | max (f : Form)
  /-- MINU (R99). -/
  | minu (f : Form)
  /-- MAXU (R99). -/
  | maxu (f : Form)
  /-- AND (R101). -/
  | and (f : Form)
  /-- OR (R101). -/
  | or (f : Form)
  /-- XOR (R101). -/
  | xor (f : Form)
  /-- ANDN (R101). -/
  | andn (f : Form)
  /-- SHL (R101). -/
  | shl (f : Form)
  /-- SHR (R101). -/
  | shr (f : Form)
  /-- SAR (R101). -/
  | sar (f : Form)
  /-- ROR (R101). -/
  | ror (f : Form)
  /-- CLZ (R101). -/
  | clz (f : Form)
  /-- CTZ (R101). -/
  | ctz (f : Form)
  /-- POPC (R101). -/
  | popc (f : Form)
  /-- EXTR (R102). -/
  | extr (f : Form)
  /-- INS (R102). -/
  | ins (f : Form)
  /-- CMP (R103). -/
  | cmp (f : Form)
  /-- SEL (R103). -/
  | sel (f : Form)
  /-- PAND (R103). -/
  | pand (f : Form)
  /-- POR (R103). -/
  | por (f : Form)
  /-- PXOR (R103). -/
  | pxor (f : Form)
  /-- PNOT (R103). -/
  | pnot (f : Form)
  /-- PTOG (R103). -/
  | ptog (f : Form)
  /-- GTOP (R103). -/
  | gtop (f : Form)
  /-- MOV (R104). -/
  | mov (f : Form)
  /-- LIMM (R104). -/
  | limm (guard : Guard) (hints : Hints) (od : Operand) (value : BitVec 48)
  /-- LIMM_HI (R104). -/
  | limmHi (guard : Guard) (hints : Hints) (od : Operand) (value : BitVec 16)
  /-- LEA (R104). -/
  | lea (f : Form)
  /-- PTRG (R104). -/
  | ptrg (f : Form)
  /-- PTRS (R104). -/
  | ptrs (f : Form)
  /-- MFS (R105). -/
  | mfs (f : Form)
  /-- MTS (R105). -/
  | mts (f : Form)
  /-- MTS_OWNER (R106). -/
  | mtsOwner (f : Form)
  /-- FPCTL_ACCESS (R108). -/
  | fpctlAccess (f : Form)
  /-- MFS_TMSTAT (R107). -/
  | mfsTmstat (f : Form)
  /-- MFS_COUNTER (R107). -/
  | mfsCounter (f : Form)
  /-- MTS_CSEL (R363). -/
  | mtsCsel (f : Form)
  /-- CURS (R109). -/
  | curs (f : Form)
  /-- CURG (R109). -/
  | curg (f : Form)
  /-- FADD (R110). -/
  | fadd (f : Form)
  /-- FSUB (R110). -/
  | fsub (f : Form)
  /-- FMUL (R110). -/
  | fmul (f : Form)
  /-- FFMA (R110). -/
  | ffma (f : Form)
  /-- FDIV (R111). -/
  | fdiv (f : Form)
  /-- FSQRT (R111). -/
  | fsqrt (f : Form)
  /-- FMIN (R110). -/
  | fmin (f : Form)
  /-- FMAX (R110). -/
  | fmax (f : Form)
  /-- FCMP (R112). -/
  | fcmp (f : Form)
  /-- FCVT (R113). -/
  | fcvt (f : Form)
  /-- VFADD (R118). -/
  | vfadd (f : Form)
  /-- VFSUB (R118). -/
  | vfsub (f : Form)
  /-- VFMUL (R118). -/
  | vfmul (f : Form)
  /-- VFFMA (R118). -/
  | vffma (f : Form)
  /-- VFMIN (R118). -/
  | vfmin (f : Form)
  /-- VFMAX (R118). -/
  | vfmax (f : Form)
  /-- VFABS (R118). -/
  | vfabs (f : Form)
  /-- VFNEG (R118). -/
  | vfneg (f : Form)
  /-- VFRCP (R119). -/
  | vfrcp (f : Form)
  /-- VFRSQ (R119). -/
  | vfrsq (f : Form)
  /-- VFEXP2 (R119). -/
  | vfexp2 (f : Form)
  /-- VFCMPEQ (R120). -/
  | vfcmpeq (f : Form)
  /-- VFCMPLT (R120). -/
  | vfcmplt (f : Form)
  /-- VFCMPLE (R120). -/
  | vfcmple (f : Form)
  /-- VADD (R121). -/
  | vadd (f : Form)
  /-- VSUB (R121). -/
  | vsub (f : Form)
  /-- VMUL (R121). -/
  | vmul (f : Form)
  /-- VMULH (R121). -/
  | vmulh (f : Form)
  /-- VMIN (R121). -/
  | vmin (f : Form)
  /-- VMAX (R121). -/
  | vmax (f : Form)
  /-- VAND (R121). -/
  | vand (f : Form)
  /-- VOR (R121). -/
  | vor (f : Form)
  /-- VXOR (R121). -/
  | vxor (f : Form)
  /-- VSHL (R121). -/
  | vshl (f : Form)
  /-- VSHR (R121). -/
  | vshr (f : Form)
  /-- VSAR (R121). -/
  | vsar (f : Form)
  /-- VABS (R121). -/
  | vabs (f : Form)
  /-- VCMPEQ (R121). -/
  | vcmpeq (f : Form)
  /-- VCMPLT (R121). -/
  | vcmplt (f : Form)
  /-- VSEL (R122). -/
  | vsel (f : Form)
  /-- VADDS (R121). -/
  | vadds (f : Form)
  /-- VCVT (R123). -/
  | vcvt (f : Form)
  /-- VQNT (R125). -/
  | vqnt (f : Form)
  /-- VDQNT (R126). -/
  | vdqnt (f : Form)
  /-- VSCL (R126). -/
  | vscl (f : Form)
  /-- VAMAX (R127). -/
  | vamax (f : Form)
  /-- VRSUM (R128). -/
  | vrsum (f : Form)
  /-- VRMAX (R128). -/
  | vrmax (f : Form)
  /-- VRMIN (R128). -/
  | vrmin (f : Form)
  /-- VPERM (R129). -/
  | vperm (f : Form)
  /-- VBCAST (R129). -/
  | vbcast (f : Form)
  /-- VEXT (R129). -/
  | vext (f : Form)
  /-- VINS (R129). -/
  | vins (f : Form)
  /-- VROT (R129). -/
  | vrot (f : Form)
  /-- VCOMP (R130). -/
  | vcomp (f : Form)
  /-- VEXPD (R130). -/
  | vexpd (f : Form)
  /-- VLD (R132). -/
  | vld (f : Form)
  /-- VST (R132). -/
  | vst (f : Form)
  /-- VLDS (R133). -/
  | vlds (f : Form)
  /-- VSTS (R133). -/
  | vsts (f : Form)
  /-- VGTH (R134). -/
  | vgth (f : Form)
  /-- VSCT (R134). -/
  | vsct (f : Form)
  /-- LD (R141). -/
  | ld (f : Form)
  /-- ST (R141). -/
  | st (f : Form)
  /-- VGLD (R141). -/
  | vgld (f : Form)
  /-- VGST (R141). -/
  | vgst (f : Form)
  /-- PFT (R143). -/
  | pft (f : Form)
  /-- SLD (R144). -/
  | sld (f : Form)
  /-- SST (R144). -/
  | sst (f : Form)
  /-- LDL (R145). -/
  | ldl (f : Form)
  /-- STU (R145). -/
  | stu (f : Form)
  /-- ULK (R145). -/
  | ulk (f : Form)
  /-- AADD (R147). -/
  | aadd (f : Form)
  /-- AFADD (R147). -/
  | afadd (f : Form)
  /-- AMAX (R147). -/
  | amax (f : Form)
  /-- AMAXU (R147). -/
  | amaxu (f : Form)
  /-- AFMAX (R147). -/
  | afmax (f : Form)
  /-- AMIN (R147). -/
  | amin (f : Form)
  /-- AAND (R147). -/
  | aand (f : Form)
  /-- AOR (R147). -/
  | aor (f : Form)
  /-- AXOR (R147). -/
  | axor (f : Form)
  /-- AXCHG (R147). -/
  | axchg (f : Form)
  /-- ACAS (R147). -/
  | acas (f : Form)
  /-- ACQ (R151). -/
  | acq (f : Form)
  /-- REL (R151). -/
  | rel (f : Form)
  /-- BIND (R150). -/
  | bind (f : Form)
  /-- UNBIND (R150). -/
  | unbind (f : Form)
  /-- FENCE (R153). -/
  | fence (f : Form)
  /-- XFENCE (R155). -/
  | xfence (f : Form)
  /-- SPINW (R154). -/
  | spinw (f : Form)
  /-- BARSYNC (R156). -/
  | barsync (f : Form)
  /-- BARMAX (R156). -/
  | barmax (f : Form)
  /-- GRANT (R325). -/
  | grant (f : Form)
  /-- REVOKE (R158). -/
  | revoke (f : Form)
  /-- RCHK (R157). -/
  | rchk (f : Form)
  /-- GENADV (R328). -/
  | genadv (f : Form)
  /-- TLBINV (R160). -/
  | tlbinv (f : Form)
  /-- MMA (R192). -/
  | mma (f : Form)
  /-- MMAS (R192). -/
  | mmas (f : Form)
  /-- MROT (R198). -/
  | mrot (f : Form)
  /-- MROT2 (R198). -/
  | mrot2 (f : Form)
  /-- CCLR (R195). -/
  | cclr (f : Form)
  /-- TLD (R200). -/
  | tld (f : Form)
  /-- TST (R200). -/
  | tst (f : Form)
  /-- TCVT (R200). -/
  | tcvt (f : Form)
  /-- TWAIT (R202). -/
  | twait (f : Form)
  /-- ESEND (R203). -/
  | esend (f : Form)
  /-- GNODE (R206). -/
  | gnode (f : Form)
  /-- GSEAL (R207). -/
  | gseal (f : Form)
  /-- BR (R163). -/
  | br (f : Form)
  /-- BRI (R163). -/
  | bri (f : Form)
  /-- CALL (R163). -/
  | call (f : Form)
  /-- RET (R163). -/
  | ret (f : Form)
  /-- LOOP (R163). -/
  | loop (f : Form)
  /-- SEND (R166). -/
  | send (f : Form)
  /-- SENDNOW (R168). -/
  | sendnow (f : Form)
  /-- END (R169). -/
  | endAct (f : Form)
  /-- ENDW (R170). -/
  | endw (f : Form)
  /-- RREAD (R171). -/
  | rread (f : Form)
  /-- HTSET (R172). -/
  | htset (f : Form)
  /-- TAGEN (R173). -/
  | tagen (f : Form)
  /-- TAGPND (R173). -/
  | tagpnd (f : Form)
  /-- FORK (R174). -/
  | fork (f : Form)
  /-- JOIN (R175). -/
  | join (f : Form)
  /-- QPOST (R176). -/
  | qpost (f : Form)
  /-- EVSET (R177). -/
  | evset (f : Form)
  /-- EVCLR (R177). -/
  | evclr (f : Form)
  /-- TRYE (R178). -/
  | trye (f : Form)
  /-- FAIL (R181). -/
  | fail (f : Form)
  /-- CUT (R183). -/
  | cut (f : Form)
  /-- TRAIL (R180). -/
  | trail (f : Form)
  /-- SPEC (R184). -/
  | spec (f : Form)
  /-- RESOLVE (R280). -/
  | resolve (f : Form)
  /-- NOP (R186). -/
  | nop (f : Form)
  /-- TRAP (R186). -/
  | trap (f : Form)
  /-- TRET (R343). -/
  | tret (f : Form)
  /-- TABORT (R186). -/
  | tabort (f : Form)
  /-- YIELD (R187). -/
  | yieldAct (f : Form)
  /-- BRK (R186). -/
  | brk (f : Form)
  /-- SPECIAL_REGISTER_WRITE (R380). -/
  | specialRegisterWrite (f : Form)
  /-- ATOMIC_PERFORM (R148). -/
  | atomicPerform (core : Nat) (ts : Nat) (k : Nat)
  /-- SYNC_GRANT (R151). -/
  | syncGrant (pa : Nat)
  /-- WATCH_ARM (R154). -/
  | watchArm (k : Nat)
  /-- SPINW_FIRE (R154). -/
  | spinwFire (k : Nat)
  /-- TIER_WATCH_POLL (R154). -/
  | tierWatchPoll (k : Nat) (peer : Word)
  /-- BARRIER_RELEASE (R156). -/
  | barrierRelease (cluster : Nat) (b : Nat)
  /-- PURGE_ARRIVAL (R326). -/
  | purgeArrival (k : Nat) (core : Nat)
  /-- RIGHTS_WALK (R324). -/
  | rightsWalk (core : Nat) (ts : Nat)
  /-- PAGE_WALK (R331). -/
  | pageWalk (core : Nat) (ts : Nat)
  /-- ANVIL_START (R192). -/
  | anvilStart (core : Nat)
  /-- ANVIL_EVALUATION_END (R266). -/
  | anvilEvaluationEnd (core : Nat)
  /-- REPLAY_FETCH (R267). -/
  | replayFetch (core : Nat)
  /-- REMOTE_BLOCK_FETCH (R194). -/
  | remoteBlockFetch (core : Nat) (y : Bool)
  /-- ROTATION_HALF_ARRIVAL (R198). -/
  | rotationHalfArrival (k : Nat)
  /-- ROTATION_LANDING (R198). -/
  | rotationLanding (core : Nat)
  /-- PAIR_ABORT (R199). -/
  | pairAbort (core : Nat)
  /-- HALF_DISCARD (R385). -/
  | halfDiscard (core : Nat) (k : Nat)
  /-- STREAM_COMMAND_START (R239). -/
  | streamCommandStart (cluster : Nat) (engine : Nat)
  /-- STREAM_COMMAND_COMPLETE (R202). -/
  | streamCommandComplete (cluster : Nat) (engine : Nat)
  /-- STREAM_LOAD (R240). -/
  | streamLoad (cluster : Nat) (engine : Nat) (rows : Nat)
  /-- STREAM_STORE (R240). -/
  | streamStore (cluster : Nat) (engine : Nat) (rows : Nat)
  /-- STREAM_CONVERT (R240). -/
  | streamConvert (cluster : Nat) (engine : Nat) (rows : Nat)
  /-- COPY (R241). -/
  | copy (die : Nat) (engine : Nat) (units : Nat)
  /-- FILL (R240). -/
  | fill (die : Nat) (engine : Nat) (units : Nat)
  /-- REDUCE (R242). -/
  | reduce (die : Nat) (engine : Nat)
  /-- ENGINE_COMMAND_COMPLETE (R243). -/
  | engineCommandComplete (die : Nat) (engine : Nat)
  /-- LEASE_EXPIRY (R313). -/
  | leaseExpiry (die : Nat) (engine : Nat)
  /-- GRAPH_DISPATCH (R245). -/
  | graphDispatch (cluster : Nat) (cls : Nat) (core : Nat)
  /-- GRAPH_RECORD_COMPLETE (R246). -/
  | graphRecordComplete (cluster : Nat) (k : Nat)
  /-- MESSAGE_ARRIVAL (R215). -/
  | messageArrival (src : MsgFrom)
  /-- HANDLER_CACHE_FILL (R215). -/
  | handlerCacheFill (core : Nat) (tag : BitVec 12)
  /-- DIRECT_MESSAGE (R214). -/
  | directMessage (k : Nat)
  /-- ENDW_WATCH_FIRE (R170). -/
  | endwWatchFire (bank : Bool) (k : Nat)
  /-- READ_COMPLETION (R171). -/
  | readCompletion (cluster : Nat) (engine : Nat)
  /-- JOIN_STEP (R175). -/
  | joinStep (core : Nat) (ts : Nat)
  /-- QUEUE_SPACE_TRIGGER (R176). -/
  | queueSpaceTrigger (q : Nat)
  /-- SEARCH_THEFT_REQUEST (R272). -/
  | searchTheftRequest (core : Nat)
  /-- THEFT_GRANT (R273). -/
  | theftGrant (thief : Nat) (victim : Nat)
  /-- THEFT_COPY_COMPLETE (R273). -/
  | theftCopyComplete (k : Nat)
  /-- THEFT_START (R274). -/
  | theftStart (core : Nat)
  /-- PRUNE_NOTICE (R276). -/
  | pruneNotice (cluster : Nat) (k : Nat) (core : Nat)
  /-- RESULT_ARRIVAL (R52). -/
  | resultArrival (core : Nat) (ts : Nat) (k : Nat)
  /-- LOCK_CAPTURE (R57). -/
  | lockCapture (core : Nat) (ts : Nat)
  /-- LOCK_BIT_GRANT (R145). -/
  | lockBitGrant (at_ : Nat)
  /-- STORE_QUEUE_DRAIN (R250). -/
  | storeQueueDrain (core : Nat) (ts : Nat)
  /-- REMOTE_WRITE_ACK (R251). -/
  | remoteWriteAck (core : Nat) (ts : Nat) (k : Nat)
  /-- LINE_EVICTION (R236). -/
  | lineEviction (cluster : Nat) (set : Nat)
  /-- MESSAGE_SELECTION (R217). -/
  | messageSelection (core : Nat)
  /-- STEAL_ROUND (R227). -/
  | stealRound (core : Nat)
  /-- STEAL_GRANT (R227). -/
  | stealGrant (thief : Nat) (victim : Nat)
  /-- TASK_RECORD_BOUNCE (R228). -/
  | taskRecordBounce (k : Nat)
  /-- ACTIVATION_ABORT (R348). -/
  | activationAbort (core : Nat) (ts : Nat) (reason : Nat)
  /-- WATCHDOG (R223). -/
  | watchdog (core : Nat) (ts : Nat)
  /-- LAUNCH_TAKE (R296). -/
  | launchTake (q : Nat)
  /-- CORESIDENT_RESERVATION (R307). -/
  | coresidentReservation (launch : Nat) (core : Nat) (ts : Nat)
  /-- ELEMENT_START_DISPATCH (R306). -/
  | elementStartDispatch (launch : Nat) (core : Nat)
  /-- LAUNCH_COMPLETE (R309). -/
  | launchComplete (launch : Nat)
  /-- COMPLETION_WRITE (R297). -/
  | completionWrite (launch : Nat)
  /-- FABRIC_LAUNCH (R298). -/
  | fabricLaunch (die : Nat) (src : Nat) (tenant : Nat) (cookie : Word) (record : List Word)
  /-- TOKEN_REFILL (R299). -/
  | tokenRefill (die : Nat) (tenant : Nat)
  /-- DIRECT_REQUEST (R300). -/
  | directRequest (die : Nat) (src : Nat) (tenant : Nat) (cookie : Word) (ctx : BitVec 12) (core : Nat) (entry : Word) (args : List Word)
  /-- SLICE_END (R315). -/
  | sliceEnd (p : Nat)
  /-- SLICE_OVERRUN (R315). -/
  | sliceOverrun (p : Nat)
  /-- PREEMPTION_SAVE (R315). -/
  | preemptionSave (p : Nat)
  /-- CONTEXT_RESUME (R316). -/
  | contextResume (p : Nat)
  /-- QUEUE_STALL (R317). -/
  | queueStall (q : Nat)
  /-- CORE_MIGRATION (R318). -/
  | coreMigration (ctx : Nat) (old : Nat) (new : Nat)
  /-- FORWARDING_EXPIRY (R318). -/
  | forwardingExpiry (cluster : Nat) (k : Nat)
  /-- CONTEXT_KILL (R349). -/
  | contextKill (ctx : Nat)
  /-- VF_RESET (R350). -/
  | vfReset (p : Nat) (rotate : Bool)
  /-- REQUEST_VOID (R350). -/
  | requestVoid (p : Nat)
  /-- ACCESS_COUNT (R334). -/
  | accessCount
  /-- HELD_WRITE_DRAIN (R337). -/
  | heldWriteDrain (cluster : Nat)
  /-- PATROL_SCRUB (R352). -/
  | patrolScrub (p : Nat) (place : Nat) (at_ : Nat) (bad : Bool)
  /-- UNCORRECTABLE (R353). -/
  | uncorrectable (p : Nat) (place : Nat) (at_ : Nat)
  /-- DIE_BRIDGE_FAILURE (R352). -/
  | dieBridgeFailure (die : Nat)
  /-- TRACE_RECORD (R367). -/
  | traceRecord (cluster : Nat)
  /-- POLICY_EXPIRY (R359). -/
  | policyExpiry (p : Nat)
  /-- MAILBOX_DOORBELL (R371). -/
  | mailboxDoorbell (fn : Nat) (tail : Nat)
  /-- MAILBOX_WRITE (R371). -/
  | mailboxWrite (fn : Nat)
  /-- MAILBOX_READ (R371). -/
  | mailboxRead (fn : Nat)
  /-- ENQUEUE (R295). -/
  | enqueue (fn : Nat)
  /-- DIRECT (R371). -/
  | direct (fn : Nat)
  /-- DEBUG (R369). -/
  | debugCommand (fn : Nat)
  /-- POLICY (R360). -/
  | policy (fn : Nat)
  /-- OBSERVE_ACQUIRE (R365). -/
  | observeAcquire (fn : Nat)
  /-- OBSERVE_RELEASE (R365). -/
  | observeRelease (fn : Nat)
  /-- DSM (R371). -/
  | dsm (req : DsmRequest)
  /-- STOP (R369). -/
  | stop (core : Nat)
  /-- RESUME (R369). -/
  | resume (core : Nat)
  /-- STEP (R369). -/
  | stepOne (core : Nat)
  /-- STEPN (R369). -/
  | stepN (core : Nat)
  /-- DEBUG_READ (R369). -/
  | debugRead (core : Nat)
  /-- DEBUG_WRITE (R369). -/
  | debugWrite (core : Nat)
  /-- BKPT (R369). -/
  | bkpt (core : Nat)
  /-- BREAKPOINT_HIT (R369). -/
  | breakpointHit (core : Nat) (ts : Nat)
  /-- ENDSTEP (R369). -/
  | endStep (core : Nat)
  /-- CLOCK_LOCK_SESSION (R366). -/
  | clockLockSession (die : Nat) (vf : Nat) (clocks : Bool) (start : Bool)
  /-- LOCK_INTERFACE_REQUEST (R375). -/
  | lockInterfaceRequest (vf : Nat) (keyHash : BitVec 256)
  /-- START_INTERFACE_REQUEST (R375). -/
  | startInterfaceRequest (vf : Nat)
  /-- STOP_INTERFACE_REQUEST (R375). -/
  | stopInterfaceRequest (vf : Nat)
  /-- TDI_ERROR (R375). -/
  | tdiError (vf : Nat)
  /-- NEGOTIATE_ALGORITHMS (R374). -/
  | negotiateAlgorithms (asym : List Word) (hash : List Word) (dhe : List Word) (aead : Bool)
  /-- GET_CERTIFICATE (R374). -/
  | getCertificate (slot : Nat) (offset : Nat) (length : Nat)
  /-- CHALLENGE (R374). -/
  | challenge (slot : Nat) (nonce : List Byte)
  /-- GET_MEASUREMENTS (R374). -/
  | getMeasurements (block : Nat) (vf : Nat) (nonce : List Byte)
  /-- KEY_EXCHANGE (R374). -/
  | keyExchange (key : List Byte)
  /-- BOOT_VERIFY (R373). -/
  | bootVerify (die : Nat) (image : List Byte) (version : Nat)
  /-- READY (R381). -/
  | ready (offset : Nat) (ok : Bool)
  /-- SUPPLY_SAG (R382). -/
  | supplySag (cluster : Nat)
  /-- POWER_CAP_ADJUST (R382). -/
  | powerCapAdjust (watts : Nat)
  /-- FLIT_RETRY (R378). -/
  | flitRetry (port : Nat)
  /-- TIMESYNC (R379). -/
  | timesync (port : Nat) (sent : Word) (received : Word) (offset : BitVec 32)
  /-- TIMESYNC_SEND (R379). -/
  | timesyncSend (port : Nat)
  /-- PACKET_LOAD (R378). -/
  | packetLoad (port : Nat) (src : Nat) (cookie : Word) (owner : BitVec 20) (ptr : Word) (len : Nat)
  /-- PACKET_STORE (R378). -/
  | packetStore (port : Nat) (src : Nat) (cookie : Word) (owner : BitVec 20) (ptr : Word) (bytes : List Byte)
  /-- PACKET_ATOMIC (R378). -/
  | packetAtomic (port : Nat) (src : Nat) (cookie : Word) (owner : BitVec 20) (ptr : Word) (op : Nat) (width : Nat) (b : Word) (cmp : Word)
  /-- PACKET_REPLY (R378). -/
  | packetReply (cookie : Nat) (status : Nat) (bytes : List Byte)
  /-- LAUNCHDONE (R378). -/
  | launchDone (launch : Nat)
  /-- PACKET_MESSAGE (R378). -/
  | packetMessage (port : Nat) (core : Nat) (words : List Word)
  /-- PACKET_REDUCE (R379). -/
  | packetReduce (p : Nat) (group : Nat) (rank : Nat) (offset : Nat) (bytes : List Byte)
  /-- PACKET_RESERVED_KIND (R378). -/
  | packetReservedKind (port : Nat) (kind : Nat)
  /-- REDUCE_TIMEOUT (R242). -/
  | reduceTimeout (die : Nat) (engine : Nat)
  /-- DEVICE_RESET (R381). -/
  | deviceReset
  /-- POWER_LOSS (R382). -/
  | powerLoss
  /-- SAG_STRETCH_END (R382). -/
  | sagStretchEnd (cluster : Nat)
  deriving DecidableEq, Repr

end Sys2Proof
end

