-- ==== Sys2Proof/Decode.lean ====
section
/-! DEFINITION. From a 96-bit word to an instruction and back: the field layouts (R22, R24, R27), the
kinds every position allows (the tables of the class chapters), the checks of steps 4 and 5 of
Table 2.3 in their order, and the encoder written from the same tables. -/

namespace Sys2Proof

/-- Why step 4 of Table 2.3 refuses a word (`ILLEGAL_OP`). -/
inductive OpReason where
  /-- The all-zero word (R37). -/
  | zeroWord
  /-- A reserved class and major opcode, or an unassigned operation index (R91). -/
  | reservedCell
  /-- A modifier not listed for the operation (R91). -/
  | reservedModifier
  /-- GP = 0 with GN = 1 (R36). -/
  | guardNeverTrue
  /-- A nonzero reserved bit, in bits 73:72, an operand field or an unused position (R36). -/
  | reservedBit
  deriving DecidableEq, Repr

/-- The refusals of the decoder: step 4, and step 5 with the position (01 OD, 10 OA, 11 OB) and the field. -/
inductive DecodeError where
  /-- `ILLEGAL_OP` (0x01). -/
  | illegalOp (why : OpReason)
  /-- `ILLEGAL_OPERAND` (0x02). -/
  | illegalOperand (pos : BitVec 2) (field : BitVec 24)
  deriving DecidableEq, Repr

/-! ## Operand fields -/

/-- The kind code in bits 23:21 of a field (R24). -/
def kindOf (f : BitVec 24) : BitVec 3 := f.extractLsb' 21 3

/-- One bit of a field. -/
def fieldBit (f : BitVec 24) (k : Nat) : Bool := f.getLsbD k

/-- The operand a field names (R24); none for kind 111. -/
def decodeField (f : BitVec 24) : Option Operand :=
  match (kindOf f).toNat with
  | 0 => some (.g (f.extractLsb' 0 5) (fieldBit f 20))
  | 1 => some (.v (f.extractLsb' 0 5) (fieldBit f 20))
  | 2 => some (.p (f.extractLsb' 0 3))
  | 3 => some (.c (f.extractLsb' 0 3) (fieldBit f 3) (f.extractLsb' 4 8))
  | 4 => some (.i (f.extractLsb' 0 21))
  | 5 => some (.s (f.extractLsb' 0 12))
  | 6 => some (.b (f.extractLsb' 19 2) (fieldBit f 18) (f.extractLsb' 14 4) (f.extractLsb' 0 14))
  | _ => none

/-- The field of an operand: the layouts of Table 2.2 written from bit 23 down. -/
def encodeField : Operand → BitVec 24
  | .unused => 0
  | .g idx te => (0 : BitVec 3) ++ BitVec.ofBool te ++ (0 : BitVec 15) ++ idx
  | .v idx te => (1 : BitVec 3) ++ BitVec.ofBool te ++ (0 : BitVec 15) ++ idx
  | .p idx => (2 : BitVec 3) ++ (0 : BitVec 18) ++ idx
  | .c cur post inc => (3 : BitVec 3) ++ (0 : BitVec 9) ++ inc ++ BitVec.ofBool post ++ cur
  | .i imm => (4 : BitVec 3) ++ imm
  | .s num => (5 : BitVec 3) ++ (0 : BitVec 9) ++ num
  | .b buf remote core off => (6 : BitVec 3) ++ buf ++ BitVec.ofBool remote ++ core ++ off

/-- Whether a field has a reserved bit set (step 4): the bits Table 2.2 and R27 mark reserved. Kind 111 has
no layout, so step 5 refuses it. `te` says whether the position honours TE (R25). -/
def reservedBits (f : BitVec 24) (te : Bool) : Bool :=
  match (kindOf f).toNat with
  | 0 | 1 => f.extractLsb' 5 15 != 0 || (fieldBit f 20 && !te)
  | 2 => f.extractLsb' 3 18 != 0
  | 3 => f.extractLsb' 12 9 != 0 || (!fieldBit f 3 && f.extractLsb' 4 8 != 0)
  | 5 => f.extractLsb' 12 9 != 0
  | 6 =>
    (!fieldBit f 18 && f.extractLsb' 14 4 != 0) ||
    (f.extractLsb' 19 2 == 2 && f.extractLsb' 4 10 != 0) ||
    (f.extractLsb' 19 2 == 3 && f.extractLsb' 12 2 != 0)
  | _ => false

/-! ## What a position allows -/

/-- What an operand position allows. An unused position allows only the zero field (R28). -/
structure Slot where
  /-- Whether the instruction uses the position. -/
  used : Bool := true
  /-- The kinds allowed. -/
  kinds : List (BitVec 3)
  /-- The buffers a B field may name: 0 W, 1 A, 2 C, 3 scratchpad. -/
  bufs : List (BitVec 2) := []
  /-- Whether a B field may be remote. -/
  remote : Bool := true
  /-- Whether TE is honoured (R25). -/
  te : Bool := true
  /-- Whether a cursor may post-increment. -/
  post : Bool := true
  /-- Whether p0 is allowed (R47). -/
  p0 : Bool := true
  /-- Whether an S field must be writable (R50). -/
  writes : Bool := false
  deriving DecidableEq, Repr

namespace Slot
/-- An unused position. -/
def none : Slot := .mk false [] [] false false false false false
/-- A G source. -/
def g : Slot := .mk true [0] [] true true true true false
/-- A G register in OD that is only written. -/
def gD : Slot := .mk true [0] [] true false true true false
/-- A V source. -/
def v : Slot := .mk true [1] [] true true true true false
/-- A V register in OD that is only written. -/
def vD : Slot := .mk true [1] [] true false true true false
/-- A P source. -/
def p : Slot := .mk true [2] [] true true true true false
/-- A predicate in OD: p0 is not writable (R47). -/
def pD : Slot := .mk true [2] [] true false true false false
/-- An immediate. -/
def i : Slot := .mk true [4] [] true true true true false
/-- A G register or an immediate. -/
def gi : Slot := .mk true [0, 4] [] true true true true false
/-- A lane source: a V register or a cursor. -/
def vc : Slot := .mk true [1, 3] [] true true true true false
/-- A lane destination that is only written. -/
def vcD : Slot := .mk true [1, 3] [] true false true true false
/-- A lane source with broadcast. -/
def vcgi : Slot := .mk true [1, 3, 0, 4] [] true true true true false
/-- A cursor. -/
def c : Slot := .mk true [3] [] true true true true false
/-- A cursor in OD, where no TE bit is honoured (R25). -/
def cO : Slot := .mk true [3] [] true false true true false
/-- A cursor field without post-increment (R109). -/
def cN : Slot := .mk true [3] [] true true false true false
/-- The same in OD, which is not read (R25). -/
def cD : Slot := .mk true [3] [] true false false true false
/-- A C tile, or a G register that carries its field (R191). -/
def cTile : Slot := .mk true [0, 6] [2] true true true true false
/-- An X block in the A buffer, or a G register that carries its field. -/
def xBlk : Slot := .mk true [0, 6] [1] true true true true false
/-- A Y block in the W buffer, or a G register that carries its field. -/
def yBlk : Slot := .mk true [0, 6] [0] true true true true false
/-- The local destination of `TLD` and `TCVT` (R200). -/
def loadTo : Slot := .mk true [0, 6] [3, 1, 0] true true true true false
/-- The local source of `TST` and `TCVT` (R200). -/
def storeFrom : Slot := .mk true [0, 6] [3, 1, 2] true true true true false
/-- What `VLD` reads (Table 7.6). -/
def vldFrom : Slot := .mk true [3, 6] [0, 1, 2, 3] false true true true false
/-- What `VST` writes (Table 7.6). -/
def vstTo : Slot := .mk true [3, 6] [1, 3] false false true true false
/-- A special register that is read. -/
def sRead : Slot := .mk true [5] [] true true true true false
/-- A special register that is written. -/
def sWrite : Slot := .mk true [5] [] true false true true true
/-- A G or V destination of `MFS` whose register is not named yet. -/
def gvD : Slot := .mk true [0, 1] [] true false true true false
/-- A G, V or I source of `MTS` whose register is not named yet. -/
def gvi : Slot := .mk true [0, 1, 4] [] true true true true false
end Slot

/-- Whether a special register number counts as assigned at step 5 (Table 5.7, Table 22.3, R94). -/
def srAssigned (n : Nat) : Bool :=
  (0x001 ≤ n && n ≤ 0x00D) || n == 0x010 || n == 0x011 || (0x020 ≤ n && n ≤ 0x025) ||
  (0x028 ≤ n && n ≤ 0x034) || (0x040 ≤ n && n ≤ 0x045) || (0x060 ≤ n && n ≤ 0x06D) || n == 0x070 ||
  (0x080 ≤ n && n ≤ 0x083) || (0x100 ≤ n && n ≤ 0x115) || 0x800 ≤ n

/-- Whether an assigned register may be written (Table 3.2, Table 22.3); those from 0x800 are decided at step 8. -/
def srWritable (n : Nat) : Bool :=
  n == 0x009 || (0x020 ≤ n && n ≤ 0x025) || (0x028 ≤ n && n ≤ 0x031) || n == 0x034 || n == 0x040 ||
  n == 0x041 || n == 0x044 || n == 0x045 || (0x061 ≤ n && n ≤ 0x06D) || (0x108 ≤ n && n ≤ 0x110) ||
  0x800 ≤ n

/-- Whether a register is a codebook slot, which pairs with a V operand (R50). -/
def isCodebook (n : Nat) : Bool := 0x028 ≤ n && n ≤ 0x02F

/-- The checks of step 5 on one used field: kind, register, buffer and offset. -/
def slotRefuses (sl : Slot) (f : BitVec 24) : Bool :=
  !sl.kinds.contains (kindOf f) ||
  match decodeField f with
  | none => true
  | some (.p idx) => idx == 0 && !sl.p0
  | some (.c _ post _) => post && !sl.post
  | some (.s num) => !srAssigned num.toNat || (sl.writes && !srWritable num.toNat)
  | some (.b buf remote _ off) =>
    !sl.bufs.contains buf || (remote && !sl.remote) ||
    (buf == 0 && decide (4096 ≤ off.toNat)) || (buf == 1 && decide (2048 ≤ off.toNat))
  | _ => false

/-- The three positions of a form. -/
structure Slots where
  od : Slot
  oa : Slot
  ob : Slot
  deriving DecidableEq, Repr

/-! ## The opcode map -/

/-- How the positions of an operation follow from its modifier and from the kinds that stand in them. -/
inductive Shape where
  /-- The same positions in every word. -/
  | of (od oa ob : Slot)
  /-- `MFS`: V in OD for a codebook slot, G otherwise (R50). -/
  | mfs
  /-- `MTS`: V in OA for a codebook slot, G or I otherwise (R50). -/
  | mts
  /-- `VLD`: OB is a line index only with a descriptor in OA (R132). -/
  | vld
  /-- `VST`: OB is a line index only with a descriptor in OD (R132). -/
  | vst
  /-- `SEND` and `SENDNOW`: OB is unused with no payload (R166). -/
  | send
  deriving DecidableEq, Repr

/-- The positions of a word of a shape. -/
def Shape.slots (sh : Shape) (md : BitVec 3) (od oa : BitVec 24) : Slots :=
  match sh with
  | .of d a b => ⟨d, a, b⟩
  | .mfs =>
    match decodeField oa with
    | some (.s num) => ⟨if isCodebook num.toNat then .vD else .gD, .sRead, .none⟩
    | _ => ⟨.gvD, .sRead, .none⟩
  | .mts =>
    match decodeField od with
    | some (.s num) => ⟨.sWrite, if isCodebook num.toNat then .v else .gi, .none⟩
    | _ => ⟨.sWrite, .gvi, .none⟩
  | .vld => ⟨.vD, .vldFrom, if kindOf oa == 3 then .none else .gi⟩
  | .vst => ⟨.vstTo, .v, if kindOf od == 3 then .none else .gi⟩
  | .send => ⟨.g, .gi, if md == 0 then .none else .g⟩

/-- One operation of Tables 5.3 to 5.6. -/
structure Op where
  /-- CL, MJ and the operation index FN[7:3], as one 11-bit number. -/
  cell : Nat
  /-- The modifiers assigned. -/
  mods : List Nat
  /-- The positions. -/
  shape : Shape
  /-- The constructor of the form. -/
  build : Form → Instr

/-- The cell number of a class, a major opcode and an operation index. -/
def cellNum (cl mj idx : Nat) : Nat := cl * 512 + mj * 32 + idx

/-- `MFS` words by the register they read (R105, R107, R108). -/
def mkMfs (f : Form) : Instr :=
  match f.oa with
  | .s num =>
    if num.toNat == 0x032 || num.toNat == 0x033 then .mfsTmstat f
    else if num.toNat == 0x034 then .fpctlAccess f
    else if 0x100 ≤ num.toNat && num.toNat ≤ 0x1FF then .mfsCounter f
    else .mfs f
  | _ => .mfs f

/-- `MTS` words by the register they write (R105, R106, R108, R363, R380). -/
def mkMts (f : Form) : Instr :=
  match f.od with
  | .s num =>
    if num.toNat == 0x009 then .mtsOwner f
    else if num.toNat == 0x034 then .fpctlAccess f
    else if 0x108 ≤ num.toNat && num.toNat ≤ 0x10F then .mtsCsel f
    else if 0x800 ≤ num.toNat then .specialRegisterWrite f
    else .mts f
  | _ => .mts f

/-- Table 5.3, class 0, major opcode 0. -/
def scalarOps0 : List Op := [
  ⟨0, [0, 1], (.of .gD .g .gi), .add⟩,
  ⟨1, [0, 1], (.of .gD .g .gi), .sub⟩,
  ⟨2, [0, 1], (.of .gD .g .gi), .mul⟩,
  ⟨3, [0, 1], (.of .gD .g .gi), .mulh⟩,
  ⟨4, [0, 1], (.of .gD .g .gi), .div⟩,
  ⟨5, [0, 1], (.of .gD .g .gi), .divu⟩,
  ⟨6, [0, 1], (.of .gD .g .gi), .rem⟩,
  ⟨7, [0, 1], (.of .gD .g .gi), .remu⟩,
  ⟨8, [0, 1], (.of .gD .g .none), .neg⟩,
  ⟨9, [0, 1], (.of .gD .g .none), .abs⟩,
  ⟨10, [0, 1], (.of .gD .g .gi), .min⟩,
  ⟨11, [0, 1], (.of .gD .g .gi), .max⟩,
  ⟨12, [0, 1], (.of .gD .g .gi), .minu⟩,
  ⟨13, [0, 1], (.of .gD .g .gi), .maxu⟩]

/-- Table 5.3, class 0, major opcode 1. -/
def scalarOps1 : List Op := [
  ⟨32, [0, 1], (.of .gD .g .gi), .and⟩,
  ⟨33, [0, 1], (.of .gD .g .gi), .or⟩,
  ⟨34, [0, 1], (.of .gD .g .gi), .xor⟩,
  ⟨35, [0, 1], (.of .gD .g .gi), .andn⟩,
  ⟨36, [0, 1], (.of .gD .g .gi), .shl⟩,
  ⟨37, [0, 1], (.of .gD .g .gi), .shr⟩,
  ⟨38, [0, 1], (.of .gD .g .gi), .sar⟩,
  ⟨39, [0, 1], (.of .gD .g .gi), .ror⟩,
  ⟨40, [0, 1], (.of .gD .g .none), .clz⟩,
  ⟨41, [0, 1], (.of .gD .g .none), .ctz⟩,
  ⟨42, [0, 1], (.of .gD .g .none), .popc⟩,
  ⟨43, [0, 1], (.of .gD .g .gi), .extr⟩,
  ⟨44, [0, 1], (.of .g .g .gi), .ins⟩]

/-- Table 5.3, class 0, major opcode 2. -/
def scalarOps2 : List Op := [
  ⟨64, [0, 1, 2, 3, 4, 5], (.of .pD .g .gi), .cmp⟩,
  ⟨65, [0], (.of .g .p .gi), .sel⟩,
  ⟨66, [0], (.of .pD .p .p), .pand⟩,
  ⟨67, [0], (.of .pD .p .p), .por⟩,
  ⟨68, [0], (.of .pD .p .p), .pxor⟩,
  ⟨69, [0], (.of .pD .p .none), .pnot⟩,
  ⟨70, [0], (.of .gD .p .none), .ptog⟩,
  ⟨71, [0], (.of .pD .gi .none), .gtop⟩]

/-- Table 5.3, class 0, major opcode 3. -/
def scalarOps3 : List Op := [
  ⟨96, [0], (.of .gD .gi .none), .mov⟩,
  ⟨98, [0, 1, 2, 3, 4], (.of .gD .gi .gi), .lea⟩,
  ⟨99, [0], (.of .gD .g .none), .ptrg⟩,
  ⟨100, [0], (.of .gD .g .gi), .ptrs⟩,
  ⟨101, [0], .mfs, mkMfs⟩,
  ⟨102, [0], .mts, mkMts⟩,
  ⟨103, [0], (.of .cD .gi .none), .curs⟩,
  ⟨104, [0], (.of .gD .cN .none), .curg⟩]

/-- Table 5.3, class 0, major opcode 4. -/
def scalarOps4 : List Op := [
  ⟨128, [0, 1], (.of .gD .g .gi), .fadd⟩,
  ⟨129, [0, 1], (.of .gD .g .gi), .fsub⟩,
  ⟨130, [0, 1], (.of .gD .g .gi), .fmul⟩,
  ⟨131, [0, 1], (.of .g .g .gi), .ffma⟩,
  ⟨132, [0, 1], (.of .gD .g .gi), .fdiv⟩,
  ⟨133, [0, 1], (.of .gD .g .none), .fsqrt⟩,
  ⟨134, [0, 1], (.of .gD .g .gi), .fmin⟩,
  ⟨135, [0, 1], (.of .gD .g .gi), .fmax⟩,
  ⟨136, [0, 1, 2, 3, 4, 5, 6, 7], (.of .pD .g .gi), .fcmp⟩,
  ⟨137, [0, 1, 2, 3, 4, 5, 6, 7], (.of .gD .g .none), .fcvt⟩]

/-- Table 5.3. -/
def scalarOps : List Op := scalarOps0 ++ scalarOps1 ++ scalarOps2 ++ scalarOps3 ++ scalarOps4

/-- Table 5.4, class 1, major opcode 0. -/
def vectorOps0 : List Op := [
  ⟨512, [0, 1, 2], (.of .vcD .vc .vcgi), .vfadd⟩,
  ⟨513, [0, 1, 2], (.of .vcD .vc .vcgi), .vfsub⟩,
  ⟨514, [0, 1, 2], (.of .vcD .vc .vcgi), .vfmul⟩,
  ⟨515, [0, 1, 2], (.of .vc .vc .vcgi), .vffma⟩,
  ⟨516, [0, 1, 2], (.of .vcD .vc .vcgi), .vfmin⟩,
  ⟨517, [0, 1, 2], (.of .vcD .vc .vcgi), .vfmax⟩,
  ⟨518, [0, 1, 2], (.of .vcD .vc .none), .vfabs⟩,
  ⟨519, [0, 1, 2], (.of .vcD .vc .none), .vfneg⟩,
  ⟨520, [0, 1, 2], (.of .vcD .vc .none), .vfrcp⟩,
  ⟨521, [0, 1, 2], (.of .vcD .vc .none), .vfrsq⟩,
  ⟨522, [0, 1, 2], (.of .vcD .vc .none), .vfexp2⟩,
  ⟨523, [0, 1, 2], (.of .pD .vc .vcgi), .vfcmpeq⟩,
  ⟨524, [0, 1, 2], (.of .pD .vc .vcgi), .vfcmplt⟩,
  ⟨525, [0, 1, 2], (.of .pD .vc .vcgi), .vfcmple⟩]

/-- Table 5.4, class 1, major opcode 1. -/
def vectorOps1 : List Op := [
  ⟨544, [3, 4, 5, 6], (.of .vcD .vc .vcgi), .vadd⟩,
  ⟨545, [3, 4, 5, 6], (.of .vcD .vc .vcgi), .vsub⟩,
  ⟨546, [3, 4, 5, 6], (.of .vcD .vc .vcgi), .vmul⟩,
  ⟨547, [3, 4, 5], (.of .vcD .vc .vcgi), .vmulh⟩,
  ⟨548, [3, 4, 5, 6], (.of .vcD .vc .vcgi), .vmin⟩,
  ⟨549, [3, 4, 5, 6], (.of .vcD .vc .vcgi), .vmax⟩,
  ⟨550, [3, 4, 5, 6], (.of .vcD .vc .vcgi), .vand⟩,
  ⟨551, [3, 4, 5, 6], (.of .vcD .vc .vcgi), .vor⟩,
  ⟨552, [3, 4, 5, 6], (.of .vcD .vc .vcgi), .vxor⟩,
  ⟨553, [3, 4, 5, 6], (.of .vcD .vc .vcgi), .vshl⟩,
  ⟨554, [3, 4, 5, 6], (.of .vcD .vc .vcgi), .vshr⟩,
  ⟨555, [3, 4, 5, 6], (.of .vcD .vc .vcgi), .vsar⟩,
  ⟨556, [3, 5, 6], (.of .vcD .vc .none), .vabs⟩,
  ⟨557, [3, 4, 5, 6], (.of .pD .vc .vcgi), .vcmpeq⟩,
  ⟨558, [3, 4, 5, 6], (.of .pD .vc .vcgi), .vcmplt⟩,
  ⟨559, [0, 1, 2, 3, 4, 5, 6], (.of .vc .p .vcgi), .vsel⟩,
  ⟨560, [3, 4, 5, 6], (.of .vcD .vc .vcgi), .vadds⟩]

/-- Table 5.4, class 1, major opcode 2. -/
def vectorOps2 : List Op := [
  ⟨576, [0, 1, 2, 3, 4, 5, 6], (.of .vcD .vc .i), .vcvt⟩,
  ⟨577, [0, 1, 2], (.of .vD .vc .g), .vqnt⟩,
  ⟨578, [0, 1, 2], (.of .vcD .vc .g), .vdqnt⟩,
  ⟨579, [0, 1, 2], (.of .vcD .vc .vcgi), .vscl⟩,
  ⟨580, [0, 1, 2], (.of .gD .vc .none), .vamax⟩]

/-- Table 5.4, class 1, major opcode 3. -/
def vectorOps3 : List Op := [
  ⟨608, [0, 1, 2, 3, 4, 5], (.of .gD .vc .none), .vrsum⟩,
  ⟨609, [0, 1, 2, 3, 4, 5], (.of .gD .vc .none), .vrmax⟩,
  ⟨610, [0, 1, 2, 3, 4, 5], (.of .gD .vc .none), .vrmin⟩,
  ⟨611, [0, 1, 2, 3, 4, 5, 6], (.of .vcD .vc .vc), .vperm⟩,
  ⟨612, [0, 1, 2, 3, 4, 5, 6], (.of .vcD .vc .gi), .vbcast⟩,
  ⟨613, [0, 1, 2, 3, 4, 5, 6], (.of .gD .vc .gi), .vext⟩,
  ⟨614, [0, 1, 2, 3, 4, 5, 6], (.of .vc .gi .gi), .vins⟩,
  ⟨615, [0, 1, 2, 3, 4, 5, 6], (.of .vcD .vc .gi), .vrot⟩,
  ⟨616, [0, 1, 2, 3, 4, 5, 6], (.of .vcD .vc .p), .vcomp⟩,
  ⟨617, [0, 1, 2, 3, 4, 5, 6], (.of .vcD .vc .p), .vexpd⟩]

/-- Table 5.4, class 1, major opcode 4. -/
def vectorOps4 : List Op := [
  ⟨640, [0, 1, 2, 3, 4, 5, 6], .vld, .vld⟩,
  ⟨641, [0, 1, 2, 3, 4, 5, 6], .vst, .vst⟩,
  ⟨642, [0, 1, 2, 3, 4, 5, 6], (.of .vD .c .gi), .vlds⟩,
  ⟨643, [0, 1, 2, 3, 4, 5, 6], (.of .cO .v .gi), .vsts⟩,
  ⟨644, [0, 1, 2, 3, 4, 5, 6], (.of .vD .c .v), .vgth⟩,
  ⟨645, [0, 1, 2, 3, 4, 5, 6], (.of .cO .v .v), .vsct⟩]

/-- Table 5.4. -/
def vectorOps : List Op := vectorOps0 ++ vectorOps1 ++ vectorOps2 ++ vectorOps3 ++ vectorOps4

/-- Table 5.5, class 2, major opcode 0. -/
def memoryOps0 : List Op := [
  ⟨1024, [0, 1, 2, 3, 4, 5, 6], (.of .gD .g .gi), .ld⟩,
  ⟨1025, [0, 1, 2, 3], (.of .g .g .gi), .st⟩,
  ⟨1026, [0, 1, 2, 3, 4, 5, 6], (.of .vD .g .gi), .vgld⟩,
  ⟨1027, [0, 1, 2, 3, 4, 5, 6], (.of .g .v .gi), .vgst⟩,
  ⟨1028, [0], (.of .none .g .gi), .pft⟩]

/-- Table 5.5, class 2, major opcode 1. -/
def memoryOps1 : List Op := [
  ⟨1056, [0, 1, 2, 3, 4, 5, 6], (.of .gD .g .gi), .sld⟩,
  ⟨1057, [0, 1, 2, 3], (.of .g .g .gi), .sst⟩,
  ⟨1058, [0], (.of .gD .g .gi), .ldl⟩,
  ⟨1059, [0], (.of .g .g .gi), .stu⟩,
  ⟨1060, [0], (.of .none .g .gi), .ulk⟩]

/-- Table 5.5, class 2, major opcode 2. -/
def memoryOps2 : List Op := [
  ⟨1088, [0, 1, 2, 4, 5, 6], (.of .gD .g .gi), .aadd⟩,
  ⟨1089, [4, 5, 6], (.of .gD .g .gi), .afadd⟩,
  ⟨1090, [0, 1, 2, 4, 5, 6], (.of .gD .g .gi), .amax⟩,
  ⟨1091, [0, 1, 2, 4, 5, 6], (.of .gD .g .gi), .amaxu⟩,
  ⟨1092, [4, 5, 6], (.of .gD .g .gi), .afmax⟩,
  ⟨1093, [0, 1, 2, 4, 5, 6], (.of .gD .g .gi), .amin⟩,
  ⟨1094, [0, 1, 2, 4, 5, 6], (.of .gD .g .gi), .aand⟩,
  ⟨1095, [0, 1, 2, 4, 5, 6], (.of .gD .g .gi), .aor⟩,
  ⟨1096, [0, 1, 2, 4, 5, 6], (.of .gD .g .gi), .axor⟩,
  ⟨1097, [0, 1, 2, 4, 5, 6], (.of .gD .g .gi), .axchg⟩,
  ⟨1098, [0, 1, 2, 4, 5, 6], (.of .g .g .gi), .acas⟩]

/-- Table 5.5, class 2, major opcode 3. -/
def memoryOps3 : List Op := [
  ⟨1120, [0, 1], (.of .none .g .none), .acq⟩,
  ⟨1121, [0], (.of .none .g .none), .rel⟩,
  ⟨1122, [0], (.of .g .g .g), .bind⟩,
  ⟨1123, [0], (.of .gD .g .none), .unbind⟩,
  ⟨1124, [0, 1, 2, 3], (.of .none .none .none), .fence⟩,
  ⟨1125, [0], (.of .none .gi .gi), .xfence⟩,
  ⟨1126, [0], (.of .gD .g .gi), .spinw⟩,
  ⟨1127, [0], (.of .none .gi .none), .barsync⟩,
  ⟨1128, [0], (.of .gD .g .gi), .barmax⟩]

/-- Table 5.5, class 2, major opcode 4. -/
def memoryOps4 : List Op := [
  ⟨1152, [0], (.of .gD .g .g), .grant⟩,
  ⟨1153, [0], (.of .gD .g .g), .revoke⟩,
  ⟨1154, [0], (.of .gD .g .g), .rchk⟩,
  ⟨1155, [0], (.of .gD .g .g), .genadv⟩,
  ⟨1156, [0], (.of .none .g .g), .tlbinv⟩]

/-- Table 5.5, class 2, major opcode 5. -/
def memoryOps5 : List Op := [
  ⟨1184, [0, 1, 2, 3], (.of .cTile .xBlk .yBlk), .mma⟩,
  ⟨1185, [0, 1, 2, 3, 4, 5, 6, 7], (.of .cTile .xBlk .yBlk), .mmas⟩,
  ⟨1186, [0, 1, 2, 3], (.of .cTile .xBlk .yBlk), .mrot⟩,
  ⟨1187, [0, 1, 2, 3], (.of .cTile .xBlk .yBlk), .mrot2⟩,
  ⟨1188, [0], (.of .cTile .none .none), .cclr⟩,
  ⟨1189, [0, 1], (.of .loadTo .g .g), .tld⟩,
  ⟨1190, [0], (.of .g .storeFrom .g), .tst⟩,
  ⟨1191, [0], (.of .loadTo .storeFrom .g), .tcvt⟩,
  ⟨1192, [0], (.of .gD .gi .none), .twait⟩]

/-- Table 5.5, class 2, major opcode 6. -/
def memoryOps6 : List Op := [
  ⟨1216, [0], (.of .g .v .none), .esend⟩,
  ⟨1217, [0], (.of .gD .v .g), .gnode⟩,
  ⟨1218, [0], (.of .gD .none .g), .gseal⟩]

/-- Table 5.5. -/
def memoryOps : List Op := memoryOps0 ++ memoryOps1 ++ memoryOps2 ++ memoryOps3 ++ memoryOps4 ++ memoryOps5 ++ memoryOps6

/-- Table 5.6, class 3, major opcode 0. -/
def controlOps0 : List Op := [
  ⟨1536, [0], (.of .none .none .i), .br⟩,
  ⟨1537, [0], (.of .none .g .none), .bri⟩,
  ⟨1538, [0], (.of .gD .none .gi), .call⟩,
  ⟨1539, [0], (.of .none .g .none), .ret⟩,
  ⟨1540, [0], (.of .g .none .i), .loop⟩]

/-- Table 5.6, class 3, major opcode 1. -/
def controlOps1 : List Op := [
  ⟨1568, [0, 1, 2, 3, 4, 5, 6], .send, .send⟩,
  ⟨1569, [0, 1, 2, 3, 4, 5, 6], .send, .sendnow⟩,
  ⟨1570, [0], (.of .none .none .none), .endAct⟩,
  ⟨1571, [0], (.of .g .gi .gi), .endw⟩,
  ⟨1572, [0], (.of .none .g .gi), .rread⟩,
  ⟨1573, [0], (.of .none .gi .g), .htset⟩,
  ⟨1574, [0, 1], (.of .none .gi .none), .tagen⟩,
  ⟨1575, [0], (.of .gD .gi .none), .tagpnd⟩]

/-- Table 5.6, class 3, major opcode 2. -/
def controlOps2 : List Op := [
  ⟨1600, [0], (.of .none .gi .g), .fork⟩,
  ⟨1601, [0], (.of .none .g .none), .join⟩,
  ⟨1602, [0, 1], (.of .gD .gi .g), .qpost⟩,
  ⟨1603, [0], (.of .none .gi .g), .evset⟩,
  ⟨1604, [0], (.of .none .gi .g), .evclr⟩]

/-- Table 5.6, class 3, major opcode 3. -/
def controlOps3 : List Op := [
  ⟨1632, [0], (.of .gD .g .gi), .trye⟩,
  ⟨1633, [0], (.of .none .none .none), .fail⟩,
  ⟨1634, [0], (.of .none .gi .none), .cut⟩,
  ⟨1635, [0], (.of .none .g .none), .trail⟩]

/-- Table 5.6, class 3, major opcode 4. -/
def controlOps4 : List Op := [
  ⟨1664, [0], (.of .gD .gi .g), .spec⟩,
  ⟨1665, [0], (.of .gD .g .g), .resolve⟩]

/-- Table 5.6, class 3, major opcode 5. -/
def controlOps5 : List Op := [
  ⟨1696, [0], (.of .none .none .none), .nop⟩,
  ⟨1697, [0], (.of .none .gi .none), .trap⟩,
  ⟨1698, [0], (.of .none .none .none), .tret⟩,
  ⟨1699, [0], (.of .none .gi .none), .tabort⟩,
  ⟨1700, [0], (.of .none .none .none), .yieldAct⟩,
  ⟨1701, [0], (.of .none .gi .none), .brk⟩]

/-- Table 5.6. -/
def controlOps : List Op := controlOps0 ++ controlOps1 ++ controlOps2 ++ controlOps3 ++ controlOps4 ++ controlOps5

/-- The operation of a cell. -/
def findOp (cell : Nat) : Option Op :=
  match cell / 512 with
  | 0 => scalarOps.find? (fun o => o.cell == cell)
  | 1 => vectorOps.find? (fun o => o.cell == cell)
  | 2 => memoryOps.find? (fun o => o.cell == cell)
  | _ => controlOps.find? (fun o => o.cell == cell)

/-! ## Decoding -/

/-- The first refused position of step 5, in the order OD, OA, OB. -/
def firstRefused (sl : Slots) (od oa ob : BitVec 24) : Option (BitVec 2 × BitVec 24) :=
  if sl.od.used && slotRefuses sl.od od then some (1, od)
  else if sl.oa.used && slotRefuses sl.oa oa then some (2, oa)
  else if sl.ob.used && slotRefuses sl.ob ob then some (3, ob)
  else none

/-- A reserved bit in one position: an unused position must be zero (R28). -/
def positionReserved (sl : Slot) (f : BitVec 24) : Bool :=
  if sl.used then reservedBits f sl.te else f != 0

/-- What an unused or raw position stands for in a `Form`. -/
def operandOf (sl : Slot) (f : BitVec 24) : Operand :=
  if sl.used then (decodeField f).getD .unused else .unused

/-- The guard of a word. -/
def guardOf (w : IWord) : Guard := ⟨w.getLsbD 81, w.extractLsb' 78 3⟩
/-- The hints of a word. -/
def hintsOf (w : IWord) : Hints := ⟨w.getLsbD 77, w.getLsbD 76, w.extractLsb' 74 2⟩

/-- Steps 4 and 5 of an ordinary word whose operation is known and whose modifier is assigned. -/
def decodeForm (o : Op) (w : IWord) : Except DecodeError Instr :=
  let md := w.extractLsb' 82 3
  let od := w.extractLsb' 48 24
  let oa := w.extractLsb' 24 24
  let ob := w.extractLsb' 0 24
  let sl := o.shape.slots md od oa
  if (guardOf w).neg && (guardOf w).p == 0 then .error (.illegalOp .guardNeverTrue)
  else if w.extractLsb' 72 2 != 0 || positionReserved sl.od od || positionReserved sl.oa oa ||
      positionReserved sl.ob ob then .error (.illegalOp .reservedBit)
  else
    match firstRefused sl od oa ob with
    | some (pos, f) => .error (.illegalOperand pos f)
    | none => .ok (o.build ⟨guardOf w, hintsOf w, md, operandOf sl.od od, operandOf sl.oa oa, operandOf sl.ob ob⟩)

/-- `LIMM` and `LIMM.hi`, whose OA and OB are raw (R28, R104). -/
def decodeLimm (w : IWord) : Except DecodeError Instr :=
  let od := w.extractLsb' 48 24
  let hi := w.extractLsb' 82 3 == 1
  let sl : Slot := if hi then .g else .gD
  if w.extractLsb' 82 3 != 0 && !hi then .error (.illegalOp .reservedModifier)
  else if (guardOf w).neg && (guardOf w).p == 0 then .error (.illegalOp .guardNeverTrue)
  else if w.extractLsb' 72 2 != 0 || positionReserved sl od ||
      (hi && (w.extractLsb' 40 8 != 0 || w.extractLsb' 0 24 != 0)) then .error (.illegalOp .reservedBit)
  else if slotRefuses sl od then .error (.illegalOperand 1 od)
  else if hi then .ok (.limmHi (guardOf w) (hintsOf w) (operandOf sl od) (w.extractLsb' 24 16))
  else .ok (.limm (guardOf w) (hintsOf w) (operandOf sl od) (w.extractLsb' 0 48))

/-- The cell of `LIMM`: class 00, MJ 0011, index 1. -/
def limmCell : Nat := cellNum 0 3 1

/-- The decoder: total on every word, refusing by name in the order of Table 2.3 (R36, R37, R91). -/
def decode (w : IWord) : Except DecodeError Instr :=
  if w == 0 then .error (.illegalOp .zeroWord)
  else
    let cell := cellNum (w.extractLsb' 94 2).toNat (w.extractLsb' 90 4).toNat (w.extractLsb' 85 5).toNat
    if cell == limmCell then decodeLimm w
    else
      match findOp cell with
      | none => .error (.illegalOp .reservedCell)
      | some o =>
        if o.mods.contains (w.extractLsb' 82 3).toNat then decodeForm o w
        else .error (.illegalOp .reservedModifier)

/-- The word of an instruction laid out in bytes, byte 0 first (R3, R23). -/
def wordBytes (w : IWord) : List Byte :=
  (List.range 12).map (fun k => w.extractLsb' (8 * k) 8)

/-- The word of twelve bytes, byte 0 first; missing bytes count as zero. -/
def wordOfBytes (bs : List Byte) : IWord :=
  bs.take 12 |>.foldr (fun b acc => (acc <<< 8) ||| b.setWidth 96) 0

/-- What the decoder reads from an instruction whose bits are `w`, numbered as the opcode table numbers
them: an instruction is one word of twelve bytes, the first at the lowest address. -/
def decodeTableWord (nbits w : Nat) : Option Instr :=
  (decode (wordOfBytes (wordBytes (BitVec.ofNat 96 (w % 2 ^ nbits))))).toOption

/-! ## Encoding -/

/-- The cell and the form of an instruction that a word names; none for the steps no word names. -/
def cellOf : Instr → Option (Nat × Form)
  | .add f => some (0, f)
  | .sub f => some (1, f)
  | .mul f => some (2, f)
  | .mulh f => some (3, f)
  | .div f => some (4, f)
  | .divu f => some (5, f)
  | .rem f => some (6, f)
  | .remu f => some (7, f)
  | .neg f => some (8, f)
  | .abs f => some (9, f)
  | .min f => some (10, f)
  | .max f => some (11, f)
  | .minu f => some (12, f)
  | .maxu f => some (13, f)
  | .and f => some (32, f)
  | .or f => some (33, f)
  | .xor f => some (34, f)
  | .andn f => some (35, f)
  | .shl f => some (36, f)
  | .shr f => some (37, f)
  | .sar f => some (38, f)
  | .ror f => some (39, f)
  | .clz f => some (40, f)
  | .ctz f => some (41, f)
  | .popc f => some (42, f)
  | .extr f => some (43, f)
  | .ins f => some (44, f)
  | .cmp f => some (64, f)
  | .sel f => some (65, f)
  | .pand f => some (66, f)
  | .por f => some (67, f)
  | .pxor f => some (68, f)
  | .pnot f => some (69, f)
  | .ptog f => some (70, f)
  | .gtop f => some (71, f)
  | .mov f => some (96, f)
  | .limm _ _ _ _ => none
  | .limmHi _ _ _ _ => none
  | .lea f => some (98, f)
  | .ptrg f => some (99, f)
  | .ptrs f => some (100, f)
  | .mfs f => some (101, f)
  | .mts f => some (102, f)
  | .mtsOwner f => some (102, f)
  | .fpctlAccess f => some (if (match f.oa with | .s _ => true | _ => false) then 101 else 102, f)
  | .mfsTmstat f => some (101, f)
  | .mfsCounter f => some (101, f)
  | .mtsCsel f => some (102, f)
  | .curs f => some (103, f)
  | .curg f => some (104, f)
  | .fadd f => some (128, f)
  | .fsub f => some (129, f)
  | .fmul f => some (130, f)
  | .ffma f => some (131, f)
  | .fdiv f => some (132, f)
  | .fsqrt f => some (133, f)
  | .fmin f => some (134, f)
  | .fmax f => some (135, f)
  | .fcmp f => some (136, f)
  | .fcvt f => some (137, f)
  | .vfadd f => some (512, f)
  | .vfsub f => some (513, f)
  | .vfmul f => some (514, f)
  | .vffma f => some (515, f)
  | .vfmin f => some (516, f)
  | .vfmax f => some (517, f)
  | .vfabs f => some (518, f)
  | .vfneg f => some (519, f)
  | .vfrcp f => some (520, f)
  | .vfrsq f => some (521, f)
  | .vfexp2 f => some (522, f)
  | .vfcmpeq f => some (523, f)
  | .vfcmplt f => some (524, f)
  | .vfcmple f => some (525, f)
  | .vadd f => some (544, f)
  | .vsub f => some (545, f)
  | .vmul f => some (546, f)
  | .vmulh f => some (547, f)
  | .vmin f => some (548, f)
  | .vmax f => some (549, f)
  | .vand f => some (550, f)
  | .vor f => some (551, f)
  | .vxor f => some (552, f)
  | .vshl f => some (553, f)
  | .vshr f => some (554, f)
  | .vsar f => some (555, f)
  | .vabs f => some (556, f)
  | .vcmpeq f => some (557, f)
  | .vcmplt f => some (558, f)
  | .vsel f => some (559, f)
  | .vadds f => some (560, f)
  | .vcvt f => some (576, f)
  | .vqnt f => some (577, f)
  | .vdqnt f => some (578, f)
  | .vscl f => some (579, f)
  | .vamax f => some (580, f)
  | .vrsum f => some (608, f)
  | .vrmax f => some (609, f)
  | .vrmin f => some (610, f)
  | .vperm f => some (611, f)
  | .vbcast f => some (612, f)
  | .vext f => some (613, f)
  | .vins f => some (614, f)
  | .vrot f => some (615, f)
  | .vcomp f => some (616, f)
  | .vexpd f => some (617, f)
  | .vld f => some (640, f)
  | .vst f => some (641, f)
  | .vlds f => some (642, f)
  | .vsts f => some (643, f)
  | .vgth f => some (644, f)
  | .vsct f => some (645, f)
  | .ld f => some (1024, f)
  | .st f => some (1025, f)
  | .vgld f => some (1026, f)
  | .vgst f => some (1027, f)
  | .pft f => some (1028, f)
  | .sld f => some (1056, f)
  | .sst f => some (1057, f)
  | .ldl f => some (1058, f)
  | .stu f => some (1059, f)
  | .ulk f => some (1060, f)
  | .aadd f => some (1088, f)
  | .afadd f => some (1089, f)
  | .amax f => some (1090, f)
  | .amaxu f => some (1091, f)
  | .afmax f => some (1092, f)
  | .amin f => some (1093, f)
  | .aand f => some (1094, f)
  | .aor f => some (1095, f)
  | .axor f => some (1096, f)
  | .axchg f => some (1097, f)
  | .acas f => some (1098, f)
  | .acq f => some (1120, f)
  | .rel f => some (1121, f)
  | .bind f => some (1122, f)
  | .unbind f => some (1123, f)
  | .fence f => some (1124, f)
  | .xfence f => some (1125, f)
  | .spinw f => some (1126, f)
  | .barsync f => some (1127, f)
  | .barmax f => some (1128, f)
  | .grant f => some (1152, f)
  | .revoke f => some (1153, f)
  | .rchk f => some (1154, f)
  | .genadv f => some (1155, f)
  | .tlbinv f => some (1156, f)
  | .mma f => some (1184, f)
  | .mmas f => some (1185, f)
  | .mrot f => some (1186, f)
  | .mrot2 f => some (1187, f)
  | .cclr f => some (1188, f)
  | .tld f => some (1189, f)
  | .tst f => some (1190, f)
  | .tcvt f => some (1191, f)
  | .twait f => some (1192, f)
  | .esend f => some (1216, f)
  | .gnode f => some (1217, f)
  | .gseal f => some (1218, f)
  | .br f => some (1536, f)
  | .bri f => some (1537, f)
  | .call f => some (1538, f)
  | .ret f => some (1539, f)
  | .loop f => some (1540, f)
  | .send f => some (1568, f)
  | .sendnow f => some (1569, f)
  | .endAct f => some (1570, f)
  | .endw f => some (1571, f)
  | .rread f => some (1572, f)
  | .htset f => some (1573, f)
  | .tagen f => some (1574, f)
  | .tagpnd f => some (1575, f)
  | .fork f => some (1600, f)
  | .join f => some (1601, f)
  | .qpost f => some (1602, f)
  | .evset f => some (1603, f)
  | .evclr f => some (1604, f)
  | .trye f => some (1632, f)
  | .fail f => some (1633, f)
  | .cut f => some (1634, f)
  | .trail f => some (1635, f)
  | .spec f => some (1664, f)
  | .resolve f => some (1665, f)
  | .nop f => some (1696, f)
  | .trap f => some (1697, f)
  | .tret f => some (1698, f)
  | .tabort f => some (1699, f)
  | .yieldAct f => some (1700, f)
  | .brk f => some (1701, f)
  | .specialRegisterWrite f => some (102, f)
  | .atomicPerform _ _ _ => none
  | .syncGrant _ => none
  | .watchArm _ => none
  | .spinwFire _ => none
  | .tierWatchPoll _ _ => none
  | .barrierRelease _ _ => none
  | .purgeArrival _ _ => none
  | .rightsWalk _ _ => none
  | .pageWalk _ _ => none
  | .anvilStart _ => none
  | .anvilEvaluationEnd _ => none
  | .replayFetch _ => none
  | .remoteBlockFetch _ _ => none
  | .rotationHalfArrival _ => none
  | .rotationLanding _ => none
  | .pairAbort _ => none
  | .halfDiscard _ _ => none
  | .streamCommandStart _ _ => none
  | .streamCommandComplete _ _ => none
  | .streamLoad _ _ _ => none
  | .streamStore _ _ _ => none
  | .streamConvert _ _ _ => none
  | .copy _ _ _ => none
  | .fill _ _ _ => none
  | .reduce _ _ => none
  | .engineCommandComplete _ _ => none
  | .leaseExpiry _ _ => none
  | .graphDispatch _ _ _ => none
  | .graphRecordComplete _ _ => none
  | .messageArrival _ => none
  | .handlerCacheFill _ _ => none
  | .directMessage _ => none
  | .endwWatchFire _ _ => none
  | .readCompletion _ _ => none
  | .joinStep _ _ => none
  | .queueSpaceTrigger _ => none
  | .searchTheftRequest _ => none
  | .theftGrant _ _ => none
  | .theftCopyComplete _ => none
  | .theftStart _ => none
  | .pruneNotice _ _ _ => none
  | .resultArrival _ _ _ => none
  | .lockCapture _ _ => none
  | .lockBitGrant _ => none
  | .storeQueueDrain _ _ => none
  | .remoteWriteAck _ _ _ => none
  | .lineEviction _ _ => none
  | .messageSelection _ => none
  | .stealRound _ => none
  | .stealGrant _ _ => none
  | .taskRecordBounce _ => none
  | .activationAbort _ _ _ => none
  | .watchdog _ _ => none
  | .launchTake _ => none
  | .coresidentReservation _ _ _ => none
  | .elementStartDispatch _ _ => none
  | .launchComplete _ => none
  | .completionWrite _ => none
  | .fabricLaunch _ _ _ _ _ => none
  | .tokenRefill _ _ => none
  | .directRequest _ _ _ _ _ _ _ _ => none
  | .sliceEnd _ => none
  | .sliceOverrun _ => none
  | .preemptionSave _ => none
  | .contextResume _ => none
  | .queueStall _ => none
  | .coreMigration _ _ _ => none
  | .forwardingExpiry _ _ => none
  | .contextKill _ => none
  | .vfReset _ _ => none
  | .requestVoid _ => none
  | .accessCount => none
  | .heldWriteDrain _ => none
  | .patrolScrub _ _ _ _ => none
  | .uncorrectable _ _ _ => none
  | .dieBridgeFailure _ => none
  | .traceRecord _ => none
  | .policyExpiry _ => none
  | .mailboxDoorbell _ _ => none
  | .mailboxWrite _ => none
  | .mailboxRead _ => none
  | .enqueue _ => none
  | .direct _ => none
  | .debugCommand _ => none
  | .policy _ => none
  | .observeAcquire _ => none
  | .observeRelease _ => none
  | .dsm _ => none
  | .stop _ => none
  | .resume _ => none
  | .stepOne _ => none
  | .stepN _ => none
  | .debugRead _ => none
  | .debugWrite _ => none
  | .bkpt _ => none
  | .breakpointHit _ _ => none
  | .endStep _ => none
  | .clockLockSession _ _ _ _ => none
  | .lockInterfaceRequest _ _ => none
  | .startInterfaceRequest _ => none
  | .stopInterfaceRequest _ => none
  | .tdiError _ => none
  | .negotiateAlgorithms _ _ _ _ => none
  | .getCertificate _ _ _ => none
  | .challenge _ _ => none
  | .getMeasurements _ _ _ => none
  | .keyExchange _ => none
  | .bootVerify _ _ _ => none
  | .ready _ _ => none
  | .supplySag _ => none
  | .powerCapAdjust _ => none
  | .flitRetry _ => none
  | .timesync _ _ _ _ => none
  | .timesyncSend _ => none
  | .packetLoad _ _ _ _ _ _ => none
  | .packetStore _ _ _ _ _ _ => none
  | .packetAtomic _ _ _ _ _ _ _ _ _ => none
  | .packetReply _ _ _ => none
  | .launchDone _ => none
  | .packetMessage _ _ _ => none
  | .packetReduce _ _ _ _ _ => none
  | .packetReservedKind _ _ => none
  | .reduceTimeout _ _ => none
  | .deviceReset => none
  | .powerLoss => none
  | .sagStretchEnd _ => none

/-- Bits 95:72 of a word (Table 2.1). -/
def headBits (cell : Nat) (md : BitVec 3) (g : Guard) (h : Hints) : BitVec 24 :=
  BitVec.ofNat 11 cell ++ md ++ BitVec.ofBool g.neg ++ g.p ++ BitVec.ofBool h.ys ++ BitVec.ofBool h.lu ++
    h.sd ++ (0 : BitVec 2)

/-- The word of an instruction (Tables 2.1, 2.2 and 5.3 to 5.6); none for the steps that no word names. -/
def encode (i : Instr) : Option IWord :=
  match i with
  | .limm g h od value => some (headBits limmCell 0 g h ++ encodeField od ++ value)
  | .limmHi g h od value =>
    some (headBits limmCell 1 g h ++ encodeField od ++ (0 : BitVec 8) ++ value ++ (0 : BitVec 24))
  | i =>
    match cellOf i with
    | some (cell, f) =>
      some (headBits cell f.md f.guard f.hints ++ encodeField f.od ++ encodeField f.oa ++ encodeField f.ob)
    | none => none

end Sys2Proof
end

