-- ==== Sys2Proof/Config.lean ====
section
/-! DEFINITION. What one implementation fixes (Table 0.1 and the capacities of the chapters) and the
free values: constants with no body, so that no proof can know them. -/

namespace Sys2Proof.Config

/-- Compute cores (R1, R211): numbers 0 to 1,023. -/
def computeCores : Nat := 1024
/-- Highest core number, service cores included (R211). -/
def maxCore : Nat := 1031
/-- Clusters (R1). -/
def clusters : Nat := 64
/-- Work queues (R1, R294). -/
def queues : Nat := 16384
/-- Send-buffer entries of an activation (R167). -/
def sendEntries : Nat := 8
/-- Injection-queue entries of a core (R168). -/
def injectEntries : Nat := 32
/-- Store-queue entries of a thread set (R250). -/
def storeEntries : Nat := 16
/-- Reply credits of a core, and how many of them `SPINW` may hold (R140). -/
def replyCredits : Nat := 32
/-- See `replyCredits`. -/
def spinCredits : Nat := 16
/-- Inbox slots for request-class messages, and reply slots (R212). -/
def requestSlots : Nat := 48
/-- See `requestSlots`. -/
def replySlots : Nat := 16
/-- Anvil queue entries of a core (R191). -/
def anvilEntries : Nat := 4
/-- Stream queue entries of a cluster (R239). -/
def streamEntries : Nat := 16
/-- Pool engine inbox entries (R239). -/
def poolEntries : Nat := 8
/-- Watch-filter entries of a home channel (R383, R225). -/
def filterEntries : Nat := 1024
/-- Watches of a scratchpad bank (R170). -/
def bankWatches : Nat := 16
/-- Records of the fork deque (R226). -/
def dequeRecords : Nat := 64
/-- Object holds of a thread set (R152). -/
def maxHolds : Nat := 8
/-- Binding tags of a context (R150). -/
def bindingTags : Nat := 4096
/-- Records of a task graph unit (R244). -/
def graphRecords : Nat := 512
/-- Decisions of a cluster (R184) and lines of its Crucible (R277). -/
def decisions : Nat := 64
/-- Lines of one speculative activation's private window (R277). -/
def windowLines : Nat := 64
/-- Hold-buffer entries under write-block (R337). -/
def holdEntries : Nat := 64
/-- Forwarding entries of a cluster (R318). -/
def forwardEntries : Nat := 32
/-- First byte of the fork deque in the scratchpad (R226). -/
def dequeBase : Nat := 0x2F000
/-- First physical address of the system window (R330). -/
def systemWindow : Nat := 2 ^ 56
/-- Frames of this implementation (R330). -/
def frames : Nat := 2 ^ 40
/-- The owner code of `REVOKE` that means every grantee (R157). -/
def everyGrantee : Nat := 0xFFFFF
/-- The core field of a notice when no core applies (Table 20.7). -/
def noCore : Nat := 0x7FF

/-! ## Free values (log 4): nothing in Lean can evaluate them -/

/-- The `k`-th wrong byte of an unchecked or voided access; nothing is known of it (R35, R350, R353). -/
opaque freeByte : Nat → Byte
/-- The `k`-th free 64-bit value. -/
opaque freeWord : Nat → Word
/-- The `k`-th free line: what lost local memory holds (R315, chapter 12). -/
opaque freeLine : Nat → BitVec 512
/-- The `k`-th fresh 32-byte nonce a lock draws (R375). -/
opaque freeNonce : Nat → BitVec 256
/-- The Prakeric port of the device that reaches a node (R378), one of its 16: no rule gives the routes of the fabric. -/
opaque nodePort : Nat → Fin 16
/-- Its number. -/
def portOf (node : Nat) : Nat := (nodePort node).val
/-- This node's number in the fabric (Table 23.5): no rule says how it gets it. -/
opaque ownNode : Nat
/-- The node that a physical address of the peer tier lies on (R148): no rule gives how addresses are divided among the nodes. -/
opaque peerNode : (address : Nat) → Nat
/-- The row of a presence filter for an owner: no rule gives the hash (R324). -/
opaque ownerHash : (owner : Nat) → Nat
/-- The status of an engine command that touches a fork deque: RIGHTS by R226, BAD_COMMAND by R240, which of the two nothing settles
(log 59). -/
opaque dequeIsBad : Bool
/-- Whether a debug policy body verifies under a signature and a key hash (ML-DSA-65 with SHAKE256, R360). -/
opaque policyVerifies : (body signature : List Byte) → (keyHash : BitVec 256) → Bool
/-- Whether a firmware image of a die verifies against the fused vendor key (R373). -/
opaque imageVerifies : (die : Nat) → (image : List Byte) → Bool
/-- An ML-DSA-65 signature, with SHAKE256, of a transcript by the key of a certificate slot; that of slot 1 is derived for the current
firmware (R374). -/
opaque sign : (slot : Nat) → (firmware transcript : List Byte) → List Byte
/-- The certificate chain of a slot (R374). -/
opaque certificate : (slot : Nat) → (firmware : List Byte) → List Byte
/-- The raw measurement block `b` of an image, or of a configuration listed as numbers (R374). -/
opaque measurement : (block : Nat) → (image : List Byte) → (configuration : List Nat) → List Byte
/-- ML-KEM-768 encapsulation: ciphertext of 1,088 bytes and shared secret of 32 (R374). -/
opaque encapsulate : (encapsulationKey : List Byte) → (k : Nat) → BitVec 8704 × BitVec 256
/-- Uzogeben's PCI-SIG vendor ID (R374). -/
opaque vendorId : BitVec 16
/-- What the ciphertext of a 64-byte unit, made of a line under a key and its rotation, reads as under another key or rotation
(AES-256-XTS with the unit's address as tweak, R350 step 4, R376). -/
opaque recrypt : (key rotation key' rotation' unit : Nat) → BitVec 512 → BitVec 512

/-- The status of a command message whose local range touches a fork deque (log 59). -/
def dequeStatus : Nat := if dequeIsBad then 6 else 2

end Sys2Proof.Config
end

