-- ==== Sys2Proof/Machine/Maps.lean ====
section
/-! DEFINITION. Sparse maps in one canonical form: pairs of a number and a value, numbers strictly rising,
and no entry that equals what an unlisted number reads as. Memories and register files are such maps. -/

namespace Sys2Proof.Machine

/-- The value at `k`: the listed one, else `d`. -/
def mget {α : Type} (d : α) : List (Nat × α) → Nat → α
  | [], _ => d
  | (k', x) :: r, k => if k' = k then x else mget d r k

/-- The map without what it lists at `k`. -/
def mdel {α : Type} : List (Nat × α) → Nat → List (Nat × α)
  | [], _ => []
  | (k', y) :: r, k => if k' = k then mdel r k else (k', y) :: mdel r k

/-- An entry put before the first larger number. -/
def mput {α : Type} : List (Nat × α) → Nat → α → List (Nat × α)
  | [], k, x => [(k, x)]
  | (k', y) :: r, k, x => if k < k' then (k, x) :: (k', y) :: r else (k', y) :: mput r k x

/-- The map with `x` at `k`, in canonical form: storing `d` removes the entry. -/
def mset {α : Type} [DecidableEq α] (d : α) (m : List (Nat × α)) (k : Nat) (x : α) : List (Nat × α) :=
  if x = d then mdel m k else mput (mdel m k) k x

/-- The map with the value at `k` changed by `f`. -/
def mmod {α : Type} [DecidableEq α] (d : α) (m : List (Nat × α)) (k : Nat) (f : α → α) : List (Nat × α) :=
  mset d m k (f (mget d m k))

/-- Whether a map is in canonical form, all its numbers above `lo`. -/
def mwfFrom {α : Type} [DecidableEq α] (d : α) : Option Nat → List (Nat × α) → Bool
  | _, [] => true
  | lo, (k, x) :: r => (match lo with | none => true | some l => decide (l < k)) && decide (x ≠ d) && mwfFrom d (some k) r

/-- Whether a map is in canonical form. -/
def mwf {α : Type} [DecidableEq α] (d : α) (m : List (Nat × α)) : Bool := mwfFrom d none m

/-- The list with element `k` changed by `f`. -/
def modAt {α : Type} (f : α → α) : List α → Nat → List α
  | [], _ => []
  | x :: r, 0 => f x :: r
  | x :: r, k + 1 => x :: modAt f r k

/-- The list without element `k`. -/
def dropAt {α : Type} : List α → Nat → List α
  | [], _ => []
  | _ :: r, 0 => r
  | x :: r, k + 1 => x :: dropAt r k

/-- Element `k` of a list and the list without it. -/
def takeAt {α : Type} (l : List α) (k : Nat) : Option (α × List α) := (l[k]?).map (fun x => (x, dropAt l k))

/-- The position of the first element with property `p`. -/
def findPos {α : Type} (p : α → Bool) : List α → Option Nat
  | [] => none
  | x :: r => if p x then some 0 else (findPos p r).map (· + 1)

/-- The first `n` bits of `l` as a number, element 0 least significant. -/
def bitsOf (l : List Bool) : Nat := l.foldr (fun b acc => (if b then 1 else 0) + 2 * acc) 0

/-- `n` copies of `x`. -/
def copies {α : Type} (n : Nat) (x : α) : List α := List.replicate n x

end Sys2Proof.Machine
end

