-- ==== Sys2Proof/Machine/State.lean ====
section
/-! DEFINITION. The state of the device as plain data: thread sets, cores, clusters, dies, contexts,
partitions and memories, every piece the manual names, with its value after reset. Maps list only what
differs from the reset value of the thing they hold. -/

namespace Sys2Proof.Machine

/-- Why the machine stops with a fault. -/
inductive Fault where
  /-- Raised by `step`, and by the meaning of every instruction word, after a power loss (R382) until a device reset: nothing runs
  without power. Safe. -/
  | noPower
  deriving DecidableEq, Repr

/-- Why the model gives an instruction no meaning. -/
inductive Refusal where
  /-- An instruction with no meaning in the model, by its mnemonic. Safe: nothing is claimed of it. -/
  | notModelled (mnemonic : String)
  deriving DecidableEq, Repr

/-- Memory by byte address: addresses strictly rising, no entry equal to what an unlisted address reads as. -/
abbrev Memory := List Host.Cell

/-- What a byte that nothing has written reads as (log 2). -/
def unwritten : Byte := 0

/-- The canonical form of a memory. -/
def Memory.wf (m : Memory) : Bool := mwf unwritten m

/-- A translated access: the physical address of its first byte, and what the page table entry says (R332). -/
structure Xlat where
  pa : Nat := 0
  tier : Nat := 0
  key : Nat := 0
  /-- Write-block, dirty and access-counting bits of the TLB entry. -/
  wb : Bool := false
  dirty : Bool := true
  ac : Bool := false
  /-- Home address of the page table entry. -/
  pte : Nat := 0
  deriving DecidableEq, Repr

/-! ## Messages -/

/-- A message (R209, Table 11.1). `spec` marks a successor of `SPEC` (R184): the cluster, the decision ID and
the side, until it is resolved. -/
structure Msg where
  tag : BitVec 12 := 0
  prio : BitVec 2 := 0
  len : Nat := 0
  kind : BitVec 3 := 0
  ctx : BitVec 12 := 0
  score : BitVec 11 := 0
  seq : BitVec 16 := 0
  stamp : Word := 0
  words : List Word := []
  spec : Option (Nat × Nat × Nat) := none
  /-- The launch an element start belongs to. -/
  launch : Option Nat := none
  /-- The RCB of a theft message: its victim's (R287). -/
  rcb : Option Word := none
  /-- Its slot was found uncorrectable: what it starts finds error marks where its payload would stand (R353). -/
  bad : Bool := false
  deriving DecidableEq, Repr

/-- Where a message goes (Table 9.3): a core, any core of a region (its RCB, the sender's core and context), an engine
inbox (class, index, sending core), or a core of a Prakeric peer. -/
inductive Dest where
  | core (n : Nat)
  | region (rcb : Word) (sender : Nat) (ctx : BitVec 12)
  | engine (cls index sender : Nat)
  | peer (node core : Nat)
  deriving DecidableEq, Repr

/-- A captured command of `ESEND` or of a task record: eight words and who issued it. -/
structure Command where
  words : List Word := []
  core : Nat := 0
  ctx : BitVec 12 := 0
  owner : BitVec 20 := 0
  seq : Nat := 0
  /-- The issuing core's BFMT0 to BFMT2, AFMT, WFMT, CFMT and codebooks as they stood at issue (R51). -/
  fmts : List (BitVec 4) := []
  books : List (Nat × BitVec 256) := []
  deriving DecidableEq, Repr

/-- An entry of an injection queue (R168). -/
structure Inject where
  dest : Dest
  msg : Msg
  cmd : Option Command := none
  /-- The activation that injects it at its end; none once it stands whatever becomes of it. -/
  act : Option Nat := none
  deriving DecidableEq, Repr

/-- A held entry of the send buffer (R167): a message, or a `JOIN` on a record at an address that was
checked at issue and translated to a physical address. -/
inductive Held where
  | send (dest : Dest) (msg : Msg)
  | join (va : Word) (x : Xlat)
  deriving DecidableEq, Repr

/-- A watch of `ENDW` (R170): on a global word (its physical address and tier) or on a scratchpad word. -/
structure Watch where
  /-- True for a scratchpad word: `at_` is core · 2^18 + address; otherwise a physical address. -/
  scratch : Bool := false
  at_ : Nat := 0
  /-- Home tier of a global word: 0 HBM. -/
  tier : Nat := 0
  /-- The address the trigger reports. -/
  va : Word := 0
  comparand : Word := 0
  tag : BitVec 12 := 0
  prio : BitVec 2 := 0
  core : Nat := 0
  ctx : BitVec 12 := 0
  /-- The value it fired with; its trigger waits for a reply slot (R170). -/
  fired : Option Word := none
  /-- The number of the reservation it arms into. -/
  resv : Nat := 0
  deriving DecidableEq, Repr

/-! ## The thread set -/

/-- How an activation came to run. -/
inductive Origin where
  | inbox | deque | direct | theft
  deriving DecidableEq, Repr

/-- The activation a thread set holds. -/
structure Act where
  /-- The model's unique number of the activation. -/
  uid : Nat := 0
  msg : Msg := {}
  origin : Origin := .inbox
  entry : Word := 0
  rcb : Word := 0
  ex : BitVec 16 := 0
  ey : BitVec 16 := 0
  ez : BitVec 16 := 0
  edim : Word := 0
  /-- Choice-stack allotment: base and end (R271). -/
  choiceBase : Nat := 0
  choiceEnd : Nat := 0
  /-- Trail allotment: base and end. -/
  trailBase : Nat := 0
  trailEnd : Nat := 0
  /-- The launch whose element this is. -/
  launch : Option Nat := none
  /-- The speculation it runs under: cluster, decision ID and side; and the cause of a trap that waits for `RESOLVE`. -/
  spec : Option (Nat × Nat × Nat) := none
  specTrap : Option Nat := none
  /-- A thief: victim core and thread set, and the ID of the stolen choice point (R274). -/
  stolen : Option (Nat × Nat × Word) := none
  /-- The ID of the stolen choice point of a root record, and its step in `end_search` (R274, R182). -/
  rootId : Option Word := none
  /-- Device times, in ns, of the selection of this run and of the arrival of its message (R361). -/
  start : Nat := 0
  arrived : Nat := 0
  /-- It runs in debug step mode (R369). -/
  stepping : Bool := false
  deriving DecidableEq, Repr

/-- A register result in flight (R52): which register (v or g, physical index), and what is still to happen. -/
inductive PendKind where
  /-- The value is known and arrives (division, a status, a returned word). -/
  | value (w : Word)
  /-- A floating result whose flags merge on arrival (R111). -/
  | float (w : Word) (flags : BitVec 5)
  /-- A global load of `n` bytes at a virtual address whose translation was checked at issue; `fwd` are the bytes
  taken from the thread set's own queued stores, by offset (R250). -/
  | load (va : Word) (x : Xlat) (n : Nat) (sext : Bool) (fwd : List (Nat × Byte))
  /-- A vector global load: the bytes of its active lanes. -/
  | vload (va : Word) (x : Xlat) (mask : List Nat) (fwd : List (Nat × Byte))
  /-- The line of a remote source cursor that the thread set's next instruction waits for (R116). -/
  | cursor (core line : Nat)
  /-- A remote scratchpad load of `n` bytes. -/
  | sload (core addr n : Nat) (sext : Bool)
  /-- A remote scratchpad load of lanes: the address of each active lane's bytes, by byte of the register. -/
  | svload (core : Nat) (bytes : List (Nat × Nat))
  /-- A remote `LDL` (R145). -/
  | sldl (core addr : Nat)
  /-- An atomic (R148): operation, scope, width in bytes, operand and comparand, and its old value once performed. -/
  | atomic (op scope n : Nat) (va : Word) (x : Xlat) (b cmp : Word) (done : Option Word)
  /-- `SPINW`: still to be armed at its home, or armed there (R154). -/
  | spinw (va : Word) (x : Xlat) (comparand : Word) (armed : Bool)
  /-- A rights instruction under way: the purge whose acknowledgements it awaits, and its status (R158, R159). -/
  | purge (id : Nat) (status : Word)
  /-- A read of `TMSTAT` (false) or `TMRC` (true): waits for the tempered commands listed (R107). -/
  | temper (rc : Bool) (cmds : List Nat)
  /-- A `RESOLVE` whose winner is being committed: cluster and decision (R280). -/
  | resolve (cluster id : Nat)
  /-- A read of a register of the cluster's bank or of the core's delay table, with the slot DLYSEL named (R107, R363). -/
  | counter (num slot : Nat)
  deriving DecidableEq, Repr

/-- A result in flight. -/
structure Pend where
  /-- The model's issue number. -/
  seq : Nat
  /-- The destination: none for a posted atomic. -/
  isV : Bool := false
  reg : Nat := 0
  posted : Bool := false
  /-- Whether it holds a reply credit (R140). -/
  credit : Bool := false
  /-- The address an error mark reports (R55). -/
  addr : Word := 0
  /-- An uncorrectable error was met. -/
  bad : Bool := false
  /-- The model's number of a request to a peer that the Prakeric interface has accepted (R250, R255), and what its answer brought:
  the line as it was answered, of no value where the answer was an error. -/
  asked : Option Nat := none
  reply : Option (Option Line) := none
  /-- Of a request for a line: the bytes of it that its cluster had then, which its answer does not replace (R142, R255). -/
  mine : List (Nat × Byte) := []
  /-- Its activation has ended: the result is discarded when it arrives (R56). -/
  dropped : Bool := false
  /-- The owner under which it was issued (R106). -/
  owner : BitVec 20 := 0
  kind : PendKind
  deriving DecidableEq, Repr

/-- An entry of the store queue (R250): bytes for a scratchpad (core and addresses) or for global memory (virtual
address and translation, both of offset 0), each byte with its address or offset. -/
inductive QWrite where
  /-- `unlock` names a lock bit that the entry frees once it has landed (`STU`, `ULK`). -/
  | scratch (core : Nat) (bytes : List (Nat × Byte)) (remote : Bool) (unlock : Option Nat)
  | global (va : Word) (x : Xlat) (bytes : List (Nat × Byte))
  deriving DecidableEq, Repr

/-- A queued write with its issue number. -/
structure Queued where
  seq : Nat
  w : QWrite
  /-- The owner it was issued under (R106). -/
  owner : BitVec 20 := 0
  deriving DecidableEq, Repr

/-- A hold of a sync object (R152). -/
structure Hold where
  pa : Nat
  /-- The virtual address under which the hold was taken. -/
  va : Nat
  exclusive : Bool
  count : Nat
  deriving DecidableEq, Repr

/-- A hold that an ended activation of a thread set gives back once its writes before issue number `seq` have landed (R152), and the
context it ran under. -/
structure Owed where
  core : Nat
  ts : Nat
  seq : Nat
  ctx : BitVec 12
  hold : Hold
  deriving DecidableEq, Repr

/-- What an instruction that holds its thread set's issue waits for, or has been granted. While it waits it is neither fetched nor
checked again (R138). -/
inductive Wait where
  | none
  /-- An access that has passed its checks, with its translation (`REL`, and reads of words and tables at a peer, which hold a
  reply credit, R140). -/
  | checked (x : Xlat) (credit : Bool)
  /-- `QPOST`, which has passed its checks, with the translations of its first and its last byte; it holds a reply credit (R140). -/
  | wide (x x2 : Xlat)
  /-- `ACQ` of the object at a physical address, queued at the home, then granted (R151). -/
  | acq (pa : Nat) (granted : Bool)
  /-- `BARSYNC` or `BARMAX` arrived, then released with the maximum (R156). -/
  | barrier (released : Option Word)
  /-- `LDL` waiting at a bank, then granted (R145), and whether it holds a reply credit (R140). -/
  | lock (granted credit : Bool)
  /-- `XFENCE` and the fences: the issue number they hold for. -/
  | fence (seq : Nat)
  /-- A purge whose acknowledgements `TLBINV` or `HTSET` awaits. -/
  | purge (id : Nat)
  deriving DecidableEq, Repr

/-- A lookup that an access or a fetch of a thread set has missed in its core's PLB or L1 TLB (R138, R324, R332). -/
inductive Walk where
  | none
  /-- A rights lookup: owner, address, length, rights, whether a fetch. -/
  | rights (owner : BitVec 20) (va : Word) (n : Nat) (need : BitVec 5) (fetch : Bool)
  | page (va : Word)
  /-- A lookup that found nothing: the cause the access traps with. -/
  | failed (cause : Nat) (va : Word)
  deriving DecidableEq, Repr

/-- One thread set: registers (Table 3.1), special registers of its scope (Table 3.2), and what it has under way. -/
structure TSet where
  /-- g registers by physical index: g0 to g27, then banks 0, 1 and 2 of g28 to g31 at 28, 32 and 36 (R49). -/
  g : List (Nat × Word) := []
  v : List (Nat × Line) := []
  p : List (Nat × Word) := []
  c : List (Nat × BitVec 25) := []
  /-- Empty bits and lock bits (R52, R57). -/
  gEmpty : BitVec 40 := 0
  gLock : BitVec 40 := 0
  vEmpty : BitVec 32 := 0
  vLock : BitVec 32 := 0
  /-- Parity faults (R354): in `gPar` of g registers by physical index, of predicates from bit 40 on, of cursors from bit 48 on. -/
  gPar : BitVec 56 := 0
  vPar : BitVec 32 := 0
  /-- Error marks with the producer's address (R55). -/
  gMark : List (Nat × Option Word) := []
  vMark : List (Nat × Option Word) := []
  /-- Bits 56:0 are the address; a value past 2^57 − 1 was reached by no wrap-around and cannot be fetched (R33). -/
  pc : Word := 0
  retStack : List Word := []
  owner : BitVec 20 := 0
  tmpol : Word := 0
  tmstat : Word := 0
  tmrc : Word := 0
  fpctl : Word := 0
  sfbase : Word := 0
  sflen : Word := 0
  cstop : BitVec 18 := 0
  trtop : BitVec 18 := 0
  stealpol : Word := 0
  srchdone : Word := 0
  tlvl : Nat := 0
  tvec : BitVec 57 := 0
  tsave1 : Word := 0
  tsave2 : Word := 0
  tcause1 : Word := 0
  tepc1 : Word := 0
  tval1 : Word := 0
  tcause2 : Word := 0
  tepc2 : Word := 0
  tval2 : Word := 0
  dlysel : BitVec 5 := 0
  /-- The core cycle at which the watchdog reaches zero (R223). -/
  wdogEnd : Nat := 0
  /-- Command status (R202). -/
  cmdStatus : BitVec 16 := 0
  act : Option Act := none
  /-- Pushes of choice points since device reset (Table 9.6). -/
  pushCount : BitVec 20 := 0
  pend : List Pend := []
  storeq : List Queued := []
  /-- Cores whose remote writes are not acknowledged yet, one entry per write (R251). -/
  unacked : List Nat := []
  sendBuf : List Held := []
  /-- Held entries of an ended activation that are still to be injected (R169), and the watch armed after them. -/
  releasing : List Held := []
  /-- The context of the activation that is releasing. -/
  relCtx : BitVec 12 := 0
  armAfter : Option Watch := none
  /-- The activation that has ended and whose held entries are being injected: how it ended (0 `END`, 1 `ENDW`, 2 `YIELD`, 3 and 4
  the ends of a search), and its record (R169). -/
  ending : Option (Nat × Act) := none
  holds : List Hold := []
  /-- The first core cycle in which it may issue again (SD, taken transfers, R31, R164). -/
  readyAt : Nat := 0
  wait : Wait := .none
  walk : Walk := .none
  /-- The word of the instruction that waits, as it was fetched. -/
  word : BitVec 96 := 0
  /-- The core cycle from which a register can be read, through the ordinary interlock (R52, R98): g registers by physical index,
  v registers at 64, predicates at 128, the flags of FPCTL at 192. -/
  late : List (Nat × Nat) := []
  /-- Lines of remote source cursors that have arrived for its next instruction: core, line, bytes, and whether an uncorrectable
  error was met (R116). -/
  arrived : List (Nat × Nat × Line × Bool) := []
  /-- The issue number its next instruction took when it first came to wait for its core's Anvil (R135). -/
  tried : Option Nat := none
  /-- The core cycle of its last `FAIL`, after which a grant of its choice points waits for a later cycle (R287). -/
  failedAt : Option Nat := none
  /-- Whether its next instruction stalled at its last attempt (R63). -/
  stalled : Bool := false
  /-- Debug steps left to issue (R369). -/
  steps : Nat := 0
  /-- The theft granted to it, for whose message it is kept free (R273, R287). -/
  theftGrant : Option Nat := none
  /-- The co-resident launch that reserves the thread set (R307). -/
  reserved : Option Nat := none
  deriving DecidableEq, Repr

/-! ## The core -/

/-- A block: the core that holds it, its base line, and whether it is named in the remote form (R27). -/
structure Block where
  core : Nat := 0
  base : Nat := 0
  remote : Bool := false
  deriving DecidableEq, Repr

/-- The Anvil operations. -/
inductive AnvilOp where
  | mma | mmas | mrot | mrot2 | cclr
  deriving DecidableEq, Repr

/-- What the core's Anvil is doing with its first instruction. -/
inductive AnvilPhase where
  | queued
  /-- The evaluation of a pass runs on the operands as read. -/
  | evaluating
  /-- Wide operands are being fetched for a replay. -/
  | fetching
  /-- A rotation step has committed and waits for its halves (R198). -/
  | rotating
  deriving DecidableEq, Repr

/-- An operand sidecar (Table 4.6). -/
structure Sidecar where
  satc : BitVec 16 := 0
  unfc : BitVec 16 := 0
  fmt : BitVec 4 := 0
  hfmt : BitVec 4 := 0
  hv : Bool := false
  sparse : Bool := false
  n8 : Bool := false
  cbs : BitVec 3 := 0
  home : Word := 0
  hpitch : BitVec 32 := 0
  deriving DecidableEq, Repr

/-- An Anvil command with everything it captured at issue (R51, R191). -/
structure AnvilCmd where
  id : Nat := 0
  op : AnvilOp := .cclr
  temper : Bool := false
  ow : Bool := false
  n8 : Bool := false
  tile : Nat := 0
  x : Block := {}
  y : Block := {}
  afmt : BitVec 4 := 0
  wfmt : BitVec 4 := 0
  cfmt : BitVec 4 := 0
  books : List (Nat × BitVec 256) := []
  tmpol : Word := 0
  mrland : Word := 0
  owner : BitVec 20 := 0
  ctx : BitVec 12 := 0
  rcb : Word := 0
  /-- The thread set and activation it was issued by; none for a record of the task graph unit. -/
  ts : Nat := 0
  act : Option Nat := none
  /-- The task record it runs: cluster, batch and node. -/
  graph : Option (Nat × Nat × Nat) := none
  phase : AnvilPhase := .queued
  /-- The clock period of its start. -/
  startAt : Nat := 0
  /-- Operand lines, mask lines and sidecars as read, and whether each operand has been read (R192, R194). -/
  xGot : Bool := false
  yGot : Bool := false
  xLines : List Line := []
  maskLines : List Line := []
  yLines : List Line := []
  xSide : Sidecar := {}
  ySides : List Sidecar := []
  /-- Whether an operand line was uncorrectable. -/
  bad : Bool := false
  /-- The rung under evaluation, the replays started, and the counts of the last evaluation (R265, R266). -/
  rung : Nat := 0
  nrep : Nat := 0
  sat : Nat := 0
  unf : Nat := 0
  can : Nat := 0
  /-- A replay fetch: rows fetched, their saturations and underflows, and the rows as converted (R267). -/
  fetched : Nat := 0
  fsat : Nat := 0
  funf : Nat := 0
  xWide : List Line := []
  yWide : List Line := []
  /-- Pre-step copy of the tile, the times at which its halves were held by their receivers, and that of the commit
  (R198, R199). -/
  before : List Line := []
  westHeld : Option Nat := none
  northHeld : Option Nat := none
  commitTime : Nat := 0
  deriving DecidableEq, Repr

/-- A rotation half held at its receiver (R198, R385). -/
structure Half where
  isX : Bool
  stamp : BitVec 16
  pair : Bool
  sender : Nat
  sendCmd : Nat
  arrived : Nat
  lines : List Line
  side : Sidecar
  ctx : BitVec 12
  deriving DecidableEq, Repr

/-- A half on its way to its receiver. -/
structure HalfFlight where
  to_ : Nat
  half : Half
  deriving DecidableEq, Repr

/-- The states of an inbox slot other than FREE (Table 11.3). -/
inductive SlotState where
  | parked
  | eligible
  | running (ts : Nat)
  deriving DecidableEq, Repr

/-- An occupied inbox slot. Slots stand in arrival order, those ahead of every other first. -/
structure Slot where
  state : SlotState := .parked
  msg : Msg := {}
  /-- Age gathered in ELIGIBLE, and the core cycle since which it grows (R213). -/
  age : Nat := 0
  since : Nat := 0
  aborts : Nat := 0
  /-- The handler entry it was last tested against, and, while it runs, the one it was selected with (R215). -/
  entry : Word := 0
  /-- The theft whose message this is: it is selected only onto the thief (R273). -/
  theft : Option Nat := none
  /-- Device time at which it took the slot or rejoined the inbox (R361). -/
  arrival : Nat := 0
  /-- Whether it has been selected before, and then returned (R306). -/
  chosen : Bool := false
  deriving DecidableEq, Repr

/-- The message of a task record that waits for a request slot: whether it goes ahead of every other slot, and the thread set it ran
on (R187, R222). -/
structure Returned where
  front : Bool
  ts : Nat
  slot : Slot
  deriving DecidableEq, Repr

/-- A PLB entry: a rights entry of an owner, cut to the unit of the walk (R324). -/
structure PlbEntry where
  owner : BitVec 20
  gid : Nat
  base : Nat
  size : Nat
  gen : BitVec 7
  rights : BitVec 5
  quarantined : Bool
  deriving DecidableEq, Repr

/-- A TLB entry (R332): the virtual base and size of the page, and its translation. -/
structure TlbEntry where
  vbase : Nat
  size : Nat
  x : Xlat
  deriving DecidableEq, Repr

/-- A held `XFENCE` of a core: issue number and masks (R155). -/
structure XFence where
  /-- The thread set it holds. -/
  ts : Nat
  seq : Nat
  from_ : BitVec 6
  to_ : BitVec 6
  deriving DecidableEq, Repr

/-- A debug command on its way to a core (Table 22.7): its code, mask or thread set, and value words. -/
structure DebugCmd where
  code : Nat
  sel : Nat
  value : Word
  reg : Word := 0
  fn : Nat := 0
  cid : Nat := 0
  /-- Of code 5: whether it writes, the value of a v register, and the host address a v register is read to. -/
  write : Bool := false
  line : Line := 0
  host : Nat := 0
  deriving DecidableEq, Repr

/-- One slot of a delay table (R362). -/
structure DelaySlot where
  sender : Nat := 0
  used : Bool := false
  count : BitVec 32 := 0
  transit : Nat := 0
  wait : Nat := 0
  run : Nat := 0
  /-- The update number of its last update. -/
  last : Nat := 0
  deriving DecidableEq, Repr

/-- One core. -/
structure Core where
  /-- The resident context, the context resident before it when there is none (R51), and the RCB bound to it (R305). -/
  ctx : Option (BitVec 12) := none
  last : Option (BitVec 12) := none
  rcb : Word := 0
  bfmt0 : BitVec 4 := 0
  bfmt1 : BitVec 4 := 0
  bfmt2 : BitVec 4 := 0
  afmt : BitVec 4 := 0
  wfmt : BitVec 4 := 0
  cfmt : BitVec 4 := 0
  cbk : List (Nat × BitVec 256) := []
  mrland : Word := 0
  anvil : List AnvilCmd := []
  halves : List Half := []
  inbox : List Slot := []
  /-- Reply slots reserved and not filled yet (R212). -/
  replyReserved : Nat := 0
  inject : List Inject := []
  seq : BitVec 16 := 0
  /-- Tags whose enable bit is clear (R173). A tag's pending bit is set while a message of it is parked. -/
  tagOff : List (Nat × Bool) := []
  /-- The cycle of the last `TAGEN`: it governs selections from the next one on (R173). -/
  tagCycle : Option Nat := none
  /-- Handler cache (R215): the address of each entry held with its bits 63:0, oldest first. -/
  handlers : List (Nat × Word) := []
  /-- Instruction cache lines by line number (R35). -/
  icache : List (Nat × Line) := []
  /-- Words of these lines found uncorrectable (R353). -/
  icacheBad : List (Nat × BitVec 8) := []
  plb : List PlbEntry := []
  tlb : List TlbEntry := []
  /-- Fork deque: index of the top record and number of records (R226). -/
  dqTop : BitVec 6 := 0
  dqLen : Nat := 0
  /-- The activation that pushed each record, top first. -/
  dqOwner : List Nat := []
  lf : BitVec 16 := 1
  /-- Victims that the steal round under way has still to ask, and the core cycle from which the next may begin (R227). -/
  round : List Nat := []
  nextSteal : Nat := 0
  /-- Victims that the search theft request under way has still to ask, and for which thread set; and the core cycle from
  which the next may be made (R272). -/
  asking : List Nat := []
  askFor : Nat := 0
  nextTheft : Nat := 0
  /-- Messages of aborted or yielded task records waiting for a request slot (R187, R222). -/
  returned : List Returned := []
  /-- The first core cycle in which the issue slot is free (R59, R63). -/
  nextIssue : Nat := 0
  /-- The thread set that issued last, and whether it passes the slot on (R63). -/
  rr : Nat := 0
  pass : Bool := false
  xfences : List XFence := []
  /-- Delay accounting table: 17 slots (R362). -/
  delays : List (Nat × DelaySlot) := []
  /-- Stopped for the debugger, a stop armed for `BRK`, the breakpoints, and commands received (R369). -/
  stopped : Bool := false
  brkStop : Bool := false
  breaks : List (Nat × Word) := []
  debugIn : List DebugCmd := []
  deriving DecidableEq, Repr

/-! ## Lines, locks and watches of a scratchpad -/

/-- A held lock bit of a bank (R145). -/
structure LockBit where
  /-- core · 48 + bank · 16 + h. -/
  at_ : Nat
  core : Nat
  ts : Nat
  deriving DecidableEq, Repr

/-- An `LDL` waiting at a bank. -/
structure LockWait where
  at_ : Nat
  core : Nat
  ts : Nat
  deriving DecidableEq, Repr

/-- A watch of a scratchpad bank, reserved or armed. -/
structure BankWatch where
  core : Nat
  bank : Nat
  watch : Option Watch
  /-- The number of the reservation, and its context. -/
  resv : Nat
  ctx : BitVec 12
  deriving DecidableEq, Repr

/-! ## The cluster -/

/-- A cluster cache line (Table 12.4), with the translation of its page and its way. -/
structure CacheLine where
  va : Nat := 0
  x : Xlat := {}
  way : Nat := 0
  dw : BitVec 8 := 0
  dc : BitVec 16 := 0
  tv : Bool := false
  btag : BitVec 12 := 0
  /-- The context whose `ACQ` the binding tag is of (R150). -/
  bctx : BitVec 12 := 0
  data : Line := 0
  /-- Words found uncorrectable (R353). -/
  bad : BitVec 8 := 0
  /-- Bytes that no fill has brought yet: of a line of a peer page (R255), or where the fill met an error (R353). -/
  hole : BitVec 64 := 0
  /-- When each core, by its bit of DC, first and last wrote the line since its last write-back (R254): issue numbers. -/
  wrote : List (Nat × Nat × Nat) := []
  deriving DecidableEq, Repr

/-- An open barrier episode (R156). -/
structure Barrier where
  ctx : BitVec 12
  mask : BitVec 16
  /-- Arrived: core within the cluster, thread set, offer. -/
  arrived : List (Nat × Nat × Word)
  deriving DecidableEq, Repr

/-- What a stream command does. -/
inductive StreamOp where
  | tld (wide : Bool)
  | tst
  | tcvt
  | rread (n : Nat)
  deriving DecidableEq, Repr

/-- A stream command (R200, R239, R240). -/
structure StreamCmd where
  id : Nat := 0
  op : StreamOp := .tst
  core : Nat := 0
  ts : Nat := 0
  act : Option Nat := none
  ctx : BitVec 12 := 0
  owner : BitVec 20 := 0
  gptr : Word := 0
  /-- The translation of `RREAD`, as checked at issue, and that of its last byte. -/
  x : Xlat := {}
  x2 : Xlat := {}
  /-- The local field of `TLD` and `TST`, and the source field of `TCVT`. -/
  loc : BitVec 24 := 0
  dst : BitVec 24 := 0
  shape : Word := 0
  /-- From `ESEND` or a task record: the opcode and USER field of the completion. -/
  msg : Option Word := none
  route : Word := 0
  rq : Bool := false
  graph : Option (Nat × Nat × Nat) := none
  /-- The raw words of a message. -/
  words : List Word := []
  /-- The issuing core's formats (BFMT0 to BFMT2, AFMT, WFMT, CFMT) and codebooks at issue (R51, R201). -/
  fmts : List (BitVec 4) := []
  books : List (Nat × BitVec 256) := []
  engine : Option Nat := none
  rows : Nat := 0
  status : Nat := 0
  sat : Nat := 0
  unf : Nat := 0
  fin : Bool := false
  deriving DecidableEq, Repr

/-- A pool engine command (R241, R242). -/
structure PoolCmd where
  cmd : Command := {}
  id : Nat := 0
  graph : Option (Nat × Nat × Nat) := none
  started : Bool := false
  /-- Device time of the start (R242). -/
  since : Nat := 0
  units : Nat := 0
  /-- The bytes of the 4 KiB unit under way that have passed their check: bases and lengths (R241, R326). -/
  past : List (Nat × Nat) := []
  status : Nat := 0
  fin : Bool := false
  deriving DecidableEq, Repr

/-- What one store has left in a held word (R337): the core that stored, the owner it was checked under (R106), its issue number, and
its bytes by their offset in the word. -/
structure HeldStore where
  core : Nat
  owner : BitVec 20
  seq : Nat
  bytes : List (Nat × Byte)
  deriving DecidableEq, Repr

/-- A held write of R337: the virtual address of an aligned word, and the stores merged in it, oldest first. -/
structure HeldWrite where
  va : Nat
  stores : List HeldStore
  deriving DecidableEq, Repr

/-- A held line of a speculative activation: a global line or a line of the private window (R277). -/
structure HeldLine where
  /-- Line address, or line number of the local scratchpad. -/
  at_ : Nat
  scratch : Bool
  va : Word
  x : Xlat
  bytes : List (Nat × Byte)
  /-- The owner its first write was checked under (R106). -/
  owner : BitVec 20 := 0
  deriving DecidableEq, Repr

/-- One successor of a speculative decision (R184, R277 to R280). -/
structure Side where
  held : List HeldLine := []
  entries : List Held := []
  watch : Option Watch := none
  /-- The core it runs or ran on, and its activation. -/
  core : Nat := 0
  act : Option Nat := none
  ended : Bool := false
  deriving DecidableEq, Repr

/-- An open decision of a cluster (R184). -/
structure Decision where
  id : Nat
  ctx : BitVec 12
  rcb : Word
  /-- The issuing activation, and its core. -/
  act : Nat
  core : Nat
  sides : List Side
  /-- The side that `RESOLVE` has named, while it is committed (R280). -/
  winner : Option Nat := none
  deriving DecidableEq, Repr

/-- Where a record of the task graph unit stands (R244 to R247). -/
inductive GraphState where
  | open_
  | sealed
  | dispatched
  deriving DecidableEq, Repr

/-- A record of the task graph unit (Table 10.5). -/
structure GraphRec where
  ctx : BitVec 12
  batch : Nat
  node : Nat
  cls : Nat
  pred : Nat
  cost : Nat
  succ : List Nat
  core : Nat
  rq : Bool
  prio : BitVec 2
  tag : BitVec 12
  /-- BODY and who issued it: words 0 to 4 of a command, with the word 5 formed of RANK. -/
  cmd : Command
  rank : Nat := 0
  state : GraphState := .open_
  /-- Core cycle since which it has been ready, the cycles it waited before, and the cycle in which it first became ready (R245). -/
  since : Option Nat := none
  waited : Nat := 0
  readyAt : Nat := 0
  /-- The core that sealed the batch. -/
  sealCore : Nat := 0
  /-- `TMPOL` and the RCB of its issue, for a class-0 body. -/
  tmpol : Word := 0
  rcb : Word := 0
  /-- The status its engine work ended with, the rows or units moved, and the counts (R205, R246). -/
  done : Option (Nat × Nat × Nat × Nat) := none
  deriving DecidableEq, Repr

/-- A forwarding entry (R318). -/
structure Forward where
  ctx : BitVec 12
  old : Nat
  new : Nat
  made : Nat
  deriving DecidableEq, Repr

/-- An event waiting at a trace port: its kind and payload bytes (Table 22.6). -/
structure TraceEvent where
  kind : Nat
  payload : List Byte
  deriving DecidableEq, Repr

/-- The trace stream of a cluster: the open frame's ring index, its fill, the last time, the next FSEQ, and LOST. -/
structure TraceStream where
  frame : Option Nat := none
  fill : Nat := 0
  last : Nat := 0
  fseq : Nat := 0
  lost : Bool := false
  deriving DecidableEq, Repr

/-- A cluster. -/
structure Cluster where
  lines : List CacheLine := []
  /-- The tree pseudo-LRU bits of each set (R237): bit k is the node k of the tree. -/
  plru : List (Nat × BitVec 16) := []
  /-- Writes held under write-block, oldest first (R337): word address and its held bytes. -/
  hold : List HeldWrite := []
  /-- The issue number at which stale clean lines were last dropped: a line asked of a peer before is not kept (R258). -/
  purged : Nat := 0
  rights : List PlbEntry := []
  /-- For each owner whose entries the rights cache holds, the cores that may hold them, by their bits, and at bit 16 the pool PLBs (R324). -/
  masks : List (Nat × BitVec 17) := []
  tlb : List TlbEntry := []
  barriers : List (Nat × Option Barrier) := []
  stream : List StreamCmd := []
  /-- The counter bank by special register number: CNT0 to CNT7 and CSEL0 to CSEL7 (Table 22.3). -/
  counters : List (Nat × Word) := []
  /-- Open decisions (R184), records of the task graph unit and the number of its next batch (R244), forwarding
  entries (R318), prune notices and the cores they have not reached (R276). -/
  decisions : List Decision := []
  graph : List GraphRec := []
  nextBatch : Nat := 0
  forwards : List Forward := []
  prunes : List (Word × List Nat) := []
  /-- Holder of the counter bank (0 the PF, n VF n) and the requesters refused since it was granted (R365). -/
  holder : Option Nat := none
  refused : List Nat := []
  traceQ : List TraceEvent := []
  trace : TraceStream := {}
  /-- Instructions issued since the last clock period that has passed, while the bank is held (R364). -/
  issued : Nat := 0
  /-- Cycles lost to clock stretching, the 32nds of a cycle pending, whether the clock is stretched and since which cycle of the cluster
  (R382). -/
  lost : Nat := 0
  part : Nat := 0
  stretched : Bool := false
  sagSince : Nat := 0
  deriving DecidableEq, Repr

/-! ## Rights and translation -/

/-- A valid rights entry (Table 18.1); an entry with V = 0 is not listed. -/
structure REntry where
  base : Nat
  /-- Length in 64-byte units. -/
  len : Nat
  gen : BitVec 7
  rights : BitVec 5
  gid : Nat
  pgid : Nat
  granter : BitVec 20
  orig : Bool := false
  quar : Bool := false
  xp : Bool := false
  deriving DecidableEq, Repr

/-- One owner's table in the owner directory (R320): where its entries stand, how many it may hold, and the entries, sorted by BASE. -/
structure OwnerTable where
  base : Nat := 0
  capacity : Nat := 0
  entries : List REntry := []
  deriving DecidableEq, Repr

/-- A purge on its way (Table 18.3, R160, R172): the owners and range it names, or the page or tag it drops,
and who has not acknowledged: cores, and lease slots with an engine's unit past its check, from 5,000 on. -/
inductive PurgeKind where
  | rights (owners : List (BitVec 20)) (base size : Nat)
  | page (base size : Nat)
  | handler (ctx : BitVec 12) (tag : BitVec 12)
  deriving DecidableEq, Repr

/-- See `PurgeKind`. -/
structure Purge where
  id : Nat
  kind : PurgeKind
  pending : List Nat
  deriving DecidableEq, Repr

/-! ## Watches at the homes -/

/-- Who waits at a home channel for a word to change. -/
inductive Watcher where
  /-- `SPINW` of a thread set, by the issue number of its result. -/
  | spin (core ts seq : Nat)
  /-- An `ENDW` watch. -/
  | endw (w : Watch)
  deriving DecidableEq, Repr

/-- A watch at its home (R154, R383): the word, the comparand, whether it is armed in the filter or waits for an
entry, and the value it has fired with. -/
structure HomeWatch where
  pa : Nat
  tier : Nat
  va : Word
  comparand : Word
  armed : Bool
  fired : Option Word
  who : Watcher
  deriving DecidableEq, Repr

/-- A queued `ACQ` at an object's home (R151). -/
structure AcqWait where
  pa : Nat
  /-- The virtual address of the request. -/
  va : Nat
  core : Nat
  ts : Nat
  shared : Bool
  deriving DecidableEq, Repr

/-! ## Contexts, regions and launches -/

/-- The effective fields of an RCB (R302). -/
structure Region where
  prio : Nat := 0
  propagate : Bool := false
  pack : Bool := false
  cores : List Nat := []
  tsets : Nat := 0
  qslots : Nat := 0
  cruc : Nat := 0
  bufb : Nat := 0
  trail : Nat := 0
  choice : Nat := 0
  htab : Word := 0
  tvec : Word := 0
  wdog : Nat := 0
  /-- Valid region entries: home, lines, scratchpad address. -/
  regions : List (Word × Nat × Nat) := []
  pin : Bool := false
  deriving DecidableEq, Repr

/-- The values of an RCB as they were taken when a launch of it or of a descendant was last validated (R302): its chain up to the
root, and its effective fields. -/
structure Taken where
  rcb : Word
  chain : List Word
  region : Region
  deriving DecidableEq, Repr

/-- A binding of ranges to a sync object of a context (R150). -/
structure Binding where
  obj : Nat
  tag : BitVec 12
  ranges : List (Nat × Nat)
  deriving DecidableEq, Repr

/-- The saved image of a context's share of a core (R214, R315). -/
structure CoreImage where
  slots : List Slot := []
  arrivals : List Msg := []
  returned : List Returned := []
  /-- Deque: index of the top record, the records, top first, and who pushed them. -/
  dqTop : BitVec 6 := 0
  deque : List Line := []
  dqOwner : List Nat := []
  tagOff : List (Nat × Bool) := []
  rcb : Option Word := none
  stopped : Bool := false
  /-- Reply slots reserved and not filled yet. -/
  replyReserved : Nat := 0
  deriving DecidableEq, Repr

/-- A context (R301 to R318). -/
structure Context where
  partition : Nat := 0
  root : Word := 0
  owners : List (BitVec 20) := []
  sys : Bool := false
  /-- The event vector (R177). -/
  events : List (Nat × Word) := []
  killed : Bool := false
  saved : List (Nat × CoreImage) := []
  saveArea : Nat := 0
  bindings : List Binding := []
  /-- The migration map (R318). -/
  moved : List (Nat × Nat) := []
  /-- The RCBs of launches accepted since its creation, and of their chains, with the values taken (R302, R318). -/
  taken : List Taken := []
  /-- Queues with records from before its last restart, and the index past the last of them: those records complete KILLED (R349). -/
  doomed : List (Nat × Nat) := []
  deriving DecidableEq, Repr

/-- An open launch (R292 to R309), or one whose completion record is still to be written. -/
structure Launch where
  id : Nat := 0
  queue : Option Nat := none
  slot : Nat := 0
  /-- A fabric launch: the sending node and its cookie. -/
  fabric : Option (Nat × Word) := none
  ctx : BitVec 12 := 0
  rcb : Word := 0
  region : Region := {}
  coresident : Bool := false
  tag : BitVec 12 := 0
  prio : BitVec 2 := 0
  dimx : Nat := 0
  dimy : Nat := 0
  dimz : Nat := 0
  args : List Word := []
  set : List Word := []
  /-- Element starts sent to each core of the list, by position. -/
  sent : List (Nat × Nat) := []
  /-- Clusters whose stale lines it has dropped (R262). -/
  dropped : List Nat := []
  ended : Nat := 0
  dead : Nat := 0
  /-- Where its elements ended: core, thread set and the issue number then. -/
  left : List (Nat × Nat × Nat) := []
  /-- Whether every reservation of a co-resident launch has been held (R307). -/
  armed : Bool := false
  /-- Its completion status once it has ended, and the model's number of that end: its place among the ends of its queue (R297). -/
  status : Option Nat := none
  endSeq : Nat := 0
  /-- Whether the clusters of its region have written back what its end publishes (R262). -/
  published : Bool := false
  /-- The effective values of its chain as its validation took them; they serve every activation of it (R302). -/
  taken : List Taken := []
  deriving DecidableEq, Repr

/-- A record at the head of a queue that has passed its checks and waits for its event bits (R296): the number of its validation, its
words, and the effective values taken (R302). -/
structure Accepted where
  id : Nat
  record : List Word
  region : Region
  taken : List Taken
  deriving DecidableEq, Repr

/-- A work queue (R294): the physical address of its control block, its armed triggers, the device time since
which it has made no progress, and the time it counted before. -/
structure Queue where
  block : Nat := 0
  /-- The accepted record at its head. -/
  accepted : Option Accepted := none
  arms : List (Nat × BitVec 12 × BitVec 12 × BitVec 2) := []
  /-- Nanoseconds counted by the progress watchdog, and since when it counts (R317). -/
  counted : Nat := 0
  since : Option Nat := none
  deriving DecidableEq, Repr

/-- A direct request under way (R300): its context, core, entry and arguments, and who asked: a function's
mailbox command or a node with its cookie. -/
structure Direct where
  ctx : BitVec 12
  core : Nat
  entry : Word
  args : List Word
  fn : Option Nat
  cid : Nat
  node : Nat
  cookie : Word
  made : Nat
  deriving DecidableEq, Repr

/-- A search theft under way (R273): thief, victim, the choice point's ID and index, and what the grant captured. -/
structure Theft where
  id : Nat
  thief : Nat
  thiefTs : Nat
  victim : Nat
  victimTs : Nat
  /-- Address of the choice point, its ID, and the alternative taken. -/
  cp : Nat
  cpId : Word
  index : Nat
  sfbase : Word
  sflen : Word
  srchdone : Word
  stealpol : Word
  owner : BitVec 20
  prio : BitVec 2
  ctx : BitVec 12
  /-- The RCB of the victim's activation, under which the thief runs (R287). -/
  rcb : Word := 0
  /-- The choice point, and the frame rewound to its push, as the grant found them. -/
  cpBytes : List Byte := []
  frame : List Byte := []
  /-- Whether a stream engine has started the copy, whether it has completed, and whether the message has entered the thief's inbox. -/
  copying : Bool := false
  copied : Bool := false
  sent : Bool := false
  deriving DecidableEq, Repr

/-- A granted task record in transit (R228), and its kind-5 message. -/
structure Stolen where
  victim : Nat
  thief : Nat
  record : Line
  msg : Msg
  deriving DecidableEq, Repr

/-- A completion message that its unit holds until a reply slot can be reserved (R212): the core it goes to, its context, TAG and
PRIO, and its payload. -/
structure Due where
  core : Nat
  ctx : BitVec 12
  tag : BitVec 12
  prio : BitVec 2
  words : List Word
  deriving DecidableEq, Repr

/-! ## Partitions -/

/-- An entry of a slice list (R314). -/
structure SliceEntry where
  ctx : BitVec 12
  slice : Nat
  limit : Nat
  deriving DecidableEq, Repr

/-- Where a partition stands in its slice (R315): running, or pre-empting from device time `d` with a limit in ns,
forced or not, once its remaining activations have been aborted. -/
inductive SlicePhase where
  | idle
  | running
  | preempting (d limit : Nat) (forced overrun : Bool)
  deriving DecidableEq, Repr

/-- A consent record (R325). -/
structure Consent where
  granter : BitVec 20
  target : BitVec 20
  base : Nat
  len : Nat
  rights : BitVec 5
  /-- The partitions whose supervisors have asked for it. -/
  asked : List Nat := []
  deriving DecidableEq, Repr

/-- TDISP states (Table 23.4). -/
inductive Tdi where
  | unlocked
  | locked
  | running
  | error
  deriving DecidableEq, Repr

/-- A function's mailbox (R371, R372): rings in host memory and their sizes, head and tail, completions written, the MSI-X vector that the
function's configuration names, and how often it was raised. -/
structure Mailbox where
  sq : Nat := 0
  sqLen : Nat := 0
  cq : Nat := 0
  cqLen : Nat := 0
  head : Nat := 0
  tail : Nat := 0
  done : Nat := 0
  vector : Nat := 0
  msix : Nat := 0
  /-- Bytes moved by the `WRITE` or `READ` under way, and whether a command that another unit answers is under way. -/
  moved : Nat := 0
  busy : Bool := false
  deriving DecidableEq, Repr

/-- A partition: 0 is the PF, n is VF n (R311, R320). -/
structure Partition where
  made : Bool := false
  clusters : List Nat := []
  slicesHbm : List Nat := []
  blocks : List Nat := []
  crucible : Nat := 0
  /-- Lease quotas by die · 2 + class − 1, and the lease time in ns (R313). -/
  quota : List (Nat × Nat) := []
  leaseTime : Nat := 25000
  floor : Nat := 0
  keys : List Nat := []
  list : List SliceEntry := []
  nextList : Option (List SliceEntry) := none
  pos : Nat := 0
  sliceEnd : Nat := 0
  phase : SlicePhase := .idle
  /-- Physical addresses of the supervisor and tier control blocks; 0 for none. -/
  supBlock : Nat := 0
  tierBlock : Nat := 0
  /-- Corrected and uncorrectable errors since the last reset, and corrected ones since the last notice (R352). -/
  corrected : Nat := 0
  uncorrected : Nat := 0
  sinceNotice : Nat := 0
  consents : List Consent := []
  /-- Collective groups: the node of each rank, in rank order, and the timeout in ns (R379, R242). -/
  groups : List (Nat × (List Nat × Nat)) := []
  /-- Features the supervisor opened, those of an accepted policy, and its expiry (R359, R360). -/
  opened : BitVec 6 := 0
  policy : Option (BitVec 6 × Nat) := none
  tdi : Tdi := .unlocked
  keyHash : BitVec 256 := 0
  nonce : BitVec 256 := 0
  /-- A reset under way: since when, whether it rotates keys; and the requests voided (R350). -/
  resetting : Option (Nat × Bool) := none
  voided : Nat := 0
  mailbox : Mailbox := {}
  deriving DecidableEq, Repr

/-! ## Dies, engines and the world outside -/

/-- A lease slot of a partition (R313): its waiting and running commands. -/
structure LeaseSlot where
  cmds : List PoolCmd := []
  deriving DecidableEq, Repr

/-- A pool engine: the lease slot it is bound to, until when, the one it was bound to last, and its own PLB (R313, R324). -/
structure PoolEngine where
  slot : Option Nat := none
  last : Nat := 0
  until_ : Nat := 0
  plb : List PlbEntry := []
  deriving DecidableEq, Repr

/-- A tenant table entry with its bucket (R298, R299). -/
structure Tenant where
  valid : Bool := false
  rate : Nat := 0
  burst : Nat := 0
  ctx : BitVec 12 := 0
  lo : Word := 0
  hi : Word := 0
  tokens : Nat := 0
  /-- Device time of its writing, and the tokens due since then that have been counted. -/
  since : Nat := 0
  gained : Nat := 0
  deriving DecidableEq, Repr

/-- A die: its trace unit (R365, R367), clock-lock session (R366), firmware (R373), power state. -/
structure Die where
  traceHolder : Option Nat := none
  traceRefused : List Nat := []
  ring : Nat := 0
  ringLog : Nat := 0
  stopMode : Bool := false
  frames : Nat := 0
  traceStopped : Bool := false
  /-- The session: requesting VF, and whether it locks clocks or changes scheduling. -/
  session : Option (Nat × Bool) := none
  verified : Bool := false
  /-- The image that the boot ROM read, which blocks 2 and 3 measure (R374). -/
  image : List Byte := []
  fuse : Nat := 0
  bridgeDown : Bool := false
  deriving DecidableEq, Repr

/-- The header of a packet (Table 23.5). -/
structure Header where
  cookie : Word := 0
  len : Nat := 0
  partition : Nat := 0
  dst : Nat := 0
  src : Nat := 0
  kind : Nat := 0
  deriving DecidableEq, Repr

/-- What the device hands to the outside (R371 to R379): a fabric packet at a port, an MSI-X vector of a function, an SPDM response. -/
inductive Output where
  | packet (port : Nat) (head : Header) (bytes : List Byte)
  /-- A peer-memory access (kinds 0 to 2): the issuer's owner, where it is known, the virtual and physical address,
  the bytes of a store by offset, and the operation, width and operands of an atomic. -/
  | peer (port : Nat) (head : Header) (owner : Option (BitVec 20)) (va pa : Nat) (bytes : List (Nat × Byte))
      (op : Option (Nat × Nat × Word × Word))
  | msix (fn vector : Nat)
  | spdm (bytes : List Byte)
  deriving DecidableEq, Repr

/-- A collective segment received (R379), and the device time of its arrival (R242). -/
structure Segment where
  partition : Nat
  group : Nat
  rank : Nat
  offset : Nat
  bytes : List Byte
  arrived : Nat
  deriving DecidableEq, Repr

/-- The SPDM responder (R374): whether the extended algorithms are agreed, its transcript, and the secrets of
its sessions. -/
structure Spdm where
  agreed : Bool := false
  transcript : List Byte := []
  sessions : List (BitVec 256) := []
  deriving DecidableEq, Repr

/-- Who has asked a peer for a line (R255): an activation, for its next instruction; a command of a stream queue; a command of a core's
Anvil; a unit that reads on behalf of a pool engine, a mailbox or a port; a queued or held store of a core; the commit of a decision. -/
inductive Asker where
  | act (uid : Nat)
  | stream (id : Nat)
  | anvil (core id : Nat)
  | unit (u id : Nat)
  | store (core seq : Nat)
  | commit (cluster id : Nat)
  deriving DecidableEq, Repr

/-- A line that a unit has asked of a peer (R255): the cookie, the cache it is for, its address, the partition it is asked for, the bytes
of the line that the cache had then, and the answer: the line, or none where the peer answered with an error. -/
structure PeerLoad where
  cookie : Nat
  /-- The port it left by. -/
  port : Nat
  cache : Nat
  va : Nat
  who : Asker
  part : Nat
  mine : List (Nat × Byte) := []
  reply : Option (Option Line) := none
  deriving DecidableEq, Repr

/-- A store sent to a peer and not answered (R255): the cache it left, its cookie, and the partition it was made for. -/
structure PeerStore where
  cache : Nat
  cookie : Nat
  port : Nat
  part : Nat
  deriving DecidableEq, Repr

/-- A Prakeric port (R378): down, retries of the flit under way, packets dropped and counted. -/
structure Port where
  down : Bool := false
  retries : Nat := 0
  dropped : Nat := 0
  lastSent : Nat := 0
  lastReceived : Nat := 0
  deriving DecidableEq, Repr

/-! ## The device -/

/-- A turn the environment chooses (log 3): a step of the device, or the issue slot of a core, each after some core clock
periods. -/
inductive Turn where
  | event (cycles : Nat) (i : Instr)
  | issue (cycles core : Nat)
  deriving DecidableEq, Repr

/-- The whole state. Thread sets are numbered core · 4 + thread set. Scratchpad lines are numbered
core · 3072 + line, A lines core · 2048 + line, W lines core · 4096 + line, C lines core · 1024 + tile · 64 +
line, A sidecars core · 32 + slot, W sidecars core · 64 + slot. -/
structure State where
  /-- Periods of the 2.25 GHz clock since reset; the 1 GHz time base follows from them (R5). -/
  periods : Nat := 0
  tsets : List (Nat × TSet) := []
  cores : List (Nat × Core) := []
  clusters : List (Nat × Cluster) := []
  scratch : List (Nat × Line) := []
  abuf : List (Nat × Line) := []
  wbuf : List (Nat × Line) := []
  cbuf : List (Nat × Line) := []
  aside : List (Nat × Sidecar) := []
  wside : List (Nat × Sidecar) := []
  home : Memory := []
  /-- The key and its rotations under which each 64-byte unit was last written (R376); 0 and 0 for one that no key has written. -/
  under : List (Nat × (Nat × Nat)) := []
  locks : List LockBit := []
  lockWaits : List LockWait := []
  bankWatches : List BankWatch := []
  /-- Addresses of 64-byte HBM units with an uncorrectable error (R353). -/
  eccBad : List (Nat × Bool) := []
  /-- The cycle after the last in which an engine, the pool or another core wrote to a bank, by core · 3 + bank (R60). -/
  bankPort : List (Nat × Nat) := []
  /-- Scratchpad words with an uncorrectable error, by core · 24576 + address / 8 (R353). -/
  sramBad : List (Nat × Bool) := []
  /-- Lines of the typed buffers with an uncorrectable error, numbered as their bytes are (R353). -/
  abufBad : List (Nat × Bool) := []
  wbufBad : List (Nat × Bool) := []
  cbufBad : List (Nat × Bool) := []
  /-- Sidecars with an uncorrectable error, numbered as they are (R353). -/
  asideBad : List (Nat × Bool) := []
  wsideBad : List (Nat × Bool) := []
  /-- Page-table root, bring-up page, package limit (R380). -/
  pgroot : Word := 0
  bupage : Word := 0
  pwrcap : BitVec 12 := 2300
  /-- Owner directory (R320) and the next entry identity (R321). -/
  owners : List (Nat × Option OwnerTable) := []
  nextGid : Nat := 1
  /-- The presence filters of the Assay units: rows by die · 4096 + hash, the clusters of the die that may hold an owner's entries
  (R324). -/
  presence : List (Nat × BitVec 32) := []
  purges : List Purge := []
  watches : List HomeWatch := []
  acqs : List AcqWait := []
  /-- Counted requests that have reached a home agent: page unit number and tier (R334); and the counters. -/
  countQ : List (Nat × Nat) := []
  counts : List (Nat × Nat) := []
  /-- Pages whose entry that a cluster last dropped for a `TLBINV` had AC = 0, by cluster · 2^41 + page unit (R334). -/
  acOff : List (Nat × Bool) := []
  contexts : List (Nat × Option Context) := []
  partitions : List (Nat × Partition) := []
  queues : List (Nat × Queue) := []
  launches : List Launch := []
  /-- Messages made by a unit and not yet placed, with their destination (R210, R212). -/
  mail : List (Dest × Msg) := []
  /-- Completions of stream instructions and graph records whose reply slot is still to be reserved (R202, R212, R246). -/
  due : List Due := []
  directs : List Direct := []
  thefts : List Theft := []
  stolen : List Stolen := []
  flights : List HalfFlight := []
  /-- Lease slots by ((die · 65 + partition) · 2 + class − 1) · 16 + index, and engines by die · 24 + engine. -/
  leases : List (Nat × LeaseSlot) := []
  engines : List (Nat × PoolEngine) := []
  /-- Tenant tables by die · 4096 + index (R298). -/
  tenants : List (Nat × Tenant) := []
  dies : List (Nat × Die) := []
  /-- The host memory that mailbox rings and buffers stand in (R371). -/
  hostMem : Memory := []
  /-- READY and FAIL bytes by offset in the bring-up page (R381). -/
  ready : List (Nat × Byte) := []
  /-- What each CXL port maps: port, first physical address and length (R377). -/
  cxl : List (Nat × Nat × Nat) := []
  /-- The purge that the supervisor's request under way awaits, and the CID of its command (R329, R371). -/
  dsmWait : Option (Nat × Nat) := none
  /-- Steps of 1/16 by which every cluster clock is lowered (R382). -/
  capSteps : Nat := 0
  /-- The device time of the last such step, or of the last one restored (R382). -/
  capAt : Nat := 0
  /-- Rotations of each key (R376). -/
  rotations : List (Nat × Nat) := []
  out : List Output := []
  segments : List Segment := []
  /-- Stores sent to peers and not answered. -/
  peerStores : List PeerStore := []
  /-- Lines asked of peers by units, until the unit has taken its answer. -/
  peerLoads : List PeerLoad := []
  /-- Holds of ended activations, released after their queued writes (R152). -/
  owed : List Owed := []
  ports : List (Nat × Port) := []
  /-- Offset from the fabric reference, in ns (R379). -/
  offs : Int := 0
  spdm : Spdm := {}
  /-- The core and thread set whose instruction a word is (log 3). -/
  curCore : Nat := 0
  curTs : Nat := 0
  /-- The address of the instruction under execution (R23). -/
  ia : Word := 0
  /-- The model's counters (log 5): unique numbers, free values drawn. -/
  uid : Nat := 0
  drawn : Nat := 0
  /-- The environment's choices (log 3). -/
  agenda : List Turn := []
  choices : List Nat := []
  powered : Bool := true
  deriving DecidableEq, Repr

/-- The value of a thread set, of a core and of a cluster that nothing has changed since reset. -/
def TSet.reset : TSet := {}

/-- A core after reset: lf is the core number plus 1 (R227). -/
def Core.reset (n : Nat) : Core := { lf := BitVec.ofNat 16 (n + 1) }

/-- The machine right after reset (R45, R66, R227, R381; the values no rule gives: log 1). -/
def State.reset : State := {}

end Sys2Proof.Machine
end

