-- ==== Sys2Proof/Machine/Regs.lean ====
section
/-! DEFINITION. The homes of the parts of the state, the register files with their banks (R45 to R49), and
the interlocks on sources and destinations (R52 to R57). -/

namespace Sys2Proof.Machine

/-! ## Parts of the state -/

/-- Thread set `t` of core `c`. -/
def State.tset (s : State) (c t : Nat) : TSet := mget TSet.reset s.tsets (c * 4 + t)
/-- The state with a thread set changed. -/
def State.modTset (s : State) (c t : Nat) (f : TSet → TSet) : State :=
  { s with tsets := mmod TSet.reset s.tsets (c * 4 + t) f }
/-- Core `n`. -/
def State.core (s : State) (n : Nat) : Core := mget (Core.reset n) s.cores n
/-- The state with a core changed. -/
def State.modCore (s : State) (n : Nat) (f : Core → Core) : State :=
  { s with cores := mmod (Core.reset n) s.cores n f }
/-- Cluster `n`. -/
def State.cluster (s : State) (n : Nat) : Cluster := mget {} s.clusters n
/-- The state with a cluster changed. -/
def State.modCluster (s : State) (n : Nat) (f : Cluster → Cluster) : State :=
  { s with clusters := mmod {} s.clusters n f }
/-- The thread set under execution. -/
def State.me (s : State) : TSet := s.tset s.curCore s.curTs
/-- The state with the thread set under execution changed. -/
def State.modMe (s : State) (f : TSet → TSet) : State := s.modTset s.curCore s.curTs f
/-- The core under execution. -/
def State.myCore (s : State) : Core := s.core s.curCore
/-- The state with the core under execution changed. -/
def State.modMyCore (s : State) (f : Core → Core) : State := s.modCore s.curCore f

/-- The cluster of a compute core (R211). -/
def clusterOf (core : Nat) : Nat := core / 16
/-- The die of a core: 32 clusters or 4 service cores to a die (R1, R211). -/
def dieOf (core : Nat) : Nat := if core < 1024 then core / 512 else (core - 1024) / 4
/-- Whether a core is a compute core. -/
def isCompute (core : Nat) : Bool := decide (core < Config.computeCores)

/-- Device time in ns: the 1 GHz time base beside the 2.25 GHz clock (R5). -/
def State.now (s : State) : Nat := s.periods * 4 / 9
/-- The cycle count of a core: periods less those its cluster lost to clock stretching (R5, R382). -/
def State.cycle (s : State) (core : Nat) : Nat :=
  s.periods - (if isCompute core then (s.cluster (clusterOf core)).lost else 0)

/-- A fresh unique number and the state after drawing it (log 5). -/
def State.fresh (s : State) : Nat × State := (s.uid, { s with uid := s.uid + 1 })
/-- A free value and the state after drawing it (log 4). -/
def State.freeWord (s : State) : Word × State := (Config.freeWord s.drawn, { s with drawn := s.drawn + 1 })
/-- The next choice of the environment below `n`, 0 when none is listed (log 3). -/
def State.choose (s : State) (n : Nat) : Nat × State :=
  match s.choices with
  | [] => (0, s)
  | k :: r => (if n = 0 then 0 else k % n, { s with choices := r })

/-! ## Registers -/

/-- The physical index of g register `i` at trap level `lvl` (R49). -/
def gIndex (lvl : Nat) (i : Nat) : Nat := if i < 28 then i else 28 + 4 * lvl + (i - 28)

/-- g register by physical index; g0 reads 0 (R45). -/
def TSet.gRaw (t : TSet) (k : Nat) : Word := if k = 0 then 0 else mget 0 t.g k
/-- g register `i` at the current trap level. -/
def TSet.readG (t : TSet) (i : Nat) : Word := t.gRaw (gIndex t.tlvl i)
/-- v register `i`. -/
def TSet.readV (t : TSet) (i : Nat) : Line := mget 0 t.v i
/-- Predicate `i`: p0 is all ones (R45). -/
def TSet.readP (t : TSet) (i : Nat) : Word := if i = 0 then BitVec.allOnes 64 else mget 0 t.p i
/-- Cursor `i`. -/
def TSet.readC (t : TSet) (i : Nat) : BitVec 25 := mget 0 t.c i

/-- The number of predicate `i`, and of cursor `i`, among the registers that parity covers (R354). -/
def predNum (i : Nat) : Nat := 40 + i
def cursorNum (i : Nat) : Nat := 48 + i
/-- The parity faults left after a write to a register by that number (R354). -/
def TSet.parAfter (t : TSet) (k : Nat) : BitVec 56 := t.gPar &&& ~~~(1#56 <<< k)

/-- A write to g by physical index: discarded for g0, and it clears an error mark and a parity fault
(R47, R55, R354). -/
def TSet.writeGRaw (t : TSet) (k : Nat) (x : Word) : TSet :=
  if k = 0 then t
  else { t with g := mset 0 t.g k x, gMark := mset none t.gMark k none, gPar := t.parAfter k }
/-- A write to g register `i` at the current trap level. -/
def TSet.writeG (t : TSet) (i : Nat) (x : Word) : TSet := t.writeGRaw (gIndex t.tlvl i) x
/-- A write to v register `i`. -/
def TSet.writeV (t : TSet) (i : Nat) (x : Line) : TSet :=
  { t with v := mset 0 t.v i x, vMark := mset none t.vMark i none, vPar := t.vPar &&& ~~~(1#32 <<< i) }
/-- An error mark on g register `i`, with the address its producer read (R55); g0 takes none. -/
def TSet.markG (t : TSet) (i : Nat) (a : Word) : TSet :=
  if i = 0 then t else { t with gMark := mset none t.gMark (gIndex t.tlvl i) (some a) }
/-- An error mark on v register `i`. -/
def TSet.markV (t : TSet) (i : Nat) (a : Word) : TSet := { t with vMark := mset none t.vMark i (some a) }
/-- A write to predicate `i`; p0 is not writable. -/
def TSet.writeP (t : TSet) (i : Nat) (x : Word) : TSet :=
  if i = 0 then t else { t with p := mset 0 t.p i x, gPar := t.parAfter (predNum i) }
/-- A write to cursor `i`: bits 19:18 read 0 (R48). -/
def TSet.writeC (t : TSet) (i : Nat) (x : BitVec 25) : TSet :=
  { t with c := mset 0 t.c i (x &&& 0x1F3FFFF#25), gPar := t.parAfter (cursorNum i) }

/-- Marks g (by physical index) empty; g0 never becomes empty (R47). -/
def TSet.emptyG (t : TSet) (k : Nat) : TSet := if k = 0 then t else { t with gEmpty := t.gEmpty ||| (1#40 <<< k) }
/-- Marks g full. -/
def TSet.fullG (t : TSet) (k : Nat) : TSet := { t with gEmpty := t.gEmpty &&& ~~~(1#40 <<< k) }
/-- Marks v empty. -/
def TSet.emptyV (t : TSet) (k : Nat) : TSet := { t with vEmpty := t.vEmpty ||| (1#32 <<< k) }
/-- Marks v full. -/
def TSet.fullV (t : TSet) (k : Nat) : TSet := { t with vEmpty := t.vEmpty &&& ~~~(1#32 <<< k) }

/-! ## Sources and destinations -/

/-- Why a meaning does not reach its next state: a precise trap, or a stall that keeps `s` (the requests the
instruction has made) and issues the instruction again. -/
inductive Stop where
  | trap (cause : Nat) (tval : Word)
  | stall (s : State)
  /-- The instruction completed and its exception was taken: the state after it, without hints (R31). -/
  | took (s : State)
  deriving DecidableEq, Repr

/-- A register source: its position (1 OD, 2 OA, 3 OB), its field, whether it is a v register, its physical
index or its number (`predNum`, `cursorNum`), and its TE bit. -/
structure Src where
  pos : Nat
  field : BitVec 24
  isV : Bool
  reg : Nat
  te : Bool
  deriving DecidableEq, Repr

/-- TVAL of a trap that names a position: [25:24] the position and [23:0] the field (R53). -/
def posTval (pos : Nat) (field : BitVec 24) : Word := (BitVec.ofNat 40 pos ++ field : Word)

/-- The register source of an operand. -/
def srcOf (t : TSet) (pos : Nat) (o : Operand) : List Src :=
  match o with
  | .g i te => [⟨pos, encodeField o, false, gIndex t.tlvl i.toNat, te⟩]
  | .v i te => [⟨pos, encodeField o, true, i.toNat, te⟩]
  | .p i => if i = 0 then [] else [⟨pos, encodeField o, false, predNum i.toNat, false⟩]
  | .c i _ _ => [⟨pos, encodeField o, false, cursorNum i.toNat, false⟩]
  | _ => []

/-- The sources of `n` consecutive g registers from the one in an operand. -/
def srcRange (t : TSet) (pos : Nat) (o : Operand) (n : Nat) : List Src :=
  match o with
  | .g i te => (List.range n).map (fun k => ⟨pos, encodeField o, false, gIndex t.tlvl (i.toNat + k), te⟩)
  | _ => []

/-- Whether a source register is empty (R52). -/
def TSet.isEmpty (t : TSet) (isV : Bool) (k : Nat) : Bool := if isV then t.vEmpty.getLsbD k else t.gEmpty.getLsbD k
/-- The key of a register in `late`. -/
def lateKey (isV : Bool) (k : Nat) : Nat := if isV then 64 + k else k
/-- Whether something of the thread set waits for the ordinary interlock at core cycle `now` (R52, R98). -/
def TSet.isLate (t : TSet) (key now : Nat) : Bool := decide (now < mget 0 t.late key)
/-- A result that can be read from core cycle `when_` on; g0 has none. -/
def TSet.setLate (t : TSet) (key when_ : Nat) : TSet := if key = 0 then t else { t with late := mset 0 t.late key when_ }
/-- Whether a register is locked (R57). -/
def TSet.isLocked (t : TSet) (isV : Bool) (k : Nat) : Bool := if isV then t.vLock.getLsbD k else t.gLock.getLsbD k
/-- The error a read of a register meets: an error mark with its address, or a parity fault (R55, R354). -/
def srcError (t : TSet) (x : Src) : Option Word :=
  match if x.isV then mget none t.vMark x.reg else mget none t.gMark x.reg with
  | some a => some a
  | none => if (if x.isV then t.vPar.getLsbD x.reg else t.gPar.getLsbD x.reg) then some (posTval x.pos x.field) else none

/-- Whether a register can be neither read nor written yet: it is empty, or its result is not ready (R53, R54, R98). -/
def TSet.isBusy (t : TSet) (now : Nat) (isV : Bool) (k : Nat) : Bool := t.isEmpty isV k || t.isLate (lateKey isV k) now

/-- The interlocks of an instruction's sources and destinations, in the order of positions: `EMPTY_READ`
for an empty source with TE, a stall for one without or whose result is not ready, `DATA_UC` for an error mark or parity fault, and a
stall for a destination that is empty, not ready or locked (R53 to R57, R98, R111, R354). `dsts` are physical registers. -/
def checkRegs (s : State) (t : TSet) (srcs : List Src) (dsts : List (Bool × Nat)) : Except Stop Unit :=
  let now := s.cycle s.curCore
  match srcs.find? (fun x => x.te && t.isEmpty x.isV x.reg) with
  | some x => .error (.trap 0x04 (posTval x.pos x.field))
  | none =>
    if srcs.any (fun x => t.isBusy now x.isV x.reg) then .error (.stall s)
    else
      match srcs.findSome? (srcError t) with
      | some a => .error (.trap 0x14 a)
      | none => if dsts.any (fun d => t.isBusy now d.1 d.2 || t.isLocked d.1 d.2) then .error (.stall s) else .ok ()

/-- The destination register of an operand. -/
def dstOf (t : TSet) (o : Operand) : List (Bool × Nat) :=
  match o with
  | .g i _ => [(false, gIndex t.tlvl i.toNat)]
  | .v i _ => [(true, i.toNat)]
  | _ => []

/-- The value of a scalar operand: a g register, a sign-extended immediate, a predicate (R62, R97). -/
def TSet.value (t : TSet) (o : Operand) : Word :=
  match o with
  | .g i _ => t.readG i.toNat
  | .i imm => imm.signExtend 64
  | .p i => t.readP i.toNat
  | _ => 0

/-- The register number an operand names. -/
def regOf (o : Operand) : Nat :=
  match o with
  | .g i _ => i.toNat
  | .v i _ => i.toNat
  | .p i => i.toNat
  | .c i _ _ => i.toNat
  | _ => 0

end Sys2Proof.Machine
end

