-- ==== Sys2Proof/Machine/Parts.lean ====
section
/-! DEFINITION. Contexts, partitions, clusters' counter banks and trace ports: where they are kept, which
observation is open, and the counting and noting of events (R311, R320, R359, R363 to R368). -/

namespace Sys2Proof.Machine

/-! ## Contexts, partitions, queues, dies -/

/-- A context. -/
def State.context (s : State) (ctx : Nat) : Option Context := mget none s.contexts ctx
/-- The state with a context changed, if it exists. -/
def State.modContext (s : State) (ctx : Nat) (f : Context → Context) : State :=
  { s with contexts := mmod none s.contexts ctx (fun c => c.map f) }
/-- A partition. -/
def State.partition (s : State) (p : Nat) : Partition := mget {} s.partitions p
/-- The state with a partition changed. -/
def State.modPartition (s : State) (p : Nat) (f : Partition → Partition) : State :=
  { s with partitions := mmod {} s.partitions p f }
/-- A work queue. -/
def State.queue (s : State) (q : Nat) : Queue := mget {} s.queues q
/-- The state with a queue changed. -/
def State.modQueue (s : State) (q : Nat) (f : Queue → Queue) : State := { s with queues := mmod {} s.queues q f }
/-- A die. -/
def State.die (s : State) (d : Nat) : Die := mget {} s.dies d
/-- The state with a die changed. -/
def State.modDie (s : State) (d : Nat) (f : Die → Die) : State := { s with dies := mmod {} s.dies d f }
/-- A Prakeric port. -/
def State.port (s : State) (n : Nat) : Port := mget {} s.ports n
/-- The state with a port changed. -/
def State.modPort (s : State) (n : Nat) (f : Port → Port) : State := { s with ports := mmod {} s.ports n f }

/-- A packet of a kind to a node, with its header (R378, Table 23.5). -/
def packetTo (node kind partition : Nat) (cookie : Word) (bytes : List Byte) : Output :=
  .packet (Config.portOf node) ⟨cookie, bytes.length % 4096, partition, node, Config.ownNode, kind⟩ bytes
/-- The port that a page of a peer is reached by. -/
def peerPort (pa : Nat) : Nat := Config.portOf (Config.peerNode pa)
/-- A peer-memory access of `len` bytes under a cookie (R378). -/
def peerAccess (kind n len partition : Nat) (owner : Option (BitVec 20)) (va pa : Nat) (bytes : List (Nat × Byte))
    (op : Option (Nat × Nat × Word × Word)) : Output :=
  .peer (peerPort pa) ⟨BitVec.ofNat 64 n, len, partition, Config.peerNode pa, Config.ownNode, kind⟩ owner va pa bytes op
/-- The CXL port that maps a physical address (R377); 4 for none. -/
def State.cxlPort (s : State) (pa : Nat) : Nat :=
  ((s.cxl.find? (fun m => decide (m.2.1 ≤ pa) && decide (pa < m.2.1 + m.2.2))).map (·.1)).getD 4

/-- The partition of a context; 0 when it does not exist. -/
def State.partitionOf (s : State) (ctx : Nat) : Nat := ((s.context ctx).map (·.partition)).getD 0
/-- The partition that holds a cluster (R311). -/
def State.clusterOwner (s : State) (c : Nat) : Option Nat :=
  (s.partitions.find? (fun p => p.2.made && p.2.clusters.contains c)).map (·.1)
/-- Whether a context has system privilege (R95). -/
def State.isSystem (s : State) (ctx : Nat) : Bool := ((s.context ctx).map (·.sys)).getD false
/-- The context of a thread set: its activation's, else the core's resident one. -/
def State.ctxOf (s : State) (c t : Nat) : Nat :=
  match (s.tset c t).act with
  | some a => a.msg.ctx.toNat
  | none => ((s.core c).ctx.getD 0).toNat
/-- The context under execution. -/
def State.myCtx (s : State) : Nat := s.ctxOf s.curCore s.curTs
/-- The partition of the thread set under execution. -/
def State.myPartition (s : State) : Nat := s.partitionOf s.myCtx

/-- Whether a context may run on a core: a compute core of its partition's clusters, or a service core under system
privilege (R165, R224). -/
def contextMayRun (s : State) (ctx core : Nat) : Bool :=
  if isCompute core then (s.partition (s.partitionOf ctx)).clusters.contains (clusterOf core)
  else decide (core ≤ Config.maxCore) && s.isSystem ctx

/-- The bring-up offset of a core's function (R381). -/
def readyOffset (core : Nat) : Nat := if isCompute core then clusterOf core else 0x68 + (core - 1024)
/-- Whether a function is READY (R381). -/
def State.isReady (s : State) (offset : Nat) : Bool := (mget 0 s.ready offset).getLsbD 0

/-- Whether a Prakeric port passes packets: it is READY and its link is not down (R378, R381). -/
def portUp (s : State) (port : Nat) : Bool := decide (port < 16) && !(s.port port).down && s.isReady (0x50 + port)
/-- Whether the host port answers: it is READY, and the Device Security Manager runs (R373, R381). -/
def hostUp (s : State) : Bool := ((s.die 0).verified || (s.die 1).verified) && s.isReady 0x60

/-- An access of a path by the thread set under execution stalls while an `XFENCE` of another thread set of the core holds
back that path: 0 CORE, 1 ANVIL, 2 STREAM, 3 POOL, 4 MAILBOX, 5 FABRIC (R155). -/
def needPath (s : State) (path : Nat) : Except Stop Unit :=
  if s.myCore.xfences.any (fun x => x.ts != s.curTs && x.to_.getLsbD path) then .error (.stall s) else .ok ()

/-! ## Features -/

/-- Whether a partition's observation feature is open (R359). -/
def featureOpen (s : State) (p bit : Nat) : Bool :=
  match (s.partition p).tdi with
  | .unlocked => (s.partition p).opened.getLsbD bit
  | .running =>
    match (s.partition p).policy with
    | some (f, expiry) => f.getLsbD bit && decide (s.now < expiry)
    | none => false
  | _ => false

/-! ## Counter banks -/

/-- The event catalogue of this part (Table 22.4). -/
def knownEvents : List Nat :=
  [0x0001, 0x0002, 0x0003, 0x0004, 0x0005, 0x0006, 0x0007, 0x1001, 0x1002, 0x1003, 0x1004, 0x2001, 0x2002, 0x2003,
   0x3001, 0x3002, 0x3003, 0x4001, 0x5001, 0x5002, 0x5003, 0x6001, 0x7001]

/-- Whether a bank counts the events of a cluster: its holder's own partition, or, for the PF, one whose HOSTOBS is
open (R365). -/
def bankCounts (s : State) (c : Nat) : Bool :=
  match (s.cluster c).holder, s.clusterOwner c with
  | some 0, some p => featureOpen s p 4
  | some n, some p => n == p
  | _, _ => false

/-- A count plus `n`: 48 bits that wrap, with a sticky OVF (Table 22.3). -/
def addCount (w : Word) (n : Nat) : Word :=
  let t := (w.extractLsb' 0 48).toNat + n
  (w &&& 0xFFFF000000000000) ||| (BitVec.ofNat 48 t).setWidth 64 ||| (if 2 ^ 48 ≤ t then 1#64 <<< 62 else 0)

/-- `n` events of an ID at a cluster (R364). -/
def countEvent (s : State) (c id n : Nat) : State :=
  if n = 0 || !bankCounts s c then s
  else
    (List.range 8).foldl (fun s k =>
      let sel := mget 0 (s.cluster c).counters (0x108 + k)
      if sel.getLsbD 16 && (sel.extractLsb' 0 16).toNat == id && knownEvents.contains id then
        s.modCluster c (fun u => { u with counters := mmod 0 u.counters (0x100 + k) (fun w => addCount w n) })
      else s) s

/-- The same at a core's cluster; service cores have none. -/
def countAt (s : State) (core id n : Nat) : State := if isCompute core then countEvent s (clusterOf core) id n else s

/-- Issue slots of a core that are taken, as the count of idle ones needs them (R364). -/
def slotsTaken (s : State) (core n : Nat) : State :=
  if isCompute core && (s.cluster (clusterOf core)).holder.isSome then
    s.modCluster (clusterOf core) (fun u => { u with issued := u.issued + n })
  else s

/-- A counter register of a core's cluster as `MFS` reads it (Table 22.3): an ID that is not in the table reads 0 with ABSENT. -/
def counterValue (s : State) (core num : Nat) : Word :=
  let c := (s.cluster (clusterOf core)).counters
  if num < 0x108 then
    let sel := mget 0 c (num + 8)
    if !knownEvents.contains (sel.extractLsb' 0 16).toNat then 1#64 <<< 63 else mget 0 c num
  else mget 0 c num

/-! ## Trace ports -/

/-- Bytes of a word, least significant first. -/
def wordBytes (w : Word) : List Byte := (List.range 8).map (fun k => w.extractLsb' (8 * k) 8)

/-- The message ID of a message (R210). -/
def Msg.id (m : Msg) : Word := ((m.score ++ m.seq : BitVec 27)).setWidth 64

/-- The trace word P of an activation's message, core and thread set (R368). -/
def traceP (m : Msg) (core ts : Nat) : Word :=
  ((m.id &&& 0x3FFFFFF) ||| (BitVec.ofNat 10 core).setWidth 64 <<< 26) ||| (BitVec.ofNat 2 ts).setWidth 64 <<< 36

/-- An event at a core's trace port, if its die's trace unit has a holder that may trace the cluster's partition
(R365, R367). -/
def emitTrace (s : State) (core kind : Nat) (words : List Word) : State :=
  if isCompute core then
    let c := clusterOf core
    let traced := match (s.die (dieOf core)).traceHolder, s.clusterOwner c with
      | some 0, some p => featureOpen s p 4
      | some n, some p => n == p
      | _, _ => false
    if traced then s.modCluster c (fun u => { u with traceQ := u.traceQ ++ [⟨kind, words.flatMap wordBytes⟩] }) else s
  else s

end Sys2Proof.Machine
end

