-- ==== Sys2Proof/Machine/Bytes.lean ====
section
/-! DEFINITION. Bytes of lines, and the scratchpads as storage (R3, R48, R58, R60, R226). -/

namespace Sys2Proof.Machine

/-! ## Lines and bytes -/

/-- Byte `k` of a line (R3). -/
def lineByte (l : Line) (k : Nat) : Byte := l.extractLsb' (8 * k) 8
/-- A line with byte `k` replaced. -/
def setLineByte (l : Line) (k : Nat) (b : Byte) : Line :=
  (l &&& ~~~((0xFF#512) <<< (8 * k))) ||| (b.setWidth 512 <<< (8 * k))
/-- A line with bytes replaced, the later entries of the list last. -/
def setLineBytes (l : Line) (bs : List (Nat × Byte)) : Line := bs.foldl (fun l x => setLineByte l x.1 x.2) l
/-- The `n` bytes of a value, least significant first. -/
def bytesOf (n : Nat) (x : Nat) : List Byte := (List.range n).map (fun k => BitVec.ofNat 8 (x / 2 ^ (8 * k)))
/-- The value of bytes, least significant first. -/
def natOfBytes (bs : List Byte) : Nat := bs.foldr (fun b acc => b.toNat + 256 * acc) 0

/-- A number put into an ascending list without repeats. -/
def insertUniq (x : Nat) : List Nat → List Nat
  | [] => [x]
  | y :: r => if x < y then x :: y :: r else if x = y then y :: r else y :: insertUniq x r

/-! ## Scratchpad addresses -/

/-- A scratchpad access: the core it reaches, whether in the remote form, and the 18-bit address (R58). -/
structure SAddr where
  core : Nat
  remote : Bool
  addr : Nat
  deriving DecidableEq, Repr

/-- The scratchpad address of a value in cursor form: bits 17:0, bit 24 remote, bits 23:20 the core (R48, R137). A
service core has no cluster, so its remote form reaches its own scratchpad (log 9). -/
def saddrOf (core : Nat) (x : BitVec 25) : SAddr :=
  let remote := x.getLsbD 24
  ⟨if remote && isCompute core then clusterOf core * 16 + (x.extractLsb' 20 4).toNat else core, remote,
   (x.extractLsb' 0 18).toNat⟩

/-- Whether an access of `n` bytes meets bank 3 or the fork deque (R58, R226). -/
def scratchRefused (addr n : Nat) : Bool :=
  decide (0x30000 ≤ addr) || (decide (addr < 0x30000) && decide (0x2F000 < addr + n))

/-- A line of a scratchpad. -/
def State.scratchLine (s : State) (core line : Nat) : Line := mget 0 s.scratch (core * 3072 + line)
/-- A byte of a scratchpad. -/
def State.scratchByte (s : State) (core addr : Nat) : Byte := lineByte (s.scratchLine core (addr / 64)) (addr % 64)
/-- The `n` bytes at an address, as a number; a read does not cross a line. -/
def State.scratchRead (s : State) (core addr n : Nat) : Nat :=
  natOfBytes ((List.range n).map (fun k => s.scratchByte core (addr + k)))
/-- A byte `b` of a scratchpad with queued writes over it, the youngest last (R250). -/
def overQueued (q : List Queued) (core addr : Nat) (b : Byte) : Byte :=
  q.foldl (fun b e => match e.w with
    | .scratch c bs _ _ => if c = core then ((bs.reverse.find? (fun x => x.1 == addr)).map (·.2)).getD b else b
    | _ => b) b
/-- A byte of a scratchpad with the queued writes of a thread set over what has landed (R250). -/
def State.queuedByte (s : State) (q : List Queued) (core addr : Nat) : Byte := overQueued q core addr (s.scratchByte core addr)
/-- `n` such bytes as a number. -/
def State.queuedRead (s : State) (q : List Queued) (core addr n : Nat) : Nat :=
  natOfBytes ((List.range n).map (fun k => s.queuedByte q core (addr + k)))

/-- Tests the watches of a core's banks after a write of lines there: those of the context whose bytes the banks hold, on words of these
lines (R170, R225). -/
def testBankWatches (s : State) (core : Nat) (lines : List Nat) : State :=
  { s with bankWatches := s.bankWatches.map (fun b => match b.watch with
    | some w =>
      let x : Word := BitVec.ofNat 64 (s.scratchRead b.core (w.at_ % 2 ^ 18) 8)
      if b.core = core && (s.core core).ctx == some b.ctx && lines.contains (w.at_ % 2 ^ 18 / 64) && w.fired.isNone && x != w.comparand then
        { b with watch := some { w with fired := some x } }
      else b
    | none => b) }

/-- A write of lines by a stream engine, the pool or another core has landed: it is noted, as a write of the core itself to the bank in the
same cycle would have gone first (R60), and the watches are tested. -/
def foreignLanded (s : State) (core : Nat) (lines : List Nat) : State :=
  testBankWatches { s with bankPort := lines.foldl (fun m l => mset 0 m (core * 3 + l / 1024) (s.cycle core + 1)) s.bankPort } core lines
/-- Whether such a write has landed in this cycle at a bank of some bytes. -/
def portTaken (s : State) (core : Nat) (bs : List (Nat × Byte)) : Bool :=
  bs.any (fun b => mget 0 s.bankPort (core * 3 + b.1 / 65536) == s.cycle core + 1)

/-- Whether any of some bytes of a scratchpad stands in a word with an uncorrectable error (R353). -/
def State.scratchBad (s : State) (core : Nat) (addrs : List Nat) : Bool :=
  addrs.any (fun a => mget false s.sramBad (core * 24576 + a / 8))
/-- Words written whole hold no error any more. -/
def State.mendWords (s : State) (core : Nat) (bs : List (Nat × Byte)) : State :=
  { s with sramBad := s.sramBad.filter (fun x => !(List.range 8).all (fun k => bs.any (fun b => core * 196608 + b.1 == x.1 * 8 + k))) }

/-- Bytes written at a bank at once: the write lands (R60), and the watches of the banks are tested. -/
def State.scratchLand (s : State) (core : Nat) (bs : List (Nat × Byte)) : State :=
  let s := s.mendWords core bs
  testBankWatches (bs.foldl (fun (s : State) (x : Nat × Byte) =>
    { s with scratch := mmod 0 s.scratch (core * 3072 + x.1 / 64) (fun l => setLineByte l (x.1 % 64) x.2) }) s) core (bs.map (·.1 / 64))
/-- A number written at a bank at once. -/
def State.scratchWrite (s : State) (core addr n x : Nat) : State :=
  s.scratchLand core ((List.range n).zip (bytesOf n x) |>.map (fun p => (addr + p.1, p.2)))

end Sys2Proof.Machine
end

