-- ==== Sys2Proof/Machine/Memory.lean ====
section
/-! DEFINITION. Global memory: homes (R249, R330), rights checks (R323, R324), translation (R331, R332), the
cluster cache (R235 to R238) and publication (R142), watches at the homes (R154), held writes (R337). -/

namespace Sys2Proof.Machine

/-! ## Homes -/

/-- A byte of physical memory. -/
def State.homeByte (s : State) (pa : Nat) : Byte := mget unwritten s.home pa
/-- `n` bytes of physical memory as a number. -/
def State.homeRead (s : State) (pa n : Nat) : Nat :=
  natOfBytes ((List.range n).map (fun k => s.homeByte (pa + k)))
/-- A line of physical memory. -/
def State.homeLine (s : State) (pa : Nat) : Line := BitVec.ofNat 512 (s.homeRead pa 64)

/-- A watch tested against its word: an armed one that has not fired fires when the word differs (R154). -/
def testWatch (s : State) (w : HomeWatch) : HomeWatch :=
  let x : Word := BitVec.ofNat 64 (s.homeRead w.pa 8)
  if w.armed && w.fired.isNone && w.tier == 0 && x != w.comparand then { w with fired := some x } else w

/-- Bytes written at their home: they are published, and the watches of their words are tested (R249, R154); a unit written whole
holds no error any more (R353). -/
def State.homeWriteBytes (s : State) (bs : List (Nat × Byte)) : State :=
  let s := { s with home := bs.foldl (fun (m : Memory) (b : Nat × Byte) => mset unwritten m b.1 b.2) s.home,
                    eccBad := s.eccBad.filter (fun e => !(List.range 64).all (fun k => bs.any (fun b => b.1 == e.1 * 64 + k))) }
  { s with watches := s.watches.map (testWatch s) }
/-- A number of `n` bytes written at its home. -/
def State.homeWrite (s : State) (pa n x : Nat) : State :=
  s.homeWriteBytes (((List.range n).zip (bytesOf n x)).map (fun p => (pa + p.1, p.2)))

/-- The key of a page's data at its controller, with its rotations (R376): none for host and peer memory, which the device does not
encrypt. DESIGN CHOICE (log 70): an access under key 0, of the device's own tables or through the window of R330, reads and writes a unit
under the key it stands under. -/
def keyAt (s : State) (x : Xlat) : Option (Nat × Nat) :=
  if x.key = 0 ∨ 2 ≤ x.tier then none else some (x.key, mget 0 s.rotations x.key)

/-- Whether a unit reads as it was written: by the key and rotation that wrote it, or, where no key has, while its key has not rotated. -/
def keyStands (s : State) (x : Xlat) : Bool :=
  match keyAt s x with
  | none => true
  | some k => mget (0, 0) s.under (x.pa / 64) == k || (mget (0, 0) s.under (x.pa / 64) == (0, 0) && k.2 == 0)

/-- The line of an address at its home as its page's key reads it (R376). -/
def State.lineAt (s : State) (x : Xlat) : Line :=
  let l := s.homeLine (x.pa / 64 * 64)
  if keyStands s x then l
  else
    let k := (keyAt s x).getD (0, 0)
    let o := mget (0, 0) s.under (x.pa / 64)
    Config.recrypt o.1 o.2 k.1 k.2 (x.pa / 64) l

/-- `n` bytes of a line at their home as the page's key reads them. -/
def State.readAt (s : State) (x : Xlat) (n : Nat) : Nat :=
  if keyStands s x then s.homeRead x.pa n
  else (s.lineAt x).toNat / 2 ^ (8 * (x.pa % 64)) % 2 ^ (8 * n)

/-- A unit made one of its page's key before a write under it: what it read as before stands, under that key. -/
def State.rekeyed (s : State) (x : Xlat) : State :=
  match keyAt s x with
  | none => s
  | some k =>
    let s := if keyStands s x then s
      else s.homeWriteBytes ((List.range 64).map (fun j => (x.pa / 64 * 64 + j, BitVec.ofNat 8 ((s.lineAt x).toNat / 2 ^ (8 * j)))))
    { s with under := mset (0, 0) s.under (x.pa / 64) k }

/-- Bytes of a line written at their home under the page's key. -/
def State.writeAt (s : State) (x : Xlat) (bs : List (Nat × Byte)) : State := (s.rekeyed x).homeWriteBytes bs

/-- A number of `n` bytes of a line written at its home under the page's key. -/
def State.putAt (s : State) (x : Xlat) (n v : Nat) : State := (s.rekeyed x).homeWrite x.pa n v

/-- Whether a physical address lies in a 64-byte unit with an uncorrectable error (R353). -/
def State.eccFails (s : State) (pa : Nat) : Bool := mget false s.eccBad (pa / 64)

/-- Counts a request that reaches the home agent of a page with AC = 1 (R334). -/
def countRequest (s : State) (va : Nat) (x : Xlat) : State :=
  if x.ac && (x.tier == 1 || x.tier == 2) then { s with countQ := s.countQ ++ [(va / 65536, x.tier)] } else s

/-! ## Rights -/

/-- A rights entry of an owner as a cache holds it. -/
def plbOf (owner : BitVec 20) (e : REntry) : PlbEntry :=
  ⟨owner, e.gid, e.base, e.len * 64, e.gen, e.rights, e.quar⟩

/-- Whether an entry is a cover of bytes [ea, ea + n) (R323). -/
def PlbEntry.covers (e : PlbEntry) (owner : BitVec 20) (ea n : Nat) : Bool :=
  e.owner == owner && decide (e.base ≤ ea) && decide (ea + n ≤ e.base + e.size)

/-- Whether a cover lets an access pass: unquarantined, of the pointer's generation, with every right; a fetch
compares no generation and needs X (R34, R323). -/
def PlbEntry.passes (e : PlbEntry) (gen : BitVec 7) (need : BitVec 5) (fetch : Bool) : Bool :=
  !e.quarantined && (fetch || e.gen == gen) && (e.rights &&& need) == need

/-- The rights R, W, X, A and G by their bits in RT (R157). -/
def rightR : BitVec 5 := 1
/-- W. -/
def rightW : BitVec 5 := 2
/-- X. -/
def rightX : BitVec 5 := 4
/-- A. -/
def rightA : BitVec 5 := 8
/-- G. -/
def rightG : BitVec 5 := 16

/-- The entries of an owner's table. -/
def State.ownerEntries (s : State) (owner : BitVec 20) : List REntry :=
  ((mget none s.owners owner.toNat).map (·.entries)).getD []

/-- The decision of R323 over an owner's table: none when the access passes, else its trap cause. For a fetch the
covers are those that hold X (R34). A pointer of generation 127 fails every check (R319). -/
def rightsDecision (es : List PlbEntry) (owner : BitVec 20) (gen : BitVec 7) (ea n : Nat) (need : BitVec 5)
    (fetch : Bool) : Option Nat :=
  let covers := es.filter (fun e => e.covers owner ea n && (!fetch || (e.rights &&& need) == need))
  if !fetch && gen == 127 then some 0x13
  else if covers.any (fun e => e.passes gen need fetch) then none
  else if !covers.isEmpty && covers.all (fun e => e.quarantined || (!fetch && e.gen != gen)) then some 0x13
  else some 0x12

/-- The same over the owner's table at home. -/
def tableDecision (s : State) (owner : BitVec 20) (gen : BitVec 7) (ea n : Nat) (need : BitVec 5) (fetch : Bool) : Option Nat :=
  rightsDecision ((s.ownerEntries owner).map (plbOf owner)) owner gen ea n need fetch

/-! ## Translation -/

/-- The page size a leaf gives at a level (Table 18.5). -/
def pageSize (level : Nat) : Nat := 2 ^ (match level with | 2 => 30 | 1 => 21 | _ => 16)

/-- The index of a virtual address at a level (Table 18.5). -/
def levelIndex (va level : Nat) : Nat :=
  match level with
  | 0 => va / 2 ^ 16 % 32
  | l + 1 => va / 2 ^ (21 + 9 * l) % 512

/-- The translation of a leaf. -/
def leafXlat (pte : Word) (pteAddr level : Nat) : Option TlbEntry :=
  let frame := pte.toNat / 65536
  if frame * 65536 % pageSize level = 0 ∧ frame < Config.frames then
    some ⟨0, pageSize level, ⟨frame * 65536, (pte.extractLsb' 4 2).toNat, (pte.extractLsb' 6 7).toNat,
      pte.getLsbD 1, pte.getLsbD 2, pte.getLsbD 3, pteAddr⟩⟩
  else none

/-- What one table entry gives at a level (R331): none for `XLATE`, else whether it is a leaf. -/
def pteKind (pte : Word) (level : Nat) : Option Bool :=
  let g1 := pte.getLsbD 14
  let m2 := pte.getLsbD 13
  if !pte.getLsbD 0 || pte.getLsbD 15 || (g1 && m2) || (g1 && level != 2) || (m2 && level != 1) then none
  else some (level == 0 || g1 || m2)

/-- The walk of R331 from a table at a level; none is `XLATE`. Tables are read at their home. -/
def walkFrom (s : State) (va : Nat) : Nat → Nat → Option TlbEntry
  | 0, table =>
    let at_ := table + 8 * levelIndex va 0
    let pte : Word := BitVec.ofNat 64 (s.homeRead at_ 8)
    (pteKind pte 0).bind (fun _ => leafXlat pte at_ 0)
  | l + 1, table =>
    let at_ := table + 8 * levelIndex va (l + 1)
    let pte : Word := BitVec.ofNat 64 (s.homeRead at_ 8)
    match pteKind pte (l + 1) with
    | none => none
    | some true => leafXlat pte at_ (l + 1)
    | some false => if pte.toNat / 65536 < Config.frames then walkFrom s va l (pte.toNat / 65536 * 65536) else none

/-- The translation of a virtual address: the window of R330, or a walk from the root (R331). -/
def translate (s : State) (va : Nat) : Option TlbEntry :=
  if Config.systemWindow ≤ va then
    some ⟨va / 65536 * 65536, 65536, { pa := va / 65536 * 65536 - Config.systemWindow }⟩
  else (walkFrom s va 4 (s.pgroot.toNat / 65536 * 65536)).map (fun e => { e with vbase := va / e.size * e.size })

/-- The translation of an address inside a TLB entry's page. -/
def TlbEntry.at_ (e : TlbEntry) (va : Nat) : Xlat := { e.x with pa := e.x.pa + (va - e.vbase) }

/-- Whether an address lies in a TLB entry's page. -/
def TlbEntry.holds (e : TlbEntry) (va : Nat) : Bool := decide (e.vbase ≤ va) && decide (va < e.vbase + e.size)

/-- The translation of an address for a unit that translates at once (engines, device units). -/
def xlatOf (s : State) (va : Nat) : Option Xlat := (translate s va).map (fun e => e.at_ va)

/-! ## The checks of an access at issue (R138) -/

/-- The address of a pointer. -/
def ptrAddr (p : Word) : Nat := (p.extractLsb' 0 57).toNat
/-- The generation of a pointer. -/
def ptrGen (p : Word) : BitVec 7 := p.extractLsb' 57 7

/-- The rights check of a core access (R138, R324): a PLB cover that passes, the outcome of a walk already
made for it, or a stall until the walk is done. -/
def checkRights (s : State) (ea : Word) (n : Nat) (need : BitVec 5) (fetch : Bool) : Except Stop Unit :=
  let owner := s.me.owner
  if (s.myCore.plb.any (fun e => e.covers owner (ptrAddr ea) n && e.passes (ptrGen ea) need fetch)) &&
      (fetch || ptrGen ea != 127) then .ok ()
  else
    let ask : Except Stop Unit := .error (.stall (s.modMe (fun t => { t with walk := .rights owner ea n need fetch })))
    match s.me.walk with
    | .failed cause va => if va = ea ∧ cause ≠ 0x10 then .error (.trap cause ea) else ask
    | _ => ask

/-- The translation of a core access: an L1 TLB entry, the outcome of a walk, or a stall until the walk. -/
def checkXlat (s : State) (ea : Word) : Except Stop Xlat :=
  match s.myCore.tlb.find? (fun e => e.holds (ptrAddr ea)) with
  | some e => .ok (e.at_ (ptrAddr ea))
  | none =>
    let ask : Except Stop Xlat := .error (.stall (s.modMe (fun t => { t with walk := .page ea })))
    match s.me.walk with
    | .failed cause va => if va = ea ∧ cause = 0x10 then .error (.trap 0x10 ea) else ask
    | _ => ask

/-- The checks 2 and 4 to 6 of Table 8.1 for a global access of `n` bytes: alignment, rights, translation. -/
def checkAccess (s : State) (ea : Word) (n align : Nat) (need : BitVec 5) : Except Stop Xlat :=
  if ea.toNat % align ≠ 0 then .error (.trap 0x05 ea)
  else
    match checkRights s ea n need false with
    | .error e => .error e
    | .ok _ =>
      match checkXlat s ea with
      | .error e => .error e
      | .ok x => (needPath s 0).map (fun _ => x)

/-- A list with its elements of a property last, in their order: as those used most recently. -/
def touchLast {α : Type} (p : α → Bool) (l : List α) : List α := l.filter (fun x => !p x) ++ l.filter p

/-- The lookups of an access of the thread set under execution that has passed its checks leave its PLB and L1 TLB entries the most
recently used: each list stands in the order of last use (R324, R332). -/
def State.used (s : State) (ea : Word) (n : Nat) (need : BitVec 5) (fetch : Bool) : State :=
  s.modMyCore (fun c => { c with
    plb := touchLast (fun e => e.covers s.me.owner (ptrAddr ea) n && e.passes (ptrGen ea) need fetch) c.plb
    tlb := touchLast (fun e => e.holds (ptrAddr ea)) c.tlb })

/-! ## The cluster cache -/

/-- The cache a core uses: its cluster's; a service core belongs to no cluster and uses one of its die (log 9). -/
def cacheOf (core : Nat) : Nat := if isCompute core then clusterOf core else 64 + dieOf core
/-- The number of a core within its cache's dirtying-cores field. -/
def dcBit (core : Nat) : Nat := if isCompute core then core % 16 else (core - 1024) % 4

/-- The cached line of a line address. -/
def Cluster.find (c : Cluster) (va : Nat) : Option CacheLine := c.lines.find? (fun l => l.va == va / 64 * 64)
/-- The set of a line address: 2,048 sets of 16 ways (R235). -/
def setOf (va : Nat) : Nat := va / 64 % 2048

/-- The pseudo-LRU tree after a use of a way: the nodes on its path point away from it (R237). -/
def plruTouch (tree : BitVec 16) (way : Nat) : BitVec 16 :=
  let step := fun (p : BitVec 16 × Nat) (d : Nat) =>
    let bit := way.testBit d
    let m := 1#16 <<< p.2
    (if bit then p.1 &&& ~~~m else p.1 ||| m, 2 * p.2 + (if bit then 1 else 0))
  ([3, 2, 1, 0].foldl step (tree, 1)).1
/-- The way the tree points to. -/
def plruVictim (tree : BitVec 16) : Nat :=
  let step := fun (p : Nat × Nat) (_ : Nat) =>
    let b := if tree.getLsbD p.1 then 1 else 0
    (2 * p.1 + b, 2 * p.2 + b)
  ([3, 2, 1, 0].foldl step (1, 0)).2

/-- A cache with one line replaced by its address. -/
def Cluster.put (c : Cluster) (l : CacheLine) : Cluster :=
  if c.lines.any (fun x => x.va == l.va) then { c with lines := c.lines.map (fun x => if x.va == l.va then l else x) }
  else { c with lines := c.lines ++ [l] }

/-- A line without its cached copy. -/
def Cluster.drop (c : Cluster) (va : Nat) : Cluster := { c with lines := c.lines.filter (fun l => l.va != va / 64 * 64) }

/-- The bytes of some words of a line. -/
def wordBits (m : BitVec 8) : BitVec 64 :=
  BitVec.ofNat 64 (((List.range 8).map (fun k => if m.getLsbD k then 255 * 2 ^ (8 * k) else 0)).sum)

/-- The words of a line that have a byte among some. -/
def bitWords (h : BitVec 64) : BitVec 8 :=
  BitVec.ofNat 8 (((List.range 8).map (fun k => if h.extractLsb' (8 * k) 8 = 0 then 0 else 2 ^ k)).sum)

/-- The words of a line that cannot be written back: found uncorrectable, or with bytes that no fill has brought (R353). -/
def lostWords (l : CacheLine) : BitVec 8 := l.bad ||| bitWords l.hole

/-- The dirty words of a line as bytes at their home, those that cannot be written back apart. -/
def dirtyBytes (l : CacheLine) : List (Nat × Byte) :=
  (List.range 64).filterMap (fun k =>
    if l.dw.getLsbD (k / 8) && !(lostWords l).getLsbD (k / 8) then some (l.x.pa + k, lineByte l.data k) else none)

/-- Events of a cluster cache: hits, misses, write-backs (Table 22.4). -/
def countCache (s : State) (c id : Nat) : State := if c < Config.clusters then countEvent s c id 1 else s
/-- Where an engine of the pool, a mailbox or a port stands among the units that reach homes (log 12). -/
def engineCache (e : Nat) : Nat := 66 + e
/-- The mailbox's number among the units that read and write homes, after the pool engines. -/
def mailUnit (fn : Nat) : Nat := 200 + fn
/-- The partition of a lease slot (R313). -/
def leasePartition (key : Nat) : Nat := key / 32 % 65

/-- The partition for which a unit reaches a peer: its cluster's, that of the slot an engine is bound to, a mailbox's function, and for a
service core's cache the one that has the page's key. -/
def peerPartition (s : State) (c : Nat) (x : Xlat) : Nat :=
  if c < 64 then (s.clusterOwner c).getD 0
  else if c < 66 then ((s.partitions.find? (fun p => p.2.made && p.2.keys.contains x.key)).map (·.1)).getD 0
  else if c < engineCache (mailUnit 0) then (((mget {} s.engines (c - 66)).slot).map leasePartition).getD 0
  else if c ≤ engineCache (mailUnit 64) then c - engineCache (mailUnit 0)
  else 0

/-- A request that reaches the home of a page (R334, Table 22.4): at an HBM channel an event of the cluster that makes it; of an engine or a
mailbox, which stand in no cluster, one of every cluster of its partition (log 23). -/
def homeRequest (s : State) (c va : Nat) (x : Xlat) : State :=
  let s := countRequest s va x
  if x.tier != 0 then s
  else if c < Config.clusters then countEvent s c 0x6001 1
  else (s.partition (peerPartition s c x)).clusters.foldl (fun s k => countEvent s k 0x6001 1) s

/-- Whether a store that left a cache for a peer is not answered yet (R255). -/
def storesAway (s : State) (c : Nat) : Bool := s.peerStores.any (fun p => p.cache == c)

/-- Bytes written at the home of a page: at a peer, a STORE packet whose answer is awaited (R142, R255, R378). -/
def writeHome (s : State) (c va : Nat) (x : Xlat) (bs : List (Nat × Byte)) : State :=
  if x.tier = 3 then
    let (n, s) := s.fresh
    let p := peerPartition s c x
    { s with out := s.out ++ [peerAccess 1 n bs.length p none va x.pa (bs.map (fun b => (b.1 - x.pa, b.2))) none],
             peerStores := s.peerStores ++ [⟨c, n, peerPort x.pa, p⟩] }
  else homeRequest (s.writeAt x bs) c va x

/-- A line after its write-back: DW and DC are cleared; of a word that could not be written back the home keeps the older value,
and the cache nothing (R236, R353). -/
def CacheLine.cleaned (l : CacheLine) : CacheLine :=
  { l with dw := 0, dc := 0, wrote := [], bad := l.bad &&& ~~~l.dw, hole := l.hole ||| wordBits (lostWords l &&& l.dw) }

/-- The write-back of one line (R236): every dirty word at the home, but for words found uncorrectable (R353). -/
def writeBackOne (s : State) (c : Nat) (l : CacheLine) : State :=
  if l.dw = 0 then s
  else
    let s := if (dirtyBytes l).isEmpty then s else writeHome (countCache s c 0x3003) c l.va l.x (dirtyBytes l)
    s.modCluster c (fun k => k.put l.cleaned)

/-- Whether some core wrote host line `n` before its last write of host line `m`, both still to be published (R254). -/
def wroteBefore (n m : CacheLine) : Bool :=
  n.x.tier == 2 && m.wrote.any (fun w => n.wrote.any (fun v => v.1 == w.1 && decide (v.2.1 < w.2.2)))

/-- The host lines that have to be published with those of a list, earlier writes first. -/
def withEarlier (ls : List CacheLine) : Nat → List CacheLine → List CacheLine
  | 0, acc => acc
  | k + 1, acc =>
    match ls.find? (fun n => !acc.any (fun m => m.va == n.va) && acc.any (wroteBefore n)) with
    | some n => withEarlier ls k (n :: acc)
    | none => acc

/-- A write-back. A host line takes with it the host lines that its dirtying cores wrote earlier, so that each core's dirty words
of host pages are published in the order it wrote them (R254). -/
def writeBack (s : State) (c va : Nat) : State :=
  match (s.cluster c).find va with
  | none => s
  | some l => (withEarlier (s.cluster c).lines (s.cluster c).lines.length [l]).foldl (fun s m => writeBackOne s c m) s

/-- A write-back and a drop of one line; what a peer was asked for before it is not kept when it comes (R255, R258). -/
def flushLine (s : State) (c va : Nat) : State := (writeBack s c va).modCluster c (fun k => { k.drop va with purged := s.uid })

/-- The write-back of every line of a cache with a property. -/
def writeBackIf (s : State) (c : Nat) (p : CacheLine → Bool) : State :=
  ((s.cluster c).lines.filter p).foldl (fun s l => writeBack s c l.va) s

/-- What the drop of a clean line leaves of one that has dirty words: those alone; its other words are read at the home again (R258). -/
def CacheLine.onlyDirty (l : CacheLine) : CacheLine := { l with hole := l.hole ||| ~~~(wordBits l.dw) }

/-- The drop of every clean line of a cache with a property, and of the clean words of the other such lines; lines asked of peers before
it are not kept when they come (R258). -/
def dropCleanIf (s : State) (c : Nat) (p : CacheLine → Bool) : State :=
  s.modCluster c (fun k => { k with lines := (k.lines.filter (fun l => !(l.dw == 0 && p l))).map (fun l => if p l then l.onlyDirty else l),
                                    purged := s.uid })

/-- Room for a line in its set: the pseudo-LRU victim of a full set is evicted, published if dirty (R142, R237). The way
that is free. -/
def makeRoom (s : State) (c va : Nat) : Nat × State :=
  let inSet := (s.cluster c).lines.filter (fun l => setOf l.va == setOf va)
  match (List.range 16).find? (fun w => !inSet.any (fun l => l.way == w)) with
  | some w => (w, s)
  | none =>
    let w := plruVictim (mget 0 (s.cluster c).plru (setOf va))
    match inSet.find? (fun l => l.way == w) with
    | some l => (w, flushLine s c l.va)
    | none => (w, s)

/-- The binding of an object in a context (R150). -/
def State.binding (s : State) (ctx obj : Nat) : Option Binding :=
  (s.context ctx).bind (fun c => c.bindings.find? (fun b => b.obj == obj))

/-- Whether a line lies in a bound range. -/
def Binding.holdsLine (b : Binding) (va : Nat) : Bool :=
  b.ranges.any (fun r => decide (r.1 ≤ va / 64 * 64) && decide (va / 64 * 64 < r.1 + r.2))

/-- The binding tag of a fill by a load of `core` within a range it holds under `ACQ`, and the context it is of (R151, R237). -/
def fillTag (s : State) (core va : Nat) : Option (BitVec 12 × BitVec 12) :=
  (List.range 4).findSome? (fun ts => (s.tset core ts).holds.findSome? (fun h =>
    (s.binding (s.ctxOf core ts) h.pa).bind (fun b =>
      if b.holdsLine va then some (b.tag, BitVec.ofNat 12 (s.ctxOf core ts)) else none)))

/-- The bytes of a held word, those of an older store first (R337). -/
def HeldWrite.bytes (h : HeldWrite) : List (Nat × Byte) := h.stores.flatMap (·.bytes)

/-- Whether a core has stored to a held word before an issue number. -/
def HeldWrite.of (h : HeldWrite) (core seq : Nat) : Bool := h.stores.any (fun p => p.core == core && decide (p.seq < seq))

/-- The bytes of a line that a cluster holds under write-block, oldest first (R337). -/
def heldAt (c : Cluster) (va : Nat) : List (Nat × Byte) :=
  c.hold.flatMap (fun h => if h.va / 64 = va / 64 then h.bytes.map (fun b => (h.va % 64 + b.1, b.2)) else [])

/-- The bytes of a line that a cluster has written or holds, which no fill replaces (R142, R255, R337). -/
def writtenBytes (s : State) (c va : Nat) : List (Nat × Byte) :=
  (match (s.cluster c).find va with
   | some l => (List.range 64).filterMap (fun k => if l.dw.getLsbD (k / 8) && !l.hole.getLsbD k then some (k, lineByte l.data k) else none)
   | none => []) ++ heldAt (s.cluster c) va

/-- A cached line whose missing bytes are read at their home again (R258, R353); those of a peer's line have to be asked for. -/
def CacheLine.mended (s : State) (l : CacheLine) : CacheLine :=
  if l.hole = 0 || l.x.tier == 3 then l
  else if s.eccFails l.x.pa then { l with bad := lostWords l }
  else
    let known := (List.range 64).filterMap (fun k => if l.hole.getLsbD k then none else some (k, lineByte l.data k))
    { l with hole := 0, data := setLineBytes (s.lineAt l.x) known }

/-- Whether a cache holds every byte of a line. -/
def wholeLine (s : State) (c va : Nat) : Bool := match (s.cluster c).find va with | some l => l.hole == 0 | none => false

/-- The request that a unit has made of a peer for a line of a cache (R255). -/
def askedLine (s : State) (c : Nat) (who : Asker) (va : Nat) : Option PeerLoad :=
  s.peerLoads.find? (fun p => p.cache == c && p.who == who && p.va == va / 64 * 64)

/-- Whether a unit can read a line now: of its own tiers always, of a peer's page when its own request has been answered, or when it has
made none and the cache holds the line (R255). -/
def lineHere (s : State) (c : Nat) (who : Asker) (va : Nat) (x : Xlat) : Bool :=
  x.tier != 3 || (match askedLine s c who va with | some p => p.reply.isSome | none => wholeLine s c va)

/-- A LOAD packet for a line that a unit needs from a peer: each unit sends its own (R255, R378). -/
def askLine (s : State) (c : Nat) (who : Asker) (va : Nat) (x : Xlat) (owner : BitVec 20) : State :=
  if (askedLine s c who va).isSome then s
  else
    let (n, s) := s.fresh
    let p := peerPartition s c x
    { s with out := s.out ++ [peerAccess 0 n 64 p (some owner) (va / 64 * 64) (x.pa / 64 * 64) [] none],
             peerLoads := s.peerLoads ++ [⟨n, peerPort x.pa, c, va / 64 * 64, who, p, writtenBytes s c va, none⟩] }

/-- A unit has taken the answers to its requests. -/
def answersTaken (s : State) (who : Asker) : State := { s with peerLoads := s.peerLoads.filter (fun p => p.who != who) }

/-- The line of an access in the cache, filled from its home if it is not there (R142, R253). A fill that brings an uncorrectable
error installs no line (R353). -/
def fillLine (s : State) (c core va : Nat) (x : Xlat) (byLoad : Bool) : CacheLine × State :=
  match (s.cluster c).find va with
  | some l =>
    let m := l.mended s
    let s := if m.hole = l.hole then s else s.modCluster c (fun k => k.put m)
    (m, (countCache s c 0x3001).modCluster c (fun k => { k with plru := mmod 0 k.plru (setOf va) (fun t => plruTouch t l.way) }))
  | none =>
    let (w, s) := makeRoom (countCache s c 0x3002) c va
    let xl := { x with pa := x.pa / 64 * 64 }
    let s := homeRequest s c va xl
    let tag := if byLoad then fillTag s core va else none
    let peer := xl.tier == 3
    let failed := !peer && s.eccFails xl.pa
    let l : CacheLine :=
      { va := va / 64 * 64, x := xl, way := w, tv := tag.isSome, btag := (tag.getD (0, 0)).1, bctx := (tag.getD (0, 0)).2,
        data := if peer then 0 else s.lineAt xl, bad := if failed then 255 else 0,
        hole := if peer || failed then BitVec.allOnes 64 else 0 }
    let s := if l.bad = 0 then s.modCluster c (fun k => k.put l) else s
    (l, s.modCluster c (fun k => { k with plru := mmod 0 k.plru (setOf va) (fun t => plruTouch t w) }))

/-- The bits of a line's bytes at the positions of some bytes. -/
def byteBits (bs : List (Nat × Byte)) : BitVec 64 := bs.foldl (fun (m : BitVec 64) b => m ||| (1#64 <<< b.1)) 0

/-- The bytes of a line as a load reads them, held bytes first: the cache, filled if needed; a host page is read at its home after a
write-back of its line (R142, R254, R337). With them the bytes that carry an uncorrectable error. `byCore` is set for a load of the
core itself, whose fill may be tagged (R237). -/
def loadLine (s : State) (core va : Nat) (x : Xlat) (byCore : Bool) : Line × BitVec 64 × State :=
  let c := cacheOf core
  if x.tier = 2 then
    let s := homeRequest (flushLine s c va) c va x
    let held := heldAt (s.cluster c) va
    (setLineBytes (s.lineAt x) held, if s.eccFails x.pa then ~~~(byteBits held) else 0, s)
  else
    let (l, s) := fillLine s c core va x byCore
    let held := heldAt (s.cluster c) va
    (setLineBytes l.data held, wordBits l.bad &&& ~~~(byteBits held), s)

/-- A line as a unit reads it: a peer's by its own answer, under the bytes its cluster had written when it asked, else as `loadLine` gives
it (R255). -/
def loadFor (s : State) (core : Nat) (who : Asker) (va : Nat) (x : Xlat) (byCore : Bool) : Line × BitVec 64 × State :=
  match (askedLine s (cacheOf core) who va).map (fun p => (p.reply, p.mine)) with
  | some (some r, mine) => (setLineBytes (r.getD 0) mine, if r.isSome then 0 else ~~~(byteBits mine), s)
  | _ => loadLine s core va x byCore

/-- The times at which a core has written a line, after one more write. -/
def noteWrite (w : List (Nat × Nat × Nat)) (bit seq : Nat) : List (Nat × Nat × Nat) :=
  if w.any (fun e => e.1 == bit) then w.map (fun e => if e.1 == bit then (bit, e.2.1, seq) else e) else w ++ [(bit, seq, seq)]

/-- A line after bytes have entered it (R142, R236): its words and core are marked dirty; a word written whole holds no error. -/
def CacheLine.written (l : CacheLine) (core off : Nat) (x : Xlat) (bs : List (Nat × Byte)) (seq : Nat) : CacheLine :=
  let at_ := bs.map (fun b => (off + b.1, b.2))
  let whole := (List.range 8).foldl (fun (m : BitVec 8) k =>
    if (byteBits at_).extractLsb' (8 * k) 8 = 255 then m ||| (1#8 <<< k) else m) 0
  { l with
    x := { x with pa := x.pa / 64 * 64 }, data := setLineBytes l.data at_, hole := l.hole &&& ~~~(byteBits at_),
    bad := if l.hole = 0 then l.bad &&& ~~~whole else 0, dw := l.dw ||| bitWords (byteBits at_), dc := l.dc ||| (1#16 <<< dcBit core),
    wrote := if x.tier = 2 then noteWrite l.wrote (dcBit core) seq else l.wrote }

/-- Bytes entering the cluster cache (R142, R236): the line is filled if needed. -/
def storeLine (s : State) (core va : Nat) (x : Xlat) (bs : List (Nat × Byte)) : State :=
  let (l, s) := fillLine s (cacheOf core) core va x false
  let (n, s) := s.fresh
  s.modCluster (cacheOf core) (fun k => k.put (l.written core (va % 64) x bs n))

/-! ## Write-block and the D bit -/

/-- The translation of an address as a core's cluster has it now: its L1 TLB entry, the cluster's, or the page table's; what was
captured where the page is gone. -/
def currentXlat (s : State) (core : Nat) (va : Nat) (x : Xlat) : Xlat :=
  match (s.core core).tlb.find? (fun e => e.holds va), (s.cluster (cacheOf core)).tlb.find? (fun e => e.holds va) with
  | some e, _ => e.at_ va
  | none, some e => e.at_ va
  | none, none => (xlatOf s va).getD x

/-- A captured translation with D as it stands now: a write after a harvest sets it again (R332, R338). -/
def dirtyNow (s : State) (core va : Nat) (x : Xlat) : Xlat := { x with dirty := (currentXlat s core va x).dirty }

/-- D set at a home entry, as a system-scope `AOR` does (R332). -/
def setPteDirty (s : State) (x : Xlat) : State :=
  if x.dirty then s else s.homeWrite x.pte 8 ((BitVec.ofNat 64 (s.homeRead x.pte 8) : Word) ||| 4).toNat

/-- TLB entries of a page marked dirty. -/
def dirtyEntries (va : Nat) (l : List TlbEntry) : List TlbEntry :=
  l.map (fun e => if e.holds va then { e with x := { e.x with dirty := true } } else e)

/-- The first write through an entry with D = 0: D is set at the home entry, then in the TLB entries of the core and its cluster
(R332). -/
def setDirty (s : State) (core va : Nat) (x : Xlat) : State :=
  if x.dirty then s
  else
    ((setPteDirty s x).modCore core (fun k => { k with tlb := dirtyEntries va k.tlb })).modCluster (cacheOf core)
      (fun k => { k with tlb := dirtyEntries va k.tlb })

/-- Whether writes to the page of an address are held back as it is translated now (R337). -/
def pageBlocked (s : State) (core va : Nat) : Bool := (currentXlat s core va {}).wb

/-- A write of a sync object's home: D of its page is set first (R332, R338). -/
def objWrite (s : State) (core va pa n x : Nat) : State := (setDirty s core va (currentXlat s core va {})).putAt { currentXlat s core va {} with pa := pa } n x

/-- The aligned words in which some bytes lie. -/
def wordsAt (va : Nat) (bs : List (Nat × Byte)) : List Nat := (bs.map (fun b => (va + b.1) / 8 * 8)).foldr insertUniq []

/-- Whether a word of a store is held already, so that the store merges into it (R337). -/
def heldWord (s : State) (core va : Nat) (bs : List (Nat × Byte)) : Bool :=
  (wordsAt va bs).any (fun w => (s.cluster (cacheOf core)).hold.any (fun h => h.va == w))

/-- Whether a cluster's hold buffer has room for the words of a store that it does not hold yet (R337). -/
def holdRoom (s : State) (core va : Nat) (bs : List (Nat × Byte)) : Bool :=
  let h := (s.cluster (cacheOf core)).hold
  decide (h.length + ((wordsAt va bs).filter (fun w => !h.any (fun e => e.va == w))).length ≤ Config.holdEntries)

/-- A store held under write-block, its core and owner with it, merged into a word already held (R337, R106); none when the buffer is full. -/
def holdWrite (s : State) (core va seq : Nat) (owner : BitVec 20) (bs : List (Nat × Byte)) : Option State :=
  let c := cacheOf core
  let words := wordsAt va bs
  let part := fun w => HeldStore.mk core owner seq (bs.filterMap (fun b => if (va + b.1) / 8 * 8 = w then some ((va + b.1) % 8, b.2) else none))
  words.foldl (fun r w => r.bind (fun s =>
    let h := (s.cluster c).hold
    if h.any (fun e => e.va == w) then
      some (s.modCluster c (fun k => { k with hold := k.hold.map (fun e =>
        if e.va == w then { e with stores := e.stores ++ [part w] } else e) }))
    else if Config.holdEntries ≤ h.length then none
    else some (s.modCluster c (fun k => { k with hold := k.hold ++ [⟨w, [part w]⟩] })))) (some s)

/-! ## Publication (R142, R153) -/

/-- What a crossing from a command's path to every path leaves of a core's cluster cache: the dirty words alone, as any other may be
older than what the command has written at the homes (R155, R261). -/
def crossPaths (s : State) (core : Nat) : State := dropCleanIf s (cacheOf core) (fun _ => true)

/-- The tiers a fence scope covers: `.dev` the HBM tier, `.sys` every tier. -/
def scopeTier (sys : Bool) (tier : Nat) : Bool := sys || tier == 0

/-- What `FENCE.dev` and `FENCE.sys` do to the cluster cache (Table 8.9): every line the core has dirtied, of the
scope's tiers, is written back; then every clean line without a binding tag is dropped. -/
def publish (s : State) (core : Nat) (sys : Bool) : State :=
  let c := cacheOf core
  let s := writeBackIf s c (fun l => l.dc.getLsbD (dcBit core) && scopeTier sys l.x.tier)
  dropCleanIf s c (fun l => !l.tv)

end Sys2Proof.Machine
end

