-- ==== Sys2Proof/Machine/Context.lean ====
section
/-! DEFINITION. What units of the device read and write in memory: region control blocks and their effective
fields (R301 to R305), messages units make (R210), fault notices (R224), the supervisor ring (R351). -/

namespace Sys2Proof.Machine

/-! ## Memory as a unit sees it -/

/-- `n` bytes at a virtual address, read at their home; 0 where nothing is mapped (log 12). -/
def unitRead (s : State) (va n : Nat) : Nat := match xlatOf s va with | some x => s.readAt x n | none => 0
/-- The same as a word. -/
def unitWord (s : State) (va : Nat) : Word := BitVec.ofNat 64 (unitRead s va 8)
/-- A number of `n` bytes written at the home of a virtual address; lost where nothing is mapped (log 12). -/
def unitWrite (s : State) (va n x : Nat) : State := match xlatOf s va with | some y => (setPteDirty s y).putAt y n x | none => s
/-- An addition at the home, as a device-scope atomic makes it. -/
def unitAdd (s : State) (va n d : Nat) : State := unitWrite s va n ((unitRead s va n + d) % 2 ^ (8 * n))

/-! ## Region control blocks -/

/-- A word of a region control block (Table 17.6). -/
def rcbWord (s : State) (rcb : Word) (off : Nat) : Word := unitWord s (ptrAddr rcb + off)

/-- The chain from an RCB to a root, the RCB first (R303); none when it does not reach the root in `n` links. -/
def chainFrom (s : State) (root : Word) : Nat → Word → Option (List Word)
  | 0, rcb => if ptrAddr rcb = ptrAddr root then some [rcb] else none
  | n + 1, rcb =>
    if ptrAddr rcb = ptrAddr root then some [rcb]
    else
      let p := rcbWord s rcb 0
      if p = 0 then none else (chainFrom s root n p).map (fun c => rcb :: c)

/-- The root RCB of a context; 0 when the context does not exist. -/
def rootOf (s : State) (ctx : Nat) : Word := ((s.context ctx).map (·.root)).getD 0
/-- The values of an RCB as the validation of a launch took them, or, for what belongs to no launch, as they were last taken (R302). -/
def takenOf (s : State) (ctx : Nat) (rcb : Word) (launch : Option Nat := none) : Option Taken :=
  let own := fun (l : List Taken) => l.find? (fun t => ptrAddr t.rcb == ptrAddr rcb)
  ((launch.bind (fun n => s.launches.find? (fun l => l.id == n))).bind (fun l => own l.taken)) <|> (s.context ctx).bind (fun c => own c.taken)
/-- The chain of an RCB of a context, as taken, or as memory has it: the RCB alone when it does not reach the root. -/
def chainOf (s : State) (ctx : Nat) (rcb : Word) (launch : Option Nat := none) : List Word :=
  match takenOf s ctx rcb launch with
  | some t => t.chain
  | none => (chainFrom s (rootOf s ctx) 8 rcb).getD [rcb]

/-- The RCB of a chain that gives field `f`: the nearest whose INH bit is clear (R302). -/
def giver (s : State) (chain : List Word) (f : Nat) : Word :=
  match chain.find? (fun r => !(rcbWord s r 8).getLsbD f) with
  | some r => r
  | none => chain.getLast?.getD 0

/-- A field of a word as a number. -/
def fieldN (w : Word) (lo n : Nat) : Nat := w.toNat / 2 ^ lo % 2 ^ n

/-- The core list of an RCB: CORES numbers of 16 bits at CLIST. -/
def clistOf (s : State) (rcb : Word) : List Nat :=
  (List.range (fieldN (rcbWord s rcb 0x10) 0 16)).map (fun k => unitRead s (ptrAddr (rcbWord s rcb 0x40) + 2 * k) 2)

/-- The valid region entries of an RCB: home, lines, scratchpad address. -/
def regionEntries (s : State) (rcb : Word) : List (Word × Nat × Nat) :=
  (List.range 8).filterMap (fun j =>
    let hi := rcbWord s rcb (0x60 + 16 * j + 8)
    if hi.getLsbD 31 then some (rcbWord s rcb (0x60 + 16 * j), fieldN hi 18 12, fieldN hi 0 18) else none)

/-- The effective fields of a chain (R302). -/
def regionOf (s : State) (chain : List Word) : Region :=
  let at_ := fun f off => rcbWord s (giver s chain f) off
  { prio := fieldN (at_ 0 0x08) 32 3, propagate := (at_ 1 0x08).getLsbD 40, pack := (at_ 2 0x08).getLsbD 41,
    cores := clistOf s (giver s chain 3), tsets := fieldN (at_ 4 0x10) 16 16, qslots := fieldN (at_ 5 0x10) 32 16,
    cruc := fieldN (at_ 6 0x10) 48 16, bufb := (at_ 7 0x18).toNat, trail := fieldN (at_ 8 0x20) 0 32,
    choice := fieldN (at_ 9 0x20) 32 32, htab := at_ 10 0x28, tvec := at_ 11 0x30, wdog := fieldN (at_ 12 0x38) 0 25,
    regions := regionEntries s (giver s chain 13), pin := (at_ 14 0x08).getLsbD 43 }

/-- The effective fields of an RCB of a context, as taken, or as memory has them (R302). -/
def regionAt (s : State) (ctx : Nat) (rcb : Word) (launch : Option Nat := none) : Region :=
  match takenOf s ctx rcb launch with
  | some t => t.region
  | none => regionOf s (chainOf s ctx rcb)

/-- The values that a validation takes of an RCB and of those of its chain: its chain and its effective fields (R302). -/
def takeRegions (s : State) (chain : List Word) : List Taken → List Taken :=
  fun old => (List.range chain.length).foldl (fun l k =>
    match chain[k]? with
    | some r => ⟨r, chain.drop k, regionOf s (chain.drop k)⟩ :: l.filter (fun t => ptrAddr t.rcb != ptrAddr r)
    | none => l) old

/-- The RCB bound on a core for its resident context (R305). -/
def boundRcb (s : State) (core : Nat) : Word :=
  if (s.core core).rcb = 0 then rootOf s ((s.core core).ctx.getD 0).toNat else (s.core core).rcb

/-- A counter of a chain raised by `n`, and its ancestors' while DOMAIN propagates (R304). -/
def raiseChain (s : State) (ctx off n : Nat) (launch : Option Nat) : List Word → State
  | [] => s
  | r :: up =>
    let s := unitAdd s (ptrAddr r + off) 8 n
    if (regionAt s ctx r launch).propagate then raiseChain s ctx off n launch up else s

/-- A counter of an RCB of a context raised, for an activation of a launch or of none: 0xE0 ACTS, 0xE8 ABORTS, 0xF0 REPLAYS, 0xF8
FAULTS. -/
def raiseCounter (s : State) (ctx : Nat) (rcb : Word) (off n : Nat) (launch : Option Nat := none) : State :=
  if n = 0 || rcb = 0 then s else raiseChain s ctx off n launch (chainOf s ctx rcb launch)

/-- The fault counter of a context's root RCB raised. -/
def raiseRootFaults (s : State) (ctx : Nat) : State := raiseCounter s ctx (rootOf s ctx) 0xF8 1

/-! ## Messages made by a unit -/

/-- The sequence number of a core's next message, and the state with the counter advanced (R166, R210). -/
def nextSeq (s : State) (core : Nat) : BitVec 16 × State :=
  ((s.core core).seq, s.modCore core (fun c => { c with seq := c.seq + 1 }))

/-- A message made for a destination core (R210): it carries that core as SCORE, its counter's SEQ, and the time. -/
def unitMsg (s : State) (core : Nat) (kind : BitVec 3) (tag : BitVec 12) (prio : BitVec 2) (ctx : Nat) (words : List Word) :
    Msg × State :=
  let (q, s) := nextSeq s core
  ({ tag := tag, prio := prio, len := words.length, kind := kind, ctx := BitVec.ofNat 12 ctx,
     score := BitVec.ofNat 11 core, seq := q, stamp := BitVec.ofNat 64 s.now, words := words }, s)

/-- A message made by a unit, on its way to a core. -/
def postUnit (s : State) (core : Nat) (kind : BitVec 3) (tag : BitVec 12) (prio : BitVec 2) (ctx : Nat) (words : List Word) : State :=
  let (m, s) := unitMsg s core kind tag prio ctx words
  { s with mail := s.mail ++ [(.core core, m)] }

/-- A NOTE or SNOTE word: the core, priority and tag, when it is enabled. -/
def noteOf (w : Nat) : Option (Nat × BitVec 2 × BitVec 12) :=
  if w.testBit 31 then some (w / 2 ^ 16 % 2 ^ 11, BitVec.ofNat 2 (w / 2 ^ 12), BitVec.ofNat 12 w) else none

/-- A fault notice of a context (R224, Table 11.8): code, message ID, its tag, the core, word 3. A route that names no core on
which the context may run discards it, counted in the root's FAULTS. -/
def faultNotice (s : State) (ctx code : Nat) (id : Word) (tag : BitVec 12) (core : Nat) (w3 : Word) : State :=
  let r := rcbWord s (rootOf s ctx) 0x50
  let to_ := fieldN r 16 11
  if contextMayRun s ctx to_ then
    postUnit s to_ 6 (BitVec.ofNat 12 (fieldN r 0 12)) (BitVec.ofNat 2 (fieldN r 12 2)) ctx
      [BitVec.ofNat 64 code, id, tag.setWidth 64 ||| (BitVec.ofNat 10 core).setWidth 64 <<< 32, w3, 0, 0]
  else raiseRootFaults s ctx

/-! ## The supervisor ring -/

/-- A notice record in a partition's supervisor ring (R351, Tables 20.6, 20.7), and the SNOTE message after it. -/
def supervisorNotice (s : State) (p code reason ctx core ts count : Nat) (detail : Word) : State :=
  let b := (s.partition p).supBlock
  let ring := s.homeRead b 8
  let tail := s.homeRead (b + 8) 4
  let head := s.homeRead (b + 12) 4
  let log_ := s.homeRead (b + 16) 1 % 32
  if b = 0 then s
  else if ring = 0 ∨ (tail + 2 ^ 32 - head) % 2 ^ 32 = 2 ^ log_ then
    s.homeWrite (b + 28) 4 ((s.homeRead (b + 28) 4 + 1) % 2 ^ 32)
  else
    let w0 := code + ctx % 4096 * 2 ^ 20 + reason % 256 * 2 ^ 32
    let w1 := count % 2 ^ 32 + core % 2 ^ 11 * 2 ^ 32 + ts % 4 * 2 ^ 43
    let at_ := ring + 32 * (tail % 2 ^ log_)
    let s := unitWrite (unitWrite (unitWrite (unitWrite s at_ 8 w0) (at_ + 8) 8 w1) (at_ + 16) 8 detail.toNat) (at_ + 24) 8 (s.now % 2 ^ 64)
    let s := s.homeWrite (b + 8) 4 ((tail + 1) % 2 ^ 32)
    match noteOf (s.homeRead (b + 24) 4) with
    | some (c, pr, tg) => postUnit s c 0 tg pr (s.homeRead (b + 32) 4 % 4096) [BitVec.ofNat 64 w0]
    | none => s

end Sys2Proof.Machine
end

