-- ==== Sys2Proof/Machine/Crucible.lean ====
section
/-! DEFINITION. The Crucible: what a speculative activation holds and how it sees it (R277, R278). -/

namespace Sys2Proof.Machine

/-- The speculation the thread set under execution runs under: cluster, decision and side. -/
def State.mySpec (s : State) : Option (Nat × Nat × Nat) := s.me.act.bind (·.spec)

/-- A speculative activation stalls at what R278 lists, until its decision is resolved. -/
def needOrdinary (s : State) : Except Stop Unit := if s.mySpec.isSome then .error (.stall s) else .ok ()

/-- A decision of a cluster by its ID. -/
def decisionOf (s : State) (cl id : Nat) : Option Decision := (s.cluster cl).decisions.find? (fun d => d.id == id)

/-- A side of a decision. -/
def sideOf (s : State) (sp : Nat × Nat × Nat) : Side := ((decisionOf s sp.1 sp.2.1).bind (fun d => d.sides[sp.2.2]?)).getD {}

/-- The state with a side changed. -/
def modSide (s : State) (sp : Nat × Nat × Nat) (f : Side → Side) : State :=
  s.modCluster sp.1 (fun u => { u with decisions := u.decisions.map (fun d =>
    if d.id == sp.2.1 then { d with sides := modAt f d.sides sp.2.2 } else d) })

/-- Entries an activation still holds in its send buffer. -/
def bufferedBy (s : State) (uid : Option Nat) : Nat :=
  match s.tsets.find? (fun p => p.2.act.any (fun a => some a.uid == uid)) with
  | some p => p.2.sendBuf.length
  | none => 0

/-- Crucible lines of a cluster in use for a region: its held lines and entries (R277). -/
def crucUsed (s : State) (cl : Nat) (rcb : Word) : Nat :=
  (((s.cluster cl).decisions.filter (fun d => d.rcb == rcb)).map (fun d =>
    (d.sides.map (fun x => x.held.length + x.entries.length + bufferedBy s x.act)).sum)).sum

/-- Whether the region of a decision has a free line of its share. -/
def crucFree (s : State) (sp : Nat × Nat × Nat) : Bool :=
  match decisionOf s sp.1 sp.2.1 with
  | some d => decide (crucUsed s sp.1 d.rcb < (regionAt s d.ctx.toNat d.rcb).cruc)
  | none => false

/-- Bytes of a write held: merged into a line already held, or in a new line while the share and the private window
of 64 lines allow it; otherwise the write stalls (R277). -/
def holdBytes (s : State) (sp : Nat × Nat × Nat) (scratch : Bool) (at_ : Nat) (va : Word) (x : Xlat) (bs : List (Nat × Byte)) :
    Except Stop State :=
  let side := sideOf s sp
  match findPos (fun (h : HeldLine) => h.scratch == scratch && h.at_ == at_) side.held with
  | some k => .ok (modSide s sp (fun y => { y with held := modAt (fun h => { h with bytes := h.bytes ++ bs }) y.held k }))
  | none =>
    if (scratch && decide (Config.windowLines ≤ (side.held.filter (·.scratch)).length)) || !crucFree s sp then .error (.stall s)
    else .ok (modSide s sp (fun y => { y with held := y.held ++ [⟨at_, scratch, va, x, bs, s.me.owner⟩] }))

/-- The held bytes of a line as the activation of a thread set sees them first (R277). -/
def heldOf (s : State) (core ts : Nat) (scratch : Bool) (at_ : Nat) : List (Nat × Byte) :=
  match (s.tset core ts).act.bind (·.spec) with
  | none => []
  | some sp => ((sideOf s sp).held.filter (fun h => h.scratch == scratch && h.at_ == at_)).flatMap (·.bytes)

/-- The same for the thread set under execution. -/
def heldBytes (s : State) (scratch : Bool) (at_ : Nat) : List (Nat × Byte) := heldOf s s.curCore s.curTs scratch at_

/-- A scratchpad line as a thread set reads it: in its own core's, the bytes it holds first. -/
def seenLineOf (s : State) (core ts c line : Nat) : Line :=
  if c = core then setLineBytes (s.scratchLine c line) (heldOf s core ts true line) else s.scratchLine c line
/-- A scratchpad byte as a thread set reads it. -/
def seenByteOf (s : State) (core ts c addr : Nat) : Byte := lineByte (seenLineOf s core ts c (addr / 64)) (addr % 64)
/-- `n` bytes of a line of a scratchpad as a thread set reads them, as a number. -/
def seenReadOf (s : State) (core ts c addr n : Nat) : Nat :=
  natOfBytes ((List.range n).map (fun k => seenByteOf s core ts c (addr + k)))

/-- A scratchpad line as the thread set under execution reads it. -/
def seenLine (s : State) (core line : Nat) : Line := seenLineOf s s.curCore s.curTs core line
/-- A scratchpad byte as the thread set under execution reads it. -/
def seenByte (s : State) (core addr : Nat) : Byte := seenByteOf s s.curCore s.curTs core addr
/-- `n` bytes of a line of a scratchpad as the thread set under execution reads them, as a number. -/
def seenRead (s : State) (core addr n : Nat) : Nat := seenReadOf s s.curCore s.curTs core addr n

/-- `n` bytes of a thread set's own scratchpad as the thread set has written them, as a number: its queued writes over what it holds,
and that over what has landed (R250, R277). -/
def ownRead (s : State) (core ts addr n : Nat) : Nat :=
  natOfBytes ((List.range n).map (fun k => overQueued (s.tset core ts).storeq core (addr + k) (seenByteOf s core ts core (addr + k))))

/-- Whether the activation of a thread set is a winner whose commit is under way (R280): it neither issues nor is aborted until then. -/
def committing (s : State) (core ts : Nat) : Bool :=
  (s.tset core ts).act.any (fun a => a.specTrap.isNone &&
    a.spec.any (fun sp => (decisionOf s sp.1 sp.2.1).any (fun d => d.winner == some sp.2.2)))

end Sys2Proof.Machine
end

