-- ==== Sys2Proof/Machine/Inbox.lean ====
section
/-! DEFINITION. The inbox of a core: its slots, what places and tests a message, the handler cache, and the start
of an activation (R45, R46, R209 to R218, R305, R308). -/

namespace Sys2Proof.Machine

/-! ## Slots -/

/-- Whether a kind belongs to the reply class (Table 11.2). -/
def isReply (kind : BitVec 3) : Bool := kind == 2 || kind == 3 || kind == 4

/-- Slots occupied by messages of a class (R212). -/
def slotsUsed (c : Core) (reply : Bool) : Nat := (c.inbox.filter (fun x => isReply x.msg.kind == reply)).length

/-- A reply slot reserved. -/
def reserveReply (s : State) (core : Nat) : State := s.modCore core (fun c => { c with replyReserved := c.replyReserved + 1 })

/-- The saved image of a context's share of a core. -/
def imageOf (s : State) (ctx core : Nat) : CoreImage := ((s.context ctx).map (fun c => mget {} c.saved core)).getD {}
/-- The state with a saved image changed. -/
def modImage (s : State) (ctx core : Nat) (f : CoreImage → CoreImage) : State :=
  s.modContext ctx (fun c => { c with saved := mmod {} c.saved core f })
/-- Arrivals of the resident context that wait in its saved image (R214, R316). -/
def savedArrivals (s : State) (core : Nat) : List Msg :=
  match (s.core core).ctx with
  | some c => (imageOf s c.toNat core).arrivals
  | none => []

/-- Whether a reply slot can be reserved (R212). -/
def replyFree (s : State) (core : Nat) : Bool :=
  decide (slotsUsed (s.core core) true + (s.core core).replyReserved +
    ((savedArrivals s core).filter (fun m => isReply m.kind)).length < Config.replySlots)

/-- Whether a request-class arrival finds a slot: 48 at most, and returned task records and saved arrivals go first
(R212, R222, R316). -/
def requestFree (s : State) (core : Nat) : Bool :=
  decide (slotsUsed (s.core core) false < Config.requestSlots) && (s.core core).returned.isEmpty && (savedArrivals s core).isEmpty

/-- The age of a slot, in clocked cycles spent ELIGIBLE (R213). -/
def slotAge (s : State) (core : Nat) (x : Slot) : Nat :=
  x.age + (if x.state = .eligible then s.cycle core - x.since else 0)

/-- Whether a tag is enabled on a core (R173). -/
def tagEnabled (s : State) (core : Nat) (tag : BitVec 12) : Bool := !mget false (s.core core).tagOff tag.toNat

/-- The pending bit of a tag: set while a message of it is parked (R173). -/
def tagPending (s : State) (core : Nat) (tag : BitVec 12) : Bool :=
  (s.core core).inbox.any (fun x => x.state == .parked && x.msg.tag == tag)

/-! ## Handler entries -/

/-- The RCB under which a message is selected: an element start's own, the root for a direct message (R300), a thief's victim's (R287),
else the bound one (R305). -/
def rcbOf (s : State) (core : Nat) (m : Msg) : Word :=
  if let some r := m.rcb then r else if m.kind = 1 then (m.words[5]?).getD 0 else if m.kind = 7 then rootOf s m.ctx.toNat else boundRcb s core

/-- The launch whose element a message starts. -/
def launchOfMsg (s : State) (m : Msg) : Option Launch := m.launch.bind (fun l => s.launches.find? (fun x => x.id == l))

/-- The effective fields under which a message is selected: those its launch took, or its RCB's (R302, R305). -/
def msgRegion (s : State) (core : Nat) (m : Msg) : Region :=
  match launchOfMsg s m with
  | some l => l.region
  | none => regionAt s m.ctx.toNat (rcbOf s core m)

/-- The address of the handler entry of a message, under the RCB that its selection would name now (R215). -/
def entryAddr (s : State) (core : Nat) (m : Msg) : Nat := ptrAddr (msgRegion s core m).htab + 16 * m.tag.toNat

/-- The cached handler entry at an address. -/
def cachedEntry (s : State) (core at_ : Nat) : Option Word := ((s.core core).handlers.find? (fun h => h.1 == at_)).map (·.2)

/-- The handler entry of a message as its core has it: cached, or as it stands in the table. -/
def entryOf (s : State) (core : Nat) (m : Msg) : Word :=
  (cachedEntry s core (entryAddr s core m)).getD (unitWord s (entryAddr s core m))

/-- A handler entry put into a core's cache of 64 (R215). -/
def cacheEntry (s : State) (core at_ : Nat) (e : Word) : State :=
  s.modCore core (fun c =>
    let l := c.handlers.filter (fun h => h.1 != at_) ++ [(at_, e)]
    { c with handlers := l.drop (l.length - 64) })

/-- Whether an entry is valid (Table 11.4). -/
def entryValid (e : Word) : Bool := e.getLsbD 57

/-- Whether a message passes its tag bit and its entry (R215). -/
def msgPasses (s : State) (core : Nat) (m : Msg) (e : Word) : Bool :=
  tagEnabled s core m.tag && entryValid e && (m.spec.isNone || e.getLsbD 60)

/-- A slot set PARKED: with an invalid entry and no parked message of the tag before, one `HANDLER_ABSENT` notice, none for
a fault notice (R216). -/
def absentNotice (s : State) (core : Nat) (m : Msg) (e : Word) (pendingBefore : Bool) : State :=
  if !entryValid e && !pendingBefore && m.kind != 6 then faultNotice s m.ctx.toNat 1 m.id m.tag core 0 else s

/-- The core is not idle: the next steal round may begin as soon as it is again (R227). -/
def notIdle (s : State) (core : Nat) : State := s.modCore core (fun c => { c with nextSteal := 0 })

/-- A slot tested against its entry `e`: PARKED or ELIGIBLE, keeping order and age (R213). -/
def testSlot (s : State) (core : Nat) (x : Slot) (e : Word) : Slot :=
  if msgPasses s core x.msg e then
    (if x.state = .eligible then { x with entry := e } else { x with state := .eligible, since := s.cycle core, entry := e })
  else { x with state := .parked, age := slotAge s core x, entry := e }

/-- The re-test of the messages of a tag on a core (R215), those RUNNING and theft messages apart. -/
def retestTag (s : State) (core : Nat) (tag : BitVec 12) : State :=
  (List.range (s.core core).inbox.length).foldl (fun s k =>
    match (s.core core).inbox[k]? with
    | some x =>
      if x.msg.tag == tag && x.theft.isNone && (x.state == .parked || x.state == .eligible) then
        let e := entryOf s core x.msg
        let y := testSlot s core x e
        let before := tagPending s core tag
        let s := s.modCore core (fun c => { c with inbox := modAt (fun _ => y) c.inbox k })
        if y.state == .parked then (if x.state == .eligible then absentNotice s core x.msg e before else s) else notIdle s core
      else s
    | none => s) s

/-- A message placed in a slot, order last, and tested (R213, R215). -/
def placeMsg (s : State) (core : Nat) (m : Msg) : State :=
  let e := entryOf s core m
  let x := testSlot s core { msg := m, arrival := s.now } e
  let before := tagPending s core m.tag
  let s := s.modCore core (fun c => { c with inbox := c.inbox ++ [x] })
  if x.state = .parked then absentNotice s core m e before else notIdle s core

/-- The RCB whose region a core runs: that of the last open launch of its context that has it in its CLIST, else the bound one (R227,
R272, R305). -/
def regionRcb (s : State) (core : Nat) : Word :=
  match s.launches.reverse.find? (fun l => some l.ctx == (s.core core).ctx && l.status.isNone && l.region.cores.contains core) with
  | some l => l.rcb
  | none => boundRcb s core

/-! ## Budgets -/

/-- The context, RCB and launch that a thread set counts against: its activation's, until that has ended, its reservation's, its theft grant's
(R169, R287, R308). -/
def countsAgainst (s : State) (t : TSet) : Option (Nat × Word × Option Nat) :=
  match t.act <|> t.ending.map (·.2), t.reserved, t.theftGrant with
  | some a, _, _ => some (a.msg.ctx.toNat, a.rcb, a.launch)
  | none, some l, _ => (s.launches.find? (fun x => x.id == l)).map (fun x => (x.ctx.toNat, x.rcb, some l))
  | none, none, some n => (s.thefts.find? (fun x => x.id == n)).map (fun x => (x.ctx.toNat, x.rcb, none))
  | none, none, none => none

/-- Thread sets in use of an RCB and its descendants (R308). -/
def tsetsUsed (s : State) (ctx : Nat) (rcb : Word) : Nat :=
  (s.tsets.filter (fun p => match countsAgainst s p.2 with
    | some (c, r, l) => c == ctx && (chainOf s ctx r l).any (fun x => ptrAddr x == ptrAddr rcb)
    | none => false)).length

/-- Whether an RCB or an ancestor is at its TSETS budget (R308), for a start of a launch or of none. -/
def atBudget (s : State) (ctx : Nat) (rcb : Word) (launch : Option Nat := none) : Bool :=
  (chainOf s ctx rcb launch).any (fun r => decide ((regionAt s ctx r launch).tsets ≤ tsetsUsed s ctx r))

/-! ## Thread sets that are free -/

/-- Whether a thread set holds no activation, nothing left to inject, no lock, reservation or theft grant (R57, R169, R217). -/
def TSet.isFree (t : TSet) : Bool :=
  t.act.isNone && t.ending.isNone && t.releasing.isEmpty && t.armAfter.isNone && t.gLock == 0 && t.vLock == 0 && t.reserved.isNone && t.theftGrant.isNone

/-! ## Reservations (R306, R307) -/

/-- Elements that position `p` of a list of `n` cores receives. -/
def elementsAt (r : Region) (total p : Nat) : Nat :=
  let n := r.cores.length
  if n = 0 then 0
  else if r.pack then
    let b := total / 4
    (if p < b then 4 * ((b - p - 1) / n + 1) else 0) + (if b % n = p then total % 4 else 0)
  else if p < total then (total - p - 1) / n + 1 else 0

/-- Elements of an open launch. -/
def Launch.total (l : Launch) : Nat := l.dimx * l.dimy * l.dimz
/-- The position of a core in a launch's list. -/
def Launch.pos (l : Launch) (core : Nat) : Option Nat := findPos (· == core) l.region.cores
/-- Thread sets of a core reserved for a launch. -/
def reservedFor (s : State) (core id : Nat) : Nat := ((List.range 4).filter (fun t => (s.tset core t).reserved == some id)).length

/-- The launch of a list that was validated first. -/
def firstValidated : List Launch → Option Launch
  | [] => none
  | l :: rest =>
    match firstValidated rest with
    | some m => if m.id < l.id then some m else some l
    | none => some l

/-- The co-resident launch of a context that is served: the one that has begun to reserve, so that no two each hold a part, else the first
validated, of those whose starts are not sent yet (R307). -/
def servedLaunch (s : State) (ctx : BitVec 12) : Option Launch :=
  let open_ := s.launches.filter (fun l => l.ctx == ctx && l.coresident && l.status.isNone && !l.armed)
  open_.find? (fun l => s.tsets.any (fun t => t.2.reserved == some l.id)) <|> firstValidated open_

/-- Thread sets of a core that the launch being served takes as they free, before anything else may (R307). -/
def claimsOn (s : State) (core : Nat) : Nat :=
  match (s.core core).ctx.bind (servedLaunch s) with
  | none => 0
  | some l =>
    match l.pos core with
    | some p => if atBudget s l.ctx.toNat l.rcb (some l.id) then 0 else elementsAt l.region l.total p - reservedFor s core l.id
    | none => 0

/-- The free thread sets of a core that the launch being served does not claim, lowest first. -/
def freeTsets (s : State) (core : Nat) : List Nat :=
  ((List.range 4).filter (fun t => (s.tset core t).isFree)).drop (claimsOn s core)

/-- The lowest-numbered free thread set of a core. -/
def freeTset (s : State) (core : Nat) : Option Nat := (freeTsets s core).head?

/-- Whether a core selects for its resident context: not stopped, not killed, its slice not ended (R315, R349, R369). -/
def coreSelects (s : State) (core : Nat) : Bool :=
  match (s.core core).ctx with
  | none => false
  | some ctx =>
    !(s.core core).stopped &&
    (match s.context ctx.toNat with
     | some c => !c.killed && (!isCompute core || (match (s.partition c.partition).phase with | .running => true | _ => false))
     | none => false)

/-! ## The start of an activation -/

/-- The allotments of a thread set (R271): choice base and end, trail base and end. -/
def allotments (r : Region) (ts : Nat) : Nat × Nat × Nat × Nat :=
  let c := 0x2F000 - 4 * r.trail - 4 * r.choice + ts * r.choice
  let t := 0x2F000 - 4 * r.trail + ts * r.trail
  (c, c + r.choice, t, t + r.trail)

/-- The g registers at activation start: payload words in g1 to g6, the message ID in g7 (R45). -/
def startRegs (m : Msg) : List (Nat × Word) :=
  ((List.range 6).foldl (fun g k => mset 0 g (k + 1) (if k < m.len then (m.words[k]?).getD 0 else 0)) [])
    |> fun g => mset 0 g 7 m.id

/-- The registers and special registers of a thread set at activation start (R45, R46, R218, Tables 3.1 and 3.2); what
belongs to earlier activations and still drains is kept. -/
def TSet.start (t : TSet) (a : Act) (owner : BitVec 20) (tvec : Word) (wdogEnd readyAt : Nat) : TSet :=
  { g := startRegs a.msg, gMark := if a.msg.bad then (List.range 7).map (fun k => (k + 1, some 0)) else [], pc := a.entry, owner := owner, tvec := tvec.setWidth 57 &&& ~~~3#57,
    cstop := BitVec.ofNat 18 a.choiceBase, trtop := BitVec.ofNat 18 a.trailBase, wdogEnd := wdogEnd, readyAt := readyAt,
    act := some a, pushCount := t.pushCount, pend := t.pend, storeq := t.storeq, unacked := t.unacked, failedAt := t.failedAt }

/-- The coordinates and dimensions of an element (R46). -/
def elementOf (s : State) (m : Msg) : BitVec 16 × BitVec 16 × BitVec 16 × Word :=
  match launchOfMsg s m with
  | some l =>
    let i := ((m.words[4]?).getD 0).toNat
    (BitVec.ofNat 16 (i % l.dimx), BitVec.ofNat 16 (i / l.dimx % l.dimy), BitVec.ofNat 16 (i / l.dimx / l.dimy),
     BitVec.ofNat 64 (l.dimx + l.dimy * 2 ^ 16 + l.dimz * 2 ^ 32))
  | none => (0, 0, 0, 0)

/-- An activation starts on a thread set (R218): its RCB is an element start's own, which is then bound to the core
(R305), or the bound one. One started by a completion message is ordered after the command's accesses (R261). -/
def startActivation (s : State) (core ts : Nat) (m : Msg) (origin : Origin) (entry : Word) (arrived : Nat) : State :=
  let rcb := rcbOf s core m
  let ctx := m.ctx.toNat
  let r := msgRegion s core m
  let (uid, s) := s.fresh
  let (cb, ce, tb, te) := allotments r ts
  let (ex, ey, ez, edim) := elementOf s m
  let a : Act :=
    { uid := uid, msg := m, origin := origin, entry := entry.setWidth 57 |>.setWidth 64, rcb := rcb, ex := ex, ey := ey, ez := ez,
      edim := edim, choiceBase := cb, choiceEnd := ce, trailBase := tb, trailEnd := te, launch := m.launch, spec := m.spec,
      start := s.now, arrived := arrived }
  let owner := ((s.context ctx).bind (fun c => c.owners.head?)).getD 0
  let s := s.modTset core ts (fun t => t.start a owner r.tvec (s.cycle core + r.wdog) (s.cycle core + 6))
  let s := if m.kind = 2 then crossPaths s core else s
  let s := notIdle (if m.kind = 1 then s.modCore core (fun c => { c with rcb := rcb }) else s) core
  let s := match m.spec with
    | some (cl, id, side) => s.modCluster cl (fun u => { u with decisions := u.decisions.map (fun d =>
        if d.id == id then { d with sides := modAt (fun x => { x with core := core, act := some uid }) d.sides side } else d) })
    | none => s
  let s := countAt (raiseCounter s ctx rcb 0xE0 1 m.launch) core 0x0003 1
  emitTrace s core 2
    [(entry.setWidth 57).setWidth 64 ||| m.kind.setWidth 64 <<< 57,
     traceP m core ts ||| m.tag.setWidth 64 <<< 38 ||| m.prio.setWidth 64 <<< 50 ||| m.ctx.setWidth 64 <<< 52,
     ex.setWidth 64 ||| ey.setWidth 64 <<< 16 ||| ez.setWidth 64 <<< 32]

/-! ## The fork deque -/

/-- The scratchpad line of a deque record by its ring index (R226). -/
def dequeLine (k : BitVec 6) : Nat := 0x2F000 / 64 + k.toNat
/-- The ring index of the record `k` places below the top. -/
def dequeAt (c : Core) (k : Nat) : BitVec 6 := c.dqTop + BitVec.ofNat 6 k
/-- A record of a deque, `k` places below the top. -/
def dequeRec (s : State) (core k : Nat) : Line := s.scratchLine core (dequeLine (dequeAt (s.core core) k))
/-- A scratchpad line replaced. -/
def State.setScratchLine (s : State) (core line : Nat) (l : Line) : State :=
  { s with scratch := mset 0 s.scratch (core * 3072 + line) l, sramBad := s.sramBad.filter (fun x => x.1 / 8 != core * 3072 + line) }
/-- The HELD bit of a record (Table 9.4). -/
def recHeld (l : Line) : Bool := l.getLsbD 16
/-- Word `k` of a line. -/
def lineWord (l : Line) (k : Nat) : Word := l.extractLsb' (64 * k) 64
/-- A line of eight words, word 0 first. -/
def lineOfWords (ws : List Word) : Line := BitVec.ofNat 512 (ws.foldr (fun w acc => w.toNat + 2 ^ 64 * acc) 0)

/-- The kind-5 message of a record (R174, R218), with its sender and sequence number. -/
def recMsg (s : State) (core : Nat) (l : Line) : Msg × State :=
  let (q, s) := nextSeq s core
  ({ tag := l.extractLsb' 0 12, prio := l.extractLsb' 12 2, len := 6, kind := 5, ctx := l.extractLsb' 20 12,
     score := BitVec.ofNat 11 core, seq := q, stamp := BitVec.ofNat 64 s.now,
     words := (List.range 6).map (fun k => lineWord l (k + 1)) }, s)

/-- The deque of a core with record `k` below the top taken out, the others moving together. -/
def dequeRemove (s : State) (core k : Nat) : State :=
  let n := (s.core core).dqLen
  let c := s.core core
  let s := (List.range (n - 1 - k)).foldl (fun s j =>
    s.setScratchLine core (dequeLine (dequeAt c (k + j))) (dequeRec s core (k + j + 1))) s
  s.modCore core (fun c => { c with dqLen := n - 1, dqOwner := dropAt c.dqOwner k })

/-- A record pushed at the top of a deque (R226, R228): its core is not idle (R227). -/
def dequePushTop (s : State) (core : Nat) (l : Line) : State :=
  let top := (s.core core).dqTop - 1
  notIdle ((s.setScratchLine core (dequeLine top) l).modCore core (fun c => { c with dqTop := top, dqLen := c.dqLen + 1, dqOwner := 0 :: c.dqOwner })) core

/-- The lowest unheld record from the bottom, as its place below the top (R217). -/
def bottomUnheld (s : State) (core : Nat) : Option Nat :=
  ((List.range (s.core core).dqLen).reverse).find? (fun k => !recHeld (dequeRec s core k))

end Sys2Proof.Machine
end

