-- ==== Sys2Proof/Machine/Abort.lean ====
section
/-! DEFINITION. The end of an activation: what is released, what is dropped, what is returned (R146, R152, R167 to
R169, R220 to R222, R348), and the kill of a context (R349). -/

namespace Sys2Proof.Machine

/-! ## The injection queue -/

/-- A message enters a core's injection queue: its timestamp is written (R166, R168). -/
def inject (s : State) (core : Nat) (dest : Dest) (m : Msg) (cmd : Option Command := none) : State :=
  let m := { m with stamp := BitVec.ofNat 64 s.now }
  countAt (s.modCore core (fun c => { c with inject := c.inject ++ [{ dest := dest, msg := m, cmd := cmd }] })) core 0x4001 1

/-- Whether the injection queue of a core has room (R168). -/
def injectRoom (s : State) (core : Nat) : Bool := decide ((s.core core).inject.length < Config.injectEntries)

/-! ## Watches of `ENDW` -/

/-- A watch armed at its place (R170): a reserved bank watch, tested at once, or a request to its home. -/
def armWatch (s : State) (w : Watch) : State :=
  if w.scratch then
    let x : Word := BitVec.ofNat 64 (s.scratchRead (w.at_ / 2 ^ 18) (w.at_ % 2 ^ 18) 8)
    let w := if x != w.comparand then { w with fired := some x } else w
    { s with bankWatches := s.bankWatches.map (fun r => if r.resv == w.resv then { r with watch := some w } else r) }
  else
    { s with watches := s.watches ++ [{ pa := w.at_, tier := w.tier, va := w.va, comparand := w.comparand, armed := false, fired := none,
                                        who := .endw w }] }

/-! ## Sync objects -/

/-- Bytes of a sync object (Table 8.7): SHR, EXC, EPOCH. -/
def objShr (s : State) (pa : Nat) : Nat := s.homeRead pa 4
/-- EXC. -/
def objExc (s : State) (pa : Nat) : Bool := (s.homeRead (pa + 4) 1).testBit 0
/-- Writes of SHR and EXC: the reserved bits beside EXC are written as zero (R4). -/
def setObj (s : State) (core va pa shr : Nat) (exc : Bool) : State :=
  objWrite (objWrite s core va pa 4 shr) core va (pa + 4) 1 (if exc then 1 else 0)

/-- The lines of an object's bound ranges that a core has dirtied are written back (R151). -/
def publishBound (s : State) (core ctx pa : Nat) : State :=
  match s.binding ctx pa with
  | some b => writeBackIf s (cacheOf core) (fun l => l.dc.getLsbD (dcBit core) && b.holdsLine l.va)
  | none => s

/-- Whether a write of a core to an object's bound ranges is still held, or is on its way to a peer (R260, R337). -/
def boundUnpublished (s : State) (core ctx pa : Nat) : Bool :=
  match s.binding ctx pa with
  | some b => (s.cluster (cacheOf core)).hold.any (fun h => h.of core s.uid && b.holdsLine h.va) || storesAway s (cacheOf core)
  | none => false

/-- EPOCH of an object advances (R151). -/
def stepEpoch (s : State) (core va pa : Nat) : State := objWrite s core va (pa + 8) 4 ((s.homeRead (pa + 8) 4 + 1) % 2 ^ 32)

/-- One release of a hold at its object: `last` for the last of an exclusive holder's (R152). -/
def giveBack (s : State) (core va pa : Nat) (exclusive last : Bool) : State :=
  if exclusive then (if last then setObj s core va pa (objShr s pa) false else s)
  else setObj s core va pa (objShr s pa - 1) (objExc s pa)

/-- `REL` of an object by a thread set (R151, R152): the lines of the bound ranges that its core has dirtied are written
back, EPOCH advances, and one hold is released if there is one. -/
def relObject (s : State) (core ts va pa : Nat) : State :=
  let s := stepEpoch (publishBound s core (s.ctxOf core ts) pa) core va pa
  match (s.tset core ts).holds.find? (fun h => h.pa == pa) with
  | none => s
  | some h =>
    (giveBack s core va pa h.exclusive (decide (h.count = 1))).modTset core ts (fun t => { t with
      holds := if h.count = 1 then t.holds.filter (fun x => x.pa != pa)
        else t.holds.map (fun x => if x.pa == pa then { x with count := x.count - 1 } else x) })

/-- Whether an atomic of a thread set to the bound ranges of an object, issued before a number, is still to be performed (R260). -/
def boundAtomic (s : State) (core ts ctx pa seq : Nat) : Bool :=
  (s.binding ctx pa).any (fun b => (s.tset core ts).pend.any (fun p => decide (p.seq < seq) && (match p.kind with
    | .atomic _ _ _ va _ _ _ none => b.holdsLine (ptrAddr va)
    | _ => false)))

/-- Whether the writes that an ended activation made before its hold is released have reached the cluster cache and the banks, and
none to the bound ranges is held, still to be performed or on its way to a peer; and the object's page takes writes (R152, R260, R337). -/
def owedReady (s : State) (o : Owed) : Bool :=
  let t := s.tset o.core o.ts
  !t.storeq.any (fun q => decide (q.seq < o.seq)) && t.unacked.isEmpty &&
    !t.pend.any (fun p => decide (p.seq < o.seq) && (match p.kind with | .atomic _ 0 _ _ _ _ _ none => true | _ => false)) &&
    !boundUnpublished s o.core o.ctx.toNat o.hold.pa && !boundAtomic s o.core o.ts o.ctx.toNat o.hold.pa o.seq &&
    !pageBlocked s o.core o.hold.va

/-- One owed hold: its writes are published as by `REL`, and each of its releases is made once nothing is on its way to a peer. -/
def settleOne (s : State) (o : Owed) : State :=
  if !owedReady s o then s
  else
    let s := publishBound s o.core o.ctx.toNat o.hold.pa
    if boundUnpublished s o.core o.ctx.toNat o.hold.pa then s
    else
      let s := (List.range o.hold.count).foldl (fun s k =>
        giveBack (stepEpoch s o.core o.hold.va o.hold.pa) o.core o.hold.va o.hold.pa o.hold.exclusive (decide (k + 1 = o.hold.count))) s
      { s with owed := s.owed.filter (fun x => x != o) }

/-- The holds that ended activations of a core still owe are released, those whose writes have landed (R152). -/
def settleOwed (s : State) (core : Nat) : State :=
  (s.owed.filter (fun o => o.core == core)).foldl settleOne s

/-- The same for every core, as an answer of a peer may be what they wait for. -/
def settleAll (s : State) : State := s.owed.foldl settleOne s

/-- Every hold of a thread set released as if by `REL` once its queued writes have landed, each release counted as a fault of its RCB
(R152). -/
def releaseHolds (s : State) (core ts : Nat) (a : Act) : State :=
  let hs := (s.tset core ts).holds
  if hs.isEmpty then s
  else
    let (n, s) := s.fresh
    let s : State := { s with owed := s.owed ++ hs.map (fun h => Owed.mk core ts n a.msg.ctx h) }
    let s := s.modTset core ts (fun t => { t with holds := [] })
    settleOwed (raiseCounter s a.msg.ctx.toNat a.rcb 0xF8 (hs.map (·.count)).sum a.launch) core

/-- Whether a queued `STU` or `ULK` of a thread set is still to free a lock bit (R145). -/
def TSet.unlocks (t : TSet) (at_ : Nat) : Bool :=
  t.storeq.any (fun q => match q.w with | .scratch _ _ _ (some u) => u == at_ | _ => false)

/-- Lock bits of banks freed at the end, each counted (R146); a bit that a queued `STU` or `ULK` frees follows its write (R145). -/
def releaseLocks (s : State) (core ts : Nat) : State :=
  let t := s.tset core ts
  let mine := s.locks.filter (fun l => l.core == core && l.ts == ts && !t.unlocks l.at_)
  countAt { s with locks := s.locks.filter (fun l => !(l.core == core && l.ts == ts && !t.unlocks l.at_)),
                   lockWaits := s.lockWaits.filter (fun l => !(l.core == core && l.ts == ts)) } core 0x0005 mine.length

/-- Results in flight at an end: they hold no credit, and are discarded when they arrive; memory effects that are still to come, and
the order that later stores keep after earlier loads, stand (R56, R140, R250). -/
def dropPend (ps : List Pend) : List Pend :=
  ps.filterMap (fun p => match p.kind with
    | .load .. | .vload .. | .sload .. | .svload .. | .sldl .. | .atomic _ _ _ _ _ _ _ none | .purge .. | .resolve .. =>
      some { p with dropped := true, credit := false }
    | _ => none)

/-- What every end of an activation leaves of its thread set: queued stores, accesses under way, holds and register locks go on. -/
def TSet.ended (t : TSet) : TSet :=
  { t with act := none, tlvl := 0, pend := dropPend t.pend, wait := .none, walk := .none, arrived := [], tried := none, stalled := false,
           sendBuf := [], gEmpty := 0, vEmpty := 0, steps := 0 }

/-- Requests of a thread set withdrawn: a queued `ACQ`, its `SPINW` watches, its `XFENCE`, a
barrier arrival (R152, R154, R156, R348). -/
def withdraw (s : State) (core ts : Nat) : State :=
  let s := { s with acqs := s.acqs.filter (fun a => !(a.core == core && a.ts == ts)),
                    watches := s.watches.filter (fun w => match w.who with | .spin c t _ => !(c == core && t == ts) | _ => true) }
  let s := s.modCore core (fun c => { c with xfences := c.xfences.filter (fun x => x.ts != ts) })
  s.modCluster (cacheOf core) (fun u => { u with
    barriers := u.barriers.map (fun b => (b.1, b.2.bind (fun e =>
      let a := e.arrived.filter (fun x => !(x.1 == dcBit core && x.2.1 == ts))
      if a.isEmpty then none else some { e with arrived := a }))) |>.filter (fun b => b.2.isSome) })

/-! ## Delay accounting (R361, R362) -/

/-- A saturating sum of 48 bits. -/
def satSum (a b : Nat) : Nat := min (a + b) (2 ^ 48 - 1)

/-- A sample added to a slot. -/
def DelaySlot.add (d : DelaySlot) (n tr wt rn last : Nat) : DelaySlot :=
  { d with count := d.count + BitVec.ofNat 32 n, transit := satSum d.transit tr, wait := satSum d.wait wt, run := satSum d.run rn, last := last }

/-- The least recently updated of slots 0 to 15. -/
def oldestSlot (d : List (Nat × DelaySlot)) : Nat :=
  ((List.range 16).foldl (fun (b : Nat × Nat) k => let l := (mget {} d k).last; if l < b.2 then (k, l) else b) (0, (mget {} d 0).last)).1

/-- The update at the end of an activation: keyed by SCORE; the lowest free slot, else the least recently updated,
whose sums go to slot 16. -/
def delayUpdate (s : State) (core : Nat) (a : Act) : State :=
  let popped := match a.origin with | .deque => true | _ => false
  let tr := if popped then 0 else a.arrived - a.msg.stamp.toNat
  let wt := if popped then 0 else a.start - a.arrived
  let rn := s.now - a.start
  let snd := a.msg.score.toNat
  let (n, s) := s.fresh
  s.modCore core (fun c =>
    let d := c.delays
    match (List.range 16).find? (fun k => (mget {} d k).used && (mget {} d k).sender == snd) with
    | some k => { c with delays := mmod {} d k (fun x => x.add 1 tr wt rn n) }
    | none =>
      match (List.range 16).find? (fun k => !(mget {} d k).used) with
      | some k => { c with delays := mmod {} d k (fun _ => ({ sender := snd, used := true } : DelaySlot).add 1 tr wt rn n) }
      | none =>
        let k := oldestSlot d
        let o := mget {} d k
        let d := mmod {} d 16 (fun x => { x.add o.count.toNat o.transit o.wait o.run n with used := true })
        { c with delays := mmod {} d k (fun _ => ({ sender := snd, used := true } : DelaySlot).add 1 tr wt rn n) })

/-! ## Slots and deque records at an end -/

/-- The RUNNING slot of a thread set. -/
def runningSlot (s : State) (core ts : Nat) : Option Nat := findPos (fun (x : Slot) => x.state == .running ts) (s.core core).inbox

/-- The arrivals of the resident context that its saved image still holds take slots in their order (R214, R316). -/
def admitArrivals (s : State) (core ctx : Nat) : List Msg → State
  | [] => modImage s ctx core (fun i => { i with arrivals := [] })
  | m :: rest =>
    if isReply m.kind || decide (slotsUsed (s.core core) false < Config.requestSlots) then admitArrivals (placeMsg s core m) core ctx rest
    else modImage s ctx core (fun i => { i with arrivals := m :: rest })

/-- Held messages of task records take freed request slots, then arrivals of the saved image (R187, R214, R222). -/
def admitReturned (s : State) (core : Nat) : State :=
  match (s.core core).returned with
  | [] => if (savedArrivals s core).isEmpty then s else admitArrivals s core ((s.core core).ctx.getD 0).toNat (savedArrivals s core)
  | r :: rest =>
    if slotsUsed (s.core core) false < Config.requestSlots then
      let x := { r.slot with since := s.cycle core, arrival := s.now }
      notIdle (s.modCore core (fun c => { c with returned := rest, inbox := if r.front then x :: c.inbox else c.inbox ++ [x] })) core
    else s

/-- The slot of a thread set freed. -/
def freeSlot (s : State) (core ts : Nat) : State :=
  match runningSlot s core ts with
  | some k => admitReturned (s.modCore core (fun c => { c with inbox := dropAt c.inbox k })) core
  | none => s

/-- A message that held no slot returns to a request slot, or is held at the core, its age not growing yet (R187, R222). -/
def returnRecord (s : State) (core ts : Nat) (front : Bool) (x : Slot) : State :=
  admitReturned (s.modCore core (fun c => { c with returned := c.returned ++ [⟨front, ts, x⟩] })) core

/-- The records an activation has pushed are unheld (R174): its core is not idle (R227). -/
def unholdRecords (s : State) (core uid : Nat) : State :=
  (List.range (s.core core).dqLen).foldl (fun s k =>
    if ((s.core core).dqOwner[k]?).getD 0 == uid then
      notIdle (s.setScratchLine core (dequeLine (dequeAt (s.core core) k)) (dequeRec s core k &&& ~~~(1#512 <<< 16))) core
    else s) s

/-- The held records of an activation are removed (R174). -/
def dropRecords (s : State) (core uid : Nat) : State :=
  ((List.range (s.core core).dqLen).reverse).foldl (fun s k =>
    if ((s.core core).dqOwner[k]?).getD 0 == uid && recHeld (dequeRec s core k) then dequeRemove s core k else s) s

/-- An element of a launch has ended, or moved to the dead-message ring (R309): the launch remembers the thread set it
ran on and the issue number at its end, for its writes that have still to land (R262, log 60). -/
def launchEnded (s : State) (core ts : Nat) (l : Option Nat) (dead : Bool) : State :=
  match l with
  | none => s
  | some n => { s with launches := s.launches.map (fun x =>
      if x.id == n then { x with ended := x.ended + 1, dead := x.dead + (if dead then 1 else 0), left := x.left ++ [(core, ts, s.uid)] }
      else x) }

/-! ## The normal end (R169) -/

/-- The choice points on a thread set's stack above its base: their addresses, newest last. -/
def choicePoints (t : TSet) : List Nat :=
  match t.act with
  | none => []
  | some a => (List.range ((t.cstop.toNat - a.choiceBase) / 384)).map (fun k => a.choiceBase + 384 * k)

/-- The prune notices of a thread set's discarded choice points whose steal link is stolen (R275, R276). -/
def pruneFor (s : State) (core ts : Nat) (cps : List Nat) : State :=
  cps.foldl (fun s cp =>
    let link : Word := BitVec.ofNat 64 (ownRead s core ts (cp + 0x170) 8)
    if link.getLsbD 63 && isCompute core then
      s.modCluster (clusterOf core) (fun u => { u with prunes := u.prunes ++
        [((BitVec.ofNat 64 (ownRead s core ts (cp + 0x178) 8)) &&& 0xFFFFFFFF, (List.range 16).map (fun k => clusterOf core * 16 + k))] })
    else s) s

/-- A thread set of a core has become free, or its core is about to be idle again: it may ask for work at once (R227, R272). -/
def becameFree (s : State) (core : Nat) : State := s.modCore core (fun c => { c with nextSteal := 0, nextTheft := 0 })

/-- How an activation ends normally, by its trace code (Table 22.6): 0 `END`, 1 `ENDW`, 2 `YIELD`, 3 exhausted, 4 `PRUNED`. -/
abbrev EndCode := Nat

/-- A thread set kept for a theft is free again once the theft's message is gone from its core's inbox (R273). -/
def settleTheft (s : State) (core ts : Nat) : State :=
  match (s.tset core ts).theftGrant with
  | none => s
  | some n =>
    if (s.core core).inbox.any (fun x => x.theft == some n) then s
    else
      { s with thefts := s.thefts.filter (fun x => x.id != n) }.modTset core ts (fun t => { t with theftGrant := none })

/-- The last steps of a normal end, once the held entries of the activation are in the injection queue (R169): locks and holds are
released, and the slot is freed or, for `YIELD`, its message returns last (R187). -/
def finishEnd (s : State) (core ts : Nat) : State :=
  match (s.tset core ts).ending with
  | none => s
  | some (code, a) =>
    let s := releaseHolds (releaseLocks s core ts) core ts a
    let s := if code = 2 then
        match runningSlot s core ts with
        | some k =>
          notIdle (s.modCore core (fun c => match takeAt c.inbox k with
            | some (x, rest) =>
              { c with inbox := rest ++ [{ x with state := .eligible, age := 0, since := s.cycle core, aborts := 0, arrival := s.now }] }
            | none => c)) core
        | none =>
          match a.origin with
          | .deque => returnRecord s core ts false { state := .eligible, msg := a.msg }
          | _ => s
      else launchEnded (freeSlot s core ts) core ts a.launch false
    settleTheft (becameFree (s.modTset core ts (fun t => { t with ending := none })) core) core ts

/-- The released entries of a thread set enter the injection queue in program order while it has room, up to a
`JOIN`; after the last, the end is finished and the deferred watch arms (R169, R170). -/
def releaseFrom (s : State) (core ts : Nat) : List Held → State
  | [] =>
    let s := finishEnd (s.modTset core ts (fun t => { t with releasing := [] })) core ts
    match (s.tset core ts).armAfter with
    | some w => (armWatch s w).modTset core ts (fun t => { t with armAfter := none })
    | none => s
  | .send d m :: rest =>
    if injectRoom s core then releaseFrom (inject s core d m) core ts rest
    else s.modTset core ts (fun t => { t with releasing := .send d m :: rest })
  | .join va x :: rest => s.modTset core ts (fun t => { t with releasing := .join va x :: rest })

/-- The release of what a thread set still has to inject. -/
def releaseMore (s : State) (core ts : Nat) : State := releaseFrom s core ts (s.tset core ts).releasing

/-- A normal end (R169): a speculative activation keeps its entries in the Crucible (R279); otherwise its deque records are unheld,
results are discarded, and its entries are released, after which the end is finished. -/
def endActivation (s : State) (core ts : Nat) (code : EndCode) (watch : Option Watch) : State :=
  let t := s.tset core ts
  match t.act with
  | none => s
  | some a =>
    let s := delayUpdate (withdraw s core ts) core a
    let s := emitTrace s core 3 [traceP a.msg core ts ||| (BitVec.ofNat 64 (if a.spec.isSome then 5 else code)) <<< 38]
    match a.spec with
    | some (cl, id, side) =>
      let s := releaseHolds (releaseLocks s core ts) core ts a
      let s := s.modCluster cl (fun u => { u with decisions := u.decisions.map (fun d => if d.id == id then
        { d with sides := modAt (fun x => { x with entries := t.sendBuf, watch := watch, ended := true }) d.sides side } else d) })
      launchEnded ((freeSlot (becameFree s core) core ts).modTset core ts TSet.ended) core ts a.launch false
    | none =>
      let s := (unholdRecords s core a.uid).modTset core ts (fun t => { t.ended with
        releasing := t.sendBuf, armAfter := watch, ending := some (code, a), relCtx := a.msg.ctx })
      releaseMore s core ts

/-! ## Aborts (R348) -/

/-- The entries of a trail undone, newest first, as writes of a store queue (R181, R275): `n` entries below `top`, and the value of a
global pair whose address comes next. An address that translates nowhere any more is passed over (log 12). -/
def undoWrites (s : State) (core : Nat) (q : List Queued) : Nat → Nat → Option Nat → List QWrite
  | 0, _, _ => []
  | n + 1, top, v =>
    let e := s.queuedRead q core (top - 16) 16
    let old := e / 2 ^ 64
    match v with
    | some x =>
      (match xlatOf s (old % 2 ^ 57) with
       | some y => [QWrite.global (BitVec.ofNat 64 (old % 2 ^ 57)) y ((List.range 8).zip (bytesOf 8 x))]
       | none => []) ++ undoWrites s core q n (top - 16) none
    | none =>
      let sz := e / 2 ^ 24 % 8
      if sz ≤ 3 then
        .scratch core (((List.range (2 ^ sz)).zip (bytesOf (2 ^ sz) old)).map (fun b => (e % 2 ^ 18 + b.1, b.2))) false none ::
          undoWrites s core q n (top - 16) none
      else undoWrites s core q n (top - 16) (if sz = 7 then some old else none)

/-- Writes that follow those in a thread set's store queue, whatever its room (log 66). -/
def queueWrites (s : State) (core ts : Nat) (ws : List QWrite) : State :=
  ws.foldl (fun s w =>
    let (n, s) := s.fresh
    s.modTset core ts (fun t => { t with storeq := t.storeq ++ [{ seq := n, w := w, owner := t.owner }] })) s

/-- Undoes a thief's whole trail, newest first, as `FAIL` does (R275): the undone writes follow its earlier ones (R251). -/
def undoTrail (s : State) (core ts : Nat) : State :=
  let t := s.tset core ts
  let base := (t.act.map (·.trailBase)).getD 0
  (queueWrites s core ts (undoWrites s core t.storeq ((t.trtop.toNat - base) / 16) t.trtop.toNat none)).modTset core ts
    (fun t => { t with trtop := BitVec.ofNat 18 base })

/-- Moves a message to the context's dead-message ring (R222): the entry, or a notice that the ring took nothing. -/
def deadMessage (s : State) (core ts : Nat) (m : Msg) : State :=
  let ctx := m.ctx.toNat
  let root := rootOf s ctx
  let ring := rcbWord s root 0x48
  let log_ := fieldN (rcbWord s root 0x50) 32 5
  let ht := rcbWord s root 0x58
  let tail := fieldN ht 0 32
  let s := launchEnded s core ts m.launch true
  if ring = 0 ∨ (tail + 2 ^ 32 - fieldN ht 32 32) % 2 ^ 32 = 2 ^ log_ then faultNotice s ctx 3 m.id m.tag core 0
  else
    let at_ := ptrAddr ring + 64 * (tail % 2 ^ log_)
    let h0 : Word := m.tag.setWidth 64 ||| m.prio.setWidth 64 <<< 12 ||| (BitVec.ofNat 3 m.len).setWidth 64 <<< 14 |||
      m.kind.setWidth 64 <<< 17 ||| m.ctx.setWidth 64 <<< 20 ||| m.score.setWidth 64 <<< 32 ||| m.seq.setWidth 64 <<< 48
    let ws := h0 :: m.stamp :: (List.range 6).map (fun k => if k < m.len then (m.words[k]?).getD 0 else 0)
    let s := ((List.range 8).zip ws).foldl (fun s p => unitWrite s (at_ + 8 * p.1) 8 p.2.toNat) s
    let s := unitWrite s (ptrAddr root + 0x58) 4 ((tail + 1) % 2 ^ 32)
    faultNotice s ctx 2 m.id m.tag core (BitVec.ofNat 64 at_)

/-- Whether an abort reason counts (Table 20.4). -/
def reasonCounts (reason : Nat) : Bool := decide (reason ≤ 0x40)

/-- What becomes of an aborted activation's message (R222): ELIGIBLE ahead of every other slot, age kept, its count raised
when the abort counts; at the third, the dead-message ring. A popped record becomes a kind-5 message. The count after. -/
def returnMessage (s : State) (core ts : Nat) (a : Act) (counts : Bool) : Nat × State :=
  match runningSlot s core ts with
  | some k =>
    match takeAt (s.core core).inbox k with
    | none => (0, s)
    | some (x, rest) =>
      let n := x.aborts + (if counts then 1 else 0)
      if counts && n == 3 then
        (n, deadMessage (admitReturned (s.modCore core (fun c => { c with inbox := rest })) core) core ts x.msg)
      else
        (n, notIdle (s.modCore core (fun c => { c with inbox := { x with state := .eligible, since := s.cycle core, aborts := n } :: rest })) core)
  | none =>
    match a.origin with
    | .deque =>
      let n := if counts then 1 else 0
      (n, returnRecord s core ts true { state := .eligible, msg := a.msg, aborts := n })
    | _ => (0, s)

/-- An abort without the squash of open decisions: reason, whether the message is kept, and the value its trace record
reports. A killed or losing activation's message is discarded. -/
def abortPlain (s : State) (core ts reason : Nat) (keep : Bool) (detail : Word) : State :=
  let t := s.tset core ts
  match t.act with
  | none => s
  | some a =>
    let s := if a.stolen.isSome then undoTrail s core ts else s
    let s := pruneFor s core ts (choicePoints t)
    let s := becameFree (releaseHolds (releaseLocks (withdraw (dropRecords s core a.uid) core ts) core ts) core ts a) core
    let s := match a.spec with
      | some (cl, id, side) => s.modCluster cl (fun u => { u with decisions := u.decisions.map (fun d => if d.id == id then
          { d with sides := modAt (fun x => { x with held := [], entries := [], watch := none, act := none }) d.sides side } else d) })
      | none => s
    let s := countAt (raiseCounter s a.msg.ctx.toNat a.rcb 0xE8 1 a.launch) core 0x0004 1
    let (n, s) := if keep then returnMessage s core ts a (reasonCounts reason) else (0, freeSlot s core ts)
    let s := emitTrace s core 4
      [traceP a.msg core ts ||| (BitVec.ofNat 64 reason) <<< 40 ||| (BitVec.ofNat 64 (n % 4)) <<< 48, detail]
    let s := s.modTset core ts TSet.ended
    if a.stolen.isSome then settleTheft s core ts else s

/-- The thread set that runs an activation. -/
def findAct (s : State) (uid : Nat) : Option (Nat × Nat) :=
  (s.tsets.find? (fun p => p.2.act.any (fun a => a.uid == uid))).map (fun p => (p.1 / 4, p.1 % 4))

/-- Whether a message is that of one side of a decision. -/
def isSide (cl id side : Nat) (m : Msg) : Bool := m.spec == some (cl, id, side)

/-- The loser of a decision, or a squashed side, settled (R280): aborted without counting if running, its slot FREE if it
waits, its held state discarded. -/
def settleLoser (s : State) (cl : Nat) (d : Decision) (side : Nat) : State :=
  let x := (d.sides[side]?).getD {}
  let s := match x.act.bind (findAct s) with
    | some (c, t) => abortPlain s c t 0x42 false 0
    | none => (match x.act with | some u => dropRecords s x.core u | none => s)
  let s := modSide s (cl, d.id, side) (fun y => { y with held := [], entries := [], watch := none, act := none })
  let gone := isSide cl d.id side
  let holders := (s.cores.filter (fun c => c.2.inbox.any (fun y => gone y.msg))).map (·.1)
  let s : State :=
  { s with bankWatches := s.bankWatches.filter (fun r => !(x.watch.any (fun w => w.scratch && w.resv == r.resv))),
           mail := s.mail.filter (fun m => !gone m.2),
           cores := s.cores.map (fun c => (c.1, { c.2 with inbox := c.2.inbox.filter (fun y => !(gone y.msg)) })),
           contexts := s.contexts.map (fun c => (c.1, c.2.map (fun k => { k with saved := k.saved.map (fun i =>
             (i.1, { i.2 with slots := i.2.slots.filter (fun y => !gone y.msg), arrivals := i.2.arrivals.filter (fun y => !gone y) })) }))) }
  holders.foldl admitReturned s

/-- The open decisions of an activation squashed whole (R184). -/
def squashDecisions (s : State) (core uid : Nat) : State :=
  let cl := clusterOf core
  let mine := (s.cluster cl).decisions.filter (fun d => d.act == uid && d.winner.isNone)
  let s := mine.foldl (fun s d => settleLoser (settleLoser s cl d 0) cl d 1) s
  s.modCluster cl (fun u => { u with decisions := u.decisions.filter (fun d => d.act != uid || d.winner.isSome) })

/-- An abort (R348). -/
def abortActivation (core ts reason : Nat) (detail : Word) (s : State) : State :=
  match (s.tset core ts).act with
  | none => s
  | some a => squashDecisions (abortPlain s core ts reason (reason != 0x43) detail) core a.uid

/-! ## The kill of a context (R349) -/

/-- Entries of a map that belong to no core of a list, `per` numbers to a core. -/
def keepCores {α : Type} (per : Nat) (cs : List Nat) (m : List (Nat × α)) : List (Nat × α) :=
  m.filter (fun p => !cs.contains (p.1 / per))

/-- The local memories, core-scope registers and caches of cores zeroed or dropped. -/
def scrubCores (s : State) (cs : List Nat) : State :=
  let s := { s with scratch := keepCores 3072 cs s.scratch, abuf := keepCores 2048 cs s.abuf, wbuf := keepCores 4096 cs s.wbuf,
                    cbuf := keepCores 1024 cs s.cbuf, sramBad := keepCores 24576 cs s.sramBad,
                    abufBad := keepCores 2048 cs s.abufBad, wbufBad := keepCores 4096 cs s.wbufBad, cbufBad := keepCores 1024 cs s.cbufBad,
                    aside := keepCores 32 cs s.aside, wside := keepCores 64 cs s.wside,
                    asideBad := keepCores 32 cs s.asideBad, wsideBad := keepCores 64 cs s.wsideBad,
                    locks := s.locks.filter (fun l => !cs.contains (l.at_ / 48)) }
  cs.foldl (fun s c => s.modCore c (fun k => { k with
    bfmt0 := 0, bfmt1 := 0, bfmt2 := 0, afmt := 0, wfmt := 0, cfmt := 0, cbk := [], mrland := 0, anvil := [], halves := [], inbox := [],
    returned := [], replyReserved := 0, dqLen := 0, dqTop := 0, dqOwner := [], tagOff := [], handlers := [], plb := [], round := [], asking := [],
    rcb := 0 })) s

/-- Whether a launch is open: accepted, and its completion record still to be written. A refused one has a status of its refusal. -/
def Launch.isOpen (l : Launch) : Bool := l.status.isNone || l.status == some 0 || l.status == some 5

/-- Work of a context in every unit discarded (steps 2 and 3); its open launches complete KILLED, after the writes that its elements have
left in their queues (R262, R309). -/
def dropWork (s : State) (ctx : Nat) : State :=
  let mine := fun (c : BitVec 12) => c.toNat == ctx
  let (n, s) := s.fresh
  { s with
    watches := s.watches.filter (fun w => match w.who with | .endw x => !mine x.ctx | .spin c t _ => s.ctxOf c t != ctx),
    bankWatches := s.bankWatches.filter (fun w => !mine w.ctx),
    clusters := s.clusters.map (fun c => (c.1, { c.2 with
      decisions := c.2.decisions.filter (fun d => !mine d.ctx), graph := c.2.graph.filter (fun g => !mine g.ctx),
      stream := c.2.stream.filter (fun x => !mine x.ctx), barriers := c.2.barriers.filter (fun b => match b.2 with | some e => !mine e.ctx | none => true) })),
    leases := s.leases.map (fun l => (l.1, { cmds := l.2.cmds.filter (fun c => !mine c.cmd.ctx) })),
    cores := s.cores.map (fun c => (c.1, { c.2 with
      anvil := c.2.anvil.filter (fun a => !mine a.ctx), halves := c.2.halves.filter (fun h => !mine h.ctx),
      inject := c.2.inject.filter (fun e => !e.cmd.any (fun c => mine c.ctx)) })),
    flights := s.flights.filter (fun f => !mine f.half.ctx),
    thefts := s.thefts.filter (fun x => !mine x.ctx),
    due := s.due.filter (fun d => !mine d.ctx),
    stolen := s.stolen.filter (fun x => (x.record.extractLsb' 20 12).toNat != ctx),
    queues := s.queues.map (fun q => (q.1, { q.2 with arms := q.2.arms.filter (fun a => !mine a.2.1) })),
    launches := s.launches.map (fun l => if mine l.ctx && (l.status.isNone || l.status == some 0) then { l with
      status := some 5, endSeq := if l.status.isNone then n else l.endSeq,
      left := l.left ++ l.region.cores.flatMap (fun c => (List.range 4).map (fun t => (c, t, s.uid))) } else l),
    tsets := s.tsets.map (fun t => (t.1,
      let t' := if t.2.reserved.any (fun n => s.launches.any (fun l => l.id == n && mine l.ctx)) then { t.2 with reserved := none } else t.2
      let t' := if t'.theftGrant.any (fun n => s.thefts.any (fun x => x.id == n && mine x.ctx)) then { t' with theftGrant := none } else t'
      if mine t'.relCtx then { t' with releasing := [], armAfter := none } else t')) }

/-- No cached line carries a binding tag of a context any more (R2, R150). -/
def endBindings (s : State) (ctx : Nat) : State :=
  { s with clusters := s.clusters.map (fun c => (c.1, { c.2 with
    lines := c.2.lines.map (fun l => if l.tv && l.bctx.toNat == ctx then { l with tv := false } else l) })) }

/-- The kill of a context with a reason of Table 20.7, caused by a thread set of a core or by none (`Config.noCore`). -/
def killContext (ctx reason core ts : Nat) (s : State) : State :=
  match s.context ctx with
  | none => s
  | some c =>
    if c.killed then s
    else
      let id := ((s.tset core ts).act.map (fun a => a.msg.id)).getD 0
      let s := s.modContext ctx (fun c => { c with killed := true })
      let running := s.tsets.filterMap (fun p => match p.2.act with
        | some a => if a.msg.ctx.toNat = ctx then some p.1 else none
        | none => none)
      let s := running.foldl (fun s k => abortActivation (k / 4) (k % 4) 0x43 0 s) s
      let ending := s.tsets.filterMap (fun p => if p.2.ending.any (fun e => e.2.msg.ctx.toNat == ctx) then some p.1 else none)
      let s := ending.foldl (fun s k => finishEnd (s.modTset (k / 4) (k % 4) (fun t => { t with releasing := [], armAfter := none })) (k / 4) (k % 4)) s
      let here := (s.cores.filter (fun p => p.2.ctx == some (BitVec.ofNat 12 ctx) ||
        (p.2.ctx.isNone && p.2.last == some (BitVec.ofNat 12 ctx)))).map (·.1)
      let s := scrubCores (dropWork s ctx) here
      let s := endBindings (s.modContext ctx (fun c => { c with saved := [], moved := [], events := [], bindings := [] })) ctx
      supervisorNotice s c.partition 1 reason ctx core ts 0 id

end Sys2Proof.Machine
end

