-- ==== Sys2Proof/Machine/Queues.lean ====
section
/-! DEFINITION. Work queues as every unit sees them (R294, Table 17.3), and their progress watchdogs (R317). -/

namespace Sys2Proof.Machine

/-- A field of a queue's control block (Table 17.3). -/
def queueField (s : State) (q off n : Nat) : Nat := s.homeRead ((s.queue q).block + off) n
/-- Whether a queue has a control block (R294). -/
def queueValid (s : State) (q : Nat) : Bool :=
  let b := (s.queue q).block
  let ring := queueField s q 0 8
  let note := queueField s q 40 4
  decide (b ≠ 0) && decide (ring ≠ 0) && decide (ring % 128 = 0) && decide (queueField s q 8 8 % 16 = 0) &&
    decide (queueField s q 32 1 ≤ 16) && decide (queueField s q 33 1 ≤ 16) && decide (queueField s q 34 2 = 0) &&
    decide (queueField s q 44 20 = 0) && decide (note / 2 ^ 27 % 16 = 0) && decide (note / 2 ^ 14 % 4 = 0)
/-- 2^K: records of the launch ring. -/
def queueSize (s : State) (q : Nat) : Nat := 2 ^ queueField s q 32 1
/-- Records in a launch ring. -/
def queueLen (s : State) (q : Nat) : Nat := (queueField s q 16 4 + 2 ^ 32 - queueField s q 20 4) % 2 ^ 32
/-- Whether a queue is full. -/
def queueFull (s : State) (q : Nat) : Bool := queueLen s q == queueSize s q
/-- Whether a queue is assigned to a partition. -/
def queueOf (s : State) (p q : Nat) : Bool := decide (q < 16384) && (s.partition p).blocks.contains (q / 64)
/-- The address of entry `x` of a launch ring. -/
def queueEntry (s : State) (q x : Nat) : Nat := queueField s q 0 8 + 128 * (x % queueSize s q)

/-- Bytes written at virtual addresses, at their homes. -/
def unitWriteBytes (s : State) (va : Nat) (bs : List Byte) : State :=
  ((List.range bs.length).zip bs).foldl (fun s p => unitWrite s (va + p.1) 1 p.2.toNat) s
/-- Bytes read at virtual addresses, at their homes. -/
def unitReadBytes (s : State) (va n : Nat) : List Byte :=
  (List.range n).map (fun k => BitVec.ofNat 8 (unitRead s (va + k) 1))

/-- The context of a launch record. -/
def recordCtx (bs : List Byte) : Nat := natOfBytes (bs.take 8) / 256 % 4096

/-- The contexts for which the progress watchdog of a queue counts (R317): they have the record at its head or an open launch of it, are
resident, and no core of them is stopped (R369). -/
def countingCtxs (s : State) (q : Nat) : List Nat :=
  let head := if queueValid s q && queueLen s q != 0 then [recordCtx (unitReadBytes s (queueEntry s q (queueField s q 20 4)) 8)] else []
  let open_ := s.launches.filterMap (fun l => if l.queue == some q && l.isOpen then some l.ctx.toNat else none)
  (head ++ open_).filter (fun c =>
    s.cores.any (fun k => k.2.ctx == some (BitVec.ofNat 12 c)) &&
      !s.cores.any (fun k => k.2.ctx == some (BitVec.ofNat 12 c) && k.2.stopped))

/-- Whether the progress watchdog of a queue counts. -/
def queueCounts (s : State) (q : Nat) : Bool := !(countingCtxs s q).isEmpty

/-- The progress watchdog brought up to date: it counts from now on, or keeps what it has counted. -/
def queueTick (s : State) (q : Nat) : State :=
  s.modQueue q (fun x =>
    match x.since, queueCounts s q with
    | none, true => { x with since := some s.now }
    | some t, false => { x with since := none, counted := x.counted + (s.now - t) }
    | _, _ => x)

/-- Every progress watchdog brought up to date. -/
def tickQueues (s : State) : State := (s.queues.map (·.1)).foldl queueTick s

end Sys2Proof.Machine
end

