-- ==== Sys2Proof/Machine/Ops.lean ====
section
/-! DEFINITION. What every instruction word shares: the order of checks at issue (R36), guards (R29, R30),
hints (R31), taking an exception and returning from one (R343 to R345), long-latency results (R52). -/

namespace Sys2Proof.Machine

/-- The outcome of a step or a meaning. -/
abbrev Outcome := Host.Outcome State Fault Refusal

/-! ## Taking an exception, and the return from one -/

/-- The changes of Table 20.1 to the thread set at entry to level `lvl` + 1. -/
def TSet.enterTrap (t : TSet) (cause : Nat) (epc tval : Word) : TSet :=
  let l := t.tlvl
  let tc : Word := BitVec.ofNat 64 (l * 256 + cause)
  let b := 28 + 4 * (l + 1)
  let t := [b, b + 1, b + 2, b + 3].foldl (fun t k => (t.writeGRaw k 0).fullG k) t
  let t := if l = 0 then { t with tcause1 := tc, tepc1 := epc, tval1 := tval }
           else { t with tcause2 := tc, tepc2 := epc, tval2 := tval }
  { t with tlvl := l + 1, pc := t.tvec.setWidth 64, wait := .none, walk := .none, arrived := [], tried := none }

/-- Taking the exception `cause` at an instruction whose saved pc is `epc` (R343): a speculative
activation stops until `RESOLVE` (R279); with `TVEC` = 0 the activation is aborted, counted; below level 2 the
next level is entered; a third level kills the context (R349). Entry takes 4 cycles. -/
def takeTrap (cause : Nat) (tval epc : Word) (s : State) : State :=
  let t := s.me
  match t.act.bind (·.spec) with
  | some _ =>
    s.modMe (fun t => { t with act := t.act.map (fun a => { a with specTrap := some cause }), wait := .none, walk := .none })
  | none =>
    if t.tvec = 0 then abortActivation s.curCore s.curTs cause tval s
    else if t.tlvl < 2 then
      let s := match t.act with
        | some a => emitTrace s s.curCore 5
            [traceP a.msg s.curCore s.curTs ||| (BitVec.ofNat 64 (t.tlvl + 1)) <<< 38 ||| (BitVec.ofNat 64 cause) <<< 40, epc]
        | none => s
      s.modMe (fun t => { t.enterTrap cause epc tval with readyAt := s.cycle s.curCore + 4 })
    else killContext (s.ctxOf s.curCore s.curTs) 1 s.curCore s.curTs s

/-- `TRET` at a level above 0 (Table 20.1): the pc is the level's TEPC, the level drops by one. -/
def TSet.trapReturn (t : TSet) : TSet :=
  let epc := if t.tlvl = 1 then t.tepc1 else t.tepc2
  { t with pc := (epc.setWidth 57).setWidth 64, tlvl := t.tlvl - 1 }

/-! ## Issue -/

/-- How an instruction uses OD. -/
inductive OdUse where
  /-- OD is unused or not a register. -/
  | none
  /-- OD is written only. -/
  | write
  /-- OD is read and written. -/
  | both
  /-- OD is read only. -/
  | read
  deriving DecidableEq, Repr

/-- The predicate value a guard selects (R29). -/
def guardMask (t : TSet) (g : Guard) : Word := if g.neg then ~~~t.readP g.p.toNat else t.readP g.p.toNat

/-- Whether an instruction is executed: bit 0 of its guard, or some participating lane bit (R30). -/
def guardHolds (t : TSet) (g : Guard) (lanes : Option Nat) : Bool :=
  match lanes with
  | none => (guardMask t g).getLsbD 0
  | some n => decide ((guardMask t g).toNat % 2 ^ n ≠ 0)

/-- Whether the parity of a guard's predicate fails (R354). -/
def guardFails (t : TSet) (g : Guard) : Bool := g.p != 0 && t.gPar.getLsbD (predNum g.p.toNat)

/-- DESIGN CHOICE (log 42): a guard stands at none of the positions, so TVAL of its parity fault holds position 0 and the number of its
predicate. -/
def guardTval (g : Guard) : Word := posTval 0 (g.p.setWidth 24)

/-- The hints of an instruction that does not trap (R31): YS passes the slot on, SD delays the thread set. -/
def applyHints (h : Hints) (s : State) : State :=
  let s := if h.ys then s.modMyCore (fun c => { c with pass := true }) else s
  if h.sd = 0 then s
  else s.modMe (fun t => { t with readyAt := max t.readyAt (s.cycle s.curCore + 1 + h.sd.toNat) })

/-- A stalled instruction: it keeps its requests and will issue again at the same address (R63). -/
def markStall (s : State) : State :=
  s.modMe (fun t => { t with pc := s.ia, stalled := true })

/-- The state in which an instruction's effects take place: its address noted, the pc past it (R23), no wait. -/
def begin (s : State) : State :=
  let t := s.me
  { s.modMe (fun t => { t with pc := t.pc + 12, stalled := false }) with ia := t.pc }

/-- Nothing of an instruction that has completed is left waiting. -/
def TSet.settled (t : TSet) : TSet := { t with wait := .none, walk := .none, arrived := [], tried := none }

/-- The end of an instruction: its next state with its hints, its trap taken on the state before it (R36), or
its stall. -/
def conclude (h : Hints) (s : State) (r : Except Stop State) : Outcome :=
  match r with
  | .ok s' => .next (applyHints h (s'.modMe TSet.settled))
  | .error (.trap cause tval) => .next (takeTrap cause tval s.me.pc { s with ia := s.me.pc })
  | .error (.stall s') => .next (markStall s')
  | .error (.took s') => .next s'

/-- The registers an instruction reads and writes besides those of its three positions. -/
structure Extra where
  srcs : List Src := []
  dsts : List (Bool × Nat) := []
  deriving DecidableEq, Repr

/-- The sources of a form in the order OD, OA, OB; a cursor in OD that names where the result goes is one. -/
def formSrcs (t : TSet) (use : OdUse) (f : Form) : List Src :=
  (match use, f.od with
    | .both, o | .read, o | .write, o@(.c _ _ _) => srcOf t 1 o
    | _, _ => []) ++ srcOf t 2 f.oa ++ srcOf t 3 f.ob

/-- The destination of a form. -/
def formDsts (t : TSet) (use : OdUse) (f : Form) : List (Bool × Nat) :=
  match use with | .write | .both => dstOf t f.od | _ => []

/-- The predicates that the positions of a form name. -/
def formPreds (f : Form) : List Nat :=
  [f.od, f.oa, f.ob].flatMap (fun o => match o with | .p i => [i.toNat] | _ => [])

/-- Whether some of these predicates is not ready yet (R98). -/
def predsLate (s : State) (ps : List Nat) : Bool := ps.any (fun p => s.me.isLate (128 + p) (s.cycle s.curCore))

/-- An instruction from step 6 on (Table 2.3): its privilege check, its guard with its parity (R354), the interlocks of its
registers and of its predicates `ps`, and its own effect `body` on the state whose pc is past it. -/
def runWith (g : Guard) (h : Hints) (lanes : Option Nat) (priv : Except Stop Unit) (ps : List Nat) (srcs : List Src)
    (dsts : List (Bool × Nat)) (body : State → Except Stop State) (s : State) : Outcome :=
  match s.powered, priv with
  | false, _ => .fault .noPower
  | true, .error e => conclude h s (.error e)
  | true, .ok _ =>
    if predsLate s [g.p.toNat] then conclude h s (.error (.stall (begin s)))
    else if guardFails s.me g then conclude h s (.error (.trap 0x14 (guardTval g)))
    else if guardHolds s.me g lanes then
      if predsLate s ps then conclude h s (.error (.stall (begin s)))
      else conclude h s (match checkRegs (begin s) s.me srcs dsts with | .error e => .error e | .ok _ => body (begin s))
    else .next (applyHints h (begin s))

/-- An instruction of a form. -/
def run (f : Form) (lanes : Option Nat) (use : OdUse) (body : State → Except Stop State) (s : State) : Outcome :=
  runWith f.guard f.hints lanes (.ok ()) (formPreds f) (formSrcs s.me use f) (formDsts s.me use f) body s

/-- `run` with further registers read or written. -/
def runExtra (f : Form) (use : OdUse) (x : Extra) (body : State → Except Stop State) (s : State) : Outcome :=
  runWith f.guard f.hints none (.ok ()) (formPreds f) (formSrcs s.me use f ++ x.srcs) (formDsts s.me use f ++ x.dsts) body s

/-- The key of the register an operand names; none for what no instruction waits for. -/
def operandKey (t : TSet) (o : Operand) : Option Nat :=
  match o with
  | .g i _ => some (gIndex t.tlvl i.toNat)
  | .v i _ => some (64 + i.toNat)
  | .p i => some (128 + i.toNat)
  | _ => none

/-- The result in an operand can be read `n` cycles after the issue of its producer (R52, R98); after one cycle nothing waits. -/
def readyIn (n : Nat) (o : Operand) (s : State) : State :=
  if n ≤ 1 then s
  else
    match operandKey s.me o with
    | some k => s.modMe (fun t => t.setLate k (s.cycle s.curCore + n))
    | none => s

/-- An ordinary producer of one cycle: its result is a function of the thread set, written to g[OD] (R98). -/
def runToG (f : Form) (use : OdUse) (result : TSet → Word) (s : State) : Outcome :=
  run f none use (fun s => .ok (s.modMe (fun t => t.writeG (regOf f.od) (result t)))) s

/-- An ordinary producer of one cycle that writes p[OD]. -/
def runToP (f : Form) (result : TSet → Word) (s : State) : Outcome :=
  run f none .none (fun s => .ok (s.modMe (fun t => t.writeP (regOf f.od) (result t)))) s

/-- The core's issue slot is held for `n` cycles more than the instruction's own, by collisions in a bank, which are counted (R59, R364). -/
def holdSlot (n : Nat) (s : State) : State :=
  if n = 0 then s
  else
    let s := s.modMyCore (fun c => { c with nextIssue := max c.nextIssue (s.cycle s.curCore + 1 + n) })
    slotsTaken (countAt s s.curCore 0x0006 n) s.curCore n

/-! ## Long-latency results -/

/-- Adds a result in flight to g register `i` and marks it empty (R52). A result to g0 is discarded on
arrival (R47). -/
def pendG (s : State) (i : Nat) (credit : Bool) (addr : Word) (kind : PendKind) : State :=
  let k := gIndex s.me.tlvl i
  let (n, s) := s.fresh
  s.modMe (fun t => { t.emptyG k with
    pend := t.pend ++ [{ seq := n, isV := false, reg := k, credit := credit, addr := addr, owner := t.owner, kind := kind }] })

/-- The same for v register `i`. -/
def pendV (s : State) (i : Nat) (credit : Bool) (addr : Word) (kind : PendKind) : State :=
  let (n, s) := s.fresh
  s.modMe (fun t => { t.emptyV i with
    pend := t.pend ++ [{ seq := n, isV := true, reg := i, credit := credit, addr := addr, owner := t.owner, kind := kind }] })

/-- Reply credits of a core that are in use, by results in flight and by instructions that wait for a bank or a peer, and how many
`SPINW` holds (R140). -/
def creditsUsed (s : State) (core : Nat) : Nat × Nat :=
  let ps := (List.range 4).flatMap (fun k => (s.tset core k).pend)
  let held := (List.range 4).filter (fun k => match (s.tset core k).wait with | .lock _ c => c | .checked _ c => c | .wide _ _ => true | _ => false)
  ((ps.filter (·.credit)).length + held.length,
   (ps.filter (fun p => p.credit && (match p.kind with | .spinw _ _ _ _ => true | _ => false))).length)

/-- A request stalls while the core has no free reply credit (R140). -/
def needCredit (s : State) : Except Stop Unit :=
  if (creditsUsed s s.curCore).1 < Config.replyCredits then .ok () else .error (.stall s)

/-- A trap taken by an instruction that is under way (R343): the pc is its own again. -/
def trapNow (cause : Nat) (tval : Word) (s : State) : State := takeTrap cause tval s.ia (s.modMe (fun t => { t with pc := s.ia }))

/-- The thread set under execution as one that asks peers for lines: by its activation (R255). -/
def State.asker (s : State) : Asker := .act ((s.me.act.map (·.uid)).getD 0)

/-- The wait of an instruction whose access has passed its checks, for a word at a peer: it holds a reply credit (R140). -/
def waitPeer {α : Type} (s : State) (x : Xlat) : Except Stop α :=
  .error (.stall (s.modMe (fun t => { t with wait := .checked x true })))

/-- The checks of an access whose instruction may have come to wait since: they are made once, and then a credit is free for its
request (R138, R140). -/
def checkedOnce (s : State) (check : Except Stop Xlat) : Except Stop Xlat :=
  match s.me.wait with
  | .checked x _ => .ok x
  | _ => do
    let x ← check
    needCredit s
    pure x

/-- The trap of a bad value in a position (R53, R105): `ILLEGAL_OPERAND` naming the position. -/
def badOperand {α : Type} (pos : Nat) (o : Operand) : Except Stop α :=
  .error (.trap 0x02 (posTval pos (encodeField o)))

end Sys2Proof.Machine
end

