-- ==== Sys2Proof/Machine/Flags.lean ====
section
/-! DEFINITION. The scalar floating exceptions: the flags of `FPCTL`, their merging, and the trap `FP`
(R75, R76, R111, R114). -/

namespace Sys2Proof.Machine

/-- The enables of `FPCTL` (Table 4.4). -/
def fpEnables (fpctl : Word) : BitVec 5 := fpctl.extractLsb' 0 5
/-- The flags of `FPCTL`. -/
def fpFlags (fpctl : Word) : BitVec 5 := fpctl.extractLsb' 8 5
/-- `FPCTL` with exceptions merged into its sticky flags (R114). -/
def fpMerge (fpctl : Word) (exc : BitVec 5) : Word := fpctl ||| (exc.setWidth 64 <<< 8)

/-- What an exception vector does at an instruction under `FPCTL`: a precise trap `FP` when a raised exception is
enabled, with those in TVAL[4:0], and otherwise the merge (R76). -/
def fpOutcome (t : TSet) (exc : BitVec 5) : Except Stop TSet :=
  if exc &&& fpEnables t.fpctl = 0 then .ok { t with fpctl := fpMerge t.fpctl exc }
  else .error (.trap 0x09 ((exc &&& fpEnables t.fpctl).setWidth 64))

/-- The hold of R111: with any enable set, the thread set issues nothing until `n` cycles after the issue. -/
def fpHold (s : State) (enables : BitVec 5) (n : Nat) : State :=
  if enables = 0 then s
  else s.modMe (fun t => { t with readyAt := max t.readyAt (s.cycle s.curCore + n) })

end Sys2Proof.Machine
end

