-- ==== Sys2Proof/Machine/Operands.lean ====
section
/-! DEFINITION. Operand delivery of the lane instructions and every access of a core to scratchpads (R26,
R45, R58 to R62, R115 to R117, R179, R226, R250, R251). -/

namespace Sys2Proof.Machine

/-! ## Lanes -/

/-- The lane width of an element type code (R115). -/
def laneBits (ty : Nat) : Nat := match ty with | 0 | 3 | 4 => 32 | 1 | 2 | 5 => 16 | _ => 8
/-- The lane count of an element type code. -/
def laneCount (ty : Nat) : Nat := 512 / laneBits ty
/-- The lanes of a line at width `w`. -/
def lanesOf (w : Nat) (l : Line) : List Nat := (List.range (512 / w)).map (fun i => (l.extractLsb' (w * i) w).toNat)
/-- The line of lanes at width `w`, lane 0 first. -/
def packLanes (w : Nat) (ls : List Nat) : Line := BitVec.ofNat 512 (ls.foldr (fun x acc => x % 2 ^ w + 2 ^ w * acc) 0)
/-- The floating format of the types `.f32`, `.f16` and `.bf16`. -/
def laneFmt (ty : Nat) : Fmt := match ty with | 0 => fp32 | 1 => fp16 | _ => bf16
/-- Whether an element type is unsigned: `.n32` (R121). -/
def laneUnsigned (ty : Nat) : Bool := ty == 4
/-- The integer value of a lane by its type. -/
def laneInt (ty : Nat) (x : Nat) : Int := if laneUnsigned ty then x else signedOf (laneBits ty) x
/-- Whether an element type is floating. -/
def laneIsFloat (ty : Nat) : Bool := decide (ty < 3)

/-- The active lanes under a guard mask (R29). -/
def activeLanes (mask : Word) (n : Nat) : List Bool := (List.range n).map (fun i => mask.getLsbD i)
/-- New lanes where active, old ones elsewhere (R117). -/
def mergeLanes (act : List Bool) (new old : List Nat) : List Nat :=
  List.zipWith (fun (a : Bool) (p : Nat × Nat) => if a then p.1 else p.2) act (new.zip old)

/-! ## Reads -/

/-- Whether a result in flight is an outstanding remote scratchpad load (R251). -/
def Pend.isScratch (p : Pend) : Bool :=
  match p.kind with | .sload .. | .svload .. | .sldl .. | .cursor .. => true | _ => false

/-- A scratchpad read waits while an earlier remote load of the thread set is outstanding, while an earlier
write of its own to a line it reads is still queued (R60, R251), and, in the remote form, while any earlier write of
its own to that core is queued (R234). -/
def scratchReadWaits (t : TSet) (a : SAddr) (lines : List Nat) : Bool :=
  t.pend.any Pend.isScratch ||
  t.storeq.any (fun q => match q.w with
    | .scratch core bs _ _ => core == a.core && (a.remote || bs.any (fun b => lines.contains (b.1 / 64)))
    | _ => false)

/-- Stalls a read that must wait. -/
def needScratch (s : State) (a : SAddr) (lines : List Nat) : Except Stop Unit :=
  if scratchReadWaits s.me a lines then .error (.stall s) else needPath s 0

/-! ## Writes and the trail -/

/-- Whether an aligned word of 8 bytes lies in the search frame (R179). -/
def inFrame (t : TSet) (addr : Nat) : Bool :=
  decide (t.sfbase.toNat ≤ addr) && decide (addr < t.sfbase.toNat + t.sflen.toNat)

/-- The value of `n` bytes of the local scratchpad as the thread set sees it: its own queued writes over
what has landed. -/
def seenScratch (s : State) (core addr n : Nat) : Nat :=
  natOfBytes ((List.range n).map (fun k =>
    s.me.storeq.foldl (fun b q => match q.w with
      | .scratch c bs _ _ => if c = core then ((bs.reverse.find? (fun x => x.1 == addr + k)).map (·.2)).getD b else b
      | _ => b) (seenByte s core (addr + k))))

/-- The 16 bytes of a trail entry (Table 9.7). -/
def trailEntry (sz off old : Nat) : Nat := old * 2 ^ 64 + sz * 2 ^ 24 + off

/-- The trail entries a local write needs (R179): its own size for `.b`, `.h` and `.w`, else one for each
aligned word of the frame in which it writes, in ascending order. -/
def trailNeeds (s : State) (t : TSet) (core : Nat) (bs : List (Nat × Byte)) (size : Option Nat) : List Nat :=
  match size with
  | some sz =>
    match bs with
    | [] => []
    | b :: _ => if inFrame t b.1 then [trailEntry sz b.1 (seenScratch s core b.1 (2 ^ sz))] else []
  | none =>
    let ws := (bs.map (fun b => b.1 / 8 * 8)).filter (inFrame t)
    (ws.foldr insertUniq []).map (fun a => trailEntry 3 a (seenScratch s core a 8))

/-- The bytes of trail entries pushed at an address of the scratchpad. -/
def trailBytes (top : Nat) (es : List Nat) : List (Nat × Byte) :=
  es.zipIdx.flatMap (fun e => ((List.range 16).zip (bytesOf 16 e.1)).map (fun p => (top + 16 * e.2 + p.1, p.2)))

/-- TRTOP moved past `n` entries that have been pushed. -/
def pushedTrail (n : Nat) (s : State) : State :=
  if n = 0 then s else s.modMe (fun t => { t with trtop := BitVec.ofNat 18 (t.trtop.toNat + 16 * n) })

/-- Trail entries pushed by themselves enter the store queue as its writes do (R60, R180). -/
def queueTrail (s : State) (es : List Nat) : Except Stop State :=
  let top := s.me.trtop.toNat
  if Config.storeEntries ≤ s.me.storeq.length then .error (.stall s)
  else
    let (n, s) := (pushedTrail es.length s).fresh
    .ok (s.modMe (fun t => { t with storeq := t.storeq ++ [⟨n, .scratch s.curCore (trailBytes top es) false none, t.owner⟩] }))

/-- Bytes of a speculative activation put into its private window, line by line (R277). -/
def holdScratch (s : State) (bs : List (Nat × Byte)) : Except Stop State :=
  ((bs.map (fun b => b.1 / 64)).foldr insertUniq []).foldlM (fun s l => holdBytes s (s.mySpec.getD (0, 0, 0)) true l 0 {}
    (bs.filterMap (fun b => if b.1 / 64 = l then some (b.1 % 64, b.2) else none))) s

/-- Bytes that an instruction writes to the local scratchpad by itself: they enter the store queue (R60), or the private window of a
speculative activation (R277), and stall while there is no room. -/
def queueLocal (s : State) (bs : List (Nat × Byte)) : Except Stop State :=
  if s.mySpec.isSome then (match holdScratch s bs with | .ok s' => .ok s' | .error _ => .error (.stall s))
  else if Config.storeEntries ≤ s.me.storeq.length then .error (.stall s)
  else
    let (n, s) := s.fresh
    .ok (s.modMe (fun t => { t with storeq := t.storeq ++ [⟨n, .scratch s.curCore bs false none, t.owner⟩] }))

/-- Whether the writes of a thread set are trailed: its choice stack is not empty, or it is a thief, whose trailing is active from its
first instruction (R179, R274). -/
def TSet.choiceOpen (t : TSet) : Bool := t.act.any (fun a => a.stolen.isSome || decide (a.choiceBase < t.cstop.toNat))

/-- A write of the thread set to a scratchpad: it is trailed if it reaches the core's own scratchpad (log 10) inside the frame under an open
choice point, `TRAIL_OVF` if the trail lacks room, and enters the store queue, its trail entries with it, stalling when that is full
(R60, R179, R250). -/
def scratchStore (s : State) (a : SAddr) (bs : List (Nat × Byte)) (size : Option Nat) (unlock : Option Nat := none) :
    Except Stop State :=
  let t := s.me
  let need := if t.choiceOpen && a.core == s.curCore then trailNeeds s t a.core bs size else []
  let room := (t.act.map (·.trailEnd)).getD 0
  if bs.isEmpty && unlock.isNone then .ok s
  else if room < t.trtop.toNat + 16 * need.length && !need.isEmpty then .error (.trap 0x20 (t.trtop.setWidth 64))
  else if Config.storeEntries ≤ t.storeq.length || !(needPath s 0).isOk then .error (.stall s)
  else if s.thefts.any (fun x => x.victim == s.curCore && x.victimTs == s.curTs && !x.copied &&
      (!need.isEmpty || bs.any (fun b => inFrame t b.1))) then .error (.stall s)
  else if s.mySpec.isSome then
    if a.remote || unlock.isSome then .error (.stall s)
    else
      match holdScratch s (trailBytes t.trtop.toNat need ++ bs) with
      | .ok s' => .ok (pushedTrail need.length s')
      | .error _ => .error (.stall s)
  else
    let w : QWrite := .scratch a.core (trailBytes t.trtop.toNat need ++ bs) a.remote unlock
    let (n, s) := (pushedTrail need.length s).fresh
    .ok (s.modMe (fun t => { t with storeq := t.storeq ++ [⟨n, w, t.owner⟩] }))

/-! ## Cursors -/

/-- The scratchpad address of cursor `i`. -/
def cursorAddr (s : State) (i : Nat) : SAddr := saddrOf s.curCore (s.me.readC i)

/-- The address of a cursor after an increment: bits 17:0 modulo 2^18 (R26). -/
def bumpCursor (x : BitVec 25) (inc : BitVec 8) : BitVec 25 :=
  let step : Int := if inc = 0 then 64 else 4 * inc.toInt
  x.extractLsb' 20 5 ++ (0 : BitVec 2) ++ BitVec.ofInt 18 ((x.extractLsb' 0 18).toNat + step)

/-- The increment of one occurrence of a cursor (R26). -/
def bumpOperand (o : Operand) (t : TSet) : TSet :=
  match o with
  | .c i true inc => t.writeC i.toNat (bumpCursor (t.readC i.toNat) inc)
  | _ => t

/-- The increments of an instruction, in the order OD, OA, OB. -/
def bumpCursors (f : Form) (t : TSet) : TSet := bumpOperand f.ob (bumpOperand f.oa (bumpOperand f.od t))

/-- The alignment check of a cursor operand (R61). -/
def cursorAligned (s : State) (o : Operand) : Except Stop Unit :=
  match o with
  | .c i _ _ =>
    if (s.me.readC i.toNat).toNat % 64 = 0 then .ok () else .error (.trap 0x05 ((s.me.readC i.toNat).setWidth 64))
  | _ => .ok ()

/-- The bank check of a cursor operand (R58, R226). -/
def cursorInRange (s : State) (o : Operand) : Except Stop Unit :=
  match o with
  | .c i _ _ =>
    if scratchRefused (cursorAddr s i.toNat).addr 64 then .error (.trap 0x18 ((s.me.readC i.toNat).setWidth 64)) else .ok ()
  | _ => .ok ()

/-- The line of a remote source cursor that has arrived for the instruction, and whether it met an uncorrectable error (R116). -/
def arrivedLine (t : TSet) (a : SAddr) : Option (Line × Bool) :=
  (t.arrived.find? (fun x => x.1 == a.core && x.2.1 == a.addr / 64)).map (fun x => x.2.2)

/-- The request for the line of a remote source cursor (R116): the thread set stalls until it has arrived. -/
def askCursor (s : State) (a : SAddr) : State :=
  if s.me.pend.any (fun p => match p.kind with | .cursor c l => c == a.core && l == a.addr / 64 && !p.dropped | _ => false) then s
  else
    let (n, s) := s.fresh
    s.modMe (fun t => { t with pend := t.pend ++ [{ seq := n, posted := true, owner := t.owner, kind := .cursor a.core (a.addr / 64) }] })

/-- A source cursor's line must be readable now, and without an uncorrectable error (R353). The line of a remote cursor is asked for,
and waited for, first (R116). DESIGN CHOICE (log 74): the wait is a stall that passes the issue slot (R63, R116), where R136 has the instruction
hold the slot. -/
def cursorReady (s : State) (o : Operand) : Except Stop Unit :=
  match o with
  | .c i _ _ =>
    let a := cursorAddr s i.toNat
    let uc : Except Stop Unit := .error (.trap 0x14 ((s.me.readC i.toNat).setWidth 64))
    if a.remote then
      match arrivedLine s.me a with
      | some l => if l.2 then uc else .ok ()
      | none =>
        match needScratch s a [a.addr / 64] with
        | .ok _ => .error (.stall (askCursor s a))
        | .error e => .error e
    else if s.scratchBad a.core ((List.range 64).map (a.addr + ·)) then uc
    else needScratch s a [a.addr / 64]
  | _ => .ok ()

/-- The checks of all cursor operands of a form: alignment in the order OD, OA, OB, then banks, then the waits
of the cursors that are read. -/
def checkCursors (s : State) (f : Form) (readsOD : Bool) : Except Stop Unit := do
  cursorAligned s f.od
  cursorAligned s f.oa
  cursorAligned s f.ob
  cursorInRange s f.od
  cursorInRange s f.oa
  cursorInRange s f.ob
  if readsOD then cursorReady s f.od
  cursorReady s f.oa
  cursorReady s f.ob

/-- The 64 bytes of a lane operand: a register, the line at a cursor, or a broadcast pattern (R62, R116). -/
def lineOperand (s : State) (w : Nat) (o : Operand) : Line :=
  match o with
  | .v i _ => s.me.readV i.toNat
  | .c i _ _ =>
    let a := cursorAddr s i.toNat
    if a.remote then ((arrivedLine s.me a).map (·.1)).getD 0 else seenLine s a.core (a.addr / 64)
  | o => packLanes w (copies (512 / w) ((s.me.value o).toNat % 2 ^ w))

/-- The lines of the core's own scratchpad that the cursors of a form read (R59). -/
def cursorLines (s : State) (f : Form) (readsOD : Bool) : List Nat :=
  ((if readsOD then [f.od] else []) ++ [f.oa, f.ob]).filterMap (fun o => match o with
    | .c i _ _ => if (cursorAddr s i.toNat).remote then none else some ((cursorAddr s i.toNat).addr / 64)
    | _ => none)

/-- The extra cycles of an instruction that reads these lines: one for every read beyond the first in the same bank (R59). -/
def collisions (lines : List Nat) : Nat := lines.length - ((lines.map (· / 1024)).foldr insertUniq []).length

/-- The end of a lane instruction of `n` cycles: its issue slot is held for the collisions of its reads, its result is ready in due
time, and its cursors move (R26, R59, R136). -/
def lanesEnd (f : Form) (n : Nat) (lines : List Nat) (s : State) : State :=
  (readyIn n f.od (holdSlot (collisions lines) s)).modMe (bumpCursors f)

/-- The bytes of the active lanes of a result line, at a base address. -/
def laneBytes (w : Nat) (act : List Bool) (base : Nat) (l : Line) : List (Nat × Byte) :=
  (List.range 64).filterMap (fun k => if (act[k / (w / 8)]?).getD false then some (base + k, lineByte l k) else none)

/-- Writes result lanes to OD: active lanes of a v register, or the bytes of active lanes of a line (R117). -/
def writeLanes (s : State) (w : Nat) (act : List Bool) (od : Operand) (new : List Nat) : Except Stop State :=
  match od with
  | .v i _ => .ok (s.modMe (fun t => t.writeV i.toNat (packLanes w (mergeLanes act new (lanesOf w (t.readV i.toNat))))))
  | .c i _ _ =>
    let a := cursorAddr s i.toNat
    scratchStore s a (laneBytes w act a.addr (packLanes w new)) none
  | _ => .ok s

/-- A lane instruction of `n` cycles: the lanes of OD, OA and OB give the result lanes (R115 to R117). `res` takes the three
lists of lanes and answers all L result lanes, none for a lane it keeps; of the others the active ones are written. -/
def runLanesOpt (f : Form) (ty : Nat) (readsOD : Bool) (n : Nat)
    (res : State → List Nat → List Nat → List Nat → List (Option Nat)) (s : State) : Outcome :=
  run f (some (laneCount ty)) (if readsOD then .both else .write) (fun s => do
    checkCursors s f readsOD
    let w := laneBits ty
    let new := res s (lanesOf w (lineOperand s w f.od)) (lanesOf w (lineOperand s w f.oa)) (lanesOf w (lineOperand s w f.ob))
    let act := List.zipWith (fun (a : Bool) (n : Option Nat) => a && n.isSome)
      (activeLanes (guardMask s.me f.guard) (laneCount ty)) new
    let s' ← writeLanes s w act f.od (new.map (fun n => n.getD 0))
    pure (lanesEnd f n (cursorLines s f readsOD) s')) s

/-- A lane instruction that writes every active lane. -/
def runLanes (f : Form) (ty : Nat) (readsOD : Bool) (n : Nat) (res : State → List Nat → List Nat → List Nat → List Nat) (s : State) :
    Outcome :=
  runLanesOpt f ty readsOD n (fun s d a b => (res s d a b).map some) s

/-- A lane instruction whose result lane depends on the lanes at its place. -/
def runLanewise (f : Form) (ty : Nat) (readsOD : Bool) (n : Nat) (op : Nat → Nat → Nat → Nat) (s : State) : Outcome :=
  runLanes f ty readsOD n (fun _ d a b => List.zipWith (fun d (p : Nat × Nat) => op d p.1 p.2) d (a.zip b)) s

/-- A compare (R120): bit i of p[OD] in each active lane; masked bits kept, bits from L up cleared. -/
def runLaneCompare (f : Form) (ty n : Nat) (test : Nat → Nat → Bool) (s : State) : Outcome :=
  run f (some (laneCount ty)) .none (fun s => do
    checkCursors s f false
    let w := laneBits ty
    let act := activeLanes (guardMask s.me f.guard) (laneCount ty)
    let new := List.zipWith test (lanesOf w (lineOperand s w f.oa)) (lanesOf w (lineOperand s w f.ob))
    let old := activeLanes (s.me.readP (regOf f.od)) (laneCount ty)
    let bits := List.zipWith (fun (a : Bool) (p : Bool × Bool) => if a then p.1 else p.2) act (new.zip old)
    pure (lanesEnd f n (cursorLines s f false) (s.modMe (fun t => t.writeP (regOf f.od) (BitVec.ofNat 64 (bitsOf bits)))))) s

/-- A lane instruction whose result is one value in g[OD] (R127 to R129). -/
def runLanesToG (f : Form) (ty n : Nat) (res : List Bool → List Nat → List Nat → Word) (s : State) : Outcome :=
  run f (some (laneCount ty)) .write (fun s => do
    checkCursors s f false
    let w := laneBits ty
    let act := activeLanes (guardMask s.me f.guard) (laneCount ty)
    let r := res act (lanesOf w (lineOperand s w f.oa)) (lanesOf w (lineOperand s w f.ob))
    pure (lanesEnd f n (cursorLines s f false) (s.modMe (fun t => t.writeG (regOf f.od) r)))) s

end Sys2Proof.Machine
end

