-- ==== Sys2Proof/Machine/VectorFloat.lean ====
section
/-! DEFINITION. Class 01, MJ 0000: floating lane operations (R118 to R120). -/

namespace Sys2Proof.Machine

/-- The element type of a form: its modifier (R115). -/
def tyOf (f : Form) : Nat := f.md.toNat

/-- A lane operation on the three values, rounded once into the type. -/
def vfLane (ty : Nat) (op : FVal → FVal → FVal → FVal) (d a b : Nat) : Nat :=
  let p := laneFmt ty
  roundBits p (op (decodeF p d) (decodeF p a) (decodeF p b))

/-- A floating lane instruction that does not read OD. -/
def vfOp (n : Nat) (op : FVal → FVal → FVal) (f : Form) (s : State) : Outcome :=
  runLanewise f (tyOf f) false n (vfLane (tyOf f) (fun _ a b => op a b)) s

/-- A floating compare. -/
def vfCmp (test : FVal → FVal → Bool) (f : Form) (s : State) : Outcome :=
  runLaneCompare f (tyOf f) 4 (fun a b => test (decodeF (laneFmt (tyOf f)) a) (decodeF (laneFmt (tyOf f)) b)) s

/-- VFADD (R118). -/
def execVfadd (f : Form) (s : State) : Outcome := vfOp 4 fAdd f s
/-- VFSUB (R118). -/
def execVfsub (f : Form) (s : State) : Outcome := vfOp 4 (fun a b => fAdd a (fNeg b)) f s
/-- VFMUL (R118). -/
def execVfmul (f : Form) (s : State) : Outcome := vfOp 4 fMul f s
/-- VFFMA (R118): d + a · b with one rounding; OD is read. -/
def execVffma (f : Form) (s : State) : Outcome :=
  runLanewise f (tyOf f) true 4 (vfLane (tyOf f) (fun d a b => fAdd d (fMul a b))) s
/-- VFMIN (R118, R74). -/
def execVfmin (f : Form) (s : State) : Outcome := vfOp 4 fMin f s
/-- VFMAX (R118, R74). -/
def execVfmax (f : Form) (s : State) : Outcome := vfOp 4 fMax f s
/-- VFABS (R118): a NaN gives the canonical NaN. -/
def execVfabs (f : Form) (s : State) : Outcome := vfOp 4 (fun a _ => fAbs a) f s
/-- VFNEG (R118): a NaN gives the canonical NaN. -/
def execVfneg (f : Form) (s : State) : Outcome := vfOp 4 (fun a _ => fNeg a) f s
/-- VFRCP (R119): the exact reciprocal rounded once; 1/±0 is ±∞. -/
def execVfrcp (f : Form) (s : State) : Outcome := vfOp 8 (fun a _ => fDiv (.fin false 1 0) a) f s
/-- VFRSQ (R119): a zero of either sign gives an infinity of its sign. -/
def execVfrsq (f : Form) (s : State) : Outcome := vfOp 8 (fun a _ => fRsqrt a) f s
/-- VFEXP2 (R119). -/
def execVfexp2 (f : Form) (s : State) : Outcome := vfOp 8 (fun a _ => fExp2 a) f s
/-- VFCMPEQ (R120). -/
def execVfcmpeq (f : Form) (s : State) : Outcome := vfCmp fEq f s
/-- VFCMPLT (R120). -/
def execVfcmplt (f : Form) (s : State) : Outcome := vfCmp fLt f s
/-- VFCMPLE (R120). -/
def execVfcmple (f : Form) (s : State) : Outcome := vfCmp fLe f s

end Sys2Proof.Machine
end

