-- ==== Sys2Proof/Machine/VectorInt.lean ====
section
/-! DEFINITION. Class 01, MJ 0001: integer lane operations (R121, R122). -/

namespace Sys2Proof.Machine

/-- A lane operation on the exact integers of the lanes by type, wrapped to the lane width. -/
def viLane (ty : Nat) (op : Int → Int → Int) (_d a b : Nat) : Nat :=
  toBits (laneBits ty) (op (laneInt ty a) (laneInt ty b))

/-- An integer lane instruction. -/
def viOp (op : Int → Int → Int) (f : Form) (s : State) : Outcome :=
  runLanewise f (tyOf f) false 2 (viLane (tyOf f) op) s

/-- An integer lane instruction on bit patterns and the lane width. -/
def viBits (op : (w a b : Nat) → Nat) (f : Form) (s : State) : Outcome :=
  runLanewise f (tyOf f) false 2 (fun _ a b => op (laneBits (tyOf f)) a b % 2 ^ laneBits (tyOf f)) s

/-- The least and greatest value of an element type (R68). -/
def laneMin (ty : Nat) : Int := if laneUnsigned ty then 0 else -(2 : Int) ^ (laneBits ty - 1)
/-- See `laneMin`. -/
def laneMax (ty : Nat) : Int := if laneUnsigned ty then 2 ^ laneBits ty - 1 else 2 ^ (laneBits ty - 1) - 1
/-- A value clamped to a type (R68). -/
def laneClamp (ty : Nat) (x : Int) : Int := max (laneMin ty) (min (laneMax ty) x)

/-- VADD (R121). -/
def execVadd (f : Form) (s : State) : Outcome := viOp (fun a b => a + b) f s
/-- VSUB (R121). -/
def execVsub (f : Form) (s : State) : Outcome := viOp (fun a b => a - b) f s
/-- VMUL (R121). -/
def execVmul (f : Form) (s : State) : Outcome := viOp (fun a b => a * b) f s
/-- VMULH (R121): the upper half of the product, signed or unsigned by type. -/
def execVmulh (f : Form) (s : State) : Outcome := viOp (fun a b => a * b / 2 ^ laneBits (tyOf f)) f s
/-- VMIN (R121). -/
def execVmin (f : Form) (s : State) : Outcome := viOp min f s
/-- VMAX (R121). -/
def execVmax (f : Form) (s : State) : Outcome := viOp max f s
/-- VAND (R121). -/
def execVand (f : Form) (s : State) : Outcome := viBits (fun _ a b => a &&& b) f s
/-- VOR (R121). -/
def execVor (f : Form) (s : State) : Outcome := viBits (fun _ a b => a ||| b) f s
/-- VXOR (R121). -/
def execVxor (f : Form) (s : State) : Outcome := viBits (fun _ a b => a ^^^ b) f s
/-- VSHL (R121): the count is the low log2(w) bits of b. -/
def execVshl (f : Form) (s : State) : Outcome := viBits (fun w a b => a * 2 ^ (b % w)) f s
/-- VSHR (R121). -/
def execVshr (f : Form) (s : State) : Outcome := viBits (fun w a b => a / 2 ^ (b % w)) f s
/-- VSAR (R121): copies of bit w−1 fill, whatever the signedness of the type. -/
def execVsar (f : Form) (s : State) : Outcome :=
  viBits (fun w a b => toBits w (signedOf w a / 2 ^ (b % w))) f s
/-- VABS (R121). -/
def execVabs (f : Form) (s : State) : Outcome := viOp (fun a _ => (a.natAbs : Int)) f s
/-- VCMPEQ (R121, R120). -/
def execVcmpeq (f : Form) (s : State) : Outcome := runLaneCompare f (tyOf f) 2 (fun a b => a == b) s
/-- VCMPLT (R121, R120). -/
def execVcmplt (f : Form) (s : State) : Outcome :=
  runLaneCompare f (tyOf f) 2 (fun a b => decide (laneInt (tyOf f) a < laneInt (tyOf f) b)) s
/-- VADDS (R121): clamped to the type's range. -/
def execVadds (f : Form) (s : State) : Outcome := viOp (fun a b => laneClamp (tyOf f) (a + b)) f s

/-- VSEL (R122): b where bit i of p[OA] is 1, else the lane of OD, which is read. -/
def execVsel (f : Form) (s : State) : Outcome :=
  runLanesOpt f (tyOf f) true 2 (fun s _ _ b =>
    List.zipWith (fun (x : Bool) v => if x then some v else none) (activeLanes (s.me.value f.oa) (laneCount (tyOf f))) b) s

end Sys2Proof.Machine
end

