-- ==== Sys2Proof/Machine/VectorConv.lean ====
section
/-! DEFINITION. Class 01, MJ 0010: conversion and quantisation (R123 to R127). -/

namespace Sys2Proof.Machine

/-! ## VCVT -/

/-- One lane converted between element types (R77 to R79, R123). DEDUCED (log 64): SAT = 1 clamps an integer to an integer type that is
not wider, since R79 sign-extends to a wider one; and it saturates a floating result whatever the source (R78). -/
def cvtLane (src dst : Nat) (sat : Bool) (x : Nat) : Nat :=
  if laneIsFloat dst then
    (roundF (laneFmt dst) sat (if laneIsFloat src then decodeF (laneFmt src) x else ofInt (laneInt src x))).bits
  else if laneIsFloat src then
    toBits (laneBits dst) (toIntF (laneMin dst) (laneMax dst) (decodeF (laneFmt src) x)).1
  else if sat && decide (laneBits dst ≤ laneBits src) then toBits (laneBits dst) (laneClamp dst (laneInt src x))
  else toBits (laneBits dst) (laneInt src x)

/-- The checks of the control immediate of `VCVT` (R123): a reserved bit, source type 111, or a part beyond the ratio
of the lane counts. -/
def cvtRefused (dst : Nat) (k : Nat) : Bool :=
  let src := k % 8
  let part := k / 16 % 4
  let ratio := max (laneCount src) (laneCount dst) / min (laneCount src) (laneCount dst)
  decide (64 ≤ k) || src == 7 || decide (ratio ≤ part)

/-- The result lanes of `VCVT` and which of them the conversion reaches: when it narrows, only the lanes of the part. -/
def cvtLanes (dst : Nat) (k : Nat) (a : List Nat) : List (Option Nat) :=
  let src := k % 8
  let sat := k / 8 % 2 == 1
  let part := k / 16 % 4
  let ls := laneCount src
  let ld := laneCount dst
  (List.range ld).map (fun i =>
    if ld ≤ ls then (a[part * ld + i]?).map (cvtLane src dst sat)
    else if part * ls ≤ i ∧ i < part * ls + ls then (a[i - part * ls]?).map (cvtLane src dst sat)
    else none)

/-- VCVT (R123): the modifier is the destination type; lanes outside the part keep their values. -/
def execVcvt (f : Form) (s : State) : Outcome :=
  let ty := tyOf f
  run f (some (laneCount ty)) .write (fun s => do
    let k := (s.me.value f.ob).toNat % 2 ^ 21
    if cvtRefused ty k then badOperand 3 f.ob
    checkCursors s f false
    let w := laneBits ty
    let new := cvtLanes ty k (lanesOf (laneBits (k % 8)) (lineOperand s (laneBits (k % 8)) f.oa))
    let act := List.zipWith (fun (a : Bool) (n : Option Nat) => a && n.isSome)
      (activeLanes (guardMask s.me f.guard) (laneCount ty)) new
    let s' ← writeLanes s w act f.od (new.map (fun n => n.getD 0))
    pure (lanesEnd f 4 (cursorLines s f false) s')) s

/-! ## Quantisation -/

/-- The fields of a control word Q (Table 7.4). -/
structure QWord where
  e : Nat
  qf : Nat
  cbs : Nat
  part : Nat
  sce : Bool
  fresh : Bool
  blk : Nat
  reserved : Bool
  deriving DecidableEq, Repr

/-- The fields of the low 64 bits of a g register as Q. -/
def qword (x : Word) : QWord :=
  { e := (x.extractLsb' 0 8).toNat, qf := (x.extractLsb' 8 4).toNat, cbs := (x.extractLsb' 12 3).toNat,
    part := (x.extractLsb' 16 3).toNat, sce := x.getLsbD 19, fresh := x.getLsbD 20,
    blk := (x.extractLsb' 32 11).toNat,
    reserved := x.getLsbD 15 || x.extractLsb' 21 11 != 0 || x.extractLsb' 43 21 != 0 }

/-- The storage format of a QF code. -/
def qfStorage (qf : Nat) : Storage := match qf with | 0 => .cb4 | 1 => .e4m3 | _ => .e5m2

/-- The bytes that one instruction's lanes occupy in QF (R124). -/
def qBytes (ty : Nat) (q : QWord) : Nat := if q.qf = 0 then laneCount ty / 2 else laneCount ty

/-- The step-8 checks of `VQNT` and, without the sidecar fields, of `VDQNT` (R124). -/
def qRefused (ty : Nat) (q : QWord) (counts : Bool) : Bool :=
  q.reserved || decide (2 < q.qf) || decide (64 / qBytes ty q ≤ q.part) ||
  (counts && q.sce && (decide (1792 < q.blk) || q.blk % 64 != 0))

/-- A codebook slot of the core under execution (R51). -/
def State.codebook (s : State) (k : Nat) : BitVec 256 := mget 0 s.myCore.cbk k

/-- An element replaced in a line: element `i` of width `w`. -/
def setElem (w : Nat) (l : Line) (i x : Nat) : Line :=
  packLanes w ((lanesOf w l).set i x)

/-- A 16-bit count that sticks at 0xFFFF (R82). -/
def stick (c : BitVec 16) (n : Nat) : BitVec 16 := BitVec.ofNat 16 (min 0xFFFF (c.toNat + n))

/-- A sidecar set afresh with a format (R125): counts zero, HV, SPARSE and N8 clear; HOME, HPITCH, HFMT kept. -/
def Sidecar.afresh (x : Sidecar) (fmt : BitVec 4) (cbs : BitVec 3) : Sidecar :=
  { x with satc := 0, unfc := 0, fmt := fmt, cbs := cbs, hv := false, sparse := false, n8 := false }

/-- A sidecar with counts added (R82). -/
def Sidecar.count (x : Sidecar) (sat unf : Nat) : Sidecar :=
  { x with satc := stick x.satc sat, unfc := stick x.unfc unf }

/-- Elements written into a line at places `at_ + i`, for active lanes. -/
def putElems (w : Nat) (l : Line) (at_ : Nat) (act : List Bool) (xs : List Nat) : Line :=
  packLanes w ((lanesOf w l).zipIdx.map (fun p =>
    if at_ ≤ p.2 ∧ (act[p.2 - at_]?).getD false then (xs[p.2 - at_]?).getD p.1 else p.1))

/-- VQNT (R125). DEDUCED (log 64): FRESH sets the sidecar's CBS from Q whatever QF is, as R125 says; R124's 'ignored' is of the
quantisation. Active lanes quantised under R80 or R81 into elements PART·L onward of vD; counts into the sidecar of
block BLK with SCE. -/
def execVqnt (f : Form) (s : State) : Outcome :=
  let ty := tyOf f
  run f (some (laneCount ty)) .write (fun s => do
    let q := qword (s.me.value f.ob)
    if qRefused ty q true then badOperand 3 f.ob
    checkCursors s f false
    let w := laneBits ty
    let act := activeLanes (guardMask s.me f.guard) (laneCount ty)
    let book := bookOf (s.codebook q.cbs)
    let res := (lanesOf w (lineOperand s w f.oa)).map (fun x =>
      let v := decodeF (laneFmt ty) x
      match q.qf with
      | 0 => quantCb4 book q.e v
      | 1 => quantFp8 e4m3 q.e v
      | _ => quantFp8 e5m2 q.e v)
    let ew := if q.qf = 0 then 4 else 8
    let sat := (List.zipWith (fun (a : Bool) (r : Quantised) => a && r.sat) act res).countP id
    let unf := (List.zipWith (fun (a : Bool) (r : Quantised) => a && r.unf) act res).countP id
    let s := lanesEnd f 4 (cursorLines s f false) (s.modMe (fun t =>
      t.writeV (regOf f.od) (putElems ew (t.readV (regOf f.od)) (q.part * laneCount ty) act (res.map (·.elem)))))
    if q.sce then
      pure { s with asideBad := if q.fresh then mset false s.asideBad (s.curCore * 32 + q.blk / 64) false else s.asideBad, aside := mmod {} s.aside (s.curCore * 32 + q.blk / 64) (fun x =>
        (if q.fresh then x.afresh (BitVec.ofNat 4 q.qf) (BitVec.ofNat 3 q.cbs) else x).count sat unf) }
    else pure s) s

/-- One element decoded under Q and scaled, rounded into the lane type (R126). -/
def dqntLane (ty : Nat) (q : QWord) (book : List FVal) (x : Nat) : Nat :=
  if q.e = 255 then (laneFmt ty).nanBits
  else roundBits (laneFmt ty) (fScale ((q.e : Int) - 127) (storedValue book (qfStorage q.qf) x))

/-- VDQNT (R126): element PART·L + i of the source in format QF into lane i. DESIGN CHOICE (log 64): CB4 decodes through the slot CBS, as
R126 says, although R124 says that `VDQNT` ignores CBS. -/
def execVdqnt (f : Form) (s : State) : Outcome :=
  let ty := tyOf f
  run f (some (laneCount ty)) .write (fun s => do
    let q := qword (s.me.value f.ob)
    if qRefused ty q false then badOperand 3 f.ob
    checkCursors s f false
    let w := laneBits ty
    let ew := if q.qf = 0 then 4 else 8
    let elems := lanesOf ew (lineOperand s ew f.oa)
    let book := bookOf (s.codebook q.cbs)
    let new := (List.range (laneCount ty)).map (fun i =>
      dqntLane ty q book ((elems[q.part * laneCount ty + i]?).getD 0))
    let s' ← writeLanes s w (activeLanes (guardMask s.me f.guard) (laneCount ty)) f.od new
    pure (lanesEnd f 4 (cursorLines s f false) s')) s

/-- One lane scaled by 2^(e − 127), e being bits 7:0 of the scale lane (R126). -/
def sclLane (ty : Nat) (a b : Nat) : Nat :=
  if b % 256 = 255 then (laneFmt ty).nanBits
  else roundBits (laneFmt ty) (fScale (((b % 256 : Nat) : Int) - 127) (decodeF (laneFmt ty) a))

/-- VSCL (R126). -/
def execVscl (f : Form) (s : State) : Outcome :=
  runLanewise f (tyOf f) false 4 (fun _ a b => sclLane (tyOf f) a b) s

/-- The FP32 pattern of the largest magnitude of the active lanes, canonical NaN when one is NaN (R127). -/
def amaxOf (ty : Nat) (act : List Bool) (a : List Nat) : Word :=
  let vs := ((act.zip a).filter (·.1)).map (fun p => fAbs (decodeF (laneFmt ty) p.2))
  if vs.any FVal.isNan then 0x7FC00000
  else BitVec.ofNat 64 (roundBits fp32 (vs.foldl fMax (.fin false 0 0)))

/-- VAMAX (R127). -/
def execVamax (f : Form) (s : State) : Outcome := runLanesToG f (tyOf f) 6 (fun act a _ => amaxOf (tyOf f) act a) s

end Sys2Proof.Machine
end

