-- ==== Sys2Proof/Machine/VectorPerm.lean ====
section
/-! DEFINITION. Class 01, MJ 0011: reductions and permutes (R90, R128 to R130). -/

namespace Sys2Proof.Machine

/-! ## Reductions -/

/-- Neighbours combined: one level of the tree of R90. -/
def pairUp {α : Type} (op : α → α → α) : List α → List α
  | a :: b :: r => op a b :: pairUp op r
  | r => r

/-- The tree of R90 with `n` levels. -/
def treeOf {α : Type} (op : α → α → α) : Nat → List α → List α
  | 0, l => l
  | n + 1, l => treeOf op n (pairUp op l)

/-- The result of the tree: five levels serve 32 lanes, four serve 16 and the fifth then changes nothing. -/
def reduceTree {α : Type} (op : α → α → α) (d : α) (l : List α) : α := ((treeOf op 5 l)[0]?).getD d

/-- The combination of two lanes where an excluded lane is the identity of the comparison (R90). -/
def optOp (op : Nat → Nat → Nat) : Option Nat → Option Nat → Option Nat
  | none, b => b
  | a, none => a
  | some a, some b => some (op a b)

/-- A reduction's lanes: excluded lanes are none. -/
def maskedLanes (act : List Bool) (a : List Nat) : List (Option Nat) :=
  List.zipWith (fun (x : Bool) v => if x then some v else none) act a

/-- The result of a reduction as it stands in g[OD] (R128). -/
def reducedWord (ty : Nat) (x : Nat) : Word :=
  if laneIsFloat ty || laneUnsigned ty then BitVec.ofNat 64 x else BitVec.ofInt 64 (laneInt ty x)

/-- One step of a sum: rounded into the type, or wrapped. -/
def sumStep (ty : Nat) (a b : Nat) : Nat :=
  if laneIsFloat ty then roundBits (laneFmt ty) (fAdd (decodeF (laneFmt ty) a) (decodeF (laneFmt ty) b))
  else toBits (laneBits ty) (laneInt ty a + laneInt ty b)

/-- What an excluded lane adds: −0 for a floating sum, 0 for an integer one (R90). -/
def sumIdentity (ty : Nat) : Nat := if laneIsFloat ty then (laneFmt ty).signBit else 0

/-- One step of a maximum or minimum. -/
def orderStep (ty : Nat) (greater : Bool) (a b : Nat) : Nat :=
  if laneIsFloat ty then
    let x := decodeF (laneFmt ty) a
    let y := decodeF (laneFmt ty) b
    roundBits (laneFmt ty) (if greater then fMax x y else fMin x y)
  else toBits (laneBits ty) (if greater then max (laneInt ty a) (laneInt ty b) else min (laneInt ty a) (laneInt ty b))

/-- VRSUM (R128). -/
def execVrsum (f : Form) (s : State) : Outcome :=
  runLanesToG f (tyOf f) 6 (fun act a _ => reducedWord (tyOf f) (reduceTree (sumStep (tyOf f)) 0
    ((maskedLanes act a).map (fun x => x.getD (sumIdentity (tyOf f)))))) s
/-- A lane with a NaN made canonical (R73). -/
def canonLane (ty : Nat) (x : Nat) : Nat := if laneIsFloat ty then roundBits (laneFmt ty) (decodeF (laneFmt ty) x) else x

/-- VRMAX (R128). -/
def execVrmax (f : Form) (s : State) : Outcome :=
  runLanesToG f (tyOf f) 6 (fun act a _ => reducedWord (tyOf f)
    (canonLane (tyOf f) ((reduceTree (optOp (orderStep (tyOf f) true)) none (maskedLanes act a)).getD 0))) s
/-- VRMIN (R128). -/
def execVrmin (f : Form) (s : State) : Outcome :=
  runLanesToG f (tyOf f) 6 (fun act a _ => reducedWord (tyOf f)
    (canonLane (tyOf f) ((reduceTree (optOp (orderStep (tyOf f) false)) none (maskedLanes act a)).getD 0))) s

/-! ## Permutes -/

/-- Lane `i` of a list of lanes, 0 beyond its end. -/
def laneAt (l : List Nat) (i : Nat) : Nat := (l[i]?).getD 0

/-- VPERM (R129): every source lane is read before any is written. -/
def execVperm (f : Form) (s : State) : Outcome :=
  runLanes f (tyOf f) false 3 (fun _ _ a b => b.map (fun i => laneAt a (i % laneCount (tyOf f)))) s
/-- VBCAST (R129). -/
def execVbcast (f : Form) (s : State) : Outcome :=
  runLanes f (tyOf f) false 3 (fun s _ a _ =>
    copies (laneCount (tyOf f)) (laneAt a ((s.me.value f.ob).toNat % laneCount (tyOf f)))) s
/-- VEXT (R129): sign-extended for signed integers, zero-extended otherwise. -/
def execVext (f : Form) (s : State) : Outcome :=
  run f (some (laneCount (tyOf f))) .write (fun s => do
    checkCursors s f false
    let ty := tyOf f
    let a := lanesOf (laneBits ty) (lineOperand s (laneBits ty) f.oa)
    let x := laneAt a ((s.me.value f.ob).toNat % laneCount ty)
    pure (lanesEnd f 3 (cursorLines s f false) (s.modMe (fun t => t.writeG (regOf f.od) (reducedWord ty x))))) s
/-- VINS (R129): lane b mod L takes the source if it is active; all other lanes are kept. OD is read. -/
def execVins (f : Form) (s : State) : Outcome :=
  runLanesOpt f (tyOf f) true 3 (fun s _ _ _ =>
    (copies (laneCount (tyOf f)) none).set ((s.me.value f.ob).toNat % laneCount (tyOf f))
      (some ((s.me.value f.oa).toNat % 2 ^ laneBits (tyOf f)))) s
/-- VROT (R129). -/
def execVrot (f : Form) (s : State) : Outcome :=
  runLanes f (tyOf f) false 3 (fun s _ a _ =>
    (List.range (laneCount (tyOf f))).map (fun i => laneAt a ((i + (s.me.value f.ob).toNat) % laneCount (tyOf f)))) s

/-- Selected lanes packed to the low end, zeros above (R130). -/
def compLanes (sel : List Bool) (a : List Nat) : List Nat :=
  let kept := ((sel.zip a).filter (·.1)).map (·.2)
  kept ++ copies (a.length - kept.length) 0

/-- Low lanes spread to the selected positions, zeros elsewhere (R130). -/
def expandLanes : List Bool → List Nat → List Nat
  | [], _ => []
  | true :: r, a :: as => a :: expandLanes r as
  | true :: r, [] => 0 :: expandLanes r []
  | false :: r, as => 0 :: expandLanes r as

/-- VCOMP (R130). -/
def execVcomp (f : Form) (s : State) : Outcome :=
  runLanes f (tyOf f) false 3 (fun s _ a _ => compLanes (activeLanes (s.me.value f.ob) (laneCount (tyOf f))) a) s
/-- VEXPD (R130). -/
def execVexpd (f : Form) (s : State) : Outcome :=
  runLanes f (tyOf f) false 3 (fun s _ a _ => expandLanes (activeLanes (s.me.value f.ob) (laneCount (tyOf f))) a) s

end Sys2Proof.Machine
end

