-- ==== Sys2Proof/Machine/VectorMem.lean ====
section
/-! DEFINITION. Class 01, MJ 0100: local vector memory (R131 to R135, R193). -/

namespace Sys2Proof.Machine

/-! ## The typed buffers of the core -/

/-- Whether a command is tempered: `.t` with TMPOL[42] = 1 (R192). -/
def AnvilCmd.tempered (c : AnvilCmd) : Bool := c.temper && c.tmpol.getLsbD 42

/-- Whether a command is a rotation step. -/
def AnvilCmd.rotates (c : AnvilCmd) : Bool := c.op == .mrot || c.op == .mrot2

/-- The landing bases of MRLAND (R196). -/
def landA (m : Word) : Nat := (m.extractLsb' 0 11).toNat
/-- See `landA`. -/
def landW (m : Word) : Nat := (m.extractLsb' 16 12).toNat

/-- Whether a command is a rotation step that will land on line `l` (R198). -/
def AnvilCmd.landsOn (isA : Bool) (l : Nat) (a : AnvilCmd) : Bool :=
  a.rotates &&
    (let b := if isA then landA a.mrland else landW a.mrland
     decide (b ≤ l) && decide (l < b + 256))

/-- Whether a reader of line `l` must wait for a rotation step that will land there (R198). -/
def landingPending (c : Core) (isA : Bool) (l : Nat) : Bool := c.anvil.any (AnvilCmd.landsOn isA l)

/-- Whether a `VLD` or an engine read of a C tile must wait: some queued Anvil instruction writes it (R135). -/
def tilePending (c : Core) (tile : Nat) : Bool := c.anvil.any (fun a => a.tile == tile)

/-- Whether an Anvil instruction that the core issued before the one under execution, at its first attempt, meets a condition (R135). -/
def anvilBefore (s : State) (p : AnvilCmd → Bool) : Bool :=
  s.myCore.anvil.any (fun a => p a && decide (a.id < s.me.tried.getD s.uid))

/-- A stall until such an instruction is done: Anvil instructions issued after the first attempt are not waited for (R135). -/
def waitAnvil (s : State) : Except Stop Unit :=
  .error (.stall (s.modMe (fun t => { t with tried := some (t.tried.getD s.uid) })))

/-- The same for a core's Anvil that an engine-bound instruction of the core under execution names: only its own core's earlier
instructions are waited for, of another core's all. -/
def anvilBeforeAt (s : State) (core : Nat) (p : AnvilCmd → Bool) : Bool :=
  if core = s.curCore then anvilBefore s p else (s.core core).anvil.any p

/-- A line of a core's A, W or C buffer; the replay staging reads zero while a tempered command is queued (R193). -/
def State.aLine (s : State) (core l : Nat) : Line := mget 0 s.abuf (core * 2048 + l)
/-- See `aLine`. -/
def State.wLine (s : State) (core l : Nat) : Line := mget 0 s.wbuf (core * 4096 + l)
/-- See `aLine`. -/
def State.cLine (s : State) (core tile l : Nat) : Line := mget 0 s.cbuf (core * 1024 + tile * 64 + l)

/-- Whether a line of a typed buffer (0 W, 1 A, else C, whose lines count over its tiles) carries an uncorrectable error (R353). -/
def State.lineBad (s : State) (buf core l : Nat) : Bool :=
  match buf with
  | 0 => mget false s.wbufBad (core * 4096 + l)
  | 1 => mget false s.abufBad (core * 2048 + l)
  | _ => mget false s.cbufBad (core * 1024 + l)
/-- A line of a typed buffer written whole. -/
def State.putLine (s : State) (buf core l : Nat) (v : Line) : State :=
  match buf with
  | 0 => { s with wbuf := mset 0 s.wbuf (core * 4096 + l) v, wbufBad := mset false s.wbufBad (core * 4096 + l) false }
  | 1 => { s with abuf := mset 0 s.abuf (core * 2048 + l) v, abufBad := mset false s.abufBad (core * 2048 + l) false }
  | _ => { s with cbuf := mset 0 s.cbuf (core * 1024 + l) v, cbufBad := mset false s.cbufBad (core * 1024 + l) false }

/-- Whether a W line is replay staging in use (R193). -/
def stagingBusy (c : Core) (l : Nat) : Bool := decide (3328 ≤ l) && c.anvil.any AnvilCmd.tempered

/-! ## VLD and VST -/

/-- The line index of a descriptor form: OB as an unsigned value (R132). -/
def lineIndex (s : State) (f : Form) : Nat := (s.me.value f.ob).toNat

/-- An address of the scratchpad refused: TVAL holds the index b (R132). -/
def descScratch (s : State) (off b : Nat) : Except Stop SAddr :=
  if 3072 ≤ off + b ∨ scratchRefused (64 * (off + b)) 64 = true then .error (.trap 0x18 (BitVec.ofNat 64 b))
  else .ok ⟨s.curCore, false, 64 * (off + b)⟩

/-- Step-8 refusal of a line index: TVAL holds b (R132). -/
def badIndex {α : Type} (b : Nat) : Except Stop α := .error (.trap 0x02 (BitVec.ofNat 64 b))

/-- Active lanes of a line into a v register after 3 cycles; masked lanes keep their values (R132, Table 7.7). -/
def loadLanes (s : State) (f : Form) (l : Line) : State :=
  let ty := tyOf f
  let w := laneBits ty
  lanesEnd f 3 [] (s.modMe (fun t => t.writeV (regOf f.od)
    (packLanes w (mergeLanes (activeLanes (guardMask s.me f.guard) (laneCount ty)) (lanesOf w l) (lanesOf w (t.readV (regOf f.od)))))))

/-- The bytes of a v register that the active lanes cover, each with the address it is loaded from. -/
def laneLoads (w : Nat) (act : List Bool) (addr : Nat → Nat) : List (Nat × Nat) :=
  (List.range 64).filterMap (fun k =>
    if (act[k / (w / 8)]?).getD false then some (k, addr (k / (w / 8)) + k % (w / 8)) else none)

/-- A local load of lanes marks its register when an active lane met an uncorrectable error (R55, R353). -/
def markLanes (s : State) (f : Form) (a : SAddr) (addrs : List Nat) (ea : Word) (s' : State) : State :=
  if s.scratchBad a.core addrs then s'.modMe (fun t => t.markV (regOf f.od) ea) else s'

/-- The same for a line of a typed buffer; no rule gives the address that its mark reports: the line's number (log 63). -/
def markTyped (s : State) (f : Form) (buf l : Nat) (s' : State) : State :=
  if s.lineBad buf s.curCore l && (activeLanes (guardMask s.me f.guard) (laneCount (tyOf f))).any id then
    s'.modMe (fun t => t.markV (regOf f.od) (BitVec.ofNat 64 l))
  else s'

/-- The bytes that the active lanes of a form take from a line of the scratchpad. -/
def lineAddrs (s : State) (f : Form) (a : SAddr) : List Nat :=
  let w := laneBits (tyOf f)
  (laneLoads w (activeLanes (guardMask s.me f.guard) (laneCount (tyOf f))) (fun i => a.addr + i * (w / 8))).map (·.2)

/-- A remote vector load: a long-latency result with a credit; an error mark reports its cursor (R52, R55, R140). -/
def remoteVLoad (s : State) (f : Form) (a : SAddr) (addr : Nat → Nat) : Except Stop State := do
  needCredit s
  let ty := tyOf f
  let s' := pendV s (regOf f.od) true ((s.me.readC (regOf f.oa)).setWidth 64)
    (.svload a.core (laneLoads (laneBits ty) (activeLanes (guardMask s.me f.guard) (laneCount ty)) addr))
  pure (s'.modMe (bumpCursors f))

/-- VLD (R132): one line of the scratchpad, the A, W or C buffer. -/
def execVld (f : Form) (s : State) : Outcome :=
  run f (some (laneCount (tyOf f))) .write (fun s => do
    match f.oa with
    | .b buf _ _ off =>
      let b := lineIndex s f
      let o := off.toNat
      needPath s 0
      match buf.toNat with
      | 0 =>
        if 4095 < o + b then badIndex b
        if anvilBefore s (AnvilCmd.landsOn false (o + b)) then waitAnvil s
        if stagingBusy s.myCore (o + b) then pure (loadLanes s f 0)
        else pure (markTyped s f 0 (o + b) (loadLanes s f (s.wLine s.curCore (o + b))))
      | 1 =>
        if 2047 < o + b then badIndex b
        if anvilBefore s (AnvilCmd.landsOn true (o + b)) then waitAnvil s
        pure (markTyped s f 1 (o + b) (loadLanes s f (s.aLine s.curCore (o + b))))
      | 2 =>
        if 63 < b then badIndex b
        if anvilBefore s (fun a => a.tile == o % 16) then waitAnvil s
        pure (markTyped s f 2 (o % 16 * 64 + b) (loadLanes s f (s.cLine s.curCore (o % 16) b)))
      | _ =>
        let a ← descScratch s o b
        needScratch s a [a.addr / 64]
        pure (markLanes s f a (lineAddrs s f a) (BitVec.ofNat 64 a.addr) (loadLanes s f (seenLine s a.core (a.addr / 64))))
    | _ =>
      cursorAligned s f.oa
      cursorInRange s f.oa
      let a := cursorAddr s (regOf f.oa)
      needScratch s a [a.addr / 64]
      if a.remote then remoteVLoad s f a (fun i => a.addr + i * (laneBits (tyOf f) / 8))
      else
        pure (markLanes s f a (lineAddrs s f a) ((s.me.readC (regOf f.oa)).setWidth 64)
          (loadLanes s f (seenLine s a.core (a.addr / 64))))) s

/-- VST (R132). DESIGN CHOICE (log 65): without `XFENCE` an Anvil instruction issued later may read the old or the new bytes of the A
buffer (R135); here they land at once, so it reads the new ones. The active lanes of vA into one line of the scratchpad or of the A buffer. -/
def execVst (f : Form) (s : State) : Outcome :=
  run f (some (laneCount (tyOf f))) .read (fun s => do
    let ty := tyOf f
    let w := laneBits ty
    let act := activeLanes (guardMask s.me f.guard) (laneCount ty)
    let v := s.me.readV (regOf f.oa)
    match f.od with
    | .b buf _ _ off =>
      let b := lineIndex s f
      let o := off.toNat
      if buf = 1 then
        if 2047 < o + b then badIndex b
        needOrdinary s
        needPath s 0
        if anvilBefore s (fun c => c.op != .cclr) then waitAnvil s
        let l := setLineBytes (s.aLine s.curCore (o + b)) (laneBytes w act 0 v)
        if act.all id then pure (s.putLine 1 s.curCore (o + b) l)
        else pure { s with abuf := mset 0 s.abuf (s.curCore * 2048 + (o + b)) l }
      else
        let a ← descScratch s o b
        scratchStore s a (laneBytes w act a.addr v) none
    | _ =>
      checkCursors s f false
      let a := cursorAddr s (regOf f.od)
      let s' ← scratchStore s a (laneBytes w act a.addr v) none
      pure (s'.modMe (bumpCursors f))) s

/-! ## Strided, gathered and scattered lanes -/

/-- The address of a lane: the cursor plus an offset, in bits 17:0 modulo 2^18 (R133). -/
def laneAddr (a : SAddr) (off : Int) : Nat := (((a.addr : Int) + off) % 2 ^ 18).toNat

/-- The first active lane whose address fails a test. -/
def badLane (act : List Bool) (addr : Nat → Nat) (bad : Nat → Bool) : Option Nat :=
  ((List.range act.length).find? (fun i => (act[i]?).getD false && bad (addr i))).map addr

/-- A lane address in cursor form, bits 24:20 kept. -/
def laneTval (cur : BitVec 25) (addr : Nat) : Word :=
  ((cur &&& 0x1F00000#25) ||| BitVec.ofNat 25 addr).setWidth 64

/-- The checks of every active lane before any access: alignment, then bank (R133, R134). -/
def checkLanes (cur : BitVec 25) (w : Nat) (act : List Bool) (addr : Nat → Nat) : Except Stop Unit :=
  match badLane act addr (fun a => a % (w / 8) != 0) with
  | some a => .error (.trap 0x05 (laneTval cur a))
  | none =>
    match badLane act addr (fun a => scratchRefused a (w / 8)) with
    | some a => .error (.trap 0x18 (laneTval cur a))
    | none => .ok ()

/-- A load of lanes at lane addresses. -/
def lanesLoad (f : Form) (off : State → Nat → Int) (s : State) : Outcome :=
  run f (some (laneCount (tyOf f))) .write (fun s => do
    let ty := tyOf f
    let w := laneBits ty
    let act := activeLanes (guardMask s.me f.guard) (laneCount ty)
    let a := cursorAddr s (regOf f.oa)
    let addr := fun i => laneAddr a (off s i)
    checkLanes (s.me.readC (regOf f.oa)) w act addr
    needScratch s a ((laneLoads w act addr).map (fun p => p.2 / 64))
    if a.remote then remoteVLoad s f a addr
    else
      let old := s.me.readV (regOf f.od)
      let reads := (laneLoads w act addr).map (·.2)
      let lines := (reads.map (· / 64)).foldr insertUniq []
      let new := setLineBytes old ((laneLoads w act addr).map (fun p => (p.1, seenByte s a.core p.2)))
      pure (markLanes s f a reads ((s.me.readC (regOf f.oa)).setWidth 64)
        (lanesEnd f (3 + collisions lines) lines (s.modMe (fun t => t.writeV (regOf f.od) new))))) s

/-- A store of lanes at lane addresses; a higher lane's bytes stand where two lanes meet (R134). -/
def lanesStore (f : Form) (off : State → Nat → Int) (s : State) : Outcome :=
  run f (some (laneCount (tyOf f))) .read (fun s => do
    let ty := tyOf f
    let w := laneBits ty
    let act := activeLanes (guardMask s.me f.guard) (laneCount ty)
    let a := cursorAddr s (regOf f.od)
    let addr := fun i => laneAddr a (off s i)
    checkLanes (s.me.readC (regOf f.od)) w act addr
    let v := s.me.readV (regOf f.oa)
    let s' ← scratchStore s a ((laneLoads w act addr).map (fun p => (p.2, lineByte v p.1))) none
    pure (s'.modMe (bumpCursors f))) s

/-- The stride of lane `i`: the signed OB value times i (R133). -/
def strideOff (f : Form) (s : State) (i : Nat) : Int := (i : Int) * (s.me.value f.ob).toInt

/-- The offset of lane `i`: the unsigned lane of the V operand in OB (R134). -/
def gatherOff (f : Form) (s : State) (i : Nat) : Int :=
  (laneAt (lanesOf (laneBits (tyOf f)) (s.me.readV (regOf f.ob))) i : Nat)

/-- VLDS (R133). -/
def execVlds (f : Form) (s : State) : Outcome := lanesLoad f (strideOff f) s
/-- VSTS (R133). -/
def execVsts (f : Form) (s : State) : Outcome := lanesStore f (strideOff f) s
/-- VGTH (R134). -/
def execVgth (f : Form) (s : State) : Outcome := lanesLoad f (gatherOff f) s
/-- VSCT (R134). -/
def execVsct (f : Form) (s : State) : Outcome := lanesStore f (gatherOff f) s

end Sys2Proof.Machine
end

