-- ==== Sys2Proof/Machine/Global.lean ====
section
/-! DEFINITION. Class 10, MJ 0000 and 0010: global loads, stores, prefetch and atomics (R141 to R143, R147,
R148), with the arrival of results, the store queue, walks, evictions and held writes (R52 to R56, R250, R324,
R331, R236, R337). -/

namespace Sys2Proof.Machine

/-! ## Loads and stores -/

/-- The size in bytes of a `.b .h .w .d .bz .hz .wz` modifier. -/
def sizeOf (md : BitVec 3) : Nat := 2 ^ (md.toNat % 4)
/-- Whether a load modifier sign-extends (Table 5.2). -/
def sizeSigned (md : BitVec 3) : Bool := decide (md.toNat < 4)

/-- The effective address g[OA] + b, or g[OD] + b for a store (R137, R141). -/
def effAddr (s : State) (base off : Operand) : Word := s.me.value base + s.me.value off

/-- The line of an atomic that is still to be performed. -/
def Pend.atomicLine (p : Pend) : Option Nat :=
  match p.kind with
  | .atomic _ _ _ va _ _ _ none => some (ptrAddr va / 64)
  | _ => none

/-- The issue number past the last atomic of a thread set on a line that is still to be performed: a load of the line waits for it, and so
for the stores before it (R142, R258). -/
def atomicPast (t : TSet) (va : Nat) : Nat := ((t.pend.filter (fun p => p.atomicLine == some (va / 64))).map (·.seq + 1)).foldl max 0

/-- The bytes of `n` from `va` that the thread set's own queued stores cover, each from the youngest (R250); those of stores behind which
an atomic of the line still waits reach the load through it. -/
def forwarded (t : TSet) (va n : Nat) : List (Nat × Byte) :=
  (List.range n).filterMap (fun k =>
    ((t.storeq.filter (fun q => decide (atomicPast t va ≤ q.seq))).foldl (fun (r : Option Byte) q => match q.w with
      | .global w _ bs => match bs.reverse.find? (fun b => ptrAddr w + b.1 == va + k) with
        | some b => some b.2
        | none => r
      | _ => r) none).map (fun b => (k, b)))

/-- The same after the bytes a speculative activation holds (R250, R277). -/
def forwardedTo (s : State) (va n : Nat) : List (Nat × Byte) :=
  let held := heldBytes s false (va / 64)
  let mine := (List.range n).filterMap (fun k => (held.reverse.find? (fun b => b.1 == va % 64 + k)).map (fun b => (k, b.2)))
  mine ++ (forwarded s.me va n).filter (fun b => !mine.any (fun c => c.1 == b.1))

/-- LD (R141): a long-latency load of 1, 2, 4 or 8 bytes. -/
def execLd (f : Form) (s : State) : Outcome :=
  run f none .write (fun s => do
    let ea := effAddr s f.oa f.ob
    let n := sizeOf f.md
    let x ← checkAccess s ea n n rightR
    needCredit s
    pure (pendG (s.used ea n rightR false) (regOf f.od) true ea (.load ea x n (sizeSigned f.md) (forwardedTo s (ptrAddr ea) n)))) s

/-- A store of bytes at a checked address enters the store queue (R142, R250). -/
def queueStore (s : State) (ea : Word) (x : Xlat) (bs : List (Nat × Byte)) : Except Stop State :=
  if bs.isEmpty then .ok s
  else if s.mySpec.isSome then
    holdBytes s (s.mySpec.getD (0, 0, 0)) false (ptrAddr ea / 64) ea x (bs.map (fun b => (ptrAddr ea % 64 + b.1, b.2)))
  else if Config.storeEntries ≤ s.me.storeq.length then .error (.stall s)
  else
    let (n, s) := s.fresh
    .ok (s.modMe (fun t => { t with storeq := t.storeq ++ [⟨n, .global ea x bs, t.owner⟩] }))

/-- ST (R141): the base in OD, the value in OA. -/
def execSt (f : Form) (s : State) : Outcome :=
  run f none .read (fun s => do
    let ea := effAddr s f.od f.ob
    let n := sizeOf f.md
    let x ← checkAccess s ea n n rightW
    queueStore (s.used ea n rightW false) ea x ((List.range n).zip (bytesOf n (s.me.value f.oa).toNat))) s

/-- VGLD (R141): the active lanes of a 64-byte line. -/
def execVgld (f : Form) (s : State) : Outcome :=
  run f (some (laneCount (tyOf f))) .write (fun s => do
    let ea := effAddr s f.oa f.ob
    let x ← checkAccess s ea 64 64 rightR
    needCredit s
    let act := activeLanes (guardMask s.me f.guard) (laneCount (tyOf f))
    let mask := (laneLoads (laneBits (tyOf f)) act (fun _ => 0)).map (·.1)
    pure (pendV (s.used ea 64 rightR false) (regOf f.od) true ea (.vload ea x mask (forwardedTo s (ptrAddr ea) 64)))) s

/-- VGST (R141): the bytes of the active lanes. -/
def execVgst (f : Form) (s : State) : Outcome :=
  run f (some (laneCount (tyOf f))) .read (fun s => do
    let ea := effAddr s f.od f.ob
    let x ← checkAccess s ea 64 64 rightW
    let act := activeLanes (guardMask s.me f.guard) (laneCount (tyOf f))
    queueStore (s.used ea 64 rightW false) ea x (laneBytes (laneBits (tyOf f)) act 0 (s.me.readV (regOf f.oa)))) s

/-! ## Fills of the rights caches and TLBs -/

/-- An entry installed in a cache of `cap` entries in the order of last use: of a full one the least recently used leaves (R324, R332). -/
def installIn {α : Type} (cap : Nat) (l : List α) (e : α) : List α := (if l.length < cap then l else l.drop 1) ++ [e]

/-- Rights entries installed in a cache, those it holds already used again. -/
def installPlb (cap : Nat) (l new : List PlbEntry) : List PlbEntry :=
  new.foldl (fun l e => if l.contains e then touchLast (· == e) l else installIn cap l e) l

/-- The covers of an access of an owner that its table holds (R324). -/
def walkCovers (s : State) (owner : BitVec 20) (ea n : Nat) : List PlbEntry :=
  ((s.ownerEntries owner).map (plbOf owner)).filter (fun e => e.covers owner ea n)

/-- The covers of an access as a core's PLB miss finds them: its cluster's rights cache first, when one there lets the access pass,
else the owner's table (R324). -/
def missCovers (s : State) (core : Nat) (owner : BitVec 20) (ea : Word) (n : Nat) (need : BitVec 5) (fetch : Bool) : List PlbEntry :=
  let near := (s.cluster (cacheOf core)).rights.filter (fun e => e.covers owner (ptrAddr ea) n)
  if near.any (fun e => e.passes (ptrGen ea) need fetch) then near else walkCovers s owner (ptrAddr ea) n

/-- The filters mark that a cluster, and in it the holders of a mask, cores by their bits and the pool PLBs at bit 16, may hold entries of
some owners (R324). -/
def markHolders (s : State) (c : Nat) (bits : BitVec 17) (new : List PlbEntry) : State :=
  new.foldl (fun s e =>
    let s := s.modCluster c (fun k => { k with masks := mmod 0 k.masks e.owner.toNat (fun m => m ||| bits) })
    if c < 64 then
      { s with presence := mmod 0 s.presence (c / 32 * 4096 + Config.ownerHash e.owner.toNat % 4096) (fun m => m ||| (1#32 <<< (c % 32))) }
    else s) s

/-- Covers installed in a core's PLB of 64 and in its cluster's rights cache of 1,024, and marked in the filters. -/
def fillRights (s : State) (core : Nat) (new : List PlbEntry) : State :=
  markHolders ((s.modCore core (fun c => { c with plb := installPlb 64 c.plb new })).modCluster (cacheOf core)
    (fun c => { c with rights := installPlb 1024 c.rights new })) (cacheOf core) (1#17 <<< dcBit core) new

/-- A translation installed in a core's L1 TLB of 64 and in its cluster's TLB of 4,096 (R332). -/
def fillTlb (s : State) (core : Nat) (e : TlbEntry) : State :=
  let add := fun (cap : Nat) (l : List TlbEntry) => installIn cap (l.filter (fun x => !x.holds e.vbase)) e
  (s.modCore core (fun c => { c with tlb := add 64 c.tlb })).modCluster (cacheOf core) (fun c => { c with tlb := add 4096 c.tlb })

/-- A translation found for a core: an entry of its cluster's TLB, or a walk (R331, R332). -/
def missXlat (s : State) (core va : Nat) : Option TlbEntry :=
  match (s.cluster (cacheOf core)).tlb.find? (fun e => e.holds va) with
  | some e => some e
  | none => translate s va

/-- Where the AC bit of the entry that a cluster last dropped for a page is noted (R334). -/
def acKey (c vbase : Nat) : Nat := c * 2 ^ 41 + vbase / 65536

/-- A translation installed; a walk that turns access counting on sets the counters of its page to 0 (R334). -/
def installXlat (s : State) (core : Nat) (e : TlbEntry) : State :=
  let fresh := !(s.cluster (cacheOf core)).tlb.any (fun x => x.vbase == e.vbase)
  let s := if fresh && e.x.ac && mget false s.acOff (acKey (cacheOf core) e.vbase) then
      { s with counts := s.counts.filter (fun c => !(decide (e.vbase / 65536 ≤ c.1) && decide (c.1 < (e.vbase + e.size) / 65536))),
               acOff := mset false s.acOff (acKey (cacheOf core) e.vbase) false }
    else s
  fillTlb s core e

/-- PFT (R143): fills for the line at ea, no trap, nothing where a lookup fails. It makes no check of Table 8.1: a source that is not
ready stalls it, and one that carries an error names no line. -/
def execPft (f : Form) (s : State) : Outcome :=
  let srcs := srcOf s.me 2 f.oa ++ srcOf s.me 3 f.ob
  runWith f.guard f.hints none (.ok ()) (formPreds f) [] [] (fun s =>
    if srcs.any (fun x => s.me.isBusy (s.cycle s.curCore) x.isV x.reg) then .error (.stall s)
    else if srcs.any (fun x => (srcError s.me x).isSome) then .ok s
    else
      let ea := effAddr s f.oa f.ob
      let va := ptrAddr ea / 64 * 64
      match missCovers s s.curCore s.me.owner (BitVec.ofNat 64 va) 64 0 true, missXlat s s.curCore va with
      | c :: cs, some e => .ok (installXlat (fillRights s s.curCore (c :: cs)) s.curCore e)
      | _, _ => .ok s) s

/-- A walk of a thread set settled: the access it was for is tried again. -/
def walked (s : State) (core ts : Nat) (w : Walk) : State := s.modTset core ts (fun t => { t with walk := w, stalled := false })

/-- RIGHTS_WALK (R324): the lookup a thread set waits for, a PLB miss (R364). Every cover is installed; where none lets the access pass, its
retry traps with the cause of R323. -/
def execRightsWalk (core ts : Nat) (s : State) : Outcome :=
  match (s.tset core ts).walk with
  | .rights owner ea n need fetch =>
    let covers := missCovers s core owner ea n need fetch
    let s := fillRights (countAt s core 0x5001 1) core covers
    match rightsDecision covers owner (ptrGen ea) (ptrAddr ea) n need fetch with
    | none => .next (walked s core ts .none)
    | some cause => .next (walked s core ts (.failed cause ea))
  | _ => .next s

/-- PAGE_WALK (R331, R332): the translation a thread set waits for, an L1 TLB miss (R364), is installed, or its retry traps `XLATE`. -/
def execPageWalk (core ts : Nat) (s : State) : Outcome :=
  match (s.tset core ts).walk with
  | .page ea =>
    match missXlat s core (ptrAddr ea) with
    | some e => .next (walked (installXlat (countAt s core 0x5002 1) core e) core ts .none)
    | none => .next (walked (countAt s core 0x5002 1) core ts (.failed 0x10 ea))
  | _ => .next s

/-! ## Atomics -/

/-- The new value of an atomic (Table 8.5) by its operation index, on `n` bytes. -/
def atomicNew (op n : Nat) (m b cmp : Nat) : Nat :=
  let w := 8 * n
  let sm := signedOf w m
  let sb := signedOf w b
  (match op with
  | 0 => m + b
  | 1 => roundBits fp32 (fAdd (decodeF fp32 m) (decodeF fp32 b))
  | 2 => toBits w (max sm sb)
  | 3 => max m b
  | 4 => roundBits fp32 (fMax (decodeF fp32 m) (decodeF fp32 b))
  | 5 => toBits w (min sm sb)
  | 6 => m &&& b
  | 7 => m ||| b
  | 8 => m ^^^ b
  | 9 => b
  | _ => if m = cmp then b else m) % 2 ^ w

/-- The scope at which an atomic executes: 0 the cluster, 1 the home channel, 2 the home agent (R148). -/
def effScope (scope tier : Nat) : Nat :=
  if scope = 0 then (if tier = 2 then 2 else 0) else if scope = 1 ∧ tier ≠ 0 then 2 else scope

/-- An atomic of an operation index (R147). -/
def atomicOp (op : Nat) (f : Form) (s : State) : Outcome :=
  run f none (if op = 10 then .both else .write) (fun s => do
    let n := if f.md.getLsbD 2 then 4 else 8
    let ea := s.me.value f.oa
    let x ← checkAccess s ea n n rightA
    needOrdinary s
    if x.wb then .error (.stall s)
    let k : PendKind := .atomic op (f.md.toNat % 4) n ea x (s.me.value f.ob) (s.me.value f.od) none
    let s := s.used ea n rightA false
    if regOf f.od = 0 then
      let (q, s) := s.fresh
      pure (s.modMe (fun t => { t with pend := t.pend ++ [{ seq := q, posted := true, addr := ea, owner := t.owner, kind := k }] }))
    else
      needCredit s
      pure (pendG s (regOf f.od) true ea k)) s

/-- AADD (R147). -/
def execAadd (f : Form) (s : State) : Outcome := atomicOp 0 f s
/-- AFADD (R147). -/
def execAfadd (f : Form) (s : State) : Outcome := atomicOp 1 f s
/-- AMAX (R147). -/
def execAmax (f : Form) (s : State) : Outcome := atomicOp 2 f s
/-- AMAXU (R147). -/
def execAmaxu (f : Form) (s : State) : Outcome := atomicOp 3 f s
/-- AFMAX (R147). -/
def execAfmax (f : Form) (s : State) : Outcome := atomicOp 4 f s
/-- AMIN (R147). -/
def execAmin (f : Form) (s : State) : Outcome := atomicOp 5 f s
/-- AAND (R147). -/
def execAand (f : Form) (s : State) : Outcome := atomicOp 6 f s
/-- AOR (R147). -/
def execAor (f : Form) (s : State) : Outcome := atomicOp 7 f s
/-- AXOR (R147). -/
def execAxor (f : Form) (s : State) : Outcome := atomicOp 8 f s
/-- AXCHG (R147). -/
def execAxchg (f : Form) (s : State) : Outcome := atomicOp 9 f s
/-- ACAS (R147): OD is read as the comparand. -/
def execAcas (f : Form) (s : State) : Outcome := atomicOp 10 f s

/-- The execution point of an atomic (R148, R259): the issuing cluster, the home channel of an HBM page, whatever the scope, or the
home agent of a page of another tier: the host, the port's CXL device, the node's peer (log 52). -/
def atomicPoint (s : State) (scope : Nat) (x : Xlat) : Nat × Nat :=
  if effScope scope x.tier = 0 then (0, 0) else if x.tier = 0 then (1, x.pa / 256 % 256) 
  else (1 + x.tier, if x.tier = 1 then s.cxlPort x.pa else if x.tier = 3 then Config.peerNode x.pa else 0)

/-- Whether two results in flight touch one line. -/
def Pend.line (p : Pend) : Option (Nat × Nat) :=
  match p.kind with
  | .load va x .. => some (ptrAddr va / 64, x.tier)
  | .vload va x .. => some (ptrAddr va / 64, x.tier)
  | _ => none

/-- Whether an atomic has to wait for an earlier access of its thread set: an atomic of its execution point (R259), or an access to
its line (R142, R258). -/
def earlierAtomic (s : State) (t : TSet) (p : Pend) : Bool :=
  match p.kind with
  | .atomic _ sc _ va x _ _ _ =>
    t.pend.any (fun q => decide (q.seq < p.seq) && (match q.kind with
      | .atomic _ sc' _ va' x' _ _ none => atomicPoint s sc x == atomicPoint s sc' x' || ptrAddr va / 64 == ptrAddr va' / 64
      | _ => q.line.any (fun l => l.1 == ptrAddr va / 64)))
  | _ => false

/-- Whether an older queued store of the thread set touches a line (R142: one address in program order). -/
def earlierStore (t : TSet) (seq va : Nat) : Bool :=
  t.storeq.any (fun q => decide (q.seq < seq) && (match q.w with
    | .global w _ _ => ptrAddr w / 64 == va / 64
    | _ => false))

/-- The effect of an atomic at its execution point (R148): the old value, whether it met an uncorrectable error, and the new state. At
the homes the issuing cluster's cache first writes back and drops the line. An atomic on a word with an error changes nothing (log 53). -/
def performAtomic (s : State) (core op scope n : Nat) (va : Word) (x : Xlat) (b cmp : Word) : Nat × Bool × State :=
  let a := ptrAddr va
  let x := dirtyNow s core a x
  let s := setDirty s core a x
  let val := fun (m : Nat) => atomicNew op n m (b.toNat % 2 ^ (8 * n)) (cmp.toNat % 2 ^ (8 * n))
  if effScope scope x.tier = 0 then
    let (l, s) := fillLine s (cacheOf core) core a x false
    let m := natOfBytes ((List.range n).map (fun k => lineByte l.data (a % 64 + k)))
    if l.bad.getLsbD (a % 64 / 8) then (m, true, s) else (m, false, storeLine s core a x ((List.range n).zip (bytesOf n (val m))))
  else
    let s := homeRequest (flushLine s (cacheOf core) a) (cacheOf core) a x
    let m := s.readAt x n
    if s.eccFails x.pa then (m, true, s) else (m, false, s.putAt x n (val m))

/-- Whether a cached line has the bytes of an access (R255). -/
def lineReady (s : State) (core va : Nat) (need : List Nat) : Bool :=
  match (s.cluster (cacheOf core)).find va with
  | some l => need.all (fun k => !l.hole.getLsbD k)
  | none => false

/-- A request of a result in flight to a peer, once, under the owner it was issued under (R106, R255, R378). -/
def askFor (s : State) (core ts k : Nat) (p : Pend) (o : Nat → Output) : State :=
  if p.asked.isSome then s
  else
    let (n, s) := s.fresh
    { s with out := s.out ++ [o n] }.modTset core ts (fun t => { t with pend := modAt (fun q => { q with asked := some n }) t.pend k })

/-- A LOAD packet for the line of a result in flight; the bytes that the cluster has written stand whatever is answered (R142). -/
def askPeer (s : State) (core ts k : Nat) (p : Pend) (va : Word) (x : Xlat) : State :=
  (askFor s core ts k p (fun n => peerAccess 0 n 64 (s.partitionOf (s.ctxOf core ts)) (some p.owner) (ptrAddr va / 64 * 64) (x.pa / 64 * 64) [] none)).modTset core ts (fun t => { t with
    pend := modAt (fun q => { q with mine := if p.asked.isSome then q.mine else writtenBytes s (cacheOf core) (ptrAddr va) }) t.pend k })

/-- The bytes of a line of which some are needed by an access of a whole word. -/
def bytesAt (va n : Nat) : List Nat := (List.range n).map (va % 64 + ·)

/-- ATOMIC_PERFORM (R148): the `k`-th result in flight of a thread set, an atomic that may be performed now, is
performed; a posted one then leaves nothing. -/
def execAtomicPerform (core ts k : Nat) (s : State) : Outcome :=
  let t := s.tset core ts
  match t.pend[k]? with
  | some p =>
    match p.kind with
    | .atomic op scope n va x b cmp none =>
      if earlierAtomic s t p || earlierStore t p.seq (ptrAddr va) || heldWord s core (ptrAddr va) [(0, 0)] then .next s
      else if x.tier = 3 && effScope scope 3 != 0 then
        .next (askFor (if p.asked.isSome then s else flushLine s (cacheOf core) (ptrAddr va)) core ts k p (fun n' =>
          peerAccess 2 n' n (s.partitionOf (s.ctxOf core ts)) (some p.owner) (ptrAddr va) x.pa [] (some (op, n, b, cmp))))
      else if x.tier = 3 && !lineReady s core (ptrAddr va) (bytesAt (ptrAddr va / 8 * 8) 8) then .next (askPeer s core ts k p va x)
      else
        let (m, bad, s) := performAtomic s core op scope n va x b cmp
        let done : PendKind := .atomic op scope n va x b cmp (some (BitVec.ofNat 64 m))
        let s := s.modTset core ts (fun t => { t with
          pend := if p.posted || p.dropped then dropAt t.pend k else modAt (fun q => { q with kind := done, bad := bad }) t.pend k })
        .next (settleOwed s core)
    | _ => .next s
  | none => .next s

/-! ## The arrival of results -/

/-- Whether a result in flight is a load that must return before later stores leave the queue (R250): loads, atomics
that return a value, a `SPINW` not yet armed; a load of a peer page counts as returned once requested. -/
def Pend.holdsStores (p : Pend) : Bool :=
  match p.kind with
  | .load _ x .. => x.tier != 3 || p.asked.isNone
  | .vload _ x .. => x.tier != 3 || p.asked.isNone
  | .sload .. | .svload .. | .sldl .. | .cursor .. => true
  | .atomic .. => !p.posted
  | .spinw _ _ _ armed => !armed
  | _ => false

/-- Whether a load must wait for an earlier access of its thread set: a load of its line (R256), any load of a host page for a host
page (R254), an atomic on its line (R142, R258). -/
def loadBlocked (t : TSet) (p : Pend) : Bool :=
  match p.line with
  | none => false
  | some (l, tier) =>
    t.pend.any (fun q => decide (q.seq < p.seq) && (q.atomicLine == some l || (match q.line with
      | some (l', tier') => tier' == tier && (tier == 2 || (tier != 3 && l' == l))
      | none => false)))

/-- A loaded value extended to 64 bits. -/
def extendTo (n : Nat) (sext : Bool) (x : Nat) : Word :=
  if sext then BitVec.ofInt 64 (signedOf (8 * n) x) else BitVec.ofNat 64 x

/-- The register of a result written and marked full; an error mark instead of a value when the data was bad (R52, R55). A result of an
ended activation is discarded (R56). -/
def deliver (t : TSet) (p : Pend) (w : Word) (l : Line) (bad : Bool) : TSet :=
  let t := { t with pend := t.pend.filter (fun q => q.seq != p.seq) }
  if p.posted || p.dropped then t
  else if p.isV then
    if bad then { t.fullV p.reg with vMark := mset none t.vMark p.reg (some p.addr) } else (t.writeV p.reg l).fullV p.reg
  else if bad && p.reg != 0 then { t.fullG p.reg with gMark := mset none t.gMark p.reg (some p.addr) }
  else (t.writeGRaw p.reg w).fullG p.reg

/-- The value a tempered-status read or counter read delivers; set where those registers are defined. -/
def statusValue (t : TSet) (rc : Bool) : Word := if rc then t.tmrc else t.tmstat

/-- An observation register as its bank or table holds it (Table 22.3). -/
def observed (s : State) (core num slot : Nat) : Word :=
  let d := mget {} (s.core core).delays slot
  match num with
  | 0x111 => BitVec.ofNat 64 (d.sender % 1024 + (if d.used then 2 ^ 15 else 0))
  | 0x112 => d.count.setWidth 64
  | 0x113 => BitVec.ofNat 64 d.transit
  | 0x114 => BitVec.ofNat 64 d.wait
  | 0x115 => BitVec.ofNat 64 d.run
  | _ => counterValue s core num

/-- Whether a purge has been acknowledged by all (Table 18.3). -/
def purgeDone (s : State) (id : Nat) : Bool := s.purges.all (fun p => p.id != id || p.pending.isEmpty)

/-- Whether a command of the Anvil queue with this identity is still there. -/
def anvilBusy (s : State) (core id : Nat) : Bool := (s.core core).anvil.any (fun c => c.id == id)

/-! ## The store queue -/

/-- Frees a lock bit if a thread set holds it (R145). -/
def freeLock (s : State) (at_ core ts : Nat) : State :=
  { s with locks := s.locks.filter (fun l => !(l.at_ == at_ && l.core == core && l.ts == ts)) }

/-- Whether another thread set of the core has an older queued write to the core's own banks: its writes land in the order of
their issue (R60). -/
def olderCoreWrite (s : State) (core ts : Nat) (q : Queued) : Bool :=
  let own := fun (o : Queued) => match o.w with | .scratch c _ _ _ => c == core | _ => false
  own q && (List.range 4).any (fun t' => t' != ts && (s.tset core t').storeq.any (fun o => decide (o.seq < q.seq) && own o))

/-- Whether an `RREAD` of the thread set with a lower issue number is still to be performed (R250). -/
def rreadPending (s : State) (core ts seq : Nat) : Bool :=
  (s.cluster (cacheOf core)).stream.any (fun c => (match c.op with | .rread _ => true | _ => false) && c.core == core &&
    c.ts == ts && decide (c.id < seq))

/-- Whether a store writes part of a word of a peer page whose other bytes its cluster has not got yet: the line is fetched first,
so that the word can be published whole (R236, R253). -/
def needsLine (s : State) (core va : Nat) (x : Xlat) (bs : List (Nat × Byte)) : Bool :=
  x.tier == 3 && ((wordsAt va bs).any (fun w => !(List.range 8).all (fun k => bs.any (fun b => va + b.1 == w + k)) && !lineReady s core w (bytesAt w 8)))

/-- Whether a peer has answered the request that a store made for its line with an error: its word stays without its other bytes (R353). -/
def fillFailed (s : State) (core : Nat) (who : Asker) (va : Nat) : Bool :=
  (askedLine s (cacheOf core) who va).any (fun p => p.reply == some none)

/-- A store at the head of a thread set's queue meets the cluster: held under write-block or behind a held write of its word (R337), or
entered into the cache, D set first (R332), or none while there is no room, or a line has to come (with the request made). The
translation is the one it was issued under: a `TLBINV` of its page waits for it (R160). -/
def storeEnters (s : State) (who : Asker) (core seq : Nat) (owner : BitVec 20) (va : Nat) (x : Xlat) (bs : List (Nat × Byte)) :
    Except State State :=
  if x.wb || heldWord s core va bs then
    match holdWrite s core va seq owner bs with | some s => .ok s | none => .error s
  else if needsLine s core va x bs && !fillFailed s core who va then .error (askLine s (cacheOf core) who va x owner)
  else
    let x := dirtyNow s core va x
    .ok (answersTaken (storeLine (setDirty s core va x) core va x bs) who)

/-- STORE_QUEUE_DRAIN (R250, R251, R60, R337): the oldest entry of a thread set's store queue leaves it, if it may. A core's write to a bank
in which another's has landed in this cycle lands in a later one: in one cycle it would have gone first. -/
def execStoreQueueDrain (core ts : Nat) (s : State) : Outcome :=
  let t := s.tset core ts
  match t.storeq with
  | [] => .next s
  | q :: rest =>
    if t.pend.any (fun p => p.holdsStores && decide (p.seq < q.seq)) || rreadPending s core ts q.seq then .next s
    else
      let pop := fun (s : State) => s.modTset core ts (fun t => { t with storeq := rest })
      match q.w with
      | .scratch c bs remote unlock =>
        if olderCoreWrite s core ts q || (remote && t.unacked.any (fun u => u != c)) || (!remote && portTaken s c bs) then .next s
        else
          let s := (pop s).scratchLand c bs
          let s := if remote then foreignLanded s c (bs.map (·.1 / 64)) else s
          let s := if remote then s.modTset core ts (fun t => { t with unacked := t.unacked ++ [c] }) else s
          .next (settleOwed (match unlock with | some a => freeLock s a core ts | none => s) core)
      | .global va x bs =>
        if t.pend.any (fun p => p.posted && decide (p.seq < q.seq) && p.atomicLine == some (ptrAddr va / 64)) then .next s
        else
          match storeEnters s (.store core q.seq) core q.seq q.owner (ptrAddr va) x bs with
          | .ok s => .next (settleOwed (pop s) core)
          | .error s => .next s

/-- Whether a thread set stalls because the oldest of its queued stores finds the hold buffer of its cluster full (R337). -/
def holdStalls (s : State) (core ts : Nat) : Bool :=
  match (s.tset core ts).storeq with
  | q :: _ =>
    (match q.w with
     | .global va x bs => (x.wb || heldWord s core (ptrAddr va) bs) && !holdRoom s core (ptrAddr va) bs
     | _ => false)
  | [] => false

/-- REMOTE_WRITE_ACK (R251): a remote write of a thread set is acknowledged. -/
def execRemoteWriteAck (core ts k : Nat) (s : State) : Outcome :=
  .next (settleOwed (s.modTset core ts (fun t => { t with unacked := dropAt t.unacked k })) core)

/-- LINE_EVICTION (R236, R237): a full set of a cluster cache evicts its pseudo-LRU victim, publishing its dirty words. -/
def execLineEviction (c set : Nat) (s : State) : Outcome :=
  let inSet := (s.cluster c).lines.filter (fun l => setOf l.va == set)
  if inSet.length < 16 then .next s
  else
    match inSet.find? (fun l => l.way == plruVictim (mget 0 (s.cluster c).plru set)) with
    | some l => .next (flushLine s c l.va)
    | none => .next s

/-- HELD_WRITE_DRAIN (R337): the oldest held write of a cluster enters the cache once its page is not under write-block,
translated again and setting D first; each store in it dirties the line for its own core (R142). -/
def execHeldWriteDrain (c : Nat) (s : State) : Outcome :=
  match (s.cluster c).hold with
  | [] => .next s
  | h :: rest =>
    match translate s h.va, h.stores with
    | some e, p :: _ =>
      let x := e.at_ h.va
      let who := Asker.store p.core p.seq
      if x.wb then .next s
      else if needsLine s p.core h.va x h.bytes && !fillFailed s p.core who h.va then .next (askLine s c who h.va x p.owner)
      else
        let s := setPteDirty (s.modCluster c (fun k => { k with hold := rest, tlb := dirtyEntries h.va k.tlb })) x
        let s := h.stores.foldl (fun s q => storeLine s q.core h.va x q.bytes) (answersTaken s who)
        .next (h.stores.foldl (fun s q => settleOwed s q.core) s)
    | _, _ => .next s

end Sys2Proof.Machine
end

