-- ==== Sys2Proof/Machine/Scratch.lean ====
section
/-! DEFINITION. Class 10, MJ 0001: scratchpad accesses and bank locks (R144 to R146), and the capture that clears
the locks of engine-bound sources (R57). -/

namespace Sys2Proof.Machine

/-- The scratchpad address of an effective address (R137). -/
def scratchOf (s : State) (ea : Word) : SAddr := saddrOf s.curCore (ea.setWidth 25)

/-- The checks of a scratchpad access of `n` bytes (Table 8.1): alignment, then bank; TVAL is the whole ea. -/
def checkScratch (s : State) (ea : Word) (n : Nat) : Except Stop SAddr :=
  if ea.toNat % n ≠ 0 then .error (.trap 0x05 ea)
  else if scratchRefused (scratchOf s ea).addr n then .error (.trap 0x18 ea)
  else .ok (scratchOf s ea)

/-- SLD (R144): an ordinary producer when local, a long-latency one when remote. -/
def execSld (f : Form) (s : State) : Outcome :=
  run f none .write (fun s => do
    let ea := effAddr s f.oa f.ob
    let n := sizeOf f.md
    let a ← checkScratch s ea n
    needScratch s a [a.addr / 64]
    if a.remote then
      needCredit s
      pure (pendG s (regOf f.od) true ea (.sload a.core a.addr n (sizeSigned f.md)))
    else
      let bad := s.scratchBad a.core ((List.range n).map (a.addr + ·))
      let mark := fun (t : TSet) => if bad then t.markG (regOf f.od) ea else t
      pure (readyIn 3 f.od (s.modMe (fun t =>
        mark (t.writeG (regOf f.od) (extendTo n (sizeSigned f.md) (seenRead s a.core a.addr n))))))) s

/-- The bytes of a scalar store. -/
def storeBytes (a : SAddr) (n : Nat) (x : Word) : List (Nat × Byte) :=
  ((List.range n).zip (bytesOf n x.toNat)).map (fun p => (a.addr + p.1, p.2))

/-- The trail size of a scalar store (R179): its own for 1, 2 and 4 bytes. -/
def trailSize (md : BitVec 3) : Option Nat := if md.toNat < 3 then some md.toNat else none

/-- SST (R144). -/
def execSst (f : Form) (s : State) : Outcome :=
  run f none .read (fun s => do
    let n := sizeOf f.md
    let a ← checkScratch s (effAddr s f.od f.ob) n
    scratchStore s a (storeBytes a n (s.me.value f.oa)) (trailSize f.md)) s

/-- The lock bit of an address of a core's scratchpad: core · 48 + bank · 16 + h (R145). -/
def lockBit (a : SAddr) : Nat :=
  let x := a.addr % 65536
  let h := (x / 8 % 16) ^^^ (x / 128 % 16) ^^^ (x / 2048 % 16) ^^^ (x / 32768 % 2)
  a.core * 48 + a.addr / 65536 * 16 + h

/-- Whether a thread set holds a lock bit. -/
def holdsLock (s : State) (at_ core ts : Nat) : Bool := s.locks.any (fun l => l.at_ == at_ && l.core == core && l.ts == ts)

/-- LDL (R145): the lock bit first; held by another thread set, the request waits at the bank in arrival order. -/
def execLdl (f : Form) (s : State) : Outcome :=
  run f none .write (fun s => do
    let ea := effAddr s f.oa f.ob
    let a ← checkScratch s ea 8
    needOrdinary s
    needScratch s a [a.addr / 64]
    let b := lockBit a
    if s.me.unlocks b then .error (.stall s)
    let waiting := s.lockWaits.any (fun w => w.at_ == b && w.core == s.curCore && w.ts == s.curTs)
    if a.remote && (match s.me.wait with | .lock _ _ => false | _ => true) then needCredit s
    let mine := holdsLock s b s.curCore s.curTs
    if !mine && (s.locks.any (fun l => l.at_ == b) || s.lockWaits.any (fun w => w.at_ == b)) then
      let s := if waiting then s else { s with lockWaits := s.lockWaits ++ [LockWait.mk b s.curCore s.curTs] }
      .error (.stall (s.modMe (fun t => { t with wait := .lock false a.remote })))
    let s := if mine then s else { s with locks := s.locks ++ [LockBit.mk b s.curCore s.curTs] }
    if a.remote then pure (pendG s (regOf f.od) true ea (.sldl a.core a.addr))
    else
      let mark := fun (t : TSet) => if s.scratchBad a.core [a.addr] then t.markG (regOf f.od) ea else t
      pure (readyIn 3 f.od (s.modMe (fun t =>
        mark (t.writeG (regOf f.od) (BitVec.ofNat 64 (s.scratchRead a.core a.addr 8))))))) s

/-- STU (R145): 8 bytes written, then the bit freed once they have landed. -/
def execStu (f : Form) (s : State) : Outcome :=
  run f none .read (fun s => do
    let a ← checkScratch s (effAddr s f.od f.ob) 8
    needOrdinary s
    scratchStore s a (storeBytes a 8 (s.me.value f.oa)) none (some (lockBit a))) s

/-- ULK (R145): the bit freed, after the thread set's earlier writes. -/
def execUlk (f : Form) (s : State) : Outcome :=
  run f none .none (fun s => do
    let a ← checkScratch s (effAddr s f.oa f.ob) 8
    needOrdinary s
    scratchStore s a [] none (some (lockBit a))) s

/-- LOCK_BIT_GRANT (R145, R146): the first waiter of a free bit receives it. -/
def execLockBitGrant (at_ : Nat) (s : State) : Outcome :=
  if s.locks.any (fun l => l.at_ == at_) then .next s
  else
    match s.lockWaits.find? (fun w => w.at_ == at_) with
    | none => .next s
    | some w =>
      let s := { s with locks := s.locks ++ [LockBit.mk at_ w.core w.ts],
                        lockWaits := s.lockWaits.filter (fun x => !(x.at_ == at_ && x.core == w.core && x.ts == w.ts)) }
      .next (s.modTset w.core w.ts (fun t =>
        { t with wait := .lock true (match t.wait with | .lock _ c => c | _ => false), stalled := false }))

/-- LOCK_CAPTURE (R57): the engine has captured the sources a thread set locked; their locks clear. -/
def execLockCapture (core ts : Nat) (s : State) : Outcome :=
  .next (s.modTset core ts (fun t => { t with gLock := 0, vLock := 0 }))

/-- The locks an engine-bound instruction takes on its g and v sources (R57). -/
def lockSources (srcs : List Src) (t : TSet) : TSet :=
  srcs.foldl (fun t x =>
    if x.isV then { t with vLock := t.vLock ||| (1#32 <<< x.reg) }
    else if x.reg = 0 then t else { t with gLock := t.gLock ||| (1#40 <<< x.reg) }) t

end Sys2Proof.Machine
end

