-- ==== Sys2Proof/Machine/Control.lean ====
section
/-! DEFINITION. Class 11, MJ 0000 and 0101: transfers and system instructions (R163, R164, R186, R187), with the ways
they end an activation. -/

namespace Sys2Proof.Machine

/-! ## Transfers -/

/-- A taken transfer: the pc is the target, and the next issue comes two cycles later, `extra` more after a failed
prediction (R164). -/
def jump (s : State) (target : Word) (extra : Nat) : State :=
  s.modMe (fun t => { t with pc := target, readyAt := max t.readyAt (s.cycle s.curCore + 2 + extra) })

/-- The target of a displacement: IA + 4·d (R32). DESIGN CHOICE (log 62): the sum keeps its 64 bits, so that a target below address 0, which
R33's bits 56:0 would wrap though R33 forbids it, is no address, and its fetch traps `XLATE`. -/
def relTarget (s : State) (o : Operand) : Word := s.ia + s.me.value o <<< 2

/-- The target in a register: bits 56:0, or `MISALIGN` when bits 1:0 are not zero (R33). DESIGN CHOICE (log 62): `TVAL` is the whole
64-bit value of the register, where R33 says only that it is the target. -/
def regTarget (x : Word) : Except Stop Word :=
  if x.extractLsb' 0 2 ≠ 0 then .error (.trap 0x05 x) else .ok ((x.setWidth 57).setWidth 64)

/-- BR (R163). -/
def execBr (f : Form) (s : State) : Outcome :=
  run f none .none (fun s => .ok (jump s (relTarget s f.ob) 0)) s

/-- BRI (R163). -/
def execBri (f : Form) (s : State) : Outcome :=
  run f none .none (fun s => do
    let target ← regTarget (s.me.value f.oa)
    pure (jump s target 0)) s

/-- A push on the return stack of 8 entries: the oldest is dropped when it is full (R164). -/
def pushReturn (l : List Word) (x : Word) : List Word := x :: l.take 7

/-- CALL (R163, R164): g[OB] is read before g[OD] is written. -/
def execCall (f : Form) (s : State) : Outcome :=
  run f none .write (fun s => do
    let target ← match f.ob with
      | .g .. => regTarget (s.me.value f.ob)
      | _ => Except.ok (relTarget s f.ob)
    pure (jump (s.modMe (fun t => { t.writeG (regOf f.od) (s.ia + 12) with retStack := pushReturn t.retStack (s.ia + 12) }))
      target 0)) s

/-- RET (R163, R164): the top of the return stack is the prediction. -/
def execRet (f : Form) (s : State) : Outcome :=
  run f none .none (fun s => do
    let target ← regTarget (s.me.value f.oa)
    let good := s.me.retStack.head? == some target
    pure (jump (s.modMe (fun t => { t with retStack := t.retStack.tail })) target (if good then 0 else 2))) s

/-- LOOP (R163). -/
def execLoop (f : Form) (s : State) : Outcome :=
  run f none .both (fun s =>
    let n := s.me.value f.od - 1
    let s' := s.modMe (fun t => t.writeG (regOf f.od) n)
    .ok (if n = 0 then s' else jump s' (relTarget s f.ob) 0)) s

/-! ## Debug stops -/

/-- Whether a debug stop is armed for a partition (R186, R369; log 15). -/
def stopArmed (s : State) (p : Nat) : Bool :=
  featureOpen s p 3 && s.cores.any (fun c => c.2.brkStop && isCompute c.1 && s.clusterOwner (clusterOf c.1) == some p)

/-- The stop of a thread set for the debugger (R369): its activation is aborted with reason 0x42, uncounted, and its stop
noted at the trace port with its code of Table 22.6; the core selects nothing, and the watchdogs of its context's queues count no more. -/
def stopTset (s : State) (core ts code : Nat) : State :=
  let s := match (s.tset core ts).act with
    | some a => emitTrace s core 6 [traceP a.msg core ts ||| (BitVec.ofNat 64 code) <<< 40]
    | none => s
  tickQueues ((abortActivation core ts 0x42 0 s).modCore core (fun c => { c with stopped := true }))

/-! ## System instructions -/

/-- NOP (R186). -/
def execNop (f : Form) (s : State) : Outcome := run f none .none (fun s => .ok s) s

/-- TRAP (R186): completes, then traps `SOFT` with the address after it. -/
def execTrap (f : Form) (s : State) : Outcome :=
  run f none .none (fun s => .error (.took (takeTrap 0x30 (s.me.value f.oa) (s.ia + 12) s))) s

/-- The bits 95:32 of an instruction's word. -/
def highWord (i : Instr) : Word := ((encode i).getD 0 >>> 32).setWidth 64

/-- TRET (R186, R343, R344): `ILLEGAL_OP` at level 0, `MISALIGN` for a misaligned TEPC. -/
def execTret (f : Form) (s : State) : Outcome :=
  run f none .none (fun s =>
    if s.me.tlvl = 0 then .error (.trap 0x01 (highWord (.tret f)))
    else do
      let target ← regTarget (if s.me.tlvl = 1 then s.me.tepc1 else s.me.tepc2)
      pure (jump (s.modMe TSet.trapReturn) target 0)) s

/-- TABORT (R186): the operand is reported with the abort. -/
def execTabort (f : Form) (s : State) : Outcome :=
  run f none .none (fun s => .ok (abortActivation s.curCore s.curTs 0x40 (s.me.value f.oa) s)) s

/-- YIELD (R187). -/
def execYield (f : Form) (s : State) : Outcome :=
  run f none .none (fun s => do
    needOrdinary s
    pure (endActivation s s.curCore s.curTs 2 none)) s

/-- BRK (R186): completes, then traps `BRK`, or stops between activations when a stop is armed. -/
def execBrk (f : Form) (s : State) : Outcome :=
  run f none .none (fun s =>
    if stopArmed s s.myPartition then .ok (stopTset s s.curCore s.curTs 1)
    else .error (.took (takeTrap 0x31 (s.me.value f.oa) (s.ia + 12) s))) s

end Sys2Proof.Machine
end

