-- ==== Sys2Proof/Machine/Message.lean ====
section
/-! DEFINITION. Class 11, MJ 0001: messages (R162, R165 to R173), with the completion messages of engines (R205), arrivals,
watches that fire and the release of held entries (R168 to R171, R214, R215, R225). -/

namespace Sys2Proof.Machine

/-! ## Route words and descriptors -/

/-- The tag of a route word (Table 9.1). -/
def routeTag (w : Word) : BitVec 12 := w.extractLsb' 0 12
/-- The priority of a route word. -/
def routePrio (w : Word) : BitVec 2 := w.extractLsb' 12 2
/-- NW of a route word. -/
def routeNw (w : Word) : Nat := fieldN w 16 3

/-- The check of a route word: no bit outside those the instruction has (R162). -/
def checkRoute (w : Word) (allowed : Word) (pos : Nat) (o : Operand) : Except Stop Unit :=
  if w &&& ~~~(allowed ||| 0x3FFF) = 0 then .ok () else badOperand pos o

/-- The destination context of a descriptor (Table 9.3). -/
def descCtx (d : Word) : BitVec 12 := d.extractLsb' 48 12
/-- The kind of a descriptor. -/
def descKind (d : Word) : Nat := fieldN d 60 4

/-- Whether a descriptor's own fields are well formed for its kind: reserved bits zero, a core that exists, an engine class
that exists. -/
def descFits (d : Word) : Bool :=
  match descKind d with
  | 0 => decide (fieldN d 11 37 = 0) && decide (fieldN d 0 11 ≤ Config.maxCore)
  | 1 => decide (fieldN d 0 48 = 0)
  | 2 => decide (fieldN d 4 40 = 0) && decide (fieldN d 44 4 < 3)
  | 3 => decide (fieldN d 6 42 = 0)
  | 4 => decide (fieldN d 10 22 = 0)
  | _ => false

/-- Whether a core or cluster that a descriptor names may be named by a context (R165, R206). -/
def descAllowed (s : State) (ctx : Nat) (d : Word) : Bool :=
  match descKind d with
  | 0 => contextMayRun s ctx (fieldN d 0 11)
  | 3 => (s.partition (s.partitionOf ctx)).clusters.contains (fieldN d 0 6)
  | _ => true

/-- The checks of a destination descriptor in their order (R165, Table 5.8). -/
def checkDesc (s : State) (d : Word) (kinds : List Nat) (pos : Nat) (o : Operand) : Except Stop Unit :=
  if !kinds.contains (descKind d) || !descFits d || !descAllowed s s.myCtx d then badOperand pos o
  else if (descCtx d).toNat ≠ s.myCtx ∧ s.isSystem s.myCtx = false then .error (.trap 0x03 d)
  else .ok ()

/-- The destination a descriptor names, for a sender. -/
def destOf (s : State) (d : Word) : Dest :=
  match descKind d with
  | 0 => .core (fieldN d 0 11)
  | 1 => .region (((s.me.act).map (·.rcb)).getD 0) s.curCore (BitVec.ofNat 12 s.myCtx)
  | 2 => .engine (fieldN d 44 4) (fieldN d 0 4) s.curCore
  | _ => .peer (fieldN d 32 16) (fieldN d 0 10)

/-! ## SEND and SENDNOW -/

/-- The payload registers that exist, for `n` words from OB. -/
def payloadSrcs (t : TSet) (f : Form) : List Src := srcRange t 3 f.ob (min f.md.toNat (32 - regOf f.ob))

/-- The step-8 checks of `SEND` and `SENDNOW` but for the last (R166). -/
def checkSend (s : State) (f : Form) : Except Stop Unit := do
  checkDesc s (s.me.value f.od) [0, 1, 4] 1 f.od
  checkRoute (s.me.value f.oa) 0 2 f.oa
  if 32 < regOf f.ob + f.md.toNat then badOperand 3 f.ob

/-- The message of `SEND` or `SENDNOW` (R166). A service core's message toward a compute core takes its sequence number
from that core as it arrives (R211). DESIGN CHOICE (log 13): the core's sequence counter advances at issue, also for a message that an
abort later discards. -/
def buildMsg (s : State) (f : Form) : Msg × State :=
  let d := s.me.value f.od
  let n := f.md.toNat
  let unitMade := !isCompute s.curCore && (match destOf s d with | .core c => isCompute c | _ => false)
  let (q, s) := if unitMade then (0, s) else nextSeq s s.curCore
  ({ tag := routeTag (s.me.value f.oa), prio := routePrio (s.me.value f.oa), len := n, kind := 0, ctx := descCtx d,
     score := BitVec.ofNat 11 s.curCore, seq := q, words := (List.range n).map (fun k => s.me.readG (regOf f.ob + k)) }, s)

/-- A free entry of the send buffer, and of the Crucible for a speculative activation (R167, R277). -/
def needSendEntry (s : State) : Except Stop Unit :=
  if Config.sendEntries ≤ s.me.sendBuf.length then .error (.trap 0x23 0)
  else
    match s.mySpec with
    | some sp => if crucFree s sp then .ok () else .error (.stall s)
    | none => .ok ()

/-- SEND (R166, R167). -/
def execSend (f : Form) (s : State) : Outcome :=
  runExtra f .read { srcs := payloadSrcs s.me f } (fun s => do
    checkSend s f
    needSendEntry s
    let (m, s') := buildMsg s f
    pure (s'.modMe (fun t => { t with sendBuf := t.sendBuf ++ [.send (destOf s (s.me.value f.od)) m] }))) s

/-- SENDNOW (R166, R168): the message enters the injection queue at issue. -/
def execSendnow (f : Form) (s : State) : Outcome :=
  runExtra f .read { srcs := payloadSrcs s.me f } (fun s => do
    checkSend s f
    needOrdinary s
    if !injectRoom s s.curCore then .error (.stall s)
    let (m, s') := buildMsg s f
    pure (inject s' s.curCore (destOf s (s.me.value f.od)) m)) s

/-! ## END and ENDW -/

/-- END (R169). -/
def execEnd (f : Form) (s : State) : Outcome :=
  run f none .none (fun s => .ok (endActivation s s.curCore s.curTs 0 none)) s

/-- Watches of a scratchpad bank, armed and reserved (R170), for the context under execution, with which its own stay (R225). -/
def bankCount (s : State) (core bank : Nat) : Nat :=
  (s.bankWatches.filter (fun b => b.core == core && b.bank == bank && b.ctx.toNat == s.myCtx)).length

/-- The watch of an `ENDW` at a place. -/
def watchOf (s : State) (f : Form) (scratch : Bool) (at_ tier resv : Nat) : Watch :=
  { scratch := scratch, at_ := at_, tier := tier, va := s.me.value f.od, comparand := s.me.value f.oa,
    tag := routeTag (s.me.value f.ob), prio := routePrio (s.me.value f.ob), core := s.curCore, ctx := BitVec.ofNat 12 s.myCtx,
    resv := resv }

/-- ENDW (R170): a bank watch is reserved before anything ends. -/
def execEndw (f : Form) (s : State) : Outcome :=
  run f none .read (fun s => do
    let route := s.me.value f.ob
    let ea := s.me.value f.od
    checkRoute route 0x80000 3 f.ob
    if route.getLsbD 19 then
      let a ← checkScratch s ea 8
      if Config.bankWatches ≤ bankCount s a.core (a.addr / 65536) then .error (.trap 0x38 5)
      let (n, s) := s.fresh
      let s := { s with bankWatches := s.bankWatches ++ [BankWatch.mk a.core (a.addr / 65536) none n (BitVec.ofNat 12 s.myCtx)] }
      pure (endActivation s s.curCore s.curTs 1 (some (watchOf s f true (a.core * 2 ^ 18 + a.addr) 0 n)))
    else
      let x ← checkAccess s ea 8 8 rightR
      if x.wb then .error (.stall s)
      pure (endActivation (s.used ea 8 rightR false) s.curCore s.curTs 1 (some (watchOf s f false x.pa x.tier 0)))) s

/-! ## RREAD -/

/-- The translation of an access that may reach into a second page: both pages must translate. -/
def checkWide (s : State) (ea : Word) (n align : Nat) (need : BitVec 5) : Except Stop (Xlat × Xlat) := do
  let x ← checkAccess s ea n align need
  if ptrAddr ea / 65536 ≠ (ptrAddr ea + n - 1) / 65536 then
    let x2 ← checkXlat s (ea + BitVec.ofNat 64 (n - 1))
    pure (x, x2)
  else pure (x, { x with pa := x.pa + (n - 1) })

/-- The translation of an address within a wide access, from those of its first and last byte. -/
def wideXlat (x x2 : Xlat) (va n a : Nat) : Xlat :=
  if a / 65536 = va / 65536 then { x with pa := x.pa + (a - va) } else { x2 with pa := x2.pa - (va + n - 1 - a) }

/-- The engines of a cluster that are taken: those that run a command of its stream queue, and those of replay
fetches and frame copies under way (R239). -/
def enginesTaken (s : State) (cl : Nat) : Nat :=
  ((s.cluster cl).stream.filter (fun c => c.engine.isSome)).length +
    (((List.range 16).map (fun k => cl * 16 + k)).filter (fun k => match (s.core k).anvil.head? with
      | some a => a.phase == .fetching && a.fetched != 0
      | none => false)).length +
    (s.thefts.filter (fun x => x.copying && !x.copied && clusterOf x.victim == cl)).length

/-- Replay fetches and frame copies of a cluster that wait for an engine: they are taken ahead of the stream queue (R239). -/
def engineClaims (s : State) (cl : Nat) : Nat :=
  (((List.range 16).map (fun k => cl * 16 + k)).filter (fun k => match (s.core k).anvil.head? with
      | some a => a.phase == .fetching && a.fetched == 0
      | none => false)).length +
    (s.thefts.filter (fun x => !x.copying && !x.copied && clusterOf x.victim == cl)).length

/-- Whether a cluster's stream queue has a free entry (R239): commands, replay fetches and frame copies leave it when an engine starts
them. -/
def streamRoom (s : State) (cl : Nat) : Bool :=
  decide (((s.cluster cl).stream.filter (fun x => x.engine.isNone)).length + engineClaims s cl < Config.streamEntries)

/-- RREAD (R171): a split-phase read, through the cluster's stream queue (R239). -/
def execRread (f : Form) (s : State) : Outcome :=
  run f none .none (fun s => do
    let route := s.me.value f.ob
    let nw := routeNw route
    checkRoute route 0x70000 3 f.ob
    if nw = 0 ∨ nw = 7 then badOperand 3 f.ob
    let ea := s.me.value f.oa
    let (x, x2) ← checkWide s ea (8 * nw) 8 rightR
    needOrdinary s
    if !replyFree s s.curCore || !streamRoom s (cacheOf s.curCore) then .error (.stall s)
    let (n, s) := (reserveReply (s.used ea (8 * nw) rightR false) s.curCore).fresh
    let c : StreamCmd :=
      { id := n, op := .rread nw, core := s.curCore, ts := s.curTs, act := s.me.act.map (·.uid), ctx := BitVec.ofNat 12 s.myCtx,
        owner := s.me.owner, gptr := ea, x := x, x2 := x2, route := route }
    pure (s.modCluster (cacheOf s.curCore) (fun u => { u with stream := u.stream ++ [c] }))) s

/-! ## HTSET, TAGEN, TAGPND -/

/-- The cores on which a context is resident. -/
def residentCores (s : State) (ctx : Nat) : List Nat :=
  (s.cores.filter (fun c => c.2.ctx == some (BitVec.ofNat 12 ctx))).map (·.1)

/-- The indivisible step of `HTSET` (R172, R215): the entry is written, no cache keeps the old one, the messages of the
tag are tested again on every core of the context. -/
def writeHandler (s : State) (ctx tag at_ : Nat) (e : Word) : State :=
  let s := unitWrite (unitWrite s at_ 8 e.toNat) (at_ + 8) 8 0
  let s := { s with cores := s.cores.map (fun c => (c.1, { c.2 with handlers := c.2.handlers.filter (fun h => h.1 != at_) })) }
  (residentCores s ctx).foldl (fun s c => retestTag s c (BitVec.ofNat 12 tag)) s

/-- HTSET (R172): the step, then a hold until every handler cache that had the entry has acknowledged. -/
def execHtset (f : Form) (s : State) : Outcome :=
  run f none .none (fun s => do
    let tag := s.me.value f.oa
    let e := s.me.value f.ob
    if 4095 < tag.toNat then badOperand 2 f.oa
    if fieldN e 0 2 ≠ 0 ∨ fieldN e 61 3 ≠ 0 then badOperand 3 f.ob
    needOrdinary s
    match s.me.wait with
    | .purge id => if purgeDone s id then pure s else .error (.stall s)
    | _ =>
      let rcb := (s.me.act.map (·.rcb)).getD 0
      let at_ := ptrAddr (regionAt s s.myCtx rcb (s.me.act.bind (·.launch))).htab + 16 * tag.toNat
      let holders := (s.cores.filter (fun c => c.2.handlers.any (fun h => h.1 == at_))).map (·.1)
      let s := writeHandler s s.myCtx tag.toNat at_ e
      if holders.isEmpty then pure s
      else
        let (n, s) := s.fresh
        let s := { s with purges := s.purges ++ [Purge.mk n (.handler (BitVec.ofNat 12 s.myCtx) (tag.setWidth 12)) holders] }
        .error (.stall (s.modMe (fun t => { t with wait := .purge n })))) s

/-- TAGEN (R173): the changed enable governs the selections of later cycles. -/
def execTagen (f : Form) (s : State) : Outcome :=
  run f none .none (fun s => do
    let tag := s.me.value f.oa
    if 4095 < tag.toNat then badOperand 2 f.oa
    needOrdinary s
    let s := s.modMyCore (fun c => { c with tagOff := mset false c.tagOff tag.toNat (f.md.getLsbD 0), tagCycle := some (s.cycle s.curCore) })
    pure (retestTag s s.curCore (tag.setWidth 12))) s

/-- TAGPND (R173). -/
def execTagpnd (f : Form) (s : State) : Outcome :=
  run f none .write (fun s => do
    let tag := s.me.value f.oa
    if 4095 < tag.toNat then badOperand 2 f.oa
    pure (s.modMe (fun t => t.writeG (regOf f.od) (if tagPending s s.curCore (tag.setWidth 12) then 1 else 0)))) s

/-! ## Where a message goes -/

/-- The core that receives a context's messages for a core: a forwarding entry, then the context's migration map (R318). -/
def routedCore (s : State) (ctx : BitVec 12) (core : Nat) : Nat :=
  match (s.cluster (clusterOf core)).forwards.find? (fun w => w.ctx == ctx && w.old == core) with
  | some w => w.new
  | none =>
    match (s.context ctx.toNat).bind (fun c => c.moved.find? (fun m => m.1 == core)) with
    | some m => m.2
    | none => core

/-- Whether a core's inbox takes messages of a context now: resident, and its slice not ended (R214, R315). -/
def accepting (s : State) (core : Nat) (ctx : BitVec 12) : Bool :=
  (s.core core).ctx == some ctx &&
    (!isCompute core || (match (s.partition (s.partitionOf ctx.toNat)).phase with | .running => true | _ => false))

/-- Whether a reply slot of a context can be reserved at a core, in its inbox or its saved image (R212, R214). -/
def replyRoom (s : State) (core : Nat) (ctx : BitVec 12) : Bool :=
  if (s.core core).ctx == some ctx then replyFree s core
  else
    let i := imageOf s ctx.toNat core
    decide ((i.slots.filter (fun x => isReply x.msg.kind)).length + (i.arrivals.filter (fun m => isReply m.kind)).length
      + i.replyReserved < Config.replySlots)

/-- A reply slot of a context reserved at a core. -/
def takeReply (s : State) (core : Nat) (ctx : BitVec 12) : State :=
  if (s.core core).ctx == some ctx then reserveReply s core
  else modImage s ctx.toNat core (fun i => { i with replyReserved := i.replyReserved + 1 })

/-- A message reaches a core (R212 to R215): it takes a slot once its handler entry is cached; in a context that is not
resident it joins the saved image; a request with no slot waits where it is (none). -/
def arrive (s : State) (core : Nat) (m : Msg) : Option State :=
  let filled := isReply m.kind
  if (s.context m.ctx.toNat).isNone then some s
  else if accepting s core m.ctx then
    if (cachedEntry s core (entryAddr s core m)).isNone then none
    else if filled then some (placeMsg (s.modCore core (fun c => { c with replyReserved := c.replyReserved - 1 })) core m)
    else if requestFree s core then some (placeMsg s core m)
    else none
  else
    let here := (s.core core).ctx == some m.ctx
    let s := if filled && here then s.modCore core (fun c => { c with replyReserved := c.replyReserved - 1 }) else s
    some (modImage s m.ctx.toNat core (fun i => { i with
      arrivals := i.arrivals ++ [m], replyReserved := if filled && !here then i.replyReserved - 1 else i.replyReserved }))

/-- The cores among which a cluster dispatcher places a message of a region (R165). -/
def regionCores (s : State) (rcb : Word) (sender ctx : Nat) : List Nat :=
  let all := (regionAt s ctx rcb).cores
  let here := if isCompute sender then all.filter (fun c => isCompute c && clusterOf c == clusterOf sender) else []
  if here.isEmpty then (match all with | c :: _ => all.filter (fun d => clusterOf d == clusterOf c) | [] => []) else here

/-- Request-class slots of a context occupied at a core. -/
def occupancy (s : State) (core : Nat) (ctx : BitVec 12) : Nat :=
  if (s.core core).ctx == some ctx then slotsUsed (s.core core) false
  else ((imageOf s ctx.toNat core).slots.filter (fun x => !isReply x.msg.kind)).length

/-- The core with the fewest slots occupied, the first of equals. -/
def leastCore (s : State) (ctx : BitVec 12) : List Nat → Option Nat
  | [] => none
  | c :: r =>
    match leastCore s ctx r with
    | some d => if occupancy s d ctx < occupancy s c ctx then some d else some c
    | none => some c

/-! ## Engine inboxes and completions -/

/-- The payload of a completion message (R205). -/
def completionWords (status opcode n : Nat) (word1 : Word) (sat unf : Nat) : List Word :=
  [BitVec.ofNat 64 (status % 256 + opcode % 256 * 2 ^ 8 + n % 2 ^ 32 * 2 ^ 32), word1,
   BitVec.ofNat 64 (min sat 65535 + min unf 65535 * 2 ^ 16)]

/-- A completion message (R205): the reply slot has been reserved. -/
def completion (s : State) (core : Nat) (ctx : BitVec 12) (route : Word) (status opcode n : Nat) (word1 : Word) (sat unf : Nat) : State :=
  postUnit s core 2 (routeTag route) (routePrio route) ctx.toNat (completionWords status opcode n word1 sat unf)

/-- A completion message that has still to reserve its reply slot (R202, R212). -/
def completionDue (s : State) (core : Nat) (ctx : BitVec 12) (route : Word) (words : List Word) : State :=
  { s with due := s.due ++ [⟨core, ctx, routeTag route, routePrio route, words⟩] }

/-- A held completion sent once a reply slot can be reserved for it. -/
def sendDue (s : State) (k : Nat) : State :=
  match s.due[k]? with
  | none => s
  | some d =>
    let to_ := routedCore s d.ctx d.core
    if replyRoom s to_ d.ctx then
      postUnit (takeReply { s with due := dropAt s.due k } to_ d.ctx) d.core 2 d.tag d.prio d.ctx.toNat d.words
    else s

/-- Word `k` of a command message. -/
def Command.word (c : Command) (k : Nat) : Word := (c.words[k]?).getD 0
/-- RQ of a command header (Table 10.4). -/
def Command.rq (c : Command) : Bool := (c.word 0).getLsbD 15
/-- The opcode of a command header. -/
def Command.opcode (c : Command) : Nat := fieldN (c.word 0) 16 8

/-- The completion of a command message, sent when its RQ is 1 (R243). -/
def commandDone (s : State) (c : Command) (status n sat unf : Nat) : State :=
  if c.rq then completion s c.core c.ctx (c.word 0) status c.opcode n (c.word 0 >>> 32) sat unf else s

/-- The lease slot of a die, a partition, a class (1 or 2) and an index. -/
def leaseKey (die p cls index : Nat) : Nat := ((die * 65 + p) * 2 + (cls - 1)) * 16 + index
/-- The lease slots a partition has of a class at a die (R313). -/
def quotaOf (s : State) (die p cls : Nat) : Nat := mget 0 (s.partition p).quota (die * 2 + (cls - 1))
/-- A lease slot. -/
def State.lease (s : State) (k : Nat) : LeaseSlot := mget {} s.leases k
/-- The state with a lease slot changed. -/
def State.modLease (s : State) (k : Nat) (f : LeaseSlot → LeaseSlot) : State := { s with leases := mmod {} s.leases k f }

/-- A command message reaches the inbox of its engine (R203, R204, R239): none while the inbox is full; a lease slot at or
above the quota completes it NO_ENGINE. -/
def arriveEngine (s : State) (cls index sender : Nat) (c : Command) : Option State :=
  if cls = 0 then
    let q := cacheOf sender
    if streamRoom s q then
      let m : StreamCmd :=
        { id := c.seq, core := c.core, ctx := c.ctx, owner := c.owner, words := c.words ++ [BitVec.ofNat 64 index],
          fmts := c.fmts, books := c.books,
          msg := some (c.word 0), route := c.word 0, rq := c.rq }
      some (s.modCluster q (fun u => { u with stream := u.stream ++ [m] }))
    else none
  else
    let p := s.partitionOf c.ctx.toNat
    if quotaOf s (dieOf sender) p cls ≤ index then some (commandDone s c 7 0 0 0)
    else
      let k := leaseKey (dieOf sender) p cls index
      if (s.lease k).cmds.length < Config.poolEntries then
        some (s.modLease k (fun l => { cmds := l.cmds ++ [{ cmd := c, id := c.seq }] }))
      else none

/-! ## Arrivals -/

/-- The 64 bytes of a message (R209). -/
def msgBytes (m : Msg) : List Byte :=
  let h0 : Word := m.tag.setWidth 64 ||| m.prio.setWidth 64 <<< 12 ||| (BitVec.ofNat 3 m.len).setWidth 64 <<< 14 |||
    m.kind.setWidth 64 <<< 17 ||| m.ctx.setWidth 64 <<< 20 ||| m.score.setWidth 64 <<< 32 ||| m.seq.setWidth 64 <<< 48
  (h0 :: m.stamp :: (List.range 6).map (fun k => if k < m.len then (m.words[k]?).getD 0 else 0)).flatMap wordBytes

/-- Whether an earlier entry of an injection queue goes, or may go, to the same inbox (R168). -/
def sameInbox (s : State) (ctx : BitVec 12) (core : Nat) (d : Inject) : Bool :=
  match d.dest with
  | .core c => routedCore s d.msg.ctx c == core && d.msg.ctx == ctx
  | .region rcb sender rctx => (regionCores s rcb sender rctx.toNat).contains core
  | _ => false

/-- A service core's message to a compute core is made as a unit's: that core as SCORE, its counter as SEQ (R211). -/
def fromService (s : State) (sender core : Nat) (m : Msg) : Msg × State :=
  if !isCompute sender && isCompute core then
    let (q, s) := nextSeq s core
    ({ m with score := BitVec.ofNat 11 core, seq := q }, s)
  else (m, s)

/-- An entry of an injection queue leaves it; the entries that waited for room follow. -/
def leaveQueue (s : State) (core k : Nat) : State :=
  let s := s.modCore core (fun c => { c with inject := dropAt c.inject k })
  (List.range 4).foldl (fun s t => if (s.tset core t).releasing.isEmpty then s else releaseMore s core t) s

/-- The `k`-th entry of a core's injection queue reaches a core's inbox. -/
def arriveAt (s : State) (n k core : Nat) (e : Inject) : State :=
  if ((s.core n).inject.take k).any (sameInbox s e.msg.ctx core) then s
  else
    let (m, s') := fromService s n core e.msg
    match arrive s' core m with
    | some s => leaveQueue s n k
    | none => s

/-- Where a stolen record goes (Table 11.9): the thief, or where a forwarding entry sends it; nowhere once the entry has expired,
or when the thief's cluster no longer belongs to the context's partition or is not READY. -/
def stolenTo (s : State) (x : Stolen) : Option Nat :=
  let c := x.msg.ctx
  match (s.cluster (clusterOf x.thief)).forwards.find? (fun w => w.ctx == c && w.old == x.thief) with
  | some w => some w.new
  | none =>
    if (s.context c.toNat).any (fun k => k.moved.any (fun m => m.1 == x.thief)) then none
    else if contextMayRun s c.toNat x.thief && s.isReady (readyOffset x.thief) then some x.thief
    else none

/-- MESSAGE_ARRIVAL (R168, R212 to R216): an entry of an injection queue, or a message a unit has made, reaches its
destination, if nothing before it goes to the same inbox and there is room; past the messages of the units stand the completions that
wait for a reply slot. The dispatcher's choice of a core stands once made. -/
def execMessageArrival (src : MsgFrom) (s : State) : Outcome :=
  match src with
  | .core n k =>
    match (s.core n).inject[k]? with
    | none => .next s
    | some e =>
      match e.dest with
      | .core c => .next (arriveAt s n k (routedCore s e.msg.ctx c) e)
      | .region rcb sender rctx =>
        match leastCore s e.msg.ctx (regionCores s rcb sender rctx.toNat) with
        | none => .next s
        | some c =>
          let s := s.modCore n (fun u => { u with inject := modAt (fun x => { x with dest := .core c }) u.inject k })
          .next (arriveAt s n k (routedCore s e.msg.ctx c) e)
      | .engine cls index sender =>
        if ((s.core n).inject.take k).any (fun x => x.dest == e.dest) then .next s
        else
          match arriveEngine s cls index sender (e.cmd.getD {}) with
          | some s => .next (leaveQueue s n k)
          | none => .next s
      | .peer node _ =>
        if ((s.core n).inject.take k).any (fun x => x.dest == e.dest) then .next s
        else
          let o := packetTo node 7 (s.partitionOf e.msg.ctx.toNat) 0 (msgBytes e.msg)
          .next (leaveQueue { s with out := s.out ++ [o] } n k)
  | .unit k =>
    match s.mail[k]? with
    | some (.core c, m) =>
      match arrive s (routedCore s m.ctx c) m with
      | some s => .next { s with mail := dropAt s.mail k }
      | none => .next s
    | some (.region rcb sender rctx, m) =>
      match leastCore s m.ctx (regionCores s rcb sender rctx.toNat) with
      | some c =>
        let s := { s with mail := modAt (fun x => (.core c, x.2)) s.mail k }
        match arrive s (routedCore s m.ctx c) m with
        | some s => .next { s with mail := dropAt s.mail k }
        | none => .next s
      | none => .next s
    | some _ => .next s
    | none => .next (sendDue s (k - s.mail.length))
  | .stolen k =>
    match s.stolen[k]? with
    | some x =>
      match (stolenTo s x).bind (fun c => arrive s c x.msg) with
      | some s => .next { s with stolen := dropAt s.stolen k }
      | none => .next s
    | none => .next s

/-- The messages on their way to a core. -/
def comingTo (s : State) (core : Nat) : List Msg :=
  (s.mail.filterMap (fun m => match m.1 with | .core c => if routedCore s m.2.ctx c = core then some m.2 else none | _ => none)) ++
  s.cores.flatMap (fun c => c.2.inject.filterMap (fun e => match e.dest with
    | .core d => if routedCore s e.msg.ctx d = core then some e.msg else none
    | _ => none)) ++
  s.stolen.filterMap (fun x => if stolenTo s x = some core then some x.msg else none)

/-- HANDLER_CACHE_FILL (R215): the entry of a waiting message of a tag, else of the tag under the core's bound RCB, is read from
its table into the handler cache. -/
def execHandlerCacheFill (core : Nat) (tag : BitVec 12) (s : State) : Outcome :=
  let at_ := match (comingTo s core).find? (fun m => m.tag == tag && (cachedEntry s core (entryAddr s core m)).isNone) with
    | some m => entryAddr s core m
    | none => ptrAddr (regionAt s ((s.core core).ctx.getD 0).toNat (boundRcb s core)).htab + 16 * tag.toNat
  .next (cacheEntry s core at_ (unitWord s at_))

/-! ## Watches and reads -/

/-- The trigger of a watch that has fired (R170): it waits for a reply slot of the arming core. -/
def fireTrigger (s : State) (w : Watch) (v : Word) : Option State :=
  let core := routedCore s w.ctx w.core
  if replyRoom s core w.ctx then
    some (postUnit (takeReply s core w.ctx) core 4 w.tag w.prio w.ctx.toNat [v, w.va])
  else none

/-- ENDW_WATCH_FIRE (R170, R225): the `k`-th watch of the banks or of the homes, which has fired, sends its trigger and is
gone. -/
def execEndwWatchFire (bank : Bool) (k : Nat) (s : State) : Outcome :=
  if bank then
    match s.bankWatches[k]? with
    | some b =>
      match b.watch with
      | some w =>
        match w.fired.bind (fireTrigger s w) with
        | some s => .next { s with bankWatches := dropAt s.bankWatches k }
        | none => .next s
      | none => .next s
    | none => .next s
  else
    match s.watches[k]? with
    | some h =>
      match h.who with
      | .endw w =>
        match h.fired.bind (fireTrigger s w) with
        | some s => .next { s with watches := dropAt s.watches k }
        | none => .next s
      | .spin .. => .next s
    | none => .next s

/-- The words of an `RREAD`, read as `LD` reads them; the flag is an uncorrectable error. -/
def rreadWords (s : State) (c : StreamCmd) (nw : Nat) : List Word × Bool × State :=
  (List.range nw).foldl (fun (r : List Word × Bool × State) k =>
    let va := ptrAddr c.gptr + 8 * k
    let (l, bad, s) := loadFor r.2.2 c.core (.stream c.id) va (wideXlat c.x c.x2 (ptrAddr c.gptr) (8 * nw) va) false
    (r.1 ++ [BitVec.ofNat 64 (natOfBytes ((List.range 8).map (fun j => lineByte l (va % 64 + j))))],
     r.2.1 || (bytesAt va 8).any (fun k => bad.getLsbD k), s)) ([], false, s)

/-- Whether a read is still behind an earlier store or atomic of its thread set to a line that it reads (R142, R171, R250). -/
def readBehind (t : TSet) (c : StreamCmd) (nw : Nat) : Bool :=
  [ptrAddr c.gptr, ptrAddr c.gptr + 8 * nw - 1].any (fun va => earlierStore t c.id va ||
    t.pend.any (fun q => decide (q.seq < c.id) && q.atomicLine == some (va / 64)))

/-- READ_COMPLETION (R171): the read that an engine runs is made and its words sent; with an uncorrectable error the
completion has length 0. -/
def execReadCompletion (cluster engine : Nat) (s : State) : Outcome :=
  match (s.cluster cluster).stream.find? (fun c => c.engine == some engine) with
  | some c =>
    match c.op with
    | .rread nw =>
      if readBehind (s.tset c.core c.ts) c nw then .next s
      else
      let xlat := wideXlat c.x c.x2 (ptrAddr c.gptr) (8 * nw)
      match [ptrAddr c.gptr, ptrAddr c.gptr + 8 * nw - 1].find? (fun va => !lineHere s cluster (.stream c.id) va (xlat va)) with
      | some va => .next (askLine s cluster (.stream c.id) va (xlat va) c.owner)
      | none =>
        let (ws, bad, s) := rreadWords s c nw
        let s := (answersTaken s (.stream c.id)).modCluster cluster (fun u => { u with stream := u.stream.filter (fun d => d.id != c.id) })
        .next (postUnit s c.core 3 (routeTag c.route) (routePrio c.route) c.ctx.toNat (if bad then [] else ws))
    | _ => .next s
  | none => .next s

end Sys2Proof.Machine
end

