-- ==== Sys2Proof/Machine/Sync.lean ====
section
/-! DEFINITION. Class 10, MJ 0011: sync objects (R149 to R152), fences (R153, R155), watches (R154) and barriers (R156), with
the steps at the homes that they wait for. -/

namespace Sys2Proof.Machine

/-! ## Fences -/

/-- Whether a result in flight holds a fence of a scope (Table 8.9): 0 core, 1 cluster, 2 device, 3 system. -/
def Pend.holdsFence (p : Pend) (scope : Nat) : Bool :=
  match p.kind with
  | .load .. | .vload .. => true
  | .atomic _ sc _ _ _ _ _ none => decide (sc < scope)
  | .spinw _ _ _ armed => decide (2 ≤ scope) && !armed
  | _ => false

/-- Whether a cluster holds writes to pages of a fence's scope (R337). -/
def heldInScope (s : State) (c : Nat) (sys : Bool) : Bool :=
  (s.cluster c).hold.any (fun h => match xlatOf s h.va with | some x => scopeTier sys x.tier | none => sys)

/-- Whether some earlier CORE-path access of a thread set has not reached the point of a scope (Table 8.9). An `RREAD` counts as a load
(R171, R250). -/
def fenceWaits (s : State) (core ts scope : Nat) : Bool :=
  let t := s.tset core ts
  !t.storeq.isEmpty || rreadPending s core ts s.uid || t.pend.any (fun p => p.holdsFence scope) || (decide (1 ≤ scope) && !t.unacked.isEmpty) ||
    (decide (2 ≤ scope) && heldInScope s (cacheOf core) (decide (scope = 3)))

/-- What `FENCE.dev` does, for the instructions that first publish as it does. -/
def publishDev (s : State) : Except Stop State :=
  if fenceWaits s s.curCore s.curTs 2 then .error (.stall s) else .ok (publish s s.curCore false)

/-- FENCE (R153). -/
def execFence (f : Form) (s : State) : Outcome :=
  run f none .none (fun s => do
    let scope := f.md.toNat % 4
    if 2 ≤ scope then needOrdinary s
    if fenceWaits s s.curCore s.curTs scope then .error (.stall s)
    if scope < 2 then pure s
    else
      let s := publish s s.curCore (decide (scope = 3))
      if scope = 3 && storesAway s (cacheOf s.curCore) then .error (.stall s)
      pure s) s

/-! ## XFENCE -/

/-- Whether a thread set has an unperformed CORE-path access issued before a number. -/
def coreEarlier (t : TSet) (seq : Nat) : Bool :=
  t.storeq.any (fun q => decide (q.seq < seq)) || !t.unacked.isEmpty ||
    t.pend.any (fun p => decide (p.seq < seq) && (match p.kind with
      | .load .. | .vload .. | .sload .. | .svload .. | .sldl .. => true
      | .cursor .. | .atomic _ _ _ _ _ _ _ none => true
      | .spinw _ _ _ armed => !armed
      | _ => false))

/-- The engine class of an `ESEND` in an injection queue. -/
def Inject.engineClass (e : Inject) : Option Nat := match e.dest with | .engine cls _ _ => some cls | _ => none

/-- Whether a command of a core issued before a number still has accesses on a path to make (R155, R261). -/
def commandEarlier (s : State) (core seq path : Nat) : Bool :=
  let k := s.core core
  let queued := fun (cls : Nat → Bool) => k.inject.any (fun e => match e.engineClass, e.cmd with
    | some c, some m => cls c && decide (m.seq < seq)
    | _, _ => false)
  let pool := fun (cls : Nat → Bool) => s.leases.any (fun l => cls (l.1 / 16 % 2 + 1) && l.2.cmds.any (fun c =>
    c.cmd.core == core && decide (c.id < seq) && c.graph.isNone))
  let anvil := fun (p : AnvilCmd → Bool) => k.anvil.any (fun a => decide (a.id < seq) && p a)
  let stream := fun (p : StreamCmd → Bool) => (s.cluster (cacheOf core)).stream.any (fun c =>
    c.core == core && decide (c.id < seq) && c.graph.isNone && p c)
  match path with
  | 0 => stream (fun c => match c.op with | .rread _ => true | _ => false)
  | 1 => anvil (fun _ => true)
  | 2 => stream (fun _ => true) || queued (· == 0) || anvil AnvilCmd.tempered
  | 3 => pool (fun _ => true) || queued (fun c => decide (1 ≤ c))
  | 5 => pool (· == 2) || queued (· == 2)
  | _ => false

/-- Whether an access on a path of a mask, made by a core or one of its commands before a number, is still to be performed. -/
def earlierOnPaths (s : State) (core seq : Nat) (mask : BitVec 6) : Bool :=
  (mask.getLsbD 0 && ((List.range 4).any (fun t => coreEarlier (s.tset core t) seq) ||
    (s.cluster (cacheOf core)).hold.any (fun h => h.of core seq))) ||
  (mask.getLsbD 5 && storesAway s (cacheOf core)) ||
  (List.range 6).any (fun p => mask.getLsbD p && commandEarlier s core seq p)

/-- XFENCE (R155): at its first issue it takes its place among the core's accesses; it completes when what came before it on
the from-paths has been performed at device scope, the core's dirty lines written back, and stale clean lines dropped. -/
def execXfence (f : Form) (s : State) : Outcome :=
  run f none .none (fun s => do
    needOrdinary s
    let from_ : BitVec 6 := (s.me.value f.oa).setWidth 6
    let to_ : BitVec 6 := (s.me.value f.ob).setWidth 6
    if from_ = 0 ∨ to_ = 0 then pure s
    else
      let r := match s.me.wait with
        | .fence n => (n, s)
        | _ =>
          let (n, s) := s.fresh
          (n, (s.modMe (fun t => { t with wait := .fence n })).modMyCore (fun c =>
            { c with xfences := c.xfences ++ [XFence.mk s.curTs n from_ to_] }))
      if earlierOnPaths r.2 s.curCore r.1 from_ then .error (.stall r.2)
      else
        let s := r.2.modMyCore (fun c => { c with xfences := c.xfences.filter (fun x => x.seq != r.1) })
        let s := if from_.getLsbD 0 then publish s s.curCore false else s
        pure (if to_.getLsbD 0 || to_.getLsbD 2 then crossPaths s s.curCore else s)) s

/-! ## Sync objects -/

/-- Holds of a thread set, each counted (R152). -/
def TSet.holdCount (t : TSet) : Nat := (t.holds.map (·.count)).sum

/-- A further hold of an object. -/
def TSet.addHold (t : TSet) (pa va : Nat) (exclusive : Bool) : TSet :=
  if t.holds.any (fun h => h.pa == pa) then
    { t with holds := t.holds.map (fun h => if h.pa == pa then { h with count := h.count + 1 } else h) }
  else { t with holds := t.holds ++ [⟨pa, va, exclusive, 1⟩] }

/-- ACQ (R151, R152): a further hold of an object held exclusive at once, else a request queued at the object's home. -/
def execAcq (f : Form) (s : State) : Outcome :=
  run f none .none (fun s => do
    let shared := f.md.getLsbD 0
    match s.me.wait with
    | .acq _ true => pure s
    | .acq _ false => .error (.stall s)
    | _ =>
      let x ← checkAccess s (s.me.value f.oa) 16 16 rightA
      if Config.maxHolds ≤ s.me.holdCount then badOperand 2 f.oa
      let held := s.me.holds.find? (fun h => h.pa == x.pa)
      if !shared && held.any (fun h => !h.exclusive) then badOperand 2 f.oa
      needOrdinary s
      let s := s.used (s.me.value f.oa) 16 rightA false
      if held.any (·.exclusive) then pure (s.modMe (fun t => t.addHold x.pa (ptrAddr (s.me.value f.oa)) true))
      else
        .error (.stall ({ s with acqs := s.acqs ++ [AcqWait.mk x.pa (ptrAddr (s.me.value f.oa)) s.curCore s.curTs shared] }.modMe
          (fun t => { t with wait := .acq x.pa false })))) s

/-- The grant of one request (R151): the object's counts, the hold, and the cache's lines of the bound ranges. -/
def grantAcq (s : State) (a : AcqWait) : State :=
  let s := { s with acqs := s.acqs.filter (fun b => !(b.core == a.core && b.ts == a.ts)) }
  let s := if a.shared then setObj s a.core a.va a.pa (objShr s a.pa + 1) (objExc s a.pa) else setObj s a.core a.va a.pa (objShr s a.pa) true
  let c := cacheOf a.core
  let s := match s.binding (s.ctxOf a.core a.ts) a.pa with
    | some b =>
      (writeBackIf s c (fun l => b.holdsLine l.va)).modCluster c
        (fun u => { u with lines := u.lines.filter (fun l => !b.holdsLine l.va), purged := s.uid })
    | none => s
  s.modTset a.core a.ts (fun t => { t.addHold a.pa a.va (!a.shared) with wait := .acq a.pa true, stalled := false })

/-- The grants of a run of requests at the head of an object's queue. Under write-block of the object's page they wait (R337).
DESIGN CHOICE (log 68): requests are granted strictly in their order of arrival, so that a shared one, though EXC = 0, waits behind an
exclusive one that waits; so does a further shared hold of a shared holder. -/
def grantRun (s : State) (pa : Nat) : List AcqWait → State
  | [] => s
  | a :: rest =>
    if pageBlocked s a.core a.va then s
    else if a.shared then (if objExc s pa then s else grantRun (grantAcq s a) pa rest)
    else if objExc s pa || objShr s pa != 0 then s
    else grantAcq s a

/-- SYNC_GRANT (R151): the head of an object's queue is granted when it can be, a run of shared requests together. -/
def execSyncGrant (pa : Nat) (s : State) : Outcome := .next (grantRun s pa (s.acqs.filter (fun a => a.pa == pa)))

/-- Whether a `REL` of an object has to wait before its lines are written back: for the thread set's earlier accesses, and for writes
of the core to the bound ranges that are held, still to be performed or on their way to a peer; and while the object's page is
write-blocked (R151, R260, R337). -/
def relWaits (s : State) (core ts va pa : Nat) : Bool :=
  fenceWaits s core ts 1 || boundUnpublished s core (s.ctxOf core ts) pa || boundAtomic s core ts (s.ctxOf core ts) pa s.uid ||
    pageBlocked s core va

/-- REL (R151): after the thread set's earlier accesses and the write-backs. Its access is checked once (R138). -/
def execRel (f : Form) (s : State) : Outcome :=
  run f none .none (fun s => do
    let x ← match s.me.wait with
      | .checked x _ => Except.ok x
      | _ => checkAccess s (s.me.value f.oa) 16 16 rightA
    needOrdinary s
    let wait := fun (s : State) => s.modMe (fun t => { t with wait := .checked x false })
    let va := ptrAddr (s.me.value f.oa)
    if relWaits s s.curCore s.curTs va x.pa then .error (.stall (wait s))
    let s' := publishBound s s.curCore s.myCtx x.pa
    if boundUnpublished s' s.curCore s.myCtx x.pa then .error (.stall (wait s'))
    pure (relObject (s.used (s.me.value f.oa) 16 rightA false) s.curCore s.curTs va x.pa)) s

/-- BV and BTAG of an object written (Table 8.7). -/
def setBinding (s : State) (va pa : Nat) (tag : Option (BitVec 12)) : State :=
  objWrite s s.curCore va (pa + 14) 2 (match tag with | some t => t.toNat + 2 ^ 15 | none => 0)

/-- The lowest free binding tag of a context (R150). -/
def freeTag (bs : List Binding) : Option (BitVec 12) :=
  ((List.range Config.bindingTags).find? (fun k => !bs.any (fun b => b.tag.toNat == k))).map (BitVec.ofNat 12)

/-- Whether two ranges, base and length, meet. -/
def rangesMeet (a b : Nat × Nat) : Bool := decide (a.1 < b.1 + b.2) && decide (b.1 < a.1 + a.2)

/-- The effect of `BIND` (Table 8.8): status and state. DESIGN CHOICE (log 68): where several statuses apply, the least of 1, 2 and 3. -/
def bindRange (s : State) (ctx va pa : Nat) (r : Nat × Nat) : Word × State :=
  let bs : List Binding := ((s.context ctx).map (fun c => c.bindings)).getD []
  let old : Option Binding := bs.find? (fun b => b.obj == pa)
  if old.any (fun (b : Binding) => decide (4 ≤ b.ranges.length)) = true then (1, s)
  else
    match (match old with | some b => some b.tag | none => freeTag bs) with
    | none => (2, s)
    | some tag =>
      if bs.any (fun b => b.ranges.any (rangesMeet r)) then (3, s)
      else
        let new := if old.isSome then bs.map (fun b => if b.obj == pa then { b with ranges := b.ranges ++ [r] } else b)
          else bs ++ [⟨pa, tag, [r]⟩]
        let s := s.modContext ctx (fun c => { c with bindings := new })
        (0, setBinding s va pa (some tag))

/-- The effect of `UNBIND` (Table 8.8). DESIGN CHOICE (log 68): status 4 before status 5. -/
def unbindObject (s : State) (ctx va pa : Nat) : Word × State :=
  if objExc s pa || objShr s pa != 0 then (4, s)
  else
    match s.binding ctx pa with
    | none => (5, s)
    | some b =>
      let s := s.modContext ctx (fun c => { c with bindings := c.bindings.filter (fun x => x.obj != pa) })
      let s := { s with clusters := s.clusters.map (fun c => (c.1, { c.2 with
        lines := c.2.lines.map (fun l => if l.tv && l.btag == b.tag && l.bctx.toNat == ctx then { l with tv := false } else l) })) }
      (0, setBinding s va pa none)

/-- BIND (R150). -/
def execBind (f : Form) (s : State) : Outcome :=
  run f none .both (fun s => do
    let obj := s.me.value f.oa
    let base := s.me.value f.ob
    let n := (s.me.value f.od).toNat
    if obj.toNat % 16 ≠ 0 then .error (.trap 0x05 obj)
    if base.toNat % 64 ≠ 0 then .error (.trap 0x05 base)
    if n = 0 ∨ n % 64 ≠ 0 ∨ 2 ^ 32 < n then badOperand 1 f.od
    let x ← checkAccess s obj 16 16 rightA
    checkRights s base n rightR false
    let _ ← checkXlat s base
    needOrdinary s
    if x.wb then .error (.stall s)
    needCredit s
    let (status, s) := bindRange (s.used obj 16 rightA false) s.myCtx (ptrAddr obj) x.pa (ptrAddr base, n)
    pure (pendG s (regOf f.od) true obj (.value status))) s

/-- UNBIND (R150). -/
def execUnbind (f : Form) (s : State) : Outcome :=
  run f none .write (fun s => do
    let obj := s.me.value f.oa
    let x ← checkAccess s obj 16 16 rightA
    needOrdinary s
    if x.wb then .error (.stall s)
    needCredit s
    let (status, s) := unbindObject (s.used obj 16 rightA false) s.myCtx (ptrAddr obj) x.pa
    pure (pendG s (regOf f.od) true obj (.value status))) s

/-! ## Watches -/

/-- SPINW (R154): a request to the word's home; at most 16 credits of a core are `SPINW`'s (R140). -/
def execSpinw (f : Form) (s : State) : Outcome :=
  run f none .write (fun s => do
    let ea := s.me.value f.oa
    let x ← checkAccess s ea 8 8 rightR
    needOrdinary s
    needCredit s
    if x.wb || decide (Config.spinCredits ≤ (creditsUsed s s.curCore).2) then .error (.stall s)
    let seq := s.uid
    let s := pendG (s.used ea 8 rightR false) (regOf f.od) true ea (.spinw ea x (s.me.value f.ob) false)
    pure { s with watches := s.watches ++
      [{ pa := x.pa, tier := x.tier, va := ea, comparand := s.me.value f.ob, armed := false, fired := none,
         who := .spin s.curCore s.curTs seq }] }) s

/-- The home channel of an HBM address (R383). -/
def channelOf (pa : Nat) : Nat := pa / 256 % 256

/-- Whether a watch finds an entry of its channel's filter; the tier unit has no limit of its own (R154, R383). -/
def filterRoom (s : State) (w : HomeWatch) : Bool :=
  w.tier != 0 || decide ((s.watches.filter (fun v => v.armed && v.tier == 0 && channelOf v.pa == channelOf w.pa)).length <
    Config.filterEntries)

/-- Whether a watch is still behind an older store or atomic of its own thread set to its line (R142, R250). -/
def watchBehind (s : State) (w : HomeWatch) : Bool :=
  match w.who with
  | .spin c t seq => earlierStore (s.tset c t) seq (ptrAddr w.va) ||
      (s.tset c t).pend.any (fun q => decide (q.seq < seq) && q.atomicLine == some (ptrAddr w.va / 64))
  | .endw _ => false

/-- WATCH_ARM (R154, R170, R225): the `k`-th watch reaches its home: the cluster's cache gives up its line, and the watch takes
an entry and is tested. -/
def execWatchArm (k : Nat) (s : State) : Outcome :=
  match s.watches[k]? with
  | none => .next s
  | some w =>
    if w.armed || !filterRoom s w || watchBehind s w then .next s
    else
      let core := match w.who with | .spin c _ _ => c | .endw v => v.core
      let s := flushLine s (cacheOf core) (ptrAddr w.va)
      let s := { s with watches := modAt (fun v => testWatch s { v with armed := true }) s.watches k }
      match w.who with
      | .spin c t seq =>
        .next (s.modTset c t (fun u => { u with pend := u.pend.map (fun p => if p.seq == seq then
          { p with kind := .spinw w.va { pa := w.pa, tier := w.tier } w.comparand true } else p) }))
      | .endw _ => .next s

/-- SPINW_FIRE (R154): the `k`-th watch, a `SPINW`'s that has fired, delivers the word. -/
def execSpinwFire (k : Nat) (s : State) : Outcome :=
  match s.watches[k]? with
  | some w =>
    match w.who, w.fired with
    | .spin c t seq, some v =>
      let s := { s with watches := dropAt s.watches k }
      match (s.tset c t).pend.find? (fun p => p.seq == seq) with
      | some p => .next (s.modTset c t (fun u => deliver u p v 0 (w.tier != 3 && s.eccFails w.pa)))
      | none => .next s
    | _, _ => .next s
  | none => .next s

/-- TIER_WATCH_POLL (R154): the tier unit reads the word of the `k`-th watch at its home agent, `peer` being what a peer
answers, and the poll counts as a request. -/
def execTierWatchPoll (k : Nat) (peer : Word) (s : State) : Outcome :=
  match s.watches[k]? with
  | some w =>
    if !w.armed || w.tier = 0 || w.fired.isSome then .next s
    else
      let x : Word := if w.tier = 3 then peer else BitVec.ofNat 64 (s.homeRead w.pa 8)
      let s := match xlatOf s (ptrAddr w.va) with
        | some y => countRequest s (ptrAddr w.va) y
        | none => s
      if x = w.comparand then .next s
      else .next { s with watches := modAt (fun v => { v with fired := some x }) s.watches k }
  | none => .next s

/-! ## Barriers -/

/-- The larger of two FP32 magnitudes: a NaN wins and gives 0x7FC0_0000 (R156). -/
def magMax (a b : Word) : Word :=
  let nan := fun (x : Word) => decide (0x7F800000 < (x.extractLsb' 0 31).toNat)
  if nan a || nan b then 0x7FC00000
  else if (a.extractLsb' 0 31).toNat < (b.extractLsb' 0 31).toNat then zextLow 31 b else zextLow 31 a

/-- The checks of a barrier word (R156): reserved bits, and the issuing core among the members. -/
def checkBarrier (s : State) (w : Word) (pos : Nat) (o : Operand) : Except Stop Unit :=
  if w &&& ~~~0xFFFF000F = 0 && w.getLsbD (16 + dcBit s.curCore) then .ok () else badOperand pos o

/-- An arrival at a barrier (R156): none while it waits for an open episode of another context, or its core's own. -/
def arriveBarrier (s : State) (w : Word) (offer : Word) (pos : Nat) (o : Operand) : Except Stop State :=
  let cl := cacheOf s.curCore
  let b := fieldN w 0 4
  let mask : BitVec 16 := w.extractLsb' 16 16
  let me := (dcBit s.curCore, s.curTs, offer)
  let put := fun (e : Barrier) => (s.modMe (fun t => { t with wait := .barrier none })).modCluster cl
    (fun u => { u with barriers := mset none u.barriers b (some e) })
  match mget none (s.cluster cl).barriers b with
  | none =>
    .ok (put { ctx := BitVec.ofNat 12 s.myCtx, mask := mask, arrived := [me] })
  | some e =>
    if e.ctx.toNat ≠ s.myCtx then .error (.stall s)
    else if e.mask ≠ mask then badOperand pos o
    else if e.arrived.any (fun a => a.1 == dcBit s.curCore) then .error (.stall s)
    else .ok (put { e with arrived := e.arrived ++ [me] })

/-- The barrier instructions: the arrival acts as `FENCE.cl`, and the release ends the hold. -/
def barrierOp (s : State) (w offer : Word) (pos : Nat) (o : Operand) (done : State → Word → State) : Except Stop State :=
  match s.me.wait with
  | .barrier (some m) => .ok (done s m)
  | .barrier none => .error (.stall s)
  | _ => do
    checkBarrier s w pos o
    if fenceWaits s s.curCore s.curTs 1 then .error (.stall s)
    let s ← arriveBarrier s w offer pos o
    .error (.stall s)

/-- BARSYNC (R156). -/
def execBarsync (f : Form) (s : State) : Outcome :=
  run f none .none (fun s => barrierOp s (s.me.value f.oa) 0 2 f.oa (fun s _ => s)) s

/-- BARMAX (R156): g[OD] receives the largest magnitude offered. -/
def execBarmax (f : Form) (s : State) : Outcome :=
  run f none .write (fun s => barrierOp s (s.me.value f.ob) (zextLow 32 (s.me.value f.oa)) 3 f.ob
    (fun s m => s.modMe (fun t => t.writeG (regOf f.od) m))) s

/-- BARRIER_RELEASE (R156): a barrier whose members have all arrived releases them together. -/
def execBarrierRelease (cluster b : Nat) (s : State) : Outcome :=
  match mget none (s.cluster cluster).barriers b with
  | none => .next s
  | some e =>
    if (List.range 16).all (fun k => !e.mask.getLsbD k || e.arrived.any (fun a => a.1 == k)) then
      let m := e.arrived.foldl (fun m a => magMax m a.2.2) 0
      let s := s.modCluster cluster (fun u => { u with barriers := mset none u.barriers b none })
      let base := if cluster < 64 then cluster * 16 else 1024 + (cluster - 64) * 4
      .next (e.arrived.foldl (fun s a => s.modTset (base + a.1) a.2.1 (fun t =>
        { t with wait := .barrier (some m), stalled := false })) s)
    else .next s

end Sys2Proof.Machine
end

