-- ==== Sys2Proof/Machine/Rights.lean ====
section
/-! DEFINITION. Class 10, MJ 0100: rights instructions (R157 to R160, R325 to R329), TLB invalidation (R160, R333) and the
purges they send (R326). -/

namespace Sys2Proof.Machine

/-! ## Range words -/

/-- A range of bytes: base and length. -/
abbrev Range := Nat × Nat

/-- The range of a rights instruction: g[OA][56:0] and LEN (R157). -/
def rangeOf (ptr word : Word) : Range := (ptrAddr ptr, fieldN word 0 32 * 64)
/-- TO of a range word. -/
def rangeTo (word : Word) : BitVec 20 := word.extractLsb' 44 20
/-- RT of a range word. -/
def rangeRt (word : Word) : BitVec 5 := word.extractLsb' 32 5

/-- The step-8 checks of `GRANT`, `REVOKE`, `RCHK` and `GENADV` (R157). -/
def checkRange (s : State) (f : Form) : Except Stop Unit := do
  let ptr := s.me.value f.oa
  let w := s.me.value f.ob
  if ptr.toNat % 64 ≠ 0 then .error (.trap 0x05 ptr)
  if fieldN w 0 32 = 0 ∨ fieldN w 37 7 ≠ 0 then badOperand 3 f.ob
  needOrdinary s
  needCredit s
  needPath s 0

/-- A rights instruction whose effect at the Assay unit answers a status at once. -/
def rightsOp (f : Form) (effect : State → Word → Word → Word × State) (s : State) : Outcome :=
  run f none .write (fun s => do
    checkRange s f
    let (status, s') := effect s (s.me.value f.oa) (s.me.value f.ob)
    pure (pendG s' (regOf f.od) true (s.me.value f.oa) (.value status))) s

/-! ## Tables -/

/-- The first byte after an entry. -/
def REntry.last (e : REntry) : Nat := e.base + e.len * 64
/-- Whether an entry holds every byte of a range. -/
def REntry.holds (e : REntry) (q : Range) : Bool := decide (e.base ≤ q.1) && decide (q.1 + q.2 ≤ e.last)
/-- Whether an entry's range meets a range. -/
def REntry.meets (e : REntry) (q : Range) : Bool := decide (e.base < q.1 + q.2) && decide (q.1 < e.last)

/-- An entry put into a table sorted by BASE (R322). -/
def insertEntry (e : REntry) : List REntry → List REntry
  | [] => [e]
  | x :: r => if e.base < x.base then e :: x :: r else x :: insertEntry e r

/-- The parts of an entry outside a range, at most two (R157). -/
def REntry.outside (e : REntry) (q : Range) : List REntry :=
  (if e.base < q.1 then [{ e with len := (min e.last q.1 - e.base) / 64 }] else []) ++
  (if q.1 + q.2 < e.last then [{ e with base := max e.base (q.1 + q.2), len := (e.last - max e.base (q.1 + q.2)) / 64 }] else [])

/-- The part of an entry inside a range that it meets. -/
def REntry.inside (e : REntry) (q : Range) : REntry :=
  { e with base := max e.base q.1, len := (min e.last (q.1 + q.2) - max e.base q.1) / 64 }

/-- An owner's table with every entry of a property replaced by parts. -/
def splitTable (p : REntry → Bool) (parts : REntry → List REntry) (es : List REntry) : List REntry :=
  es.foldr (fun e r => if p e then (parts e).foldr insertEntry r else insertEntry e r) []

/-- Every table with its entries of a property replaced by parts. -/
def splitTables (s : State) (p : Nat → REntry → Bool) (parts : REntry → List REntry) : State :=
  { s with owners := s.owners.map (fun o => (o.1, o.2.map (fun t => { t with entries := splitTable (p o.1) parts t.entries }))) }

/-- The entry identity after one: 32 bits, never 0 (R321). -/
def nextIdentity (n : Nat) : Nat := if (n + 1) % 2 ^ 32 = 0 then 1 else (n + 1) % 2 ^ 32

/-- The entries of every owner. -/
def allEntries (s : State) : List REntry := s.owners.flatMap (fun o => (o.2.map (·.entries)).getD [])

/-- The next entry identity that no entry has, from the device's count on (R321), in `n` steps. -/
def freeIdentity (all : List REntry) : Nat → Nat → Nat
  | 0, k => k
  | n + 1, k => if all.any (fun e => e.gid == k) then freeIdentity all n (nextIdentity k) else k

/-- The identity that the next entry takes. -/
def State.takeGid (s : State) : Nat := freeIdentity (allEntries s) (allEntries s).length s.nextGid

/-- A later part of an entry that has been cut: one whose identity an entry before it in its table has. -/
def laterPart (seen : List Nat) : List REntry → Option REntry
  | [] => none
  | e :: r => if seen.contains e.gid then some e else laterPart (e.gid :: seen) r

/-- A later part of a cut entry takes an identity of its own, and the entries derived from it name it (R321, R326). -/
def renumberOne (s : State) : State :=
  match s.owners.findSome? (fun o => (o.2.bind (fun t => laterPart [] t.entries)).map (fun e => (o.1, e))) with
  | none => s
  | some (o, e) =>
    let g := s.takeGid
    let part := fun (k : Nat) (x : REntry) =>
      if k = o && x == e then { x with gid := g }
      else if x.pgid = e.gid && decide (e.base ≤ x.base) && decide (x.base < e.last) then { x with pgid := g } else x
    { s with nextGid := nextIdentity g,
             owners := s.owners.map (fun t => (t.1, t.2.map (fun u => { u with entries := u.entries.map (part t.1) }))) }

/-- Every part of a cut entry with an identity of its own (R321). -/
def renumber (s : State) : State := (List.range (allEntries s).length).foldl (fun s _ => renumberOne s) s

/-- The identities reached from a set of identities through PGID by entries that meet a range (R326), in `n` rounds. -/
def derivedIds (all : List REntry) (q : Range) : Nat → List Nat → List Nat
  | 0, ids => ids
  | n + 1, ids =>
    let more := all.filter (fun e => e.pgid != 0 && ids.contains e.pgid && e.meets q && !ids.contains e.gid)
    if more.isEmpty then ids else derivedIds all q n (ids ++ more.map (·.gid))

/-! ## Purges -/

/-- Whether a PLB entry is one that a rights purge drops. -/
def PlbEntry.purged (e : PlbEntry) (owners : List (BitVec 20)) (q : Range) : Bool :=
  owners.contains e.owner && decide (e.base < q.1 + q.2) && decide (q.1 < e.base + e.size)

/-- Whether a thread set has queued global stores that touch a range. -/
def storesIn (t : TSet) (q : Range) : Bool :=
  t.storeq.any (fun w => match w.w with
    | .global va _ bs => bs.any (fun b => decide (q.1 ≤ ptrAddr va + b.1) && decide (ptrAddr va + b.1 < q.1 + q.2))
    | _ => false)

/-- Whether a core has queued stores to a range. -/
def coreStoresIn (s : State) (core : Nat) (q : Range) : Bool := (List.range 4).any (fun t => storesIn (s.tset core t) q)

/-- Whether the filters mark that a cluster may hold entries of an owner (R324); a service core's cache is always marked (log 57). -/
def presenceMarks (s : State) (c : Nat) (owner : BitVec 20) : Bool :=
  decide (64 ≤ c) || (mget 0 s.presence (c / 32 * 4096 + Config.ownerHash owner.toNat % 4096)).getLsbD (c % 32)

/-- The cores to which the filters send a purge of some owners (R324, R326). -/
def markedCores (s : State) (owners : List (BitVec 20)) : List Nat :=
  (s.cores.map (·.1)).filter (fun n => owners.any (fun o =>
    presenceMarks s (cacheOf n) o && (mget 0 (s.cluster (cacheOf n)).masks o.toNat).getLsbD (dcBit n)))

/-- Whether an engine's command has a unit past its check that meets a purge (R326). -/
def unitPast (owners : List (BitVec 20)) (q : Range) (c : PoolCmd) : Bool :=
  owners.contains c.cmd.owner && c.past.any (fun r => decide (r.1 < q.1 + q.2) && decide (q.1 < r.1 + r.2))

/-- A purge sent to the cores that may hold matching entries or hold stores, and to the engines with a unit past its check (R324,
R326); the cluster rights caches and engine PLBs drop theirs as it passes. None when nobody is concerned. -/
def sendRightsPurge (s : State) (owners : List (BitVec 20)) (q : Range) : Option Nat × State :=
  let drop := fun (l : List PlbEntry) => l.filter (fun e => !e.purged owners q)
  let cl : List (Nat × Cluster) := s.clusters.map (fun (c : Nat × Cluster) => (c.1, { c.2 with rights := drop c.2.rights }))
  let en : List (Nat × PoolEngine) := s.engines.map (fun (e : Nat × PoolEngine) => (e.1, { e.2 with plb := drop e.2.plb }))
  let s : State := { s with clusters := cl, engines := en }
  let marked := markedCores s owners
  let units := (s.leases.filter (fun l => l.2.cmds.any (unitPast owners q))).map (fun l => 5000 + l.1)
  let cores := (s.cores.filter (fun c => marked.contains c.1 || coreStoresIn s c.1 q)).map (·.1) ++ units
  if cores.isEmpty then (none, s)
  else
    let (n, s) := s.fresh
    (some n, { s with purges := s.purges ++ [⟨n, .rights owners q.1 q.2, cores⟩] })

/-- Whether a TLB entry is of a page that a purge names. -/
def TlbEntry.within (e : TlbEntry) (base size : Nat) : Bool := decide (e.vbase < base + size) && decide (base < e.vbase + e.size)

/-- Pages whose TLB entries a purge drops at a cluster: whether their entries had AC = 0 (R334). -/
def noteDropped (s : State) (c : Nat) (gone : List TlbEntry) : State :=
  { s with acOff := gone.foldl (fun m e => mset false m (acKey c e.vbase) (!e.x.ac)) s.acOff }

/-- PURGE_ARRIVAL (R326, R333, R172): the `k`-th purge reaches a core, which drops what it names; the core acknowledges once
the stores that had passed their check have entered the cluster cache, and for a page the cluster has then written back. An engine's
lease slot, from 5,000 on, acknowledges once no unit of it past its check meets the range. -/
def execPurgeArrival (k core : Nat) (s : State) : Outcome :=
  match s.purges[k]? with
  | none => .next s
  | some p =>
    let ack := fun (s : State) => Host.Outcome.next
      (let rest := p.pending.filter (fun c => c != core)
       if rest.isEmpty then { s with purges := s.purges.filter (fun x => x.id != p.id) }
       else { s with purges := s.purges.map (fun x => if x.id == p.id then { x with pending := rest } else x) })
    if !p.pending.contains core then .next s
    else
      match p.kind with
      | .rights owners base size =>
        if 5000 ≤ core then
          if ((s.leases.filter (fun l => l.1 + 5000 == core)).any (fun l => l.2.cmds.any (unitPast owners (base, size)))) then .next s else ack s
        else
          let s := s.modCore core (fun c => { c with plb := c.plb.filter (fun e => !e.purged owners (base, size)) })
          if coreStoresIn s core (base, size) then .next s else ack (countAt s core 0x5003 1)
      | .page base size =>
        let gone := (s.core core).tlb.filter (fun e => e.within base size)
        let s := s.modCore core (fun c => { c with tlb := c.tlb.filter (fun e => !e.within base size) })
        let s := noteDropped s (cacheOf core) gone
        if coreStoresIn s core (base, size) then .next s
        else ack (writeBackIf s (cacheOf core) (fun l => decide (base ≤ l.va) && decide (l.va < base + size)))
      | .handler _ _ => ack s

/-! ## GRANT -/

/-- Whether the supervisors of both partitions have asked for a consent record (R325). -/
def Consent.made (c : Consent) : Bool :=
  c.asked.contains (c.granter.toNat / 2 ^ 13) && c.asked.contains (c.target.toNat / 2 ^ 13)

/-- Whether a consent record covers a grant (R325). -/
def consented (s : State) (owner to_ : BitVec 20) (q : Range) (rt : BitVec 5) : Bool :=
  s.partitions.any (fun p => p.2.consents.any (fun c => c.made && c.granter == owner && c.target == to_ && decide (c.base ≤ q.1) &&
    decide (q.1 + q.2 ≤ c.base + c.len) && (rt &&& c.rights) == rt))


/-- The 32 bytes of a rights entry (Table 18.1), byte 0 least significant. -/
def REntry.layout (e : REntry) : BitVec 256 :=
  let w3 : Word := BitVec.ofNat 64 (e.gid % 2 ^ 32 + e.pgid % 2 ^ 32 * 2 ^ 32)
  let w2 : Word := BitVec.ofNat 64 (e.granter.toNat * 2 ^ 44 + 8 + (if e.orig then 4 else 0) + (if e.quar then 2 else 0) + (if e.xp then 1 else 0))
  let w1 : Word := BitVec.ofNat 64 (e.rights.toNat * 2 ^ 32 + e.len % 2 ^ 32)
  let w0 : Word := BitVec.ofNat 64 (e.gen.toNat * 2 ^ 57 + e.base % 2 ^ 57)
  (w3 ++ w2 ++ w1 ++ w0 : BitVec 256)

/-- Whether an owner is a system owner: a context with the system flag lists it (R95, R330, log 61). -/
def systemOwner (s : State) (o : BitVec 20) : Bool := s.contexts.any (fun c => c.2.any (fun k => k.sys && k.owners.contains o))

/-- Whether a range reaches into the window of physical addresses (R330). -/
def inWindow (q : Range) : Bool := decide (Config.systemWindow < q.1 + q.2)

/-- The effect of `GRANT` (R325): the status and the state. DESIGN CHOICE (log 71): a grant of the window of R330 to an owner that is no
system owner finds no cover. -/
def grantRange (s : State) (ptr word : Word) : Word × State :=
  let owner := s.me.owner
  let to_ := rangeTo word
  let rt := rangeRt word
  let q := rangeOf ptr word
  let covers := (s.ownerEntries owner).filter (fun e => e.holds q && (e.rights &&& (rt ||| rightG)) == (rt ||| rightG))
  if covers.isEmpty || (inWindow q && !systemOwner s to_) then (1, s)
  else
    match covers.find? (fun e => !e.quar && e.gen == ptrGen ptr && ptrGen ptr != 127) with
    | none => (4, s)
    | some cover =>
      let cross := to_.extractLsb' 13 7 != owner.extractLsb' 13 7
      if cross && !consented s owner to_ q rt then (2, s)
      else
        match mget none s.owners to_.toNat with
        | none => (5, s)
        | some t =>
          if t.capacity ≤ t.entries.length then (3, s)
          else
            let e : REntry :=
              { base := q.1, len := fieldN word 0 32, gen := cover.gen, rights := rt, gid := s.takeGid, pgid := cover.gid,
                granter := owner, xp := cross }
            (0, { s with nextGid := nextIdentity s.takeGid,
                         owners := mset none s.owners to_.toNat (some { t with entries := insertEntry e t.entries }) })

/-- GRANT (R157, R325). -/
def execGrant (f : Form) (s : State) : Outcome := rightsOp f grantRange s

/-! ## REVOKE -/

/-- The identities that `REVOKE` removes inside its range (R326). -/
def revokedIds (s : State) (owner to_ : BitVec 20) (q : Range) : List Nat :=
  let mine := s.owners.flatMap (fun o =>
    if to_.toNat = Config.everyGrantee ∨ o.1 = to_.toNat then
      ((o.2.map (·.entries)).getD []).filter (fun e => !e.orig && e.granter == owner && e.meets q)
    else [])
  derivedIds (allEntries s) q (allEntries s).length (mine.map (·.gid))

/-- The owners that hold an entry of an identity in a list that meets a range. -/
def ownersOf (s : State) (ids : List Nat) (q : Range) : List (BitVec 20) :=
  (s.owners.filter (fun o => ((o.2.map (·.entries)).getD []).any (fun e => !e.orig && ids.contains e.gid && e.meets q))).map
    (fun o => BitVec.ofNat 20 o.1)

/-- A result that waits for a purge, or stands at once when no core is concerned. -/
def pendPurge (s : State) (f : Form) (ptr : Word) (purge : Option Nat) (status : Word) : State :=
  match purge with
  | some id => pendG s (regOf f.od) true ptr (.purge id status)
  | none => pendG s (regOf f.od) true ptr (.value status)

/-- REVOKE (R158, R326): the parts inside the range go in one step, then the purge; the status lands after the last
acknowledgement. -/
def execRevoke (f : Form) (s : State) : Outcome :=
  run f none .write (fun s => do
    checkRange s f
    let ptr := s.me.value f.oa
    let word := s.me.value f.ob
    let q := rangeOf ptr word
    let ids := revokedIds s s.me.owner (rangeTo word) q
    if ids.isEmpty then pure (pendG s (regOf f.od) true ptr (.value 1))
    else
      let owners := ownersOf s ids q
      let s := renumber (splitTables s (fun _ e => !e.orig && ids.contains e.gid && e.meets q) (fun e => e.outside q))
      let (id, s) := sendRightsPurge s owners q
      pure (pendPurge s f ptr id 0)) s

/-! ## RCHK -/

/-- Whether entries together hold every byte of [lo, hi), in `n` steps. -/
def spans (es : List REntry) (hi : Nat) : Nat → Nat → Bool
  | 0, lo => decide (hi ≤ lo)
  | n + 1, lo =>
    if hi ≤ lo then true
    else
      match es.find? (fun e => decide (e.base ≤ lo) && decide (lo < e.last)) with
      | some e => spans es hi n e.last
      | none => false

/-- Whether entries together hold every byte of a range. -/
def spansRange (es : List REntry) (q : Range) : Bool := spans es (q.1 + q.2) es.length q.1

/-- The report of `RCHK` (Table 8.10). -/
def checkReport (s : State) (ptr word : Word) : Word :=
  let q := rangeOf ptr word
  let es := (s.ownerEntries s.me.owner).filter (fun e => e.meets q)
  let good := es.filter (fun e => !e.quar && e.gen == ptrGen ptr && ptrGen ptr != 127)
  let right := fun (k : Nat) => (rangeRt word).getLsbD k && spansRange (good.filter (fun e => e.rights.getLsbD k)) q
  BitVec.ofNat 64 (bitsOf ((List.range 5).map right ++ [false, false] ++
    [es.any (fun e => !e.quar && e.gen != ptrGen ptr), es.any (·.quar)]))

/-- RCHK (R157). -/
def execRchk (f : Form) (s : State) : Outcome := rightsOp f (fun s ptr word => (checkReport s ptr word, s)) s

/-! ## GENADV -/

/-- An original part advanced (R328, R329). -/
def REntry.advance (e : REntry) : REntry :=
  if e.quar then e else if e.gen.toNat < 126 then { e with gen := e.gen + 1 } else { e with quar := true }

/-- Whether an owner's entry is an original that meets a range. -/
def isOriginal (owner : BitVec 20) (q : Range) (o : Nat) (e : REntry) : Bool := o == owner.toNat && e.orig && e.meets q

/-- The status of `GENADV` from the parts inside the range after the step. -/
def advanceStatus (parts : List REntry) (q : Range) : Word :=
  let low := (parts.find? (fun e => decide (e.base ≤ q.1) && decide (q.1 < e.last)))
  let gen := match low with | some e => if e.quar then 126 else e.gen.toNat | none => 0
  let code := if parts.any (·.quar) then 2 else 0
  let several := match parts with | e :: r => r.any (fun x => x.gen != e.gen) | [] => false
  BitVec.ofNat 64 (gen + code * 2 ^ 8 + (if several then 2 ^ 16 else 0))

/-- The tables after `GENADV` of a range by the owner of originals (R328): originals' parts advance, entries derived from
them go inside the range. -/
def advanceRange (s : State) (owner : BitVec 20) (q : Range) (ids : List Nat) : State :=
  let s := splitTables s (fun _ e => !e.orig && ids.contains e.gid && e.meets q) (fun e => e.outside q)
  renumber (splitTables s (isOriginal owner q) (fun e => insertEntry (e.inside q).advance (e.outside q)))

/-- GENADV (R159, R328, R329). -/
def execGenadv (f : Form) (s : State) : Outcome :=
  run f none .write (fun s => do
    checkRange s f
    let ptr := s.me.value f.oa
    let q := rangeOf ptr (s.me.value f.ob)
    let owner := s.me.owner
    let mine := (s.ownerEntries owner).filter (isOriginal owner q owner.toNat)
    if !spansRange mine q then pure (pendG s (regOf f.od) true ptr (.value (1 <<< 8)))
    else
      let ids := derivedIds (allEntries s) q (allEntries s).length (mine.map (·.gid))
      let owners := owner :: ownersOf s ids q
      let s := advanceRange s owner q ids
      let status := advanceStatus ((s.ownerEntries owner).filter (fun e => isOriginal owner q owner.toNat e)) q
      let (id, s) := sendRightsPurge s owners q
      pure (pendPurge s f ptr id status)) s

/-! ## TLBINV -/

/-- The page of `TLBINV`: its base and size; every page for 11. -/
def invPage (va : Nat) (size : Nat) : Range :=
  match size with
  | 0 => (va / 2 ^ 16 * 2 ^ 16, 2 ^ 16)
  | 1 => (va / 2 ^ 21 * 2 ^ 21, 2 ^ 21)
  | 2 => (va / 2 ^ 30 * 2 ^ 30, 2 ^ 30)
  | _ => (0, 2 ^ 57)

/-- The first core of a cluster's cache. -/
def firstCore (c : Nat) : Nat := if c < 64 then c * 16 else 1024 + (c - 64) * 4

/-- The purge of a page: cluster TLBs drop it, and every core with an entry or stores of it, and one core of every cluster
with dirty lines of it, has to acknowledge. -/
def sendPagePurge (s : State) (q : Range) : Option Nat × State :=
  let dirty := (s.clusters.filter (fun c => c.2.lines.any (fun l => l.dw != 0 && decide (q.1 ≤ l.va) && decide (l.va < q.1 + q.2)))).map
    (fun c => firstCore c.1)
  let cores := (s.cores.filter (fun c => c.2.tlb.any (fun e => e.within q.1 q.2) || coreStoresIn s c.1 q)).map (·.1)
  let all := (dirty ++ cores).foldr insertUniq []
  let cl : List (Nat × Cluster) :=
    s.clusters.map (fun (c : Nat × Cluster) => (c.1, { c.2 with tlb := c.2.tlb.filter (fun e => !e.within q.1 q.2) }))
  let s : State := s.clusters.foldl (fun s c => noteDropped s c.1 (c.2.tlb.filter (fun e => e.within q.1 q.2))) { s with clusters := cl }
  if all.isEmpty then (none, s)
  else
    let (n, s) := s.fresh
    (some n, { s with purges := s.purges ++ [⟨n, .page q.1 q.2, all⟩] })

/-- TLBINV (R160, R333): privileged; holds the thread set's issue until every acknowledgement. -/
def execTlbinv (f : Form) (s : State) : Outcome :=
  let priv : Except Stop Unit := if s.isSystem s.myCtx then .ok () else .error (.trap 0x03 (highWord (.tlbinv f)))
  runWith f.guard f.hints none priv (formPreds f) (formSrcs s.me .none f) [] (fun s => do
    let ptr := s.me.value f.oa
    let size := s.me.value f.ob
    if ptr.toNat % 64 ≠ 0 then .error (.trap 0x05 ptr)
    if 3 < size.toNat then badOperand 3 f.ob
    needOrdinary s
    match s.me.wait with
    | .purge id => if purgeDone s id then pure s else .error (.stall s)
    | _ =>
      match sendPagePurge s (invPage (ptrAddr ptr) size.toNat) with
      | (none, s) => pure s
      | (some id, s) => .error (.stall (s.modMe (fun t => { t with wait := .purge id })))) s

end Sys2Proof.Machine
end

