-- ==== Sys2Proof/Machine/Selection.lean ====
section
/-! DEFINITION. The run queue: selection (R217 to R219, R307, R308), the handler watchdog (R223) and an abort by its
reason (R220, R348). -/

namespace Sys2Proof.Machine

/-! ## Priorities -/

/-- The base priority of a message: the larger number of its own and its entry's (R217). -/
def basePrio (m : Msg) (e : Word) : Nat := max m.prio.toNat (fieldN e 58 2)

/-- eff of a slot (R217): it falls by one for each 16,384 cycles of age, to −1 at least. A theft message is tested against no
entry (R273). -/
def effPrio (s : State) (core : Nat) (x : Slot) : Int :=
  let base := if x.theft.isSome then x.msg.prio.toNat else basePrio x.msg (entryOf s core x.msg)
  max (-1) ((base : Int) - ((slotAge s core x / 16384 : Nat) : Int))

/-! ## The thread set a slot can start on -/

/-- Whether a thread set kept for something is empty: no activation, nothing left to inject, no lock (R57, R169). -/
def TSet.isIdle (t : TSet) : Bool := t.act.isNone && t.ending.isNone && t.releasing.isEmpty && t.armAfter.isNone && t.gLock == 0 && t.vLock == 0

/-- The lowest idle thread set reserved for a launch on a core (R307). -/
def reservedTset (s : State) (core launch : Nat) : Option Nat :=
  (List.range 4).find? (fun t => (s.tset core t).isIdle && (s.tset core t).reserved == some launch)

/-- The thread set that a theft message is for (R273), once it is idle. -/
def thiefTset (s : State) (core theft : Nat) : Option Nat :=
  (List.range 4).find? (fun t => (s.tset core t).isIdle && (s.tset core t).theftGrant == some theft)

/-- The thread sets on which an ELIGIBLE slot of no theft can start now: one reserved for its launch, or the free ones while its RCB and
ancestors are below their budgets (R307, R308). -/
def slotTsets (s : State) (core : Nat) (x : Slot) : List Nat :=
  match x.msg.launch.bind (reservedTset s core) with
  | some t => [t]
  | none => if atBudget s x.msg.ctx.toNat (rcbOf s core x.msg) x.msg.launch then [] else freeTsets s core

/-- The thread set on which an ELIGIBLE slot can start now: the thief's, one reserved for its launch, or the lowest free one
while its RCB and ancestors are below their budgets (R307, R308). -/
def slotTset (s : State) (core : Nat) (x : Slot) : Option Nat :=
  match x.theft with
  | some n => thiefTset s core n
  | none => (slotTsets s core x).head?

/-- The best slot so far and the slots still to look at, with the position of the first of them (R217): ties go to the earlier
in order. `tsetOf` gives the thread set on which a slot would start. -/
def bestSlot (s : State) (core : Nat) (tsetOf : Slot → Option Nat) : List Slot → Nat → Option (Nat × Nat × Int) → Option (Nat × Nat × Int)
  | [], _, best => best
  | x :: rest, k, best =>
    let next :=
      match x.state, tsetOf x with
      | .eligible, some t =>
        let e := effPrio s core x
        match best with
        | some b => if e < b.2.2 then some (k, t, e) else best
        | none => some (k, t, e)
      | _, _ => best
    bestSlot s core tsetOf rest (k + 1) next

/-- The slot that selection finds: its position, its thread set and its eff. -/
def selectBest (s : State) (core : Nat) : Option (Nat × Nat × Int) := bestSlot s core (slotTset s core) (s.core core).inbox 0 none

/-- The deque record that selection finds: its place below the top and its thread set, among some free ones (R217, R308). A thread set whose last record's
message the core still holds takes none, so that at most one is held for each (R222, log 54). -/
def selectRecord (s : State) (core : Nat) (among : List Nat) : Option (Nat × Nat) :=
  let held := fun (t : Nat) => (s.core core).returned.any (fun r => r.ts == t)
  match bottomUnheld s core, (freeTsets s core).find? (fun t => among.contains t && !held t) with
  | some k, some t => if atBudget s ((s.core core).ctx.getD 0).toNat (boundRcb s core) then none else some (k, t)
  | _, _ => none

/-- What one selection starts: a slot, or a deque record, which goes first at equal priority. -/
inductive Selected where
  | slot (k ts : Nat)
  | record (k ts : Nat)
  deriving DecidableEq, Repr

/-- The choice of R217 between a record and a slot. -/
def choice (s : State) (core : Nat) (rec : Option (Nat × Nat)) (best : Option (Nat × Nat × Int)) : Option Selected :=
  match rec, best with
  | some (k, t), some (j, u, e) =>
    if ((recMsg s core (dequeRec s core k)).1.prio.toNat : Int) ≤ e then some (.record k t) else some (.slot j u)
  | some (k, t), none => some (.record k t)
  | none, some (j, u, _) => some (.slot j u)
  | none, none => none

/-- The choice of R217. -/
def selected (s : State) (core : Nat) : Option Selected := choice s core (selectRecord s core (List.range 4)) (selectBest s core)

/-! ## Starts -/

/-- The start of a deque record (R218): its header from the record, SCORE and SEQ from the popping core. -/
def startRecord (s : State) (core k ts : Nat) : State :=
  let (m, s) := recMsg s core (dequeRec s core k)
  let e := entryOf s core m
  startActivation (dequeRemove s core k) core ts m .deque e s.now

/-- The start of a slot's message on a thread set: the slot is RUNNING (R213, R217), with the entry of the RCB named at its selection
(R172, R215). Where that entry does not pass, as after a binding to another RCB, the slot is PARKED instead. -/
def startSlot (s : State) (core k ts : Nat) : State :=
  match (s.core core).inbox[k]? with
  | some x =>
    let e := entryOf s core x.msg
    if msgPasses s core x.msg e then
      let y := { x with state := .running ts, age := slotAge s core x, entry := e, chosen := true }
      startActivation (s.modCore core (fun c => { c with inbox := modAt (fun _ => y) c.inbox k })) core ts x.msg .inbox e x.arrival
    else
      let before := tagPending s core x.msg.tag
      absentNotice (s.modCore core (fun c => { c with inbox := modAt (fun y => testSlot s core y e) c.inbox k })) core x.msg e before
  | none => s

/-- The start of what a selection chose. -/
def startSelected (s : State) (core : Nat) : Selected → State
  | .slot k t => startSlot s core k t
  | .record k t => startRecord s core k t

/-- MESSAGE_SELECTION (R217, R218, R308): one selection of a core. A theft message starts by THEFT_START. After a `TAGEN` there is none in
its cycle, as that would go by the enable as it was (R173). -/
def execMessageSelection (core : Nat) (s : State) : Outcome :=
  if coreSelects s core && (s.core core).tagCycle != some (s.cycle core) then
    match selected s core with
    | some (.record k t) => .next (startSelected s core (.record k t))
    | some (.slot k t) =>
      if ((s.core core).inbox[k]?).any (fun x => x.theft.isSome) then .next s else .next (startSelected s core (.slot k t))
    | none => .next s
  else .next s

/-! ## The watchdog, and aborts -/

/-- Whether the watchdog of a thread set's activation stands at zero (R223). In step mode HWDOG counts no cycles (R369). -/
def watchdogZero (s : State) (core ts : Nat) : Bool :=
  let t := s.tset core ts
  match t.act with
  | some a => if a.stepping then decide (t.wdogEnd = 0) else decide (t.wdogEnd ≤ s.cycle core)
  | none => false

/-- The cores of a partition's clusters. -/
def partitionCores (s : State) (p : Nat) : List Nat :=
  (s.partition p).clusters.flatMap (fun c => (List.range 16).map (fun k => 16 * c + k))

/-- The context resident on a partition's cores. -/
def residentOf (s : State) (p : Nat) : Option (BitVec 12) := (partitionCores s p).head?.bind (fun c => (s.core c).ctx)

/-- The activations of a context: core and thread set. -/
def activationsOf (s : State) (ctx : BitVec 12) : List (Nat × Nat) :=
  s.tsets.filterMap (fun p => if p.2.act.any (fun a => a.msg.ctx == ctx) then some (p.1 / 4, p.1 % 4) else none)

/-- What is due once a partition's pre-emption is past its limit (R315 step 3, R317), and no commit of a winner is under way (R280): what still runs is aborted uncounted, with a fault of the
root and a notice, or, when the pre-emption is forced, the context is killed. -/
def overrun (s : State) (p : Nat) : State :=
  match (s.partition p).phase, residentOf s p with
  | .preempting d l forced _, some ctx =>
    let running := activationsOf s ctx
    if s.now < d + l || running.isEmpty || running.any (fun k => committing s k.1 k.2) then s
    else if forced then killContext ctx.toNat 2 Config.noCore 0 s
    else
      let s := running.foldl (fun s k => abortActivation k.1 k.2 0x41 0 s) s
      let s := s.modPartition p (fun t => { t with phase := .preempting d l forced true })
      faultNotice (raiseRootFaults s ctx.toNat) ctx.toNat 17 0 0 Config.noCore 0
  | _, _ => s

/-- The partition of the context resident on a core. -/
def corePartition (s : State) (core : Nat) : Nat := s.partitionOf ((s.core core).ctx.getD 0).toNat

/-- Whether the partition of a core is past the latency limit of a forced, or of a plain, pre-emption (R315, R317). -/
def overrunDue (s : State) (core : Nat) (forced : Bool) : Bool :=
  match (s.partition (corePartition s core)).phase with
  | .preempting d l f _ => isCompute core && f == forced && decide (d + l ≤ s.now)
  | _ => false

/-- Whether a thread set's next instruction stands at an armed address. -/
def atBreakpoint (s : State) (core ts : Nat) : Bool :=
  let t := s.tset core ts
  t.act.isSome && (s.core core).breaks.any (fun b => b.2 == t.pc)

/-- The thread sets that a mask names; mask 0 is all (log 15). -/
def maskSets (m : Nat) : List Nat := (List.range 4).filter (fun t => m = 0 || m.testBit t)

/-- Whether a STOP that names a thread set has reached its core, while STOP is open (R369). -/
def stopCommanded (s : State) (core ts : Nat) : Bool :=
  match (s.core core).debugIn with
  | d :: _ => d.code == 1 && featureOpen s d.fn 3 && (maskSets d.sel).contains ts
  | [] => false

/-- Whether an activation's next instruction stands at a breakpoint of its partition, whose STOP is open (R369). -/
def breakDue (s : State) (core ts : Nat) : Bool := featureOpen s (s.partitionOf (s.ctxOf core ts)) 3 && atBreakpoint s core ts

/-- Whether the source of an abort reason stands for a thread set now (Tables 11.6, 20.4): an expired watchdog, an overrun, a debug stop
that names it or a breakpoint it has come to, a kill. Traps, `TABORT` and `ENDSTEP` abort at their own instruction or command. -/
def abortSource (s : State) (core ts reason : Nat) : Bool :=
  match reason with
  | 0x28 => watchdogZero s core ts
  | 0x41 => overrunDue s core false
  | 0x42 => stopCommanded s core ts || breakDue s core ts
  | 0x43 => (s.context (s.ctxOf core ts)).any (·.killed) || overrunDue s core true
  | _ => false

/-- The first source of R348's order that stands for the activation of a thread set; a winner's commit goes first (R280). -/
def firstSource (s : State) (core ts : Nat) : Option Nat :=
  if (s.tset core ts).act.isNone || committing s core ts then none else [0x43, 0x42, 0x41, 0x28].find? (abortSource s core ts)

/-- An activation aborted by a source that stands for it; an overrun takes every activation of the context (R315, R317, R348). -/
def abortFor (s : State) (core ts reason : Nat) : State :=
  match reason with
  | 0x43 => if overrunDue s core true then overrun s (corePartition s core) else abortActivation core ts 0x43 0 s
  | 0x42 => stopTset s core ts (if breakDue s core ts then 2 else 3)
  | 0x41 => overrun s (corePartition s core)
  | _ => abortActivation core ts reason 0 s

/-- ACTIVATION_ABORT (R220 to R222, R348): an abort of a thread set's activation by the first source of R348's order that stands, when
it is the one named. -/
def execActivationAbort (core ts reason : Nat) (s : State) : Outcome :=
  if firstSource s core ts = some reason then .next (abortFor s core ts reason) else .next s

/-- WATCHDOG (R223): at zero, the activation is aborted with cause 0x28 and no handler is entered, unless a source that comes first in
R348's order stands too. -/
def execWatchdog (core ts : Nat) (s : State) : Outcome := execActivationAbort core ts 0x28 s

/-- The aborts that are due on a core before it issues, each by its first source (R348). -/
def dueAborts (s : State) (core : Nat) : State :=
  (List.range 4).foldl (fun s ts => match firstSource s core ts with | some r => abortFor s core ts r | none => s) s

end Sys2Proof.Machine
end

