-- ==== Sys2Proof/Machine/Task.lean ====
section
/-! DEFINITION. Class 11, MJ 0010: forks and joins, posts to work queues, event vectors (R174 to R177), with the steps of
join records, queue triggers and the stealing of fork-deque records (R175, R176, R226 to R229, R294, R295). -/

namespace Sys2Proof.Machine

/-! ## FORK and JOIN -/

/-- The line of a task record (Table 9.4), HELD. -/
def taskRecord (s : State) (route : Word) (ob : Nat) : Line :=
  let args := (List.range 6).map (fun k => s.me.readG (ob + k))
  let head : Word := (routeTag route).setWidth 64 ||| (routePrio route).setWidth 64 <<< 12 ||| 1#64 <<< 16 |||
    (BitVec.ofNat 12 s.myCtx).setWidth 64 <<< 20
  let origin : Word := BitVec.ofNat 64 (s.curCore % 1024 + s.curTs * 1024)
  lineOfWords (head :: args ++ [origin])

/-- FORK (R174): pushes a held record at the bottom of the deque. -/
def execFork (f : Form) (s : State) : Outcome :=
  runExtra f .none { srcs := srcRange s.me 3 f.ob (min 6 (32 - regOf f.ob)) } (fun s => do
    let route := s.me.value f.oa
    checkRoute route 0 2 f.oa
    if 31 < regOf f.ob + 5 then badOperand 3 f.ob
    if Config.dequeRecords ≤ s.myCore.dqLen then .error (.trap 0x22 0)
    let c := s.myCore
    let uid := (s.me.act.map (·.uid)).getD 0
    let s := s.setScratchLine s.curCore (dequeLine (dequeAt c c.dqLen)) (taskRecord s route (regOf f.ob))
    pure (s.modMyCore (fun c => { c with dqLen := c.dqLen + 1, dqOwner := c.dqOwner ++ [uid] }))) s

/-- JOIN (R175): a held entry for the join record. A write-blocked page stalls it, as it does an atomic (R337). -/
def execJoin (f : Form) (s : State) : Outcome :=
  run f none .none (fun s => do
    let ea := s.me.value f.oa
    let x ← checkAccess s ea 16 16 rightA
    if x.wb then .error (.stall s)
    needSendEntry s
    pure ((s.used ea 16 rightA false).modMe (fun t => { t with sendBuf := t.sendBuf ++ [.join ea x] }))) s

/-- The step of a join record at its home (R175, R229, Table 9.5): COUNT falls, and at 0 the continuation is sent to the issuing
core. -/
def joinRecord (s : State) (core : Nat) (ctx : BitVec 12) (va : Word) (x : Xlat) : State :=
  let s := homeRequest (setDirty s core (ptrAddr va) x) (cacheOf core) (ptrAddr va) x
  let n := s.readAt x 4
  if n = 0 then s
  else
    let s := s.putAt x 4 (n - 1)
    if n = 1 then
      let w := s.readAt { x with pa := x.pa + 4 } 2
      let arg : Word := BitVec.ofNat 64 (s.readAt { x with pa := x.pa + 8 } 8)
      postUnit s core 5 (BitVec.ofNat 12 w) (BitVec.ofNat 2 (w / 4096)) ctx.toNat [arg, va]
    else s

/-- JOIN_STEP (R169, R175): the `JOIN` at the head of what a thread set releases publishes, is applied at its home, and the
release goes on behind it. The record's page is translated again: it may have moved, and while it is write-blocked the step waits
(R337). -/
def execJoinStep (core ts : Nat) (s : State) : Outcome :=
  let t := s.tset core ts
  match t.releasing with
  | .join va x :: rest =>
    let x := (xlatOf s (ptrAddr va)).getD x
    if fenceWaits s core ts 2 || x.wb then .next s
    else
      let s := publish s core false
      let s := s.modTset core ts (fun t => { t with releasing := rest })
      .next (releaseMore (joinRecord (flushLine s (cacheOf core) (ptrAddr va)) core t.relCtx va x) core ts)
  | _ => .next s

/-! ## Posts -/

/-- A record put into a queue in one step (R295). -/
def enqueueRecord (s : State) (q : Nat) (bs : List Byte) : State :=
  let tail := queueField s q 16 4
  let s := unitWriteBytes s (queueEntry s q tail) bs
  queueTick (s.homeWrite ((s.queue q).block + 16) 4 ((tail + 1) % 2 ^ 32)) q

/-- The status of a post by a partition (R176), the partition first. -/
def postStatus (s : State) (p ctx q : Nat) (sys : Bool) (bs : List Byte) : Nat :=
  if !queueOf s p q || (s.partition p).resetting.isSome || (recordCtx bs != ctx && !sys) then 3
  else if !queueValid s q then 2
  else if queueFull s q then 1
  else 0

/-- The 128 bytes that a core reads from a line address on, as `LD` reads them; the flag is an uncorrectable error. -/
def loadTwo (s : State) (core : Nat) (who : Asker) (va : Nat) (xlat : Nat → Xlat) : List Byte × Bool × State :=
  let (l, b, s) := loadFor s core who va (xlat va) true
  let (m, c, s) := loadFor s core who (va + 64) (xlat (va + 64)) true
  let s := answersTaken s who
  ((List.range 64).map (lineByte l) ++ (List.range 64).map (lineByte m), b != 0 || c != 0, s)

/-- A result that arrives with an uncorrectable error (R55). -/
def markBad (s : State) : State :=
  s.modMe (fun t => { t with pend := modAt (fun p => { p with bad := true }) t.pend (t.pend.length - 1) })

/-- An arm of a queue's space trigger: a later one of the same core replaces it (R176). -/
def armQueue (s : State) (q core : Nat) (w : Word) : State :=
  s.modQueue q (fun x => { x with arms := x.arms.filter (fun a => a.1 != core) ++
    [(core, BitVec.ofNat 12 s.myCtx, w.extractLsb' 16 12, w.extractLsb' 28 2)] })

/-- The checks of a wide access whose instruction may have come to wait since, made once, with a credit free for its request. -/
def checkedWide (s : State) (check : Except Stop (Xlat × Xlat)) : Except Stop (Xlat × Xlat) :=
  match s.me.wait with
  | .wide x x2 => .ok (x, x2)
  | _ => do
    let x ← check
    needCredit s
    pure x

/-- QPOST (R176, R295). -/
def execQpost (f : Form) (s : State) : Outcome :=
  run f none .write (fun s => do
    let w := s.me.value f.oa
    let ea := s.me.value f.ob
    if fieldN w 14 2 ≠ 0 ∨ fieldN w 30 34 ≠ 0 then badOperand 2 f.oa
    needOrdinary s
    let (x, x2) ← checkedWide s (checkWide s ea 128 64 rightR)
    let va := ptrAddr ea
    if storesIn s.me (va, 128) then .error (.stall s)
    match [va, va + 64].find? (fun a => !lineHere s (cacheOf s.curCore) s.asker a (wideXlat x x2 va 128 a)) with
    | some a =>
      .error (.stall ((askLine s (cacheOf s.curCore) s.asker a (wideXlat x x2 va 128 a) s.me.owner).modMe (fun t => { t with wait := .wide x x2 })))
    | none =>
      let (bs, bad, s) := loadTwo (s.used ea 128 rightR false) s.curCore s.asker va (wideXlat x x2 va 128)
      if bad then pure (markBad (pendG s (regOf f.od) true ea (.value 0)))
      else
        let q := fieldN w 0 14
        let st := postStatus s s.myPartition s.myCtx q (s.isSystem s.myCtx) bs
        let s := if st = 0 then enqueueRecord s q bs else if st = 1 && f.md.getLsbD 0 then armQueue s q s.curCore w else s
        pure (pendG s (regOf f.od) true ea (.value (BitVec.ofNat 64 st)))) s

/-- QUEUE_SPACE_TRIGGER (R176): a queue with a free entry sends the trigger of its first arm whose core has a reply slot. -/
def execQueueSpaceTrigger (q : Nat) (s : State) : Outcome :=
  if queueValid s q && !queueFull s q then
    match (s.queue q).arms.find? (fun a => replyRoom s (routedCore s a.2.1 a.1) a.2.1) with
    | some a =>
      let core := routedCore s a.2.1 a.1
      let s := s.modQueue q (fun x => { x with arms := x.arms.filter (fun b => b.1 != a.1) })
      .next (postUnit (takeReply s core a.2.1) core 4 a.2.2.1 a.2.2.2 a.2.1.toNat [BitVec.ofNat 64 q])
    | none => .next s
  else .next s

/-! ## Event vectors -/

/-- A word of a context's event vector changed. -/
def modEvent (s : State) (ctx k : Nat) (f : Word → Word) : State := s.modContext ctx (fun c => { c with events := mmod 0 c.events k f })

/-- What `EVSET` and `EVCLR` share (R177). -/
def eventOp (f : Form) (op : Word → Word → Word) (s : State) : Outcome :=
  run f none .none (fun s => do
    let k := s.me.value f.oa
    if 3 < k.toNat then badOperand 2 f.oa
    needOrdinary s
    let s ← publishDev s
    pure (modEvent s s.myCtx k.toNat (fun w => op w (s.me.value f.ob)))) s

/-- EVSET (R177). -/
def execEvset (f : Form) (s : State) : Outcome := eventOp f (fun w m => w ||| m) s
/-- EVCLR (R177). -/
def execEvclr (f : Form) (s : State) : Outcome := eventOp f (fun w m => w &&& ~~~m) s

/-! ## Stealing of deque records -/

/-- One step of lf (R227). -/
def lfNext (lf : BitVec 16) : BitVec 16 :=
  let b := lf.getLsbD 15 ^^ lf.getLsbD 13 ^^ lf.getLsbD 12 ^^ lf.getLsbD 10
  (lf <<< 1) ||| (if b then 1 else 0)

/-- The cores of a cluster in the order in which a thief asks them, itself apart (R227). -/
def askOrder (thief cluster r : Nat) : List Nat :=
  (List.range 15).map (fun i => cluster * 16 + (thief % 16 + 1 + (r + i) % 15) % 16)

/-- The clusters of a region, from a core's own on, ascending and wrapping. -/
def regionClusters (cores : List Nat) (own : Nat) : List Nat :=
  let all := ((cores.filter isCompute).map clusterOf).foldr insertUniq []
  all.filter (fun c => decide (own < c)) ++ all.filter (fun c => decide (c < own))

/-- The victims of a steal round of a core (R227): cores of its region that run its context. -/
def stealVictims (s : State) (core r : Nat) : List Nat :=
  let cores := (regionAt s ((s.core core).ctx.getD 0).toNat (regionRcb s core)).cores
  ((clusterOf core :: regionClusters cores (clusterOf core)).flatMap (fun c => askOrder core c r)).filter (fun v =>
    cores.contains v && (s.core v).ctx == (s.core core).ctx && regionRcb s v == regionRcb s core && v != core)

/-- Whether a core is idle: all thread sets free, no slot ELIGIBLE, no unheld record (R227). -/
def coreIdle (s : State) (core : Nat) : Bool :=
  (List.range 4).all (fun t => (s.tset core t).isFree) && !(s.core core).inbox.any (fun x => x.state == .eligible) &&
    (bottomUnheld s core).isNone

/-- STEAL_ROUND (R227): an idle core advances lf and lists the victims it will ask, one at a time. A search theft is asked for
first (R272). -/
def execStealRound (core : Nat) (s : State) : Outcome :=
  if isCompute core && coreSelects s core && coreIdle s core && (s.core core).round.isEmpty && (s.core core).asking.isEmpty &&
      decide ((s.core core).nextSteal ≤ s.cycle core) && decide (s.cycle core < (s.core core).nextTheft) then
    let lf := lfNext (s.core core).lf
    let vs := stealVictims s core (lf.toNat % 16)
    .next (s.modCore core (fun c => { c with lf := lf, round := vs, nextSteal := if vs.isEmpty then s.cycle core + 1024 else c.nextSteal }))
  else .next s

/-- The top record taken from a deque. -/
def dequePopTop (s : State) (core : Nat) : State :=
  s.modCore core (fun c => { c with dqTop := c.dqTop + 1, dqLen := c.dqLen - 1, dqOwner := c.dqOwner.tail })

/-- STEAL_GRANT (R227, R228): the request of a round reaches the next victim, which grants its top record when it is unheld;
otherwise the round goes on, and ends after the last. -/
def execStealGrant (thief victim : Nat) (s : State) : Outcome :=
  match (s.core thief).round with
  | [] => .next s
  | v :: rest =>
    if v ≠ victim then .next s
    else
      let l := dequeRec s victim 0
      if (s.core victim).dqLen ≠ 0 && !recHeld l && (s.core victim).ctx == (s.core thief).ctx then
        let (m, s) := recMsg (s.modCore thief (fun c => { c with round := [] })) thief l
        .next (dequePopTop { s with stolen := s.stolen ++ [⟨victim, thief, l, m⟩] } victim)
      else
        .next (s.modCore thief (fun c => { c with
          round := rest, nextSteal := if rest.isEmpty then s.cycle thief + 1024 else c.nextSteal }))

/-- A returned record at its victim: the top of the deque, of the saved one when the context is away; or, with a full deque, a
kind-5 message (Table 11.9). -/
def returnStolen (s : State) (x : Stolen) : State :=
  let ctx := x.msg.ctx
  let toInbox := fun (s : State) =>
    postUnit s x.victim 5 x.msg.tag x.msg.prio ctx.toNat x.msg.words
  if (s.core x.victim).ctx == some ctx then
    if (s.core x.victim).dqLen < Config.dequeRecords then dequePushTop s x.victim x.record else toInbox s
  else
    let i := imageOf s ctx.toNat x.victim
    if i.deque.length < Config.dequeRecords then
      modImage s ctx.toNat x.victim (fun i => { i with dqTop := i.dqTop - 1, deque := x.record :: i.deque, dqOwner := 0 :: i.dqOwner })
    else toInbox s

/-- TASK_RECORD_BOUNCE (R228, R318): a stolen record that has nowhere to arrive returns to its victim, or is discarded with
notice code 4 when the victim has been reset. -/
def execTaskRecordBounce (k : Nat) (s : State) : Outcome :=
  match s.stolen[k]? with
  | none => .next s
  | some x =>
    if (stolenTo s x).isSome then .next s
    else
      let s := { s with stolen := dropAt s.stolen k }
      if contextMayRun s x.msg.ctx.toNat x.victim && s.isReady (readyOffset x.victim) then .next (returnStolen s x)
      else .next (faultNotice s x.msg.ctx.toNat 4 x.msg.id x.msg.tag x.victim 0)

end Sys2Proof.Machine
end

