-- ==== Sys2Proof/Machine/Special.lean ====
section
/-! DEFINITION. Class 00, MJ 0011: special registers (R49 to R51, R65, R66, R94, R95, R105 to R108, R363, R380). -/

namespace Sys2Proof.Machine

/-- The special register number of an operand. -/
def srOf (o : Operand) : Nat := match o with | .s n => n.toNat | _ => 0

/-! ## Values read -/

/-- Header word 0 of a message (Table 11.1). -/
def msgHead (m : Msg) : Word :=
  m.tag.setWidth 64 ||| m.prio.setWidth 64 <<< 12 ||| (BitVec.ofNat 3 m.len).setWidth 64 <<< 14 ||| m.kind.setWidth 64 <<< 17 |||
    m.ctx.setWidth 64 <<< 20 ||| m.score.setWidth 64 <<< 32 ||| m.seq.setWidth 64 <<< 48

/-- HWDOG: the cycles left (R223). -/
def hwdog (s : State) (core ts : Nat) : Word :=
  let t := s.tset core ts
  BitVec.ofNat 64 (if t.act.any (·.stepping) then t.wdogEnd else t.wdogEnd - s.cycle core)

/-- The physical register that `TBG28` + `k` reaches at a level above 0 (R49). -/
def tbgIndex (lvl k : Nat) : Nat := 28 + 4 * (lvl - 1) + k

/-- A special register of scope activation, thread set, core or context as a thread set reads it (Tables 3.2, 4.3). -/
def readSpecial (s : State) (core ts n : Nat) : Word :=
  let t := s.tset core ts
  let a := t.act.getD {}
  let c := s.core core
  match n with
  | 0x001 => a.ex.setWidth 64 | 0x002 => a.ey.setWidth 64 | 0x003 => a.ez.setWidth 64 | 0x004 => a.edim
  | 0x005 => BitVec.ofNat 64 core | 0x006 => BitVec.ofNat 64 ts | 0x007 => BitVec.ofNat 64 (s.ctxOf core ts) | 0x008 => a.rcb
  | 0x009 => t.owner.setWidth 64
  | 0x00A => msgHead a.msg | 0x00B => a.msg.stamp | 0x00C => a.msg.id | 0x00D => a.msg.tag.setWidth 64
  | 0x010 => BitVec.ofNat 64 s.now | 0x011 => BitVec.ofNat 64 (s.cycle core)
  | 0x020 => c.bfmt0.setWidth 64 | 0x021 => c.bfmt1.setWidth 64 | 0x022 => c.bfmt2.setWidth 64
  | 0x023 => c.afmt.setWidth 64 | 0x024 => c.wfmt.setWidth 64 | 0x025 => c.cfmt.setWidth 64
  | 0x030 => c.mrland &&& 0x0000FFFF0FFF07FF | 0x031 => t.tmpol &&& 0x00000FFFFFFFFFFF | 0x032 => t.tmstat | 0x033 => t.tmrc | 0x034 => t.fpctl
  | 0x040 => t.sfbase | 0x041 => t.sflen | 0x042 => t.cstop.setWidth 64 | 0x043 => t.trtop.setWidth 64
  | 0x044 => t.stealpol &&& 1 | 0x045 => t.srchdone
  | 0x060 => BitVec.ofNat 64 t.tlvl | 0x061 => t.tvec.setWidth 64 | 0x062 => t.tsave1 | 0x063 => t.tsave2
  | 0x064 => t.tcause1 | 0x065 => t.tepc1 | 0x066 => t.tval1 | 0x067 => t.tcause2 | 0x068 => t.tepc2 | 0x069 => t.tval2
  | 0x06A => t.gRaw (tbgIndex t.tlvl 0) | 0x06B => t.gRaw (tbgIndex t.tlvl 1)
  | 0x06C => t.gRaw (tbgIndex t.tlvl 2) | 0x06D => t.gRaw (tbgIndex t.tlvl 3)
  | 0x070 => hwdog s core ts
  | 0x080 => mget 0 (((s.context (s.ctxOf core ts)).map (·.events)).getD []) 0
  | 0x081 => mget 0 (((s.context (s.ctxOf core ts)).map (·.events)).getD []) 1
  | 0x082 => mget 0 (((s.context (s.ctxOf core ts)).map (·.events)).getD []) 2
  | 0x083 => mget 0 (((s.context (s.ctxOf core ts)).map (·.events)).getD []) 3
  | 0x110 => t.dlysel.setWidth 64
  | 0x800 => s.pgroot | 0x801 => s.bupage | 0x802 => s.pwrcap.setWidth 64
  | _ => 0

/-! ## Checks -/

/-- Whether a register is `TBG28` to `TBG31`. -/
def isTbg (n : Nat) : Bool := decide (0x06A ≤ n) && decide (n ≤ 0x06D)

/-- The step-6 check of the system registers (R94, Table 5.8). -/
def sysPriv (s : State) (n : Nat) : Except Stop Unit :=
  if 0x800 ≤ n && !s.isSystem s.myCtx then .error (.trap 0x03 (BitVec.ofNat 64 n)) else .ok ()

/-- Whether an observation register is opened to a partition on a core (R363): a bank register while the partition holds the
bank and COUNT is open, a delay register while DELAY is open. -/
def obsOpen (s : State) (core p n : Nat) : Bool :=
  if n < 0x110 then isCompute core && (s.cluster (clusterOf core)).holder == some p && featureOpen s p 0
  else featureOpen s p 1

/-- The step-6 check of an observation register. -/
def obsPriv (s : State) (n : Nat) : Except Stop Unit :=
  if (decide (0x100 ≤ n) && decide (n ≤ 0x1FF)) && !obsOpen s s.curCore s.myPartition n then .error (.trap 0x03 (BitVec.ofNat 64 n))
  else .ok ()

/-- The bank register behind `TBG28` to `TBG31` as a source of an `MFS`, or a destination of an `MTS`, above level 0. -/
def tbgSrc (t : TSet) (o : Operand) : List Src :=
  if isTbg (srOf o) && decide (t.tlvl ≠ 0) then [⟨2, encodeField o, false, tbgIndex t.tlvl (srOf o - 0x06A), false⟩] else []

/-- An instruction on a special register, from step 6 on. -/
def srRun (f : Form) (priv : Except Stop Unit) (use : OdUse) (x : Extra) (body : State → Except Stop State) (s : State) : Outcome :=
  runWith f.guard f.hints none priv (formPreds f) (formSrcs s.me use f ++ x.srcs) (formDsts s.me use f ++ x.dsts) body s

/-! ## MFS -/

/-- MFS (R105) of what R107 and R108 do not name. -/
def execMfs (f : Form) (s : State) : Outcome :=
  let n := srOf f.oa
  srRun f (sysPriv s n) .write { srcs := tbgSrc s.me f.oa } (fun s => do
    if isTbg n && decide (s.me.tlvl = 0) then badOperand 2 f.oa
    if 0x802 < n then badOperand 2 f.oa
    if isCodebook n then
      pure (s.modMe (fun t => t.writeV (regOf f.od) ((mget 0 s.myCore.cbk (n - 0x028)).setWidth 512)))
    else
      pure (s.modMe (fun t => t.writeG (regOf f.od) (readSpecial s s.curCore s.curTs n)))) s

/-- The tempered tiles that an activation has issued and that have not committed (R107). -/
def temperedOf (s : State) (core : Nat) (uid : Option Nat) : List Nat :=
  ((s.core core).anvil.filter (fun c => c.tempered && c.act == uid && uid.isSome && c.phase != .rotating)).map (·.id)

/-- MFS of `TMSTAT` or `TMRC` (R107): long-latency; it waits for the tempered tiles issued before it. -/
def execMfsTmstat (f : Form) (s : State) : Outcome :=
  run f none .write (fun s =>
    let rc := srOf f.oa == 0x033
    let cmds := temperedOf s s.curCore (s.me.act.map (·.uid))
    .ok (pendG s (regOf f.od) false 0 (if cmds.isEmpty then .value (statusValue s.me rc) else .temper rc cmds))) s

/-- MFS of an observation register (R107, R363): long-latency. -/
def execMfsCounter (f : Form) (s : State) : Outcome :=
  let n := srOf f.oa
  srRun f (obsPriv s n) .write {} (fun s =>
    .ok (pendG s (regOf f.od) false 0 (if n = 0x110 then .value (s.me.dlysel.setWidth 64) else .counter n s.me.dlysel.toNat))) s

/-- Whether a scalar floating instruction of the thread set has still to complete and merge its flags (R108). -/
def floatPending (s : State) : Bool :=
  s.me.isLate 192 (s.cycle s.curCore) || s.me.pend.any (fun p => (match p.kind with | .float _ _ => true | _ => false) && !p.dropped)

/-- MFS and MTS of `FPCTL` (R75, R108). -/
def execFpctlAccess (f : Form) (s : State) : Outcome :=
  match f.oa with
  | .s _ =>
    run f none .write (fun s =>
      if floatPending s then .error (.stall s) else .ok (s.modMe (fun t => t.writeG (regOf f.od) t.fpctl))) s
  | _ =>
    run f none .none (fun s =>
      if floatPending s then .error (.stall s)
      else .ok (s.modMe (fun t => { t with fpctl := s.me.value f.oa &&& 0x1F1F }))) s

/-! ## MTS -/

/-- Whether a codebook holds a BF16 NaN (R50). -/
def bookHasNaN (b : BitVec 256) : Bool :=
  (List.range 16).any (fun k =>
    let e : BitVec 16 := b.extractLsb' (16 * k) 16
    e.extractLsb' 7 8 == 0xFF && e.extractLsb' 0 7 != 0)

/-- The frame check of `SFBASE` and `SFLEN` together (Table 6.6). -/
def frameFits (base len : Nat) : Bool := len == 0 || base / 65536 == (base + len - 1) / 65536

/-- Whether the value of an `MTS` is refused (Table 6.6, R65, R363). -/
def valueRefused (t : TSet) (n : Nat) (x : Word) : Bool :=
  match n with
  | 0x020 | 0x021 | 0x022 | 0x023 | 0x024 | 0x025 => decide (8 < fieldN x 0 4)
  | 0x040 =>
    decide (fieldN x 0 3 ≠ 0) || decide (fieldN x 16 2 = 3) || !frameFits (fieldN x 0 18) t.sflen.toNat
  | 0x041 => decide (4096 < x.toNat) || decide (x.toNat % 8 ≠ 0) || !frameFits t.sfbase.toNat x.toNat
  | 0x110 => decide (16 < x.toNat)
  | _ => false

/-- A special register of scope thread set written. -/
def TSet.writeSpecial (t : TSet) (n : Nat) (x : Word) : TSet :=
  match n with
  | 0x031 => { t with tmpol := x }
  | 0x040 => { t with sfbase := x &&& 0x3FFFF }
  | 0x041 => { t with sflen := x }
  | 0x044 => { t with stealpol := x }
  | 0x045 => { t with srchdone := x }
  | 0x061 => { t with tvec := x.setWidth 57 &&& ~~~3#57 }
  | 0x062 => { t with tsave1 := x }
  | 0x063 => { t with tsave2 := x }
  | 0x064 => { t with tcause1 := x }
  | 0x065 => { t with tepc1 := x }
  | 0x066 => { t with tval1 := x }
  | 0x067 => { t with tcause2 := x }
  | 0x068 => { t with tepc2 := x }
  | 0x069 => { t with tval2 := x }
  | 0x110 => { t with dlysel := x.setWidth 5 }
  | _ => if isTbg n then t.writeGRaw (tbgIndex t.tlvl (n - 0x06A)) x else t

/-- A special register of scope core written; a codebook slot takes `book`. -/
def Core.writeSpecial (c : Core) (n : Nat) (x : Word) (book : BitVec 256) : Core :=
  match n with
  | 0x020 => { c with bfmt0 := x.setWidth 4 }
  | 0x021 => { c with bfmt1 := x.setWidth 4 }
  | 0x022 => { c with bfmt2 := x.setWidth 4 }
  | 0x023 => { c with afmt := x.setWidth 4 }
  | 0x024 => { c with wfmt := x.setWidth 4 }
  | 0x025 => { c with cfmt := x.setWidth 4 }
  | 0x030 => { c with mrland := x }
  | _ => if isCodebook n then { c with cbk := mset 0 c.cbk (n - 0x028) book } else c

/-- Whether a register has scope core (Table 3.2). -/
def isCoreScope (n : Nat) : Bool := decide (0x020 ≤ n) && decide (n ≤ 0x030)

/-- MTS (R105) of what R106, R108, R363 and R380 do not name. -/
def execMts (f : Form) (s : State) : Outcome :=
  let n := srOf f.od
  let dsts := if isTbg n && decide (s.me.tlvl ≠ 0) then [(false, tbgIndex s.me.tlvl (n - 0x06A))] else []
  srRun f (obsPriv s n) .none { dsts := dsts } (fun s => do
    let x := s.me.value f.oa
    let book := (s.me.readV (regOf f.oa)).setWidth 256
    if isTbg n && decide (s.me.tlvl = 0) then badOperand 1 f.od
    if (isCodebook n && bookHasNaN book) || valueRefused s.me n x then badOperand 2 f.oa
    if isCoreScope n then pure (s.modMyCore (fun c => c.writeSpecial n x book)) else pure (s.modMe (fun t => t.writeSpecial n x))) s

/-- MTS OWNER (R106, Table 6.6). -/
def execMtsOwner (f : Form) (s : State) : Outcome :=
  run f none .none (fun s =>
    let o : BitVec 20 := (s.me.value f.oa).setWidth 20
    if (((s.context s.myCtx).map (·.owners)).getD []).contains o then .ok (s.modMe (fun t => { t with owner := o }))
    else .error (.trap 0x03 (o.setWidth 64))) s

/-- MTS of CSEL0 to CSEL7 (R363): the counter is zeroed and its OVF cleared. -/
def execMtsCsel (f : Form) (s : State) : Outcome :=
  let n := srOf f.od
  srRun f (obsPriv s n) .none {} (fun s =>
    .ok (s.modCluster (clusterOf s.curCore) (fun u => { u with
      counters := mset 0 (mset 0 u.counters n (s.me.value f.oa &&& 0x1FFFF)) (n - 8) 0 }))) s

/-- MTS of 0x800 to 0xFFF (R94, R380): the value is stored as written (Table 6.6). -/
def execSpecialRegisterWrite (f : Form) (s : State) : Outcome :=
  let n := srOf f.od
  srRun f (sysPriv s n) .none {} (fun s =>
    let x := s.me.value f.oa
    match n with
    | 0x800 => .ok { s with pgroot := x }
    | 0x802 => .ok { s with pwrcap := x.setWidth 12 }
    | _ => badOperand 1 f.od) s

end Sys2Proof.Machine
end

