-- ==== Sys2Proof/Machine/Access.lean ====
section
/-! DEFINITION. What engines share: fields carried in registers (R191), checks row by row (R138, R201, R240), lines read
and written on the STREAM and POOL paths, and the command status (R202). -/

namespace Sys2Proof.Machine

/-! ## Buffer fields -/

/-- A buffer field: its buffer (0 W, 1 A, 2 C, 3 scratchpad), the remote form with its core, and the offset. -/
structure BField where
  buf : Nat
  remote : Bool
  core : Nat
  off : Nat
  deriving DecidableEq, Repr

/-- The buffer field of a position: its own, or the one that bits 23:0 of a G register carry, checked at step 8 (R191). -/
def fieldOf (s : State) (pos : Nat) (o : Operand) (bufs : List Nat) : Except Stop BField :=
  match o with
  | .b buf rem c off => .ok ⟨buf.toNat, rem, c.toNat, off.toNat⟩
  | _ =>
    let f : BitVec 24 := (s.me.value o).setWidth 24
    match decodeField f with
    | some (.b buf rem c off) =>
      if reservedBits f true || !bufs.contains buf.toNat || (buf == 0 && decide (4096 ≤ off.toNat)) ||
          (buf == 1 && decide (2048 ≤ off.toNat)) then badOperand pos o
      else .ok ⟨buf.toNat, rem, c.toNat, off.toNat⟩
    | _ => badOperand pos o

/-- The core whose memory a field names, for an issuing core. -/
def BField.coreOf (b : BField) (core : Nat) : Nat := if b.remote && isCompute core then clusterOf core * 16 + b.core else core

/-- The sources of an engine-bound instruction locked until the engine has captured them (R57). -/
def lockMine (s : State) (f : Form) (use : OdUse) : State := s.modMe (lockSources (formSrcs s.me use f))

/-! ## Checks made by an engine -/

/-- The lines that hold bytes [va, va + n). -/
def lineSpan (va n : Nat) : List Nat :=
  let lo := va / 64
  (List.range ((va + n - 1) / 64 - lo + 1)).map (fun k => (lo + k) * 64)

/-- The translations of lines; an untranslated one gives XLATE (Table 10.3). -/
def linesXlat (s : State) : List Nat → Except Nat (List (Nat × Xlat))
  | [] => .ok []
  | va :: rest =>
    match xlatOf s va with
    | none => .error 1
    | some x =>
      match linesXlat s rest with
      | .error e => .error e
      | .ok l => .ok ((va, x) :: l)

/-- The covers of an engine's access as a cluster's rights cache has them, filled from the owner's table where none there lets it pass, and
now the most recently used (R324); and the state with them installed. -/
def engineCovers (s : State) (c : Nat) (owner : BitVec 20) (ptr : Word) (n : Nat) (need : BitVec 5) : List PlbEntry × State :=
  let near := (s.cluster c).rights.filter (fun e => e.covers owner (ptrAddr ptr) n)
  let covers := if near.any (fun e => e.passes (ptrGen ptr) need false) then near else walkCovers s owner (ptrAddr ptr) n
  (covers, markHolders (s.modCluster c (fun u => { u with rights := installPlb 1024 u.rights covers })) c 0 covers)

/-- The check of a row by a stream engine of a cluster for an owner (R138, R323, R324): the status of Table 10.3, or the lines with their
translations; and the state after the lookup. -/
def engineCheck (s : State) (c : Nat) (owner : BitVec 20) (ptr : Word) (n : Nat) (need : BitVec 5) : Except Nat (List (Nat × Xlat)) × State :=
  let (covers, s) := engineCovers s c owner ptr n need
  (match rightsDecision covers owner (ptrGen ptr) (ptrAddr ptr) n need false with
   | some 0x13 => .error 3
   | some _ => .error 2
   | none => linesXlat s (lineSpan (ptrAddr ptr) n), s)

/-- A line that an engine has to ask of a peer before it can go on (R255). -/
def missingLine (s : State) (c : Nat) (who : Asker) (ls : List (Nat × Xlat)) : Option (Nat × Xlat) := ls.find? (fun p => !lineHere s c who p.1 p.2)

/-- Lines read through the cache of a core's cluster, in order, a peer's by the reader's own answers (R255); the flag is an uncorrectable
error. -/
def readLines (s : State) (core : Nat) (who : Asker) (ls : List (Nat × Xlat)) : List Line × Bool × State :=
  let r := ls.foldl (fun (r : List Line × Bool × State) p =>
    let (l, bad, s) := loadFor r.2.2 core who p.1 p.2 false
    (r.1 ++ [l], r.2.1 || bad != 0, s)) ([], false, s)
  (r.1, r.2.1, answersTaken r.2.2 who)

/-- Whether a translation's page takes no write now (R337). -/
def writeBlocked (ls : List (Nat × Xlat)) : Bool := ls.any (fun p => p.2.wb)

/-- Lines written at their homes by an engine: any copy in the cluster's cache is written back and dropped first (R201). -/
def writeLines (s : State) (core : Nat) (ls : List ((Nat × Xlat) × Line)) : State :=
  ls.foldl (fun s p =>
    let c := cacheOf core
    let s := setDirty (flushLine s c p.1.1) core p.1.1 p.1.2
    writeHome s c p.1.1 p.1.2 ((List.range 64).map (fun k => (p.1.2.pa + k, lineByte p.2 k)))) s

/-! ## The command status (R202) -/

/-- Bits of the command status set, and a first nonzero code kept. -/
def TSet.noteStatus (t : TSet) (bits : BitVec 4) (code : Nat) : TSet :=
  let old := t.cmdStatus
  let c := if old.extractLsb' 8 8 = 0 then BitVec.ofNat 16 (code % 256 * 256) else 0
  { t with cmdStatus := old ||| bits.setWidth 16 ||| c }

/-- PAIR, CEIL, ERR and RPL. -/
def bitPair : BitVec 4 := 1
/-- See `bitPair`. -/
def bitCeil : BitVec 4 := 2
/-- See `bitPair`. -/
def bitErr : BitVec 4 := 4
/-- See `bitPair`. -/
def bitRpl : BitVec 4 := 8

/-- The command status of a thread set, while the activation that issued the command still runs on it. -/
def noteFor (s : State) (core ts : Nat) (act : Option Nat) (bits : BitVec 4) (code : Nat) : State :=
  if act.isSome && (s.tset core ts).act.map (·.uid) == act then s.modTset core ts (fun t => t.noteStatus bits code) else s

/-- The status with which a record of a task graph has ended, the rows or units it moved and its counts (R246). -/
def graphEnded (s : State) (g : Option (Nat × Nat × Nat)) (ctx : BitVec 12) (result : Nat × Nat × Nat × Nat) : State :=
  match g with
  | none => s
  | some (cl, batch, node) => s.modCluster cl (fun u => { u with graph := u.graph.map (fun r =>
      if r.ctx == ctx && r.batch == batch && r.node == node then { r with done := some result } else r) })

/-! ## Elements of lines -/

/-- The elements of `w` bits of some lines, in order. -/
def elemsOf (w : Nat) (ls : List Line) : List Nat := ls.flatMap (lanesOf w)

/-- Elements packed into lines of 512 / `w`, `n` lines in all. -/
def linesOf (w : Nat) (xs : List Nat) : Nat → List Line
  | 0 => []
  | n + 1 => packLanes w (xs.take (512 / w)) :: linesOf w (xs.drop (512 / w)) n

end Sys2Proof.Machine
end

