-- ==== Sys2Proof/Machine/Anvil.lean ====
section
/-! DEFINITION. The Anvil: `MMA`, `MMAS`, `MROT`, `MROT2`, `CCLR` (R189 to R199, R385), its arithmetic (R83 to R89), temper
and replay (R264 to R270), rotation. -/

namespace Sys2Proof.Machine

/-! ## Checks at issue -/

/-- The rung of a format code on the ladder of R264. -/
def rungOf (code : Nat) : Option Nat := match code with | 0 => some 0 | 1 | 2 => some 1 | 3 => some 2 | _ => none

/-- Whether an operand pair and a C format stand in Table 4.8. -/
def pairOk (x y c : Nat) : Bool :=
  ((x == 1 || x == 2) && (y == 1 || y == 2) && c == 5) || (x == 0 && y == 0 && c == 5) || (x == 3 && y == 3 && c == 5) ||
    (x == 4 && y == 4 && c == 5) || (x == 6 && y == 6 && c == 8)

/-- Whether `TMPOL` fails its check for an A format (Table 10.1, R264). -/
def policyBad (pol : Word) (afmt : Nat) : Bool :=
  let start := fieldN pol 0 4
  let ceil := fieldN pol 4 4
  fieldN pol 44 20 != 0 || decide (3 < start) || rungOf start != rungOf afmt || decide (3 < ceil) ||
    decide ((rungOf ceil).getD 0 < (rungOf start).getD 0)

/-- Blocks of a Y operand: q (R190). -/
def yBlocks (sparse n8 : Bool) : Nat := if sparse then (if n8 then 4 else 2) else 1

/-- The C tile of an Anvil instruction (R191). -/
def tileOf (s : State) (f : Form) : Except Stop Nat := do
  let b ← fieldOf s 1 f.od [2]
  if b.remote then badOperand 1 f.od
  pure (b.off % 16)

/-- A block operand (R191): base a multiple of 64, `n` blocks of 256 lines inside a buffer of `size` lines. -/
def blockOf (s : State) (pos : Nat) (o : Operand) (buf size n : Nat) (localOnly : Bool) : Except Stop Block := do
  let b ← fieldOf s pos o [buf]
  if b.off % 64 ≠ 0 ∨ size < b.off + 256 * n ∨ (localOnly && b.remote) = true then badOperand pos o
  pure ⟨b.coreOf s.curCore, b.off, b.remote⟩

/-- Whether `MRLAND` breaks its layout (R196). -/
def landBad (m : Word) : Bool :=
  fieldN m 48 16 != 0 || fieldN m 28 4 != 0 || fieldN m 11 5 != 0 || landA m % 64 != 0 || decide (1792 < landA m) ||
    landW m % 64 != 0 || decide (3840 < landW m)

/-- The checks of Table 10.1 in its order, by the formats of the core under execution and a tempering policy. -/
def checkEngine (s : State) (pol : Word) (sparse temper : Bool) (y : Block) (q : Nat) : Except Stop Unit :=
  let c := s.myCore
  if !pairOk c.afmt.toNat c.wfmt.toNat c.cfmt.toNat then .error (.trap 0x38 1)
  else if sparse && c.afmt == 6 then .error (.trap 0x38 2)
  else if temper && pol.getLsbD 42 then
    if policyBad pol c.afmt.toNat then .error (.trap 0x38 3)
    else if 3328 < y.base + 256 * q then .error (.trap 0x38 4)
    else .ok ()
  else .ok ()

/-- A command with what it captures of the thread set and core under execution (R51, R106). -/
def captureAnvil (s : State) (op : AnvilOp) (id tile : Nat) (x y : Block) (md : BitVec 3) : AnvilCmd :=
  let c := s.myCore
  { id := id, op := op, temper := md.getLsbD 0, ow := md.getLsbD 1, n8 := md.getLsbD 2, tile := tile, x := x, y := y,
    afmt := c.afmt, wfmt := c.wfmt, cfmt := c.cfmt, books := c.cbk, tmpol := s.me.tmpol, mrland := c.mrland,
    owner := s.me.owner, ctx := BitVec.ofNat 12 s.myCtx, rcb := (s.me.act.map (·.rcb)).getD 0, ts := s.curTs,
    act := s.me.act.map (·.uid) }

/-- The entry into the core's Anvil queue (R191): a speculative activation, a held path or a full queue stalls. -/
def enterAnvil (s : State) (f : Form) (use : OdUse) (op : AnvilOp) (tile : Nat) (x y : Block) : Except Stop State := do
  needOrdinary s
  needPath s 1
  if Config.anvilEntries ≤ s.myCore.anvil.length then .error (.stall s)
  let (id, s) := s.fresh
  let cmd := captureAnvil s op id tile x y (if op = .cclr then 0 else f.md)
  pure (lockMine (s.modMyCore (fun c => { c with anvil := c.anvil ++ [cmd] })) f use)

/-- What the four multiplying instructions share. -/
def anvilOp (f : Form) (op : AnvilOp) (s : State) : Outcome :=
  let sparse := op == .mmas
  let rotates := op == .mrot || op == .mrot2
  run f none .read (fun s => do
    let tile ← tileOf s f
    let x ← blockOf s 2 f.oa 1 2048 (if sparse then 2 else 1) rotates
    let q := yBlocks sparse (sparse && f.md.getLsbD 2)
    let y ← blockOf s 3 f.ob 0 4096 q rotates
    if rotates && landBad s.myCore.mrland then badOperand 1 f.od
    checkEngine s s.me.tmpol sparse (f.md.getLsbD 0) y q
    enterAnvil s f .read op tile x y) s

/-- MMA (R191, R192). -/
def execMma (f : Form) (s : State) : Outcome := anvilOp f .mma s
/-- MMAS (R190 to R192). -/
def execMmas (f : Form) (s : State) : Outcome := anvilOp f .mmas s
/-- MROT (R196, R198). -/
def execMrot (f : Form) (s : State) : Outcome := anvilOp f .mrot s
/-- MROT2 (R196, R198). -/
def execMrot2 (f : Form) (s : State) : Outcome := anvilOp f .mrot2 s
/-- CCLR (R195). -/
def execCclr (f : Form) (s : State) : Outcome :=
  run f none .read (fun s => do
    let tile ← tileOf s f
    enterAnvil s f .read .cclr tile {} {}) s

/-! ## Operands as read -/

/-- The sidecar of a block. -/
def sidecarOf (s : State) (isA : Bool) (core base : Nat) : Sidecar :=
  if isA then mget {} s.aside (core * 32 + base / 64) else mget {} s.wside (core * 64 + base / 64)

/-- `n` lines of a typed buffer. -/
def bufLines (s : State) (isA : Bool) (core base n : Nat) : List Line :=
  (List.range n).map (fun k => if isA then s.aLine core (base + k) else s.wLine core (base + k))

/-- Whether a command is a rotation step that will land in lines [base, base + n) (R198). -/
def AnvilCmd.landsIn (isA : Bool) (base n : Nat) (a : AnvilCmd) : Bool :=
  a.rotates &&
    (let b := if isA then landA a.mrland else landW a.mrland
     decide (b < base + n) && decide (base < b + 256))

/-- Whether a rotation step of a core may still land in lines [base, base + n) (R198). -/
def blockLanding (c : Core) (isA : Bool) (base n : Nat) : Bool := c.anvil.any (AnvilCmd.landsIn isA base n)

/-- Whether one of `n` lines of a typed buffer carries an uncorrectable error (R192). -/
def linesBad (s : State) (isA : Bool) (core base n : Nat) : Bool :=
  (List.range n).any (fun k => s.lineBad (if isA then 1 else 0) core (base + k))

/-- Whether the sidecar of a block carries an uncorrectable error (R353). -/
def sidecarBad (s : State) (isA : Bool) (core base : Nat) : Bool :=
  if isA then mget false s.asideBad (core * 32 + base / 64) else mget false s.wsideBad (core * 64 + base / 64)

/-- The X operand of a command read from its core. -/
def readX (s : State) (c : AnvilCmd) : AnvilCmd :=
  { c with xGot := true, bad := c.bad || linesBad s true c.x.core c.x.base 256 || (c.op == .mmas && linesBad s true c.x.core (c.x.base + 256) 192) ||
             sidecarBad s true c.x.core c.x.base,
           xLines := bufLines s true c.x.core c.x.base 256,
           maskLines := if c.op = .mmas then bufLines s true c.x.core (c.x.base + 256) 192 else [],
           xSide := sidecarOf s true c.x.core c.x.base }

/-- The Y operand of a command read from its core. -/
def readY (s : State) (c : AnvilCmd) : AnvilCmd :=
  let q := yBlocks (c.op == .mmas) c.n8
  { c with yGot := true, bad := c.bad || linesBad s false c.y.core c.y.base (256 * q) ||
             (List.range q).any (fun j => sidecarBad s false c.y.core (c.y.base + 256 * j)),
           yLines := bufLines s false c.y.core c.y.base (256 * q),
           ySides := (List.range q).map (fun j => sidecarOf s false c.y.core (c.y.base + 256 * j)) }

/-! ## Arithmetic -/

/-- Elements of a block row: 384 bytes (R189). -/
def perRow (st : Storage) : Nat := 3072 / st.bits

/-- The elements of row `r` of the row area at line `base` of some lines. -/
def rowElems (w : Nat) (ls : List Line) (base r : Nat) : List Nat := elemsOf w ((ls.drop (base + 6 * r)).take 6)

/-- The scale byte of row `r` and group `g` of the block at line `base` of some lines (R189). -/
def scaleByte (ls : List Line) (base r g : Nat) : Nat :=
  (lineByte ((ls[base + 192 + 2 * r + g / 64]?).getD 0) (g % 64)).toNat

/-- The logical elements of a sparse row (R84, R85): packed values at the places of the N lowest set bits of each mask, zero
elsewhere. `packed` are values, `masks` the masks of the groups. -/
def expandRow (n : Nat) (packed : List FVal) (masks : List Nat) : List FVal :=
  (masks.zipIdx.map (fun p =>
    (List.range 32).map (fun b =>
      let j := ((List.range b).filter (fun i => p.1.testBit i)).length
      if p.1.testBit b && decide (j < n) then (packed[p.2 * n + j]?).getD (.fin false 0 0) else .fin false 0 0))).flatten

/-- Whether the mask admits logical element b of a group. -/
def maskAdmits (n mask b : Nat) : Bool :=
  mask.testBit b && decide (((List.range b).filter (fun i => mask.testBit i)).length < n)

/-- The masks of row `m` (R190). -/
def rowMasks (c : AnvilCmd) (m g : Nat) : List Nat :=
  let bytes := elemsOf 32 ((c.maskLines.drop (6 * m)).take 6)
  bytes.take g

/-- The storage formats of a command's operands. -/
def AnvilCmd.xFmt (c : AnvilCmd) : Storage := (storageOf c.afmt.toNat).getD .cb4
/-- See `xFmt`. -/
def AnvilCmd.yFmt (c : AnvilCmd) : Storage := (storageOf c.wfmt.toNat).getD .cb4
/-- N of a sparse command. -/
def AnvilCmd.nSparse (c : AnvilCmd) : Nat := if c.n8 then 8 else 16
/-- The logical K of a command (Tables 4.7, 4.8). -/
def AnvilCmd.kTotal (c : AnvilCmd) : Nat := perRow c.xFmt * yBlocks (c.op == .mmas) c.n8
/-- The codebook that a sidecar names, as captured. -/
def AnvilCmd.bookFor (c : AnvilCmd) (x : Sidecar) : List FVal := bookOf (mget 0 c.books x.cbs.toNat)

/-- A row of an operand: its values along k, and the scale of each group as a power of two; none for a NaN scale. -/
structure ORow where
  vals : List FVal
  scales : List (Option Int)
  deriving DecidableEq, Repr

/-- Whether block scales apply to a format (Table 4.8). -/
def scaled? (st : Storage) : Bool := st == .cb4 || st == .e4m3 || st == .e5m2

/-- A scale byte as a power of two. -/
def scaleOf (st : Storage) (e : Nat) : Option Int := if scaled? st then (if e = 255 then none else some ((e : Int) - 127)) else some 0

/-- Row `m` of X as read (R87, R189, R190). -/
def xRow (c : AnvilCmd) (m : Nat) : ORow :=
  let st := c.xFmt
  let g := c.kTotal / 32
  let vals := (rowElems st.bits c.xLines 0 m).map (storedValue (c.bookFor c.xSide) st)
  { vals := if c.op = .mmas then expandRow c.nSparse vals (rowMasks c m g) else vals,
    scales := (List.range g).map (fun k => scaleOf st (scaleByte c.xLines 0 m k)) }

/-- Column `n` of Y as read: the rows of its blocks one after another (R190). -/
def yRow (c : AnvilCmd) (n : Nat) : ORow :=
  let st := c.yFmt
  let g := perRow st / 32
  { vals := (c.ySides.zipIdx.map (fun p =>
      (rowElems st.bits c.yLines (256 * p.2) n).map (storedValue (c.bookFor p.1) st))).flatten,
    scales := (c.ySides.zipIdx.map (fun p =>
      (List.range g).map (fun k => scaleOf st (scaleByte c.yLines (256 * p.2) n k)))).flatten }

/-- Chunks of 32. -/
def chunks32 {α : Type} : Nat → List α → List (List α)
  | 0, _ => []
  | n + 1, l => l.take 32 :: chunks32 n (l.drop 32)

/-- The scaled products of one group; a NaN scale makes each a NaN (R87). -/
def groupProducts (xs ys : List FVal) (sx sy : Option Int) : List FVal :=
  match sx, sy with
  | some a, some b => List.zipWith (fun x y => fScale (a + b) (fMul x y)) xs ys
  | _, _ => List.zipWith (fun _ _ => .nan) xs ys

/-- The products of an output, group by group. -/
def outputProducts (x y : ORow) : List (List FVal) :=
  let n := x.scales.length
  List.zipWith (fun (p : List FVal × List FVal) (q : Option Int × Option Int) => groupProducts p.1 p.2 q.1 q.2)
    ((chunks32 n x.vals).zip (chunks32 n y.vals)) (x.scales.zip y.scales)

/-- An exact sum; −0 adds nothing. -/
def exactSum (vs : List FVal) : FVal := vs.foldl fAdd (.fin true 0 0)

/-- One output of a floating tile from its accumulator (R87): each group sum is rounded, then added with one rounding. -/
def outputValue (acc : Nat) (gs : List (List FVal)) : Nat :=
  gs.foldl (fun a g => roundBits fp32 (fAdd (decodeF fp32 a) (decodeF fp32 (roundBits fp32 (exactSum g))))) acc

/-- Whether an output counts as cancelling (R89, R265). -/
def cancels (csh : Nat) (gs : List (List FVal)) : Bool :=
  let all := gs.flatten
  if all.any (fun p => p.isNan || p.isInf) then false
  else
    let mag := exactSum (all.map fAbs)
    !mag.isZero && fLt (fAbs (exactSum all)) (fScale (-(csh : Int)) mag)

/-- One output of an INT8 tile (R88): each group sum is exact, and the accumulator clamps. -/
def outputInt (acc : Int) (x y : List Int) : Int :=
  let groups := (x.length + 31) / 32
  (List.zipWith (fun (a b : List Int) => (List.zipWith (· * ·) a b).foldl (· + ·) 0) (chunks32 groups x) (chunks32 groups y)).foldl
    (fun (a t : Int) => max (-(2 : Int) ^ 31) (min (2 ^ 31 - 1) (a + t))) acc

/-- The 1,024 outputs of a floating tile and how many cancel, from the accumulators and the operand rows. -/
def tileFloat (csh : Nat) (old : List Nat) (xs ys : List ORow) : List Nat × Nat :=
  let outs := xs.zipIdx.flatMap (fun x => ys.zipIdx.map (fun y =>
    let gs := outputProducts x.1 y.1
    (outputValue ((old[32 * x.2 + y.2]?).getD 0) gs, cancels csh gs)))
  (outs.map (·.1), (outs.filter (·.2)).length)

/-- The accumulators that an evaluation starts from: the tile, or −0.0 or 0 under `.o` (R87, R88, R266). -/
def startTile (s : State) (core : Nat) (c : AnvilCmd) : List Nat :=
  if c.ow then copies 1024 (if c.afmt = 6 then 0 else 0x80000000)
  else elemsOf 32 ((List.range 64).map (fun k => s.cLine core c.tile k))

/-- The narrow evaluation: the tile and its cancelling outputs. -/
def evalNarrow (s : State) (core : Nat) (c : AnvilCmd) : List Nat × Nat :=
  let old := startTile s core c
  if c.afmt = 6 then
    let xs := (List.range 32).map (fun m => (rowElems 8 c.xLines 0 m).map (signedOf 8))
    let ys := (List.range 32).map (fun n => (rowElems 8 c.yLines 0 n).map (signedOf 8))
    (xs.zipIdx.flatMap (fun x => ys.zipIdx.map (fun y =>
      toBits 32 (outputInt (signedOf 32 ((old[32 * x.2 + y.2]?).getD 0)) x.1 y.1))), 0)
  else
    tileFloat (fieldN c.tmpol 38 4) old ((List.range 32).map (xRow c)) ((List.range 32).map (yRow c))

/-- The evaluation of a replay on the rows as fetched (R267): E4M3 with the narrow blocks' scales at rung 1, BF16 at rung 2. -/
def evalWide (s : State) (core : Nat) (c : AnvilCmd) : List Nat × Nat :=
  let st := if c.rung = 1 then Storage.e4m3 else Storage.bf16
  let per := perRow st
  let passes := c.kTotal / per
  let row := fun (ls : List Line) (narrow : ORow) (r : Nat) =>
    ({ vals := ((List.range passes).map (fun j => rowElems st.bits ls (192 * j) r)).flatten.map (storedValue [] st),
       scales := if c.rung = 1 then narrow.scales else narrow.scales.map (fun _ => some 0) } : ORow)
  tileFloat (fieldN c.tmpol 38 4) (startTile s core c)
    ((List.range 32).map (fun m => row c.xWide (xRow c m) m)) ((List.range 32).map (fun n => row c.yWide (yRow c n) n))

/-! ## Commit and completion -/

/-- The head of a core's Anvil queue changed. -/
def modHead (s : State) (core : Nat) (f : AnvilCmd → AnvilCmd) : State :=
  s.modCore core (fun c => { c with anvil := modAt f c.anvil 0 })

/-- A tile written all at once (R192). -/
def writeTile (s : State) (core tile : Nat) (ls : List Line) : State :=
  ls.zipIdx.foldl (fun s p => s.putLine 2 core (tile * 64 + p.2) p.1) s

/-- The tempered reads of a thread set that waited for a tile take their value once it was the last (R107). -/
def settleReads (core ts id : Nat) (s : State) : State :=
  s.modTset core ts (fun t => { t with pend := t.pend.map (fun p => match p.kind with
    | .temper rc cmds =>
      let rest := cmds.filter (fun c => c != id)
      { p with kind := if rest.isEmpty then .value (statusValue t rc) else .temper rc rest }
    | _ => p) })

/-- TMSTAT (Table 14.3). -/
def tmstatWord (c : AnvilCmd) (ceil err : Bool) : Word :=
  BitVec.ofNat 64 (min c.sat 65535 + min c.unf 65535 * 2 ^ 16 + c.can * 2 ^ 32 + c.rung * 2 ^ 48 + c.nrep * 2 ^ 52 +
    (if ceil then 2 ^ 54 else 0) + (if err then 2 ^ 55 else 0))

/-- What the end of a tempered tile leaves in the thread set and the counters (R269): TMSTAT, TMRC, the replay counters. -/
def noteTile (s : State) (core : Nat) (c : AnvilCmd) (ceil err : Bool) : State :=
  let mine := c.act.isSome && (s.tset core c.ts).act.map (·.uid) == c.act
  let count := fun (t : TSet) => BitVec.ofNat 64 (min (2 ^ 32 - 1) (t.tmrc.toNat + c.nrep))
  let s := if mine then s.modTset core c.ts (fun t => { t with tmstat := tmstatWord c ceil err, tmrc := count t }) else s
  let s := raiseCounter s c.ctx.toNat c.rcb 0xF0 c.nrep
  let s := if ceil then countAt s core 0x1003 1 else s
  settleReads core c.ts c.id s

/-- A command leaves the queue (R191): its completion is counted, and a graph record's work has ended. -/
def leaveAnvil (s : State) (core : Nat) (c : AnvilCmd) (code : Nat) : State :=
  let s := s.modCore core (fun k => { k with anvil := k.anvil.filter (fun a => a.id != c.id) })
  graphEnded (countAt s core 0x1001 1) c.graph c.ctx (code, 0, 0, 0)

/-! ## Rotation -/

/-- The neighbours of R197: west and east. -/
def westOf (pair : Bool) (core : Nat) : Nat :=
  let cl := clusterOf core
  let row := core % 16 / 4
  let col := core % 4
  if pair then
    let x := (4 * (cl % 2) + col + 7) % 8
    (cl / 2 * 2 + x / 4) * 16 + 4 * row + x % 4
  else cl * 16 + 4 * row + (col + 3) % 4
/-- See `westOf`. -/
def eastOf (pair : Bool) (core : Nat) : Nat :=
  let cl := clusterOf core
  let row := core % 16 / 4
  let col := core % 4
  if pair then
    let x := (4 * (cl % 2) + col + 1) % 8
    (cl / 2 * 2 + x / 4) * 16 + 4 * row + x % 4
  else cl * 16 + 4 * row + (col + 1) % 4
/-- North and south. -/
def northOf (core : Nat) : Nat := clusterOf core * 16 + 4 * ((core % 16 / 4 + 3) % 4) + core % 4
/-- See `northOf`. -/
def southOf (core : Nat) : Nat := clusterOf core * 16 + 4 * ((core % 16 / 4 + 1) % 4) + core % 4

/-- The step number of `MRLAND` (R196). -/
def stepNo (m : Word) : BitVec 16 := m.extractLsb' 32 16
/-- Whether a step is of the pair form. -/
def AnvilCmd.isPair (c : AnvilCmd) : Bool := c.op == .mrot2

/-- A committed rotation step sends its halves and waits (R198): the blocks as read, with their sidecars. -/
def startRotation (s : State) (core : Nat) (c : AnvilCmd) (old : List Line) : State :=
  let half := fun (isX : Bool) (ls : List Line) (side : Sidecar) =>
    ({ isX := isX, stamp := stepNo c.mrland, pair := c.isPair, sender := core, sendCmd := c.id, arrived := 0, lines := ls,
       side := side, ctx := c.ctx } : Half)
  let s := { s with flights := s.flights ++ [⟨westOf c.isPair core, half true c.xLines c.xSide⟩,
    ⟨northOf core, half false c.yLines ((c.ySides.head?).getD {})⟩] }
  modHead s core (fun a => { a with phase := .rotating, commitTime := s.now, before := old })

/-- The end of an evaluation (R192, R198, R266): the tile, when it changes; a rotation step goes on to shift. DESIGN CHOICE (log 58):
also a step whose operand line was uncorrectable, of which R192 and R198 do not say whether it shifts. -/
def endTile (s : State) (core : Nat) (c : AnvilCmd) (tile : Option (List Nat)) (bits : BitVec 4) (code : Nat) : State :=
  let old := (List.range 64).map (fun k => s.cLine core c.tile k)
  let s := match tile with
    | some xs => writeTile s core c.tile (linesOf 32 xs 64)
    | none => s
  let s := noteFor s core c.ts c.act bits code
  if c.rotates then startRotation s core c old else leaveAnvil s core c code

/-! ## Events of the Anvil -/

/-- ANVIL_START (R192, R195): the first instruction of the queue starts; local operands and their sidecars are read, remote ones
asked for; `CCLR` clears its tile. A service core has no Anvil. -/
def execAnvilStart (core : Nat) (s : State) : Outcome :=
  match (s.core core).anvil with
  | [] => .next s
  | c :: _ =>
    if !isCompute core || c.phase ≠ .queued then .next s
    else if c.op = .cclr then
      .next (leaveAnvil (writeTile s core c.tile (copies 64 0)) core c 0)
    else
      let c := { c with phase := .evaluating, startAt := s.periods, rung := (rungOf c.afmt.toNat).getD 0 }
      let c := if c.x.remote then c else readX s c
      let c := if c.y.remote then c else readY s c
      .next (modHead s core (fun _ => c))

/-- A remote operand that an Anvil waits for (R194): its core, whether it is Y, the blocks asked for and when. -/
structure BlockWait where
  core : Nat
  isY : Bool
  owner : Nat
  bases : List Nat
  since : Nat
  deriving DecidableEq, Repr

/-- The blocks of an operand: every Y block, and the mask block after a sparse X. -/
def AnvilCmd.bases (c : AnvilCmd) (isY : Bool) : List Nat :=
  if isY then (List.range (yBlocks (c.op == .mmas) c.n8)).map (fun j => c.y.base + 256 * j)
  else if c.op = .mmas then [c.x.base, c.x.base + 256] else [c.x.base]

/-- The operands of a core's first command that it waits for. -/
def waitsOf (s : State) (core : Nat) : List BlockWait :=
  match (s.core core).anvil.head? with
  | some a =>
    if a.phase == .evaluating && a.op != .cclr then
      (if a.xGot then [] else [⟨core, false, a.x.core, a.bases false, a.startAt⟩]) ++
        (if a.yGot then [] else [⟨core, true, a.y.core, a.bases true, a.startAt⟩])
    else []
  | none => []

/-- Whether two waits ask for a common block. -/
def BlockWait.shares (a b : BlockWait) : Bool := a.isY == b.isY && a.owner == b.owner && a.bases.any (fun x => b.bases.contains x)

/-- The waits of a list linked to some through common blocks, in `n` rounds. -/
def linkedWaits (all : List BlockWait) : Nat → List BlockWait → List BlockWait
  | 0, ws => ws
  | n + 1, ws => linkedWaits all n (all.filter (fun w => ws.any (BlockWait.shares w)))

/-- Whether every block of some waits was first asked for 32 cycles ago or more. -/
def windowsOver (s : State) (ws : List BlockWait) : Bool :=
  ws.all (fun w => w.bases.all (fun b => ws.any (fun v => v.isY == w.isY && v.owner == w.owner && v.bases.contains b &&
    decide (v.since + 32 ≤ s.periods))))

/-- REMOTE_BLOCK_FETCH (R194): the remote blocks that a core's Anvil waits for are fetched, once for every Anvil of the cluster that has
asked for one of them, 32 cycles after the first request for each at the earliest. -/
def execRemoteBlockFetch (core : Nat) (y : Bool) (s : State) : Outcome :=
  match (waitsOf s core).find? (fun w => w.isY == y) with
  | none => .next s
  | some w =>
    let all := (List.range 16).flatMap (fun k => waitsOf s (clusterOf core * 16 + k))
    let ws := linkedWaits all all.length [w]
    if !windowsOver s ws || ws.any (fun v => v.bases.any (fun b => blockLanding (s.core v.owner) (!y) b 256)) then .next s
    else .next (ws.foldl (fun s' v => modHead s' v.core (fun a => if y then readY s a else readX s a)) s)

/-- Whether an evaluation is within budget (R265). -/
def withinBudget (c : AnvilCmd) : Bool :=
  decide (c.sat ≤ fieldN c.tmpol 8 10) && decide (c.unf ≤ fieldN c.tmpol 18 10) && decide (c.can ≤ fieldN c.tmpol 28 10)

/-- SAT or UNF of the narrow evaluation (R265). -/
def sideCounts (c : AnvilCmd) (f : Sidecar → Nat) : Nat := min 65535 ((c.xSide :: c.ySides).map f).sum

/-- A tempered tile committed (R266, R269). -/
def commitTile (s : State) (core : Nat) (c : AnvilCmd) (tile : List Nat) (ceil : Bool) : State :=
  let s := modHead s core (fun _ => c)
  let bits := (if c.nrep ≠ 0 then bitRpl else 0) ||| (if ceil then bitCeil else 0)
  noteTile (endTile s core c (some tile) bits 0) core c ceil false

/-- ANVIL_EVALUATION_END (R192, R265, R266): the evaluation ends; the tile commits, or is squashed to be replayed one rung
wider. -/
def execAnvilEvaluationEnd (core : Nat) (s : State) : Outcome :=
  match (s.core core).anvil.head? with
  | none => .next s
  | some c =>
    if c.phase ≠ .evaluating || !c.xGot || !c.yGot then .next s
    else if c.bad || (!c.ow && (List.range 64).any (fun k => s.lineBad 2 core (c.tile * 64 + k))) then
      .next (settleReads core c.ts c.id (endTile s core c none bitErr 4))
    else
      let wide := decide (c.nrep ≠ 0)
      let (tile, can) := if wide then evalWide s core c else evalNarrow s core c
      if !c.tempered then .next (endTile s core c (some tile) 0 0)
      else
        let c := { c with can := can,
                          sat := if wide then min 65535 c.fsat else sideCounts c (fun x => x.satc.toNat),
                          unf := if wide then min 65535 c.funf else sideCounts c (fun x => x.unfc.toNat) }
        if c.tmpol.getLsbD 43 || withinBudget c then .next (commitTile s core c tile false)
        else if (rungOf (fieldN c.tmpol 4 4)).getD 0 ≤ c.rung then .next (commitTile s core c tile true)
        else
          let c := { c with phase := .fetching, rung := c.rung + 1, nrep := c.nrep + 1, fetched := 0, fsat := 0, funf := 0,
                            xWide := [], yWide := [] }
          .next (countAt (modHead s core (fun _ => c)) core 0x1002 1)

/-! ## Replay fetch (R267, R268) -/

/-- Bytes of a wide home's element; none for a format outside codes 1 to 5. -/
def homeBytes (fmt : Nat) : Option Nat := if 1 ≤ fmt ∧ fmt ≤ 5 then (storageOf fmt).map (fun st => st.bits / 8) else none

/-- What row `r` of pass `j` of a replay reads: the sidecar, the first element counted from the block's own start, and the row's
masks for X. Rows 0 to 31 are X, 32 to 63 Y. -/
structure ReplayRow where
  isX : Bool
  row : Nat
  pass : Nat
  side : Sidecar
  first : Nat
  deriving DecidableEq, Repr

/-- The `n`-th row of a replay fetch, pass by pass. -/
def replayRow (c : AnvilCmd) (n : Nat) : ReplayRow :=
  let st := if c.rung = 1 then Storage.e4m3 else Storage.bf16
  let j := n / 64
  let r := n % 64
  let k := j * perRow st
  if r < 32 then ⟨true, r, j, c.xSide, k⟩
  else
    let per := perRow c.yFmt
    ⟨false, r - 32, j, (c.ySides[k / per]?).getD {}, k % per⟩

/-- A fetched element brought to the rung (R267). -/
def widen (c : AnvilCmd) (q : ReplayRow) (src : Storage) (k x : Nat) : Quantised :=
  let v := storedValue [] src x
  let g := k / 32
  let admits := !q.isX || c.op != .mmas ||
    maskAdmits c.nSparse (((rowMasks c q.row (c.kTotal / 32))[g]?).getD 0) (k % 32)
  let v := if admits then v else .fin false 0 0
  if c.rung = 1 then
    let per := perRow c.yFmt
    let e := if q.isX then scaleByte c.xLines 0 q.row g else scaleByte c.yLines (256 * (k / per)) q.row (k % per / 32)
    quantFp8 e4m3 e v
  else
    let r := roundF bf16 true v
    ⟨r.bits, v.isNan || v.isInf || r.overflow, !v.isNan && !v.isInf && !v.isZero && r.bits % bf16.signBit == 0⟩

/-- A replay fetch that fails (R268): the tile stays, ERR and RPL are set with the code, and TMSTAT says so (R269). -/
def replayFails (s : State) (core : Nat) (c : AnvilCmd) (code : Nat) : State :=
  noteTile (endTile s core c none (bitErr ||| bitRpl) code) core c false true

/-- A fetched row taken into the pass (R267). -/
def takeRow (c : AnvilCmd) (q : ReplayRow) (src : Storage) (ls : List Line) (byte0 : Nat) : AnvilCmd :=
  let st := if c.rung = 1 then Storage.e4m3 else Storage.bf16
  let raw := ((elemsOf src.bits ls).drop (byte0 * 8 / src.bits)).take (perRow st)
  let res := raw.zipIdx.map (fun p => widen c q src (q.pass * perRow st + p.2) p.1)
  let out := linesOf st.bits (res.map (·.elem)) 6
  let c := { c with fetched := c.fetched + 1, fsat := c.fsat + res.countP (fun (r : Quantised) => r.sat), funf := c.funf + res.countP (fun (r : Quantised) => r.unf) }
  if q.isX then { c with xWide := c.xWide ++ out } else { c with yWide := c.yWide ++ out }

/-- REPLAY_FETCH (R267, R268): the next row of the wide operands of a squashed tile is read on the STREAM path through the cluster's
cache, for the owner of the instruction's issue, by an engine of the cluster that has freed (R239); after the last, the evaluation runs. -/
def execReplayFetch (core : Nat) (s : State) : Outcome :=
  match (s.core core).anvil.head? with
  | none => .next s
  | some c =>
    if c.phase ≠ .fetching || (c.fetched == 0 && decide (2 ≤ enginesTaken s (clusterOf core))) then .next s
    else
      let st := if c.rung = 1 then Storage.e4m3 else Storage.bf16
      let q := replayRow c c.fetched
      match q.side.hv, homeBytes q.side.hfmt.toNat with
      | true, some bytes =>
        let src := (storageOf q.side.hfmt.toNat).getD .bf16
        let ptr := q.side.home + BitVec.ofNat 64 (q.row * q.side.hpitch.toNat + q.first * bytes)
        let ptr := (ptr &&& 0x1FFFFFFFFFFFFFF#64) ||| (q.side.home &&& ~~~0x1FFFFFFFFFFFFFF#64)
        match engineCheck s (cacheOf core) c.owner ptr (perRow st * bytes) rightR with
        | (.error code, s) => .next (replayFails s core c code)
        | (.ok ls, s) =>
          match missingLine s (cacheOf core) (.anvil core c.id) ls with
          | some p => .next (askLine s (cacheOf core) (.anvil core c.id) p.1 p.2 c.owner)
          | none =>
            let (lines, bad, s) := readLines s core (.anvil core c.id) ls
            if bad then .next (replayFails s core c 4)
            else
              let c := takeRow c q src lines (ptrAddr ptr % 64)
              let done := decide (c.fetched = 64 * (c.kTotal / perRow st))
              .next (modHead s core (fun _ => { c with phase := if done then .evaluating else .fetching }))
      | _, _ => .next (replayFails s core c 6)

/-! ## Events of rotation -/

/-- Where the step of a half stands: the sender's command, if it still waits. -/
def senderStep (s : State) (h : Half) : Option AnvilCmd := (s.core h.sender).anvil.find? (fun a => a.id == h.sendCmd)

/-- The sender of a half notes whether its receiver holds it. -/
def noteHeld (s : State) (h : Half) (at_ : Option Nat) : State :=
  s.modCore h.sender (fun c => { c with anvil := c.anvil.map (fun a =>
    if a.id == h.sendCmd then (if h.isX then { a with westHeld := at_ } else { a with northHeld := at_ }) else a) })

/-- ROTATION_HALF_ARRIVAL (R198): the `k`-th half on its way is held by its receiver. -/
def execRotationHalfArrival (k : Nat) (s : State) : Outcome :=
  match s.flights[k]? with
  | none => .next s
  | some x =>
    let h := { x.half with arrived := s.now }
    let s := { s with flights := dropAt s.flights k }
    .next (noteHeld (s.modCore x.to_ (fun c => { c with halves := c.halves ++ [h] })) h (some s.now))

/-- The pairing window of 64 µs, in ns. -/
def pairWindow : Nat := 64000

/-- Whether a held half is the one that a step which has reached its wait expects from a sender (R198, R385). -/
def matchesHalf (c : AnvilCmd) (isX : Bool) (sender : Nat) (h : Half) : Bool :=
  h.isX == isX && h.stamp == stepNo c.mrland && h.pair == c.isPair && h.sender == sender && h.ctx == c.ctx &&
    decide (c.commitTime ≤ h.arrived + pairWindow)

/-- The two halves a step expects, as held: X from the east, Y from the south. -/
def heldHalves (s : State) (core : Nat) (c : AnvilCmd) : Option (Half × Half) :=
  match (s.core core).halves.find? (matchesHalf c true (eastOf c.isPair core)), (s.core core).halves.find? (matchesHalf c false (southOf core)) with
  | some x, some y => some (x, y)
  | _, _ => none

/-- Whether the wait of a step was satisfied within its window (R199). -/
def waitMet (s : State) (core : Nat) (c : AnvilCmd) : Bool :=
  let inTime := fun (t : Nat) => decide (t ≤ c.commitTime + pairWindow)
  match c.westHeld, c.northHeld, heldHalves s core c with
  | some w, some n, some (x, y) => inTime w && inTime n && inTime x.arrived && inTime y.arrived
  | _, _, _ => false

/-- Lines and a sidecar landed in a typed buffer (R198). -/
def landBlock (s : State) (isA : Bool) (core base : Nat) (h : Half) : State :=
  let s := h.lines.zipIdx.foldl (fun (s : State) p => s.putLine (if isA then 1 else 0) core (base + p.2) p.1) s
  if isA then { s with aside := mset {} s.aside (core * 32 + base / 64) h.side, asideBad := mset false s.asideBad (core * 32 + base / 64) false }
  else { s with wside := mset {} s.wside (core * 64 + base / 64) h.side, wsideBad := mset false s.wsideBad (core * 64 + base / 64) false }

/-- ROTATION_LANDING (R198): the wait is satisfied; the incoming halves land and the step completes. -/
def execRotationLanding (core : Nat) (s : State) : Outcome :=
  match (s.core core).anvil.head? with
  | none => .next s
  | some c =>
    if c.phase ≠ .rotating || !waitMet s core c then .next s
    else
      match heldHalves s core c with
      | none => .next s
      | some (x, y) =>
        let s := landBlock (landBlock s true core (landA c.mrland) x) false core (landW c.mrland) y
        let s := s.modCore core (fun k => { k with halves := k.halves.filter (fun h => h != x && h != y) })
        .next (leaveAnvil s core c 0)

/-- The halves of a command discarded wherever they are held or travel (R199). -/
def dropSent (s : State) (id : Nat) : State :=
  { s with flights := s.flights.filter (fun f => f.half.sendCmd != id),
           cores := s.cores.map (fun (c : Nat × Core) => (c.1, { c.2 with halves := c.2.halves.filter (fun h => h.sendCmd != id) })) }

/-- PAIR_ABORT (R199): the wait is not satisfied within 64 µs of the commit. -/
def execPairAbort (core : Nat) (s : State) : Outcome :=
  match (s.core core).anvil.head? with
  | none => .next s
  | some c =>
    if c.phase ≠ .rotating || decide (s.now < c.commitTime + pairWindow) || waitMet s core c then .next s
    else
      let s := writeTile s core c.tile c.before
      let mine := fun (h : Half) => matchesHalf c true (eastOf c.isPair core) h || matchesHalf c false (southOf core) h
      let gone := (s.core core).halves.filter mine
      let s := s.modCore core (fun k => { k with halves := k.halves.filter (fun h => !mine h) })
      let s := gone.foldl (fun s h => noteHeld s h none) s
      let s := dropSent s c.id
      .next (leaveAnvil (countAt (noteFor s core c.ts c.act bitPair 0) core 0x1004 1) core c 0)

/-- HALF_DISCARD (R385): an unmatched half has been held for 64 µs. -/
def execHalfDiscard (core k : Nat) (s : State) : Outcome :=
  match (s.core core).halves[k]? with
  | none => .next s
  | some h =>
    let matched := (s.core core).anvil.any (fun a => a.phase == .rotating && a.isPair == h.pair && stepNo a.mrland == h.stamp &&
      decide (a.commitTime ≤ h.arrived + pairWindow))
    if matched || decide (s.now < h.arrived + pairWindow) then .next s
    else .next (noteHeld (s.modCore core (fun c => { c with halves := dropAt c.halves k })) h none)

end Sys2Proof.Machine
end

