-- ==== Sys2Proof/Machine/Stream.lean ====
section
/-! DEFINITION. Class 10, MJ 0101 from index 5 on, and `ESEND` (R200 to R205): stream commands, what the stream engines do
with them (R239, R240), `TWAIT`. -/

namespace Sys2Proof.Machine

/-! ## Shape words -/

/-- The fields of a shape word (Table 10.2). -/
structure Shape where
  pitch : Nat
  rows : Nat
  gfmt : Nat
  lines : Nat
  e : Nat
  row0 : Nat
  cbs : Nat
  rq : Bool
  reserved : Bool
  deriving DecidableEq, Repr

/-- A shape word decoded; PITCH and GFMT are reserved in `TCVT`. -/
def shapeOf (op : StreamOp) (w : Word) : Shape :=
  { pitch := fieldN w 48 16, rows := fieldN w 42 6 + 1, gfmt := fieldN w 38 4, lines := fieldN w 32 6 + 1, e := fieldN w 24 8,
    row0 := fieldN w 19 5, cbs := fieldN w 16 3, rq := w.getLsbD 15,
    reserved := w.getLsbD 14 || (op == .tcvt && (fieldN w 48 16 != 0 || fieldN w 38 4 != 0)) }

/-! ## Plans -/

/-- One local side of a command: its buffer, core and first line, its format, lines per row, and its first row. -/
structure LocalSide where
  buf : Nat
  core : Nat
  off : Nat
  st : Storage
  per : Nat
  row0 : Nat
  deriving DecidableEq, Repr

/-- Whether a side is an operand block. -/
def LocalSide.isBlock (x : LocalSide) : Bool := decide (x.buf < 2)
/-- The first line of row `r` of a side; a C tile counts its lines from its own first. -/
def LocalSide.line (x : LocalSide) (r : Nat) : Nat := (if x.buf = 2 then 0 else x.off) + (x.row0 + r) * x.per

/-- What a checked command moves: its sides, the global format and the bytes of a global row. -/
structure Plan where
  op : StreamOp
  ptr : Word
  shape : Shape
  gst : Storage
  bytes : Nat
  dst : Option LocalSide
  src : Option LocalSide
  deriving DecidableEq, Repr

/-- Why a command is refused (R201): a bad value in a position, a scratchpad offset past 3,071 (R27), or a pointer that is
not aligned, which a message reports by a status of its own (R240). -/
inductive PlanError where
  | bad (pos : Nat)
  | range (addr : Nat)
  | align (pos : Nat)
  deriving DecidableEq, Repr

/-- The format of a local side: AFMT, WFMT, CFMT or the BFMT of the bank of the issuing core (R201). -/
def sideFmt (fmts : List (BitVec 4)) (b : BField) : Storage :=
  let k := match b.buf with | 0 => 4 | 1 => 3 | 2 => 5 | _ => min (b.off / 1024) 2
  (storageOf ((fmts[k]?).getD 0).toNat).getD .cb4

/-- Whether a side fits its memory (R201): a block by its base, rows and lines per row; a tile by its rows of two lines under a
32-bit format; a scratchpad range inside one bank. DESIGN CHOICE (log 72): a tile's LINES other than 2 in a `TST`, and ROWS past 32, which R201
names in no trap case, are refused as a range that passes its memory. -/
def sideFits (x : LocalSide) (rows : Nat) : Bool :=
  match x.buf with
  | 0 => x.off % 64 == 0 && decide (x.off ≤ 3840) && decide (x.row0 + rows ≤ 32) && decide (x.per ≤ 6)
  | 1 => x.off % 64 == 0 && decide (x.off ≤ 1792) && decide (x.row0 + rows ≤ 32) && decide (x.per ≤ 6)
  | 2 => x.st.bits == 32 && x.per == 2 && decide (rows ≤ 32)
  | _ => decide (x.off / 1024 = (x.off + rows * x.per - 1) / 1024)

/-- A local side of a field with a format and lines per row. DESIGN CHOICE (log 72): ROW0 counts in a block only; the first rule of R201
would have it move the rows of a C tile too, Table 10.2 gives it for blocks alone. -/
def sideOfField (core : Nat) (fmts : List (BitVec 4)) (b : BField) (per row0 : Nat) : LocalSide :=
  ⟨b.buf, b.coreOf core, if b.buf = 2 then b.off % 16 else b.off, sideFmt fmts b, per, if b.buf < 2 then row0 else 0⟩

/-- A side checked against its memory. -/
def checkSide (x : LocalSide) (rows pos : Nat) : Except PlanError Unit :=
  if x.buf = 3 && decide (3072 ≤ x.off) then .error (.range (64 * x.off))
  else if sideFits x rows then .ok () else .error (.bad pos)

/-- The plan of a `TLD` or `TST` (R201): `lpos` is the position of its local field, `gpos` that of its pointer. -/
def planMove (op : StreamOp) (core : Nat) (fmts : List (BitVec 4)) (b : BField) (ptr w : Word) (lpos gpos : Nat) : Except PlanError Plan := do
  let sh := shapeOf op w
  if sh.reserved || decide (8 < sh.gfmt) || sh.pitch == 0 || (b.buf == 3 && sh.row0 != 0) then .error (.bad 3)
  let x := sideOfField core fmts b sh.lines sh.row0
  let g := (storageOf sh.gfmt).getD .cb4
  checkSide x sh.rows lpos
  if ptr.toNat % 64 ≠ 0 then .error (.align gpos)
  if sh.lines * g.bits % x.st.bits ≠ 0 then .error (.bad 3)
  pure { op := op, ptr := ptr, shape := sh, gst := g, bytes := sh.lines * g.bits / x.st.bits * 64,
         dst := if op = .tst then none else some x, src := if op = .tst then some x else none }

/-- The plan of a `TCVT` (R201). -/
def planConvert (core : Nat) (fmts : List (BitVec 4)) (d a : BField) (w : Word) : Except PlanError Plan := do
  let sh := shapeOf .tcvt w
  if sh.reserved || (decide (2 ≤ d.buf) && decide (2 ≤ a.buf) && sh.row0 != 0) then .error (.bad 3)
  let x := sideOfField core fmts d sh.lines sh.row0
  let sb := (sideFmt fmts a).bits
  let ls := sh.lines * sb / x.st.bits
  checkSide x sh.rows 1
  if sh.lines * sb % x.st.bits ≠ 0 ∨ ls = 0 ∨ 64 < ls then .error (.bad 2)
  let y := sideOfField core fmts a ls sh.row0
  checkSide y sh.rows 2
  pure { op := .tcvt, ptr := 0, shape := sh, gst := .cb4, bytes := 0, dst := some x, src := some y }

/-- A refused plan as the trap of an instruction: the operands by position. -/
def planTrap {α : Type} (f : Form) (r : Except PlanError α) : Except Stop α :=
  match r with
  | .ok p => .ok p
  | .error (.range a) => .error (.trap 0x18 (BitVec.ofNat 64 a))
  | .error (.bad pos) | .error (.align pos) => badOperand pos (match pos with | 1 => f.od | 2 => f.oa | _ => f.ob)

/-! ## TLD, TST, TCVT -/

/-- The formats of the core under execution as a command takes them at issue. -/
def fmtsOf (c : Core) : List (BitVec 4) := [c.bfmt0, c.bfmt1, c.bfmt2, c.afmt, c.wfmt, c.cfmt]

/-- The 24 bits of a buffer field, its own or carried (R191). -/
def fieldBits (s : State) (o : Operand) : BitVec 24 :=
  match o with
  | .b .. => encodeField o
  | _ => (s.me.value o).setWidth 24

/-- Whether a plan would write lines of replay staging in use, by its rows or by the scales after them (R193, R201). -/
def writesStaging (s : State) (p : Plan) : Bool :=
  match p.dst with
  | some x => x.buf == 0 && stagingBusy (s.core x.core) (x.off + 192 + 2 * (x.row0 + p.shape.rows - 1))
  | none => false

/-- Whether a plan reads a C tile, or lines of the A buffer, that an earlier Anvil instruction of their core is still to commit or to
land (R135, R198, R201). -/
def readsPending (s : State) (p : Plan) : Bool :=
  match p.src with
  | some x =>
    if x.buf = 2 then anvilBeforeAt s x.core (fun a => a.tile == x.off)
    else x.buf == 1 && anvilBeforeAt s x.core (AnvilCmd.landsIn true (x.line 0) (p.shape.rows * x.per))
  | none => false

/-- The same for a command message as it starts: every instruction queued by then counts. -/
def readsQueued (s : State) (p : Plan) : Bool :=
  match p.src with
  | some x =>
    if x.buf = 2 then tilePending (s.core x.core) x.off else x.buf == 1 && blockLanding (s.core x.core) true (x.line 0) (p.shape.rows * x.per)
  | none => false

/-- A stream command enters its cluster's queue (R200, R239). -/
def enterStream (s : State) (f : Form) (use : OdUse) (p : Plan) (loc dst : BitVec 24) : Except Stop State := do
  needOrdinary s
  needPath s 2
  let q := cacheOf s.curCore
  if readsPending s p then waitAnvil s
  if !streamRoom s q || writesStaging s p then .error (.stall s)
  let (id, s) := s.fresh
  let w := s.me.value f.ob
  let c : StreamCmd :=
    { id := id, op := p.op, core := s.curCore, ts := s.curTs, act := s.me.act.map (·.uid), ctx := BitVec.ofNat 12 s.myCtx,
      owner := s.me.owner, gptr := p.ptr, loc := loc, dst := dst, shape := w, route := w, rq := p.shape.rq,
      fmts := fmtsOf s.myCore, books := s.myCore.cbk }
  pure (lockMine (s.modCluster q (fun u => { u with stream := u.stream ++ [c] })) f use)

/-- TLD (R200, R201). -/
def execTld (f : Form) (s : State) : Outcome :=
  run f none .read (fun s => do
    let b ← fieldOf s 1 f.od [0, 1, 3]
    let p ← planTrap f (planMove (.tld (f.md.getLsbD 0)) s.curCore (fmtsOf s.myCore) b (s.me.value f.oa) (s.me.value f.ob) 1 2)
    enterStream s f .read p (fieldBits s f.od) 0) s

/-- TST (R200, R201). -/
def execTst (f : Form) (s : State) : Outcome :=
  run f none .read (fun s => do
    let b ← fieldOf s 2 f.oa [1, 2, 3]
    let p ← planTrap f (planMove .tst s.curCore (fmtsOf s.myCore) b (s.me.value f.od) (s.me.value f.ob) 2 1)
    enterStream s f .read p (fieldBits s f.oa) 0) s

/-- TCVT (R200, R201). -/
def execTcvt (f : Form) (s : State) : Outcome :=
  run f none .read (fun s => do
    let d ← fieldOf s 1 f.od [0, 1, 3]
    let a ← fieldOf s 2 f.oa [1, 2, 3]
    let p ← planTrap f (planConvert s.curCore (fmtsOf s.myCore) d a (s.me.value f.ob))
    enterStream s f .read p (fieldBits s f.oa) (fieldBits s f.od)) s

/-! ## TWAIT -/

/-- Whether a command of the kinds of a mask that an activation issued is still to complete (R202). -/
def awaits (s : State) (core : Nat) (act : Option Nat) (mask : Word) : Bool :=
  act.isSome &&
    ((mask.getLsbD 0 && (s.core core).anvil.any (fun c => c.act == act)) ||
     (mask.getLsbD 1 && (s.cluster (cacheOf core)).stream.any (fun c => c.act == act && c.msg.isNone && (match c.op with
       | .rread _ => false
       | _ => true))))

/-- TWAIT (R202): what the thread set accesses next is ordered after the commands it has waited for (R261). -/
def execTwait (f : Form) (s : State) : Outcome :=
  run f none .write (fun s => do
    let m := s.me.value f.oa
    if 3 < m.toNat then badOperand 2 f.oa
    if awaits s s.curCore (s.me.act.map (·.uid)) m then .error (.stall s)
    let s := if m = 0 then s else crossPaths s s.curCore
    pure (s.modMe (fun t =>
      let t' := t.writeG (regOf f.od) (t.cmdStatus.setWidth 64)
      if m = 0 then t' else { t' with cmdStatus := 0 }))) s

/-! ## ESEND -/

/-- ESEND (R203, R204): the 64 bytes enter the injection queue toward an engine inbox. -/
def execEsend (f : Form) (s : State) : Outcome :=
  run f none .read (fun s => do
    let d := s.me.value f.od
    checkDesc s d [2] 1 f.od
    needOrdinary s
    needPath s (if fieldN d 44 4 = 0 then 2 else 3)
    let l := s.me.readV (regOf f.oa)
    let rq := (lineWord l 0).getLsbD 15
    if (rq && !replyFree s s.curCore) || !injectRoom s s.curCore then .error (.stall s)
    let s := if rq then reserveReply s s.curCore else s
    let (n, s) := s.fresh
    let c : Command :=
      { words := (List.range 8).map (lineWord l), core := s.curCore, ctx := BitVec.ofNat 12 s.myCtx, owner := s.me.owner, seq := n,
        fmts := fmtsOf s.myCore, books := s.myCore.cbk }
    let m : Msg := { ctx := descCtx d, score := BitVec.ofNat 11 s.curCore }
    pure (lockMine (inject s s.curCore (destOf s d) m (some c)) f .read)) s

/-! ## Stream engines -/

/-- A buffer field of a command message: only bits 23:0, a field of one of some buffers (R27, R240). -/
def messageField (w : Word) (bufs : List Nat) : Option BField :=
  let f : BitVec 24 := w.setWidth 24
  match decodeField f with
  | some (.b buf rem c off) =>
    if fieldN w 24 40 ≠ 0 || reservedBits f true || !bufs.contains buf.toNat || (buf == 0 && decide (4096 ≤ off.toNat)) ||
        (buf == 1 && decide (2048 ≤ off.toNat)) then none
    else some ⟨buf.toNat, rem, c.toNat, off.toNat⟩
  | _ => none

/-- The field that a checked command holds. -/
def heldField (f : BitVec 24) : BField :=
  match decodeField f with
  | some (.b buf rem c off) => ⟨buf.toNat, rem, c.toNat, off.toNat⟩
  | _ => ⟨3, false, 0, 0⟩

/-- The plan of a command, checked again from what it captured. -/
def planOf (c : StreamCmd) : Except PlanError Plan :=
  match c.op with
  | .tcvt => planConvert c.core c.fmts (heldField c.dst) (heldField c.loc) c.shape
  | op => planMove op c.core c.fmts (heldField c.loc) c.gptr c.shape 1 2

/-- Whether a side lies in part in the fork deque (R226). -/
def LocalSide.meetsDeque (x : LocalSide) (rows : Nat) : Bool :=
  x.buf == 3 && decide (x.off < 3072) && decide (Config.dequeBase / 64 < x.off + rows * x.per)

/-- A command message for a stream engine checked as it starts (R240): its status, or the command it stands for. -/
def streamMessage (c : StreamCmd) : Except Nat StreamCmd :=
  let w := fun (k : Nat) => (c.words[k]?).getD 0
  let flags := fieldN (w 0) 24 8
  let shape := w 3
  let quiet := decide (fieldN shape 0 16 = 0) && (w 0).getLsbD 14 == false && (List.range 4).all (fun k => w (k + 4) == 0) && w 8 == 0
  let build : Option StreamCmd :=
    match fieldN (w 0) 16 8, messageField (w 2) [0, 1, 3], messageField (w 2) [1, 2, 3] with
    | 0x01, some _, _ =>
      if 1 < flags then none
      else some { c with op := .tld (flags == 1), gptr := w 1, loc := (w 2).setWidth 24, shape := shape }
    | 0x02, _, some _ => if flags ≠ 0 then none else some { c with op := .tst, gptr := w 1, loc := (w 2).setWidth 24, shape := shape }
    | 0x03, some _, _ =>
      if flags ≠ 0 ∨ (messageField (w 1) [1, 2, 3]).isNone then none
      else some { c with op := .tcvt, loc := (w 1).setWidth 24, dst := (w 2).setWidth 24, shape := shape }
    | _, _, _ => none
  match quiet, build with
  | true, some d =>
    match planOf d with
    | .error (.align _) => .error 5
    | .error _ => .error 6
    | .ok p => if (p.dst.toList ++ p.src.toList).any (fun x => x.meetsDeque p.shape.rows) then .error Config.dequeStatus else .ok d
  | _, _ => .error 6

/-- A command of a cluster's queue changed, by its identity. -/
def modStream (s : State) (cl id : Nat) (f : StreamCmd → StreamCmd) : State :=
  s.modCluster cl (fun u => { u with stream := u.stream.map (fun c => if c.id == id then f c else c) })

/-- The command that an engine runs. -/
def runningStream (s : State) (cl engine : Nat) : Option StreamCmd := (s.cluster cl).stream.find? (fun c => c.engine == some engine)

/-- STREAM_COMMAND_START (R239, R240): the first waiting command of a cluster's queue starts on a free engine, once no replay fetch or
frame copy claims it. -/
def execStreamCommandStart (cluster engine : Nat) (s : State) : Outcome :=
  if 1 < engine || (runningStream s cluster engine).isSome || decide (2 ≤ enginesTaken s cluster + engineClaims s cluster) then .next s
  else
    match (s.cluster cluster).stream.find? (fun c => c.engine.isNone) with
    | none => .next s
    | some c =>
      let c' := match c.msg with
        | none => c
        | some _ =>
          match streamMessage c with
          | .ok d => d
          | .error e => { c with status := e, fin := true }
      let tile := match planOf c' with
        | .ok p => c'.msg.isSome && !c'.fin && (readsQueued s p || writesStaging s p)
        | .error _ => false
      if tile then .next s else .next (modStream s cluster c.id (fun _ => { c' with engine := some engine }))

/-! ## Rows -/

/-- The lines of a row of a side. -/
def sideLines (s : State) (x : LocalSide) (r : Nat) : List Line :=
  (List.range x.per).map (fun k =>
    match x.buf with
    | 0 => s.wLine x.core (x.line r + k)
    | 1 => s.aLine x.core (x.line r + k)
    | 2 => s.cLine x.core x.off (x.line r + k)
    | _ => s.scratchLine x.core (x.line r + k))

/-- Whether a row of a side carries an uncorrectable error (R201, R353). -/
def sideBad (s : State) (x : LocalSide) (r : Nat) : Bool :=
  if x.buf = 3 then s.scratchBad x.core ((List.range (64 * x.per)).map (64 * x.line r + ·))
  else (List.range x.per).any (fun k => s.lineBad x.buf x.core ((if x.buf = 2 then x.off * 64 else 0) + x.line r + k))

/-- A line of a side written, whole. -/
def putSideLine (s : State) (x : LocalSide) (l : Nat) (v : Line) : State :=
  if x.buf < 2 then s.putLine x.buf x.core l v else s.setScratchLine x.core l v

/-- The scale bytes of row `m` of a block set to E for every group of the row (R189, R201). DESIGN CHOICE (log 72): the groups are those of a
dense row of the format, also where the row holds the values of a sparse block, whose logical groups may be more. -/
def putScales (s : State) (x : LocalSide) (m e : Nat) : State :=
  let groups := 3072 / x.st.bits / 32
  let l := x.off + 192 + 2 * m
  let old := if x.buf = 0 then s.wLine x.core l else s.aLine x.core l
  putSideLine s x l (setLineBytes old ((List.range groups).map (fun g => (g, BitVec.ofNat 8 e))))

/-- A sidecar of a block side changed. -/
def modSidecar (s : State) (x : LocalSide) (f : Sidecar → Sidecar) : State :=
  if x.buf = 0 then { s with wside := mmod {} s.wside (x.core * 64 + x.off / 64) f }
  else { s with aside := mmod {} s.aside (x.core * 32 + x.off / 64) f }

/-- The code of a storage format (Table 4.1). -/
def codeOf (st : Storage) : BitVec 4 := BitVec.ofNat 4 (((List.range 9).find? (fun k => storageOf k == some st)).getD 0)

/-- The error of a block's sidecar gone, as it is written afresh (R353). -/
def mendSidecar (s : State) (x : LocalSide) : State :=
  if x.buf = 0 then { s with wsideBad := mset false s.wsideBad (x.core * 64 + x.off / 64) false }
  else { s with asideBad := mset false s.asideBad (x.core * 32 + x.off / 64) false }

/-- The sidecar of a block when row `r` is written (R82, R201): afresh with the block's first row, then with the counts. -/
def noteSidecar (s : State) (p : Plan) (x : LocalSide) (r sat unf : Nat) : State :=
  modSidecar (if r = 0 ∧ p.shape.row0 = 0 then mendSidecar s x else s) x (fun y =>
    let y := if r = 0 ∧ p.shape.row0 = 0 then
        let z := y.afresh (codeOf x.st) (BitVec.ofNat 3 p.shape.cbs)
        match p.op with
        | .tld true => { z with hv := true, home := p.ptr, hpitch := BitVec.ofNat 32 (p.shape.pitch * 64), hfmt := BitVec.ofNat 4 p.shape.gfmt }
        | _ => z
      else y
    y.count sat unf)

/-- Row `r` written to a destination side (R201). -/
def putRow (s : State) (p : Plan) (x : LocalSide) (r : Nat) (ls : List Line) (sat unf : Nat) : State :=
  let s := ls.zipIdx.foldl (fun s q => putSideLine s x (x.line r + q.2) q.1) s
  if x.isBlock then noteSidecar (putScales s x (x.row0 + r) p.shape.e) p x r sat unf else foreignLanded s x.core ((List.range ls.length).map (x.line r + ·))

/-- The lines of a row converted, with its counts; equal formats are copied raw and uncounted (R201). -/
def convertRow (c : StreamCmd) (p : Plan) (src dst : Storage) (n : Nat) (ls : List Line) : List Line × Nat × Nat :=
  if src = dst then (ls, 0, 0)
  else
    let book := bookOf (mget 0 c.books p.shape.cbs)
    let res := (elemsOf src.bits ls).map (convertStored book p.shape.e src dst)
    (linesOf dst.bits (res.map (·.elem)) n, res.countP (fun (r : Quantised) => r.sat), res.countP (fun (r : Quantised) => r.unf))

/-- A command after a row, and after its last. -/
def StreamCmd.rowDone (c : StreamCmd) (p : Plan) (sat unf : Nat) : StreamCmd :=
  { c with rows := c.rows + 1, sat := c.sat + sat, unf := c.unf + unf, fin := decide (p.shape.rows ≤ c.rows + 1) }

/-- A command stopped with a status. -/
def StreamCmd.stopped (c : StreamCmd) (status : Nat) : StreamCmd := { c with status := status, fin := true }

/-- A finished row: the state and the command. -/
abbrev RowStep := State × StreamCmd

/-- One row of a load (R201): checked, read through the cluster's cache, converted, written. -/
def loadRow (s : State) (cl : Nat) (c : StreamCmd) (p : Plan) (x : LocalSide) : RowStep :=
  match engineCheck s cl c.owner (p.ptr + BitVec.ofNat 64 (c.rows * p.shape.pitch * 64)) p.bytes rightR with
  | (.error e, s) => (s, c.stopped e)
  | (.ok ls, s) =>
    match missingLine s cl (.stream c.id) ls with
    | some q => (askLine s cl (.stream c.id) q.1 q.2 c.owner, c)
    | none =>
      let (raw, bad, s) := readLines s c.core (.stream c.id) ls
      if bad then (s, c.stopped 4)
      else
        let (out, sat, unf) := convertRow c p p.gst x.st x.per raw
        (putRow s p x c.rows out sat unf, c.rowDone p sat unf)

/-- One row of a store (R201): written at the home; a write-blocked page takes it later (R337). -/
def storeRow (s : State) (c : StreamCmd) (p : Plan) (x : LocalSide) : RowStep :=
  match engineCheck s (cacheOf c.core) c.owner (p.ptr + BitVec.ofNat 64 (c.rows * p.shape.pitch * 64)) p.bytes rightW with
  | (.error e, s) => (s, c.stopped e)
  | (.ok ls, s) =>
    if writeBlocked ls then (s, c)
    else if sideBad s x c.rows then (s, c.stopped 4)
    else
      let (out, sat, unf) := convertRow c p x.st p.gst (p.bytes / 64) (sideLines s x c.rows)
      (writeLines s c.core (ls.zip out), c.rowDone p sat unf)

/-- One row of a conversion. -/
def convertOne (s : State) (c : StreamCmd) (p : Plan) (x y : LocalSide) : RowStep :=
  if sideBad s y c.rows then (s, c.stopped 4)
  else
  let (out, sat, unf) := convertRow c p y.st x.st x.per (sideLines s y c.rows)
  (putRow s p x c.rows out sat unf, c.rowDone p sat unf)

/-- Whether row `r` of a plan touches the fork deque (R226). -/
def rowMeetsDeque (p : Plan) (r : Nat) : Bool :=
  (p.dst.toList ++ p.src.toList).any (fun x => x.buf == 3 && decide (Config.dequeBase / 64 < x.line r + x.per))

/-- The next row of the command that an engine runs. -/
def moveRow (s : State) (cl : Nat) (c : StreamCmd) : RowStep :=
  match planOf c with
  | .error _ => (s, c.stopped 6)
  | .ok p =>
    if rowMeetsDeque p c.rows then (s, c.stopped 2)
    else
      match p.dst, p.src with
      | some x, some y => convertOne s c p x y
      | some x, none => loadRow s cl c p x
      | none, some y => storeRow s c p y
      | none, none => (s, c.stopped 6)

/-- Up to `n` rows of the command that an engine of a cluster runs. -/
def moveRows (cl engine : Nat) : Nat → State → State
  | 0, s => s
  | n + 1, s =>
    match runningStream s cl engine with
    | some c =>
      if c.fin then s
      else
        let (s, c') := moveRow s cl c
        moveRows cl engine n (modStream s cl c.id (fun _ => c'))
    | none => s

/-- A step of a stream engine on a command of one kind. -/
def streamStep (isKind : StreamOp → Bool) (cluster engine rows : Nat) (s : State) : Outcome :=
  match runningStream s cluster engine with
  | some c => if isKind c.op then .next (moveRows cluster engine rows s) else .next s
  | none => .next s

/-- STREAM_LOAD (R201, R240): the next rows of a load. -/
def execStreamLoad (cluster engine rows : Nat) (s : State) : Outcome :=
  streamStep (fun o => match o with | .tld _ => true | _ => false) cluster engine rows s
/-- STREAM_STORE (R201, R240): the next rows of a store. -/
def execStreamStore (cluster engine rows : Nat) (s : State) : Outcome := streamStep (fun o => o == .tst) cluster engine rows s
/-- STREAM_CONVERT (R201, R240): the next rows of a conversion. -/
def execStreamConvert (cluster engine rows : Nat) (s : State) : Outcome := streamStep (fun o => o == .tcvt) cluster engine rows s

/-- The completion message of a stream command (R205): its opcode and word 1. That of an instruction has still to reserve its reply
slot, and so has that of a record's command (R212); that of a message has one. -/
def streamCompletion (s : State) (c : StreamCmd) : State :=
  match c.msg with
  | some h =>
    match c.graph with
    | none => completion s c.core c.ctx c.route c.status (fieldN h 16 8) c.rows (h >>> 32) c.sat c.unf
    | some (cl, batch, node) =>
      let issuer := ((s.cluster cl).graph.find? (fun r => r.ctx == c.ctx && r.batch == batch && r.node == node)).map (·.cmd.core)
      completionDue s (issuer.getD c.core) c.ctx c.route (completionWords c.status (fieldN h 16 8) c.rows (h >>> 32) c.sat c.unf)
  | none =>
    let (code, field) := match c.op with
      | .tst => (0xF2, c.loc)
      | .tcvt => (0xF3, c.dst)
      | _ => (0xF1, c.loc)
    completionDue s c.core c.ctx c.route (completionWords c.status code c.rows (field.setWidth 64) c.sat c.unf)

/-- STREAM_COMMAND_COMPLETE (R202, R205, R243): a command that has moved its rows, or stopped, leaves its engine once its last write is
performed. -/
def execStreamCommandComplete (cluster engine : Nat) (s : State) : Outcome :=
  match runningStream s cluster engine with
  | none => .next s
  | some c =>
    let landing := c.op == .tst && storesAway s cluster
    if !c.fin || landing then .next s
    else
      let s := s.modCluster cluster (fun u => { u with stream := u.stream.filter (fun d => d.id != c.id) })
      let s := countEvent (countEvent (countEvent s cluster 0x2001 1) cluster 0x2002 c.sat) cluster 0x2003 c.unf
      let s := if c.status ≠ 0 then noteFor s c.core c.ts c.act bitErr c.status else s
      let s := graphEnded s c.graph c.ctx (c.status, c.rows, c.sat, c.unf)
      .next (if c.rq then streamCompletion s c else s)

end Sys2Proof.Machine
end

