-- ==== Sys2Proof/Machine/Engine.lean ====
section
/-! DEFINITION. The pool engines: leases (R313), bulk copies and fills (R240, R241), reductions (R242, R379), completions
(R243). -/

namespace Sys2Proof.Machine

/-! ## Engines and leases -/

/-- The number of an engine of a die: 0 to 15 bulk copy, 16 to 23 collective (R313). -/
def engineKey (die engine : Nat) : Nat := die * 24 + engine
/-- The class of an engine. -/
def engineClass (engine : Nat) : Nat := if engine < 16 then 1 else 2
/-- A pool engine. -/
def State.engine (s : State) (e : Nat) : PoolEngine := mget {} s.engines e
/-- The state with a pool engine changed. -/
def State.modEngine (s : State) (e : Nat) (f : PoolEngine → PoolEngine) : State := { s with engines := mmod {} s.engines e f }
/-- What peers have answered a unit that reads homes, forgotten. -/
def forgetLines (s : State) (u : Nat) : State := answersTaken s (.unit u 0)

/-- The command at the head of the slot an engine is bound to. -/
def headPool (s : State) (e : Nat) : Option (Nat × PoolCmd) :=
  (s.engine e).slot.bind (fun k => (s.lease k).cmds.head?.map (fun c => (k, c)))
/-- The head command of a lease slot replaced. -/
def setHead (s : State) (k : Nat) (c : PoolCmd) : State := s.modLease k (fun l => { cmds := modAt (fun _ => c) l.cmds 0 })


/-- The lease slots of a die and class that hold waiting commands and no engine, in round-robin order after slot `last`. -/
def waitingSlots (s : State) (die cls last : Nat) : List Nat :=
  let all := (s.leases.filter (fun l => l.1 / 32 / 65 == die && l.1 / 16 % 2 + 1 == cls && !l.2.cmds.isEmpty &&
    !s.engines.any (fun e => e.2.slot == some l.1))).map (·.1)
  all.filter (fun k => decide (last < k)) ++ all.filter (fun k => decide (k ≤ last))

/-- An engine bound to the next waiting slot of its class, scrubbed, for the lease time of its partition (R313). -/
def bindEngine (s : State) (die engine : Nat) : State :=
  let e := engineKey die engine
  match waitingSlots s die (engineClass engine) (s.engine e).last with
  | [] => s.modEngine e (fun x => { x with slot := none, plb := [] })
  | k :: _ =>
    s.modEngine e (fun _ =>
      { slot := some k, last := k, until_ := s.now + (s.partition (leasePartition k)).leaseTime, plb := [] })

/-- LEASE_EXPIRY (R313): an engine with no lease, or with one that has expired and at a command boundary, is scrubbed and bound to
the next slot. A session that changes scheduling holds every lease where it stands (R366). -/
def execLeaseExpiry (die engine : Nat) (s : State) : Outcome :=
  let e := engineKey die engine
  let held := match (s.die die).session with | some (_, clocks) => !clocks | none => false
  if 1 < die || 24 ≤ engine || held then .next s
  else
    match (s.engine e).slot with
    | none => .next (bindEngine s die engine)
    | some k =>
      if (s.engine e).until_ ≤ s.now && !((s.lease k).cmds.head?).any (fun c => c.started) then .next (bindEngine s die engine) else .next s

/-! ## Checks of a command -/

/-- One end of a bulk copy: a scratchpad address of a core, or a global pointer. -/
inductive PoolEnd where
  | loc (core addr : Nat)
  | glob (ptr : Word)
  deriving DecidableEq, Repr

/-- Whether the lease of an engine has run out, so that no command of its slot may start (R313). A session that changes scheduling holds
every lease where it stands (R366). -/
def leaseOver (s : State) (die engine : Nat) : Bool :=
  let held := match (s.die die).session with | some (_, clocks) => !clocks | none => false
  !held && decide ((s.engine (engineKey die engine)).until_ ≤ s.now)

/-- A checked bulk command: its source (none for a fill, with the pattern), its destination, its 64-byte units. -/
structure PoolPlan where
  src : Option PoolEnd
  pattern : Word
  dst : PoolEnd
  units : Nat
  deriving DecidableEq, Repr

/-- A local word of a bulk command: only a core of the partition and a line address, and a range within one bank that does not
touch the deque (R226, R240). -/
def localEnd (s : State) (ctx : Nat) (w : Word) (units : Nat) : Except Nat PoolEnd :=
  let core := fieldN w 32 10
  let a := fieldN w 0 18
  if fieldN w 18 14 ≠ 0 ∨ fieldN w 42 22 ≠ 0 ∨ a % 64 ≠ 0 ∨ contextMayRun s ctx core = false ∨ 0x30000 ≤ a ∨
      a / 65536 ≠ (a + 64 * units - 1) / 65536 then .error 6
  else if scratchRefused a (64 * units) then .error Config.dequeStatus
  else .ok (.loc core a)

/-- An end by its flag, or BAD_COMMAND, ALIGN or the status of a touched deque. -/
def poolEnd (s : State) (ctx : Nat) (isLocal : Bool) (w : Word) (units : Nat) : Except Nat PoolEnd :=
  if isLocal then localEnd s ctx w units
  else if w.toNat % 64 ≠ 0 then .error 5 else .ok (.glob w)

/-- FLAGS of a command. -/
def Command.flags (c : Command) : Nat := fieldN (c.word 0) 24 8

/-- A bulk command checked (R240): BAD_COMMAND before ALIGN. -/
def poolPlan (s : State) (c : Command) : Except Nat PoolPlan :=
  let n := (c.word 3).toNat
  let ctx := c.ctx.toNat
  let copy := decide (c.opcode = 0x10)
  if (c.word 0).getLsbD 14 || (c.opcode != 0x10 && c.opcode != 0x11) || decide (3 < c.flags) || (!copy && c.flags % 2 == 1) ||
      decide (n = 0) || decide (n % 64 ≠ 0) || decide (2 ^ 32 < n) || (List.range 4).any (fun k => c.word (k + 4) != 0) then .error 6
  else
    let src := if copy then (poolEnd s ctx (c.flags % 2 == 1) (c.word 1) (n / 64)).map some else .ok none
    match src, poolEnd s ctx (decide (2 ≤ c.flags)) (c.word 2) (n / 64) with
    | .error 6, _ | _, .error 6 => .error 6
    | .error e, _ => .error e
    | _, .error e => .error e
    | .ok x, .ok y => .ok ⟨x, c.word 1, y, n / 64⟩

/-- A checked reduction: pointers, elements, operation, element size, group and rank. -/
structure ReducePlan where
  src : Word
  dst : Word
  count : Nat
  op : Nat
  bf16 : Bool
  group : Nat
  rank : Nat
  deriving DecidableEq, Repr

/-- The nodes and timeout of a collective group of a partition. -/
def groupOf (s : State) (p g : Nat) : Option (List Nat × Nat) := ((s.partition p).groups.find? (fun x => x.1 == g)).map (·.2)

/-- A reduction checked (R240). -/
def reducePlan (s : State) (c : Command) : Except Nat ReducePlan :=
  let n := (c.word 3).toNat
  let g := (c.word 4).toNat
  let r := (c.word 5).toNat
  let nodes := ((groupOf s (s.partitionOf c.ctx.toNat) g).map (·.1)).getD []
  if (c.word 0).getLsbD 14 || c.opcode != 0x20 || decide (7 < c.flags) || c.flags % 4 == 3 || decide (n = 0) || decide (2 ^ 24 < n) ||
      decide (nodes.length ≤ r) || c.word 6 != 0 || c.word 7 != 0 then .error 6
  else if (c.word 1).toNat % 64 ≠ 0 ∨ (c.word 2).toNat % 64 ≠ 0 then .error 5
  else .ok ⟨c.word 1, c.word 2, n, c.flags % 4, c.flags / 4 == 1, g, r⟩

/-! ## Accesses on the POOL path -/

/-- The rights of an engine over bytes (R138, R324): its own PLB of 16, or a walk that fills it, marked at the cluster of the command's
issuer. -/
def poolRights (s : State) (e : Nat) (owner : BitVec 20) (ptr : Word) (n : Nat) (need : BitVec 5) : Except Nat State :=
  let hit := fun (x : PlbEntry) => x.covers owner (ptrAddr ptr) n && x.passes (ptrGen ptr) need false
  if (s.engine e).plb.any hit && ptrGen ptr != 127 then .ok (s.modEngine e (fun x => { x with plb := touchLast hit x.plb }))
  else
    match tableDecision s owner (ptrGen ptr) (ptrAddr ptr) n need false with
    | some 0x13 => .error 3
    | some _ => .error 2
    | none =>
      let covers := walkCovers s owner (ptrAddr ptr) n
      let cl := cacheOf (((headPool s e).map (fun h => h.2.cmd.core)).getD 0)
      .ok (markHolders (s.modEngine e (fun x => { x with plb := installPlb 16 x.plb covers })) cl (1#17 <<< 16) covers)

/-- The rights and translation of bytes of a range (R241). -/
def poolCheck (s : State) (e : Nat) (owner : BitVec 20) (ptr : Word) (n : Nat) (need : BitVec 5) : Except Nat State :=
  match poolRights s e owner ptr n need with
  | .error c => .error c
  | .ok s =>
    match linesXlat s (lineSpan (ptrAddr ptr) n) with
    | .error c => .error c
    | .ok _ => .ok s

/-- The outcome of a line access by an engine: done, a wait (with a request made), or a status. -/
inductive PoolIo where
  | done (s : State) (l : Line)
  | wait (s : State)
  | fail (status : Nat)
  deriving DecidableEq, Repr

/-- Who asks a peer for lines: the command at the head of the slot an engine is bound to; a mailbox or a port by itself (R255). -/
def unitAsker (s : State) (e : Nat) : Asker := .unit (engineCache e) (((headPool s e).map (fun h => h.2.id)).getD 0)

/-- A line of a peer as a unit of the pool, a mailbox or a port takes it: its answer, once, or a wait with the request made (R255). -/
def poolPeerRead (s : State) (e : Nat) (owner : BitVec 20) (va : Nat) (x : Xlat) : PoolIo :=
  let who := unitAsker s e
  match (askedLine s (engineCache e) who va).bind (·.reply) with
  | some (some l) => .done { s with peerLoads := s.peerLoads.filter (fun p => !(p.who == who && p.va == va / 64 * 64)) } l
  | some none => .fail 4
  | none => .wait (askLine s (engineCache e) who va x owner)

/-- A line read at its home; a peer's is asked for first. -/
def poolRead (s : State) (e : Nat) (owner : BitVec 20) (va : Nat) : PoolIo :=
  match xlatOf s va with
  | none => .fail 1
  | some x =>
    if x.tier = 3 then poolPeerRead s e owner va x
    else if s.eccFails x.pa then .fail 4
    else .done (homeRequest s (engineCache e) va x) (s.lineAt x)

/-- Bytes of a line written at their home, D set first (R332); a write-blocked page takes them later (R337). -/
def poolWrite (s : State) (e : Nat) (va n : Nat) (l : Line) : PoolIo :=
  match xlatOf s va with
  | none => .fail 1
  | some x =>
    if x.wb then .wait s
    else
      let s := setPteDirty s x
      .done (writeHome s (engineCache e) va x ((List.range n).map (fun k => (x.pa + k, lineByte l k)))) l

/-! ## COPY and FILL -/

/-- The check due before unit `u` of an end: at each 4 KiB of its range, rights and translation (R241). -/
def unitCheck (s : State) (e : Nat) (owner : BitVec 20) (x : PoolEnd) (u units : Nat) (need : BitVec 5) : Except Nat State :=
  match x with
  | .loc _ _ => .ok s
  | .glob p => if u % 64 = 0 then poolCheck s e owner (p + BitVec.ofNat 64 (64 * u)) (64 * min 64 (units - u)) need else .ok s

/-- The bytes of an end that the check before unit `u` covers (R241, R326). -/
def unitRange (x : PoolEnd) (u units : Nat) : List (Nat × Nat) :=
  match x with
  | .loc _ _ => []
  | .glob p => [(ptrAddr p + 64 * u, 64 * min 64 (units - u))]

/-- Unit `u` of an end read. -/
def readUnit (s : State) (e : Nat) (owner : BitVec 20) (x : PoolEnd) (u : Nat) : PoolIo :=
  match x with
  | .loc core a =>
    if s.scratchBad core ((List.range 64).map (a + 64 * u + ·)) then .fail 4 else .done s (s.scratchLine core (a / 64 + u))
  | .glob p => poolRead s e owner (ptrAddr p + 64 * u)

/-- Unit `u` of an end written. -/
def writeUnit (s : State) (e : Nat) (x : PoolEnd) (u : Nat) (l : Line) : PoolIo :=
  match x with
  | .loc core a => .done (foreignLanded (s.setScratchLine core (a / 64 + u) l) core [a / 64 + u]) l
  | .glob p => poolWrite s e (ptrAddr p + 64 * u) 64 l

/-- The checks due before the next unit of a command. -/
def unitChecks (s : State) (e : Nat) (c : PoolCmd) (p : PoolPlan) : Except Nat State :=
  match p.src with
  | some x =>
    match unitCheck s e c.cmd.owner x c.units p.units rightR with
    | .ok s => unitCheck s e c.cmd.owner p.dst c.units p.units rightW
    | .error k => .error k
  | none => unitCheck s e c.cmd.owner p.dst c.units p.units rightW

/-- The next unit of a command moved (R241). The bytes whose check it has passed are noted until the 4 KiB end: a purge waits for them
(R326). -/
def moveUnit (s : State) (e k : Nat) (c : PoolCmd) (p : PoolPlan) : State :=
  match unitChecks s e c p with
  | .error st => setHead s k { c with started := true, status := st, fin := true, past := [] }
  | .ok s =>
    let c := if c.units % 64 = 0 then
        { c with past := (p.src.map (fun x => unitRange x c.units p.units)).getD [] ++ unitRange p.dst c.units p.units }
      else c
    let got := match p.src with
      | some x => readUnit s e c.cmd.owner x c.units
      | none => .done s (lineOfWords (copies 8 p.pattern))
    match got with
    | .fail st => setHead s k { c with started := true, status := st, fin := true, past := [] }
    | .wait s => setHead s k { c with started := true }
    | .done s l =>
      match writeUnit s e p.dst c.units l with
      | .fail st => setHead s k { c with started := true, status := st, fin := true, past := [] }
      | .wait _ => setHead s k { c with started := true }
      | .done s _ =>
        let last := decide (p.units ≤ c.units + 1)
        setHead s k { c with started := true, units := c.units + 1, fin := last,
                             past := if last || (c.units + 1) % 64 == 0 then [] else c.past }

/-- Up to `n` units of the head command of an engine. -/
def moveUnits (e : Nat) : Nat → State → State
  | 0, s => s
  | n + 1, s =>
    match headPool s e with
    | some (k, c) =>
      match c.fin, poolPlan s c.cmd with
      | false, .ok p => moveUnits e n (moveUnit s e k c p)
      | _, _ => s
    | none => s

/-- A step of a bulk engine on a command of an opcode. -/
def bulkStep (opcode die engine units : Nat) (s : State) : Outcome :=
  if 1 < die || 16 ≤ engine then .next s
  else
    match headPool s (engineKey die engine) with
    | some (_, c) =>
      if c.cmd.opcode = opcode && (c.started || !leaseOver s die engine) then .next (moveUnits (engineKey die engine) units s) else .next s
    | none => .next s

/-- COPY (R241): the next units of a bulk copy, in ascending order. -/
def execCopy (die engine units : Nat) (s : State) : Outcome := bulkStep 0x10 die engine units s
/-- FILL (R240, R241): the next units of a fill. -/
def execFill (die engine units : Nat) (s : State) : Outcome := bulkStep 0x11 die engine units s

/-! ## REDUCE -/

/-- Bytes of a segment (R379). -/
def segmentBytes : Nat := 4096
/-- The bytes of a reduction's buffer. -/
def ReducePlan.bytes (p : ReducePlan) : Nat := p.count * (if p.bf16 then 2 else 4)
/-- The first bytes of its segments. -/
def ReducePlan.offsets (p : ReducePlan) : List Nat := (List.range ((p.bytes + segmentBytes - 1) / segmentBytes)).map (· * segmentBytes)

/-- The checks of a range of a reduction, 4 KiB by 4 KiB. -/
def reduceCheck (s : State) (e : Nat) (owner : BitVec 20) (ptr : Word) (n : Nat) (need : BitVec 5) : List Nat → Except Nat State
  | [] => .ok s
  | o :: rest =>
    match poolCheck s e owner (ptr + BitVec.ofNat 64 o) (min segmentBytes (n - o)) need with
    | .error c => .error c
    | .ok s => reduceCheck s e owner ptr n need rest

/-- The lines of a range read, or the first that has to wait or fails. -/
def readRange (e : Nat) (owner : BitVec 20) : List Nat → State → List Byte → Except (Nat ⊕ State) (List Byte × State)
  | [], s, acc => .ok (acc, s)
  | va :: rest, s, acc =>
    match xlatOf s va with
    | none => .error (.inl 1)
    | some x =>
      if x.tier = 3 then
        match (askedLine s (engineCache e) (unitAsker s e) va).bind (·.reply) with
        | some (some l) => readRange e owner rest s (acc ++ (List.range 64).map (lineByte l))
        | some none => .error (.inl 4)
        | none => .error (.inr (askLine s (engineCache e) (unitAsker s e) va x owner))
      else if s.eccFails x.pa then .error (.inl 4)
      else readRange e owner rest (homeRequest s (engineCache e) va x) (acc ++ (List.range 64).map (lineByte (s.lineAt x)))

/-- A segment sent to the node of a rank. -/
def segmentPacket (p : Nat) (node : Nat) (g : Segment) : Output :=
  packetTo node 8 p 0 ([g.group, g.rank, g.offset].flatMap (bytesOf 8) ++ g.bytes)

/-- A reduction starts (R242, R379): its own buffer is read, cut into segments and sent to every other rank. -/
def reduceStart (s : State) (e k : Nat) (c : PoolCmd) (p : ReducePlan) : State :=
  let stop := fun (st : Nat) => setHead s k { c with started := true, status := st, fin := true }
  match reduceCheck s e c.cmd.owner p.src p.bytes rightR p.offsets with
  | .error st => stop st
  | .ok s =>
    match reduceCheck s e c.cmd.owner p.dst p.bytes rightW p.offsets with
    | .error st => stop st
    | .ok s =>
      match readRange e c.cmd.owner (lineSpan (ptrAddr p.src) p.bytes) s [] with
      | .error (.inl st) => stop st
      | .error (.inr s) => s
      | .ok (bs, s) =>
        let pn := s.partitionOf c.cmd.ctx.toNat
        let nodes := ((groupOf s pn p.group).map (·.1)).getD []
        let mine : List Segment := p.offsets.map (fun o => ⟨pn, p.group, p.rank, o, ((bs.take p.bytes).drop o).take segmentBytes, s.now⟩)
        let outs := nodes.zipIdx.flatMap (fun n => if n.2 = p.rank then [] else mine.map (segmentPacket pn n.1))
        setHead { s with segments := s.segments ++ mine, out := s.out ++ outs } k { c with started := true, since := s.now }

/-- The buffer of a rank, once every segment of it has come before a deadline. -/
def rankBytes (s : State) (pn : Nat) (p : ReducePlan) (deadline r : Nat) : Option (List Byte) :=
  p.offsets.foldr (fun o acc => acc.bind (fun bs =>
    (s.segments.find? (fun g => g.partition == pn && g.group == p.group && g.rank == r && g.offset == o && decide (g.arrived < deadline) &&
      decide (g.bytes.length = min segmentBytes (p.bytes - o)))).map (fun g => g.bytes ++ bs))) (some [])

/-- The buffers of ranks 0 to `n` − 1, once all are here. -/
def allRanks (s : State) (pn : Nat) (p : ReducePlan) (deadline n : Nat) : Option (List (List Byte)) :=
  (List.range n).foldr (fun r acc => acc.bind (fun l => (rankBytes s pn p deadline r).map (fun b => b :: l))) (some [])

/-- The segments of a finished reduction, one for each rank and offset, are gone. -/
def dropSegments (s : State) (pn : Nat) (p : ReducePlan) (n : Nat) : State :=
  { s with segments := (List.range n).foldl (fun l r => p.offsets.foldl (fun (l : List Segment) o =>
      l.eraseP (fun g => g.partition == pn && g.group == p.group && g.rank == r && g.offset == o)) l) s.segments }

/-- Element `i` of the result, in ascending rank order: FP32 sums rounded at each addition, and a BF16 sum once more at the end
(R72, R242); minimum and maximum under R74. -/
def reduceElem (p : ReducePlan) (bufs : List (List Byte)) (i : Nat) : Nat :=
  let w := if p.bf16 then 2 else 4
  let f := if p.bf16 then bf16 else fp32
  let vals := bufs.map (fun b => decodeF f (natOfBytes ((b.drop (i * w)).take w)))
  match vals with
  | [] => 0
  | v :: rest =>
    match p.op with
    | 0 => roundBits f (rest.foldl (fun a x => decodeF fp32 (roundBits fp32 (fAdd a x))) v)
    | 1 => roundBits f (rest.foldl fMin v)
    | _ => roundBits f (rest.foldl fMax v)

/-- The result written line by line; none while a page is write-blocked. -/
def writeRange (e : Nat) (bs : List Byte) : List Nat → State → Option State
  | [], s => some s
  | k :: rest, s =>
    match poolWrite s e k (min 64 bs.length) (setLineBytes 0 ((List.range 64).zip (bs.take 64))) with
    | .done s _ => writeRange e (bs.drop 64) rest s
    | _ => none

/-- A reduction ends once every rank's buffer has come within the group's timeout (R242); the rights over its destination are checked as it
is written (R326). -/
def reduceFinish (s : State) (e k : Nat) (c : PoolCmd) (p : ReducePlan) : State :=
  let pn := s.partitionOf c.cmd.ctx.toNat
  let g := (groupOf s pn p.group).getD ([], 0)
  let n := g.1.length
  match allRanks s pn p (c.since + g.2) n with
  | none => s
  | some bufs =>
    let out := (List.range p.count).flatMap (fun i => bytesOf (if p.bf16 then 2 else 4) (reduceElem p bufs i))
    match reduceCheck s e c.cmd.owner p.dst p.bytes rightW p.offsets with
    | .error st => setHead (dropSegments s pn p n) k { c with status := st, fin := true }
    | .ok s =>
      match writeRange e out (lineSpan (ptrAddr p.dst) p.bytes) s with
      | some s => setHead (dropSegments s pn p n) k { c with units := p.count, fin := true }
      | none => s

/-- REDUCE (R242, R379): a reduction starts, or ends when the segments of every rank have come. -/
def execReduce (die engine : Nat) (s : State) : Outcome :=
  if 1 < die || engine < 16 || 24 ≤ engine then .next s
  else
    let e := engineKey die engine
    match headPool s e with
    | some (k, c) =>
      match c.fin, reducePlan s c.cmd with
      | false, .ok p =>
        if c.started then .next (reduceFinish s e k c p) else if leaseOver s die engine then .next s else .next (reduceStart s e k c p)
      | _, _ => .next s
    | none => .next s

/-- REDUCE_TIMEOUT (R242): a peer has not answered within the group's timeout; nothing has been written. -/
def execReduceTimeout (die engine : Nat) (s : State) : Outcome :=
  match headPool s (engineKey die engine) with
  | some (k, c) =>
    match reducePlan s c.cmd with
    | .ok p =>
      let pn := s.partitionOf c.cmd.ctx.toNat
      let g := (groupOf s pn p.group).getD ([], 0)
      if engine < 16 || 24 ≤ engine || !c.started || c.fin || decide (s.now < c.since + g.2) then .next s
      else .next (setHead (dropSegments s pn p g.1.length) k { c with status := 6, fin := true })
    | .error _ => .next s
  | none => .next s

/-! ## Completion -/

/-- The status of a command that does not start (R240). -/
def refusedStatus (s : State) (engine : Nat) (c : Command) : Option Nat :=
  if engine < 16 then (match poolPlan s c with | .error e => some e | .ok _ => none)
  else match reducePlan s c with | .error e => some e | .ok _ => none

/-- A command with the status it ends with: its own, or that of a command that does not start. -/
def endedPool (s : State) (engine : Nat) (c : PoolCmd) : Option PoolCmd :=
  if c.fin then some c
  else if c.started then none
  else (refusedStatus s engine c.cmd).map (fun st => { c with status := st, fin := true })

/-- ENGINE_COMMAND_COMPLETE (R205, R240, R243): the command at the head of an engine's slot leaves it once its writes are performed,
and its completion is sent; that of a record's command reserves its reply slot first (R212). -/
def execEngineCommandComplete (die engine : Nat) (s : State) : Outcome :=
  let e := engineKey die engine
  match headPool s e with
  | none => .next s
  | some (k, c) =>
    match endedPool s engine c with
    | none => .next s
    | some c =>
      if storesAway s (engineCache e) then .next s
      else
        let s := s.modLease k (fun l => { cmds := l.cmds.tail })
        let s := answersTaken s (unitAsker s e)
        let s := graphEnded s c.graph c.cmd.ctx (c.status, c.units, 0, 0)
        .next (if c.graph.isNone then commandDone s c.cmd c.status c.units 0 0
          else if c.cmd.rq then completionDue s c.cmd.core c.cmd.ctx (c.cmd.word 0)
            (completionWords c.status c.cmd.opcode c.units (c.cmd.word 0 >>> 32) 0 0)
          else s)

end Sys2Proof.Machine
end

