-- ==== Sys2Proof/Machine/Graph.lean ====
section
/-! DEFINITION. The task graph unit: `GNODE`, `GSEAL` (R206, R207), dispatch, completion and cancellation (R244 to R248). -/

namespace Sys2Proof.Machine

/-! ## GNODE -/

/-- The Anvil word of a class-0 body. -/
def anvilWord (body : List Word) : IWord := ((body[1]?).getD (0 : Word)).extractLsb' 0 32 ++ (body[0]?).getD (0 : Word)

/-- Whether an operand is a buffer field. -/
def isB (o : Operand) : Bool := match o with | .b .. => true | _ => false

/-- The Anvil instruction of a class-0 body: `MMA`, `MMAS` or `CCLR`, every operand a buffer field, no guard, nothing else in BODY
(R206). -/
def anvilBody (body : List Word) : Option (AnvilOp × Form) :=
  let plain := fun (f : Form) => f.guard.p == 0 && !f.guard.neg
  if fieldN ((body[1]?).getD 0) 32 32 ≠ 0 ∨ (body.drop 2).any (fun w => w != 0) then none
  else
    match decode (anvilWord body) with
    | .ok (.mma f) => if plain f && isB f.od && isB f.oa && isB f.ob then some (.mma, f) else none
    | .ok (.mmas f) => if plain f && isB f.od && isB f.oa && isB f.ob then some (.mmas, f) else none
    | .ok (.cclr f) => if plain f && isB f.od then some (.cclr, f) else none
    | _ => none

/-- The reserved fields of a record (Table 10.5), with the 16-bit successor fields. -/
def nodeReserved (l : Line) : Bool :=
  let w0 := lineWord l 0
  let w2 := lineWord l 2
  fieldN w0 58 6 != 0 || fieldN w0 41 7 != 0 || fieldN w2 26 22 != 0 || fieldN w2 16 10 != 0 || w2.getLsbD 14 ||
    decide (3 < fieldN w0 0 8) || (fieldN w0 0 8 != 3 && fieldN w2 48 16 != 0) ||
    (List.range 4).any (fun k => fieldN (lineWord l 1) (16 * k + 9) 6 != 0)

/-- The successors of a record. -/
def nodeSucc (l : Line) : List Nat :=
  (List.range 4).filterMap (fun k => if (lineWord l 1).getLsbD (16 * k + 15) then some (fieldN (lineWord l 1) (16 * k) 9) else none)

/-- Whether the body of a record fits its class. DESIGN CHOICE (log 58): a class-0 CORE that is no core of the context's partition does
not fit, of which R206 says nothing. DESIGN CHOICE (log 58): a body of classes 1 to 3 whose opcode is not of its class is appended, and its engine
refuses it; of a class-0 body the bytes that hold no word are reserved, so one that is not zero is refused with status 3. -/
def nodeFits (s : State) (ctx : Nat) (l : Line) : Bool :=
  if fieldN (lineWord l 0) 0 8 = 0 then
    (anvilBody ((List.range 5).map (fun k => lineWord l (k + 3)))).isSome && isCompute (fieldN (lineWord l 0) 48 10) &&
      contextMayRun s ctx (fieldN (lineWord l 0) 48 10)
  else true

/-- The open batch of a context at a unit (R244). -/
def openBatch (c : Cluster) (ctx : BitVec 12) : Option Nat := (c.graph.find? (fun r => r.ctx == ctx && r.state == .open_)).map (·.batch)

/-- A record of v[OA] as the unit holds it, with what it captures of its issuer. -/
def nodeRecord (s : State) (l : Line) (batch id : Nat) : GraphRec :=
  let w0 := lineWord l 0
  let w2 := lineWord l 2
  let cls := fieldN w0 0 8
  let body := (List.range 5).map (fun k => lineWord l (k + 3))
  { ctx := BitVec.ofNat 12 s.myCtx, batch := batch, node := fieldN w0 32 9, cls := cls, pred := fieldN w0 8 8, cost := fieldN w0 16 16,
    succ := nodeSucc l, core := fieldN w0 48 10, rq := w2.getLsbD 15, prio := w2.extractLsb' 12 2, tag := w2.extractLsb' 0 12,
    cmd := { words := body ++ [if cls = 3 then BitVec.ofNat 64 (fieldN w2 48 16) else 0, 0, 0], core := s.curCore,
             ctx := BitVec.ofNat 12 s.myCtx, owner := s.me.owner, seq := id, fmts := fmtsOf s.myCore, books := s.myCore.cbk },
    tmpol := s.me.tmpol, rcb := (s.me.act.map (·.rcb)).getD 0 }

/-- The status of a `GNODE` at a unit. DESIGN CHOICE (log 58): where several hold, the lowest, an order that R206 does not give. -/
def nodeStatus (s : State) (cl : Nat) (l : Line) : Nat :=
  let u := s.cluster cl
  let ctx : BitVec 12 := BitVec.ofNat 12 s.myCtx
  if Config.graphRecords ≤ u.graph.length then 1
  else if u.graph.any (fun r => r.ctx == ctx && r.state == .open_ && r.node == fieldN (lineWord l 0) 32 9) then 2
  else if nodeReserved l || !nodeFits s s.myCtx l then 3
  else 0

/-- GNODE (R206): the record joins the open batch of the issuing context. -/
def execGnode (f : Form) (s : State) : Outcome :=
  run f none .write (fun s => do
    let d := s.me.value f.ob
    checkDesc s d [3] 3 f.ob
    needOrdinary s
    let cl := fieldN d 0 6
    let l := s.me.readV (regOf f.oa)
    let st := nodeStatus s cl l
    let s := lockMine s f .write
    let s :=
      if st = 0 then
        let (id, s) := s.fresh
        let u := s.cluster cl
        let batch := (openBatch u (BitVec.ofNat 12 s.myCtx)).getD u.nextBatch
        let r := nodeRecord s l batch id
        s.modCluster cl (fun u => { u with graph := u.graph ++ [r], nextBatch := max u.nextBatch (batch + 1) })
      else s
    pure (s.modMe (fun t => t.writeG (regOf f.od) (BitVec.ofNat 64 st)))) s

/-! ## GSEAL -/

/-- One round of the ranks of R207: COST plus the largest rank of a successor. -/
def rankRound (rs : List GraphRec) : List GraphRec :=
  let best := fun (r : GraphRec) => (rs.filter (fun x => r.succ.contains x.node)).foldl (fun m x => max m x.rank) 0
  rs.map (fun r => { r with rank := min (2 ^ 24 - 1) (r.cost + best r) })

/-- `n` rounds. -/
def rankRounds : Nat → List GraphRec → List GraphRec
  | 0, rs => rs
  | n + 1, rs => rankRounds n (rankRound rs)

/-- The nodes that remain after sinks have been removed `n` times. -/
def unsunk : Nat → List GraphRec → List GraphRec
  | 0, rs => rs
  | n + 1, rs => unsunk n (rs.filter (fun r => r.succ.any (fun k => rs.any (fun x => x.node == k))))

/-- The core cycle of a cluster. -/
def clusterCycle (s : State) (cl : Nat) : Nat := s.cycle (cl * 16)

/-- Whether the context of a record is resident at the unit, its slice not ended (R245, R248). -/
def graphLive (s : State) (cl : Nat) (ctx : BitVec 12) : Bool := accepting s (cl * 16) ctx

/-- A batch sealed: ranks, and the nodes with no predecessor ready from now on (R207). -/
def sealBatch (s : State) (cl : Nat) (ctx : BitVec 12) (b : Nat) (rs : List GraphRec) (core : Nat) : State :=
  let now := clusterCycle s cl
  let live := graphLive s cl ctx
  let ranked := (rankRounds rs.length rs).map (fun (r : GraphRec) => { r with
    state := .sealed, sealCore := core, readyAt := now, since := if r.pred = 0 && live then some now else none })
  s.modCluster cl (fun u => { u with graph := u.graph.filter (fun (r : GraphRec) => !(r.ctx == ctx && r.batch == b)) ++ ranked })

/-- GSEAL (R207). DESIGN CHOICE (log 58): a batch with an absent successor and a cycle ends with status 1, an order that R207 does not
give. -/
def execGseal (f : Form) (s : State) : Outcome :=
  run f none .write (fun s => do
    let d := s.me.value f.ob
    checkDesc s d [3] 3 f.ob
    needOrdinary s
    let cl := fieldN d 0 6
    let ctx : BitVec 12 := BitVec.ofNat 12 s.myCtx
    let drop := fun (b : Nat) => s.modCluster cl (fun (u : Cluster) => { u with graph := u.graph.filter (fun (r : GraphRec) => !(r.ctx == ctx && r.batch == b)) })
    let (st, s') :=
      match openBatch (s.cluster cl) ctx with
      | none => (3, s)
      | some b =>
        let rs := (s.cluster cl).graph.filter (fun (r : GraphRec) => r.ctx == ctx && r.batch == b)
        if rs.any (fun r => r.succ.any (fun k => !rs.any (fun x => x.node == k))) then (1, drop b)
        else if !(unsunk rs.length rs).isEmpty then (2, drop b)
        else (0, sealBatch s cl ctx b rs s.curCore)
    pure (s'.modMe (fun t => t.writeG (regOf f.od) (BitVec.ofNat 64 st)))) s

/-! ## Dispatch -/

/-- The cycles a record has been ready. -/
def readyFor (s : State) (cl : Nat) (r : GraphRec) : Nat := r.waited + (match r.since with | some c => clusterCycle s cl - c | none => 0)

/-- Whether a record waits for an engine. -/
def GraphRec.isReady (r : GraphRec) : Bool := r.state == .sealed && r.pred == 0 && r.done.isNone

/-- Whether record `a` goes before record `b` (R245): eff, then the earlier ready, then the lower ID. -/
def goesBefore (s : State) (cl : Nat) (a b : GraphRec) : Bool :=
  let wa := readyFor s cl a
  let wb := readyFor s cl b
  let ea := a.rank + 1024 * (wa / 4096)
  let eb := b.rank + 1024 * (wb / 4096)
  decide (eb < ea) || (ea == eb && (decide (a.readyAt < b.readyAt) || (a.readyAt == b.readyAt && decide (a.node < b.node))))

/-- The record that an engine takes. -/
def bestRecord (s : State) (cl : Nat) : List GraphRec → Option GraphRec
  | [] => none
  | r :: rest =>
    match bestRecord s cl rest with
    | some b => if goesBefore s cl b r then some b else some r
    | none => some r

/-- A record of a unit changed. -/
def modRecord (s : State) (cl : Nat) (r : GraphRec) (f : GraphRec → GraphRec) : State :=
  s.modCluster cl (fun u => { u with graph := u.graph.map (fun x =>
    if x.ctx == r.ctx && x.batch == r.batch && x.node == r.node then f x else x) })

/-- A class-0 body as its core's Anvil takes it (R207, R246): with the formats of that core now; none when it traps. DESIGN CHOICE
(log 58): under the `TMPOL` and the owner of the `GNODE`'s issuer, of which R207 says nothing. -/
def anvilRecord (s : State) (cl id : Nat) (r : GraphRec) : Option AnvilCmd :=
  let sc := { s with curCore := r.core, curTs := 0 }
  (anvilBody (r.cmd.words.take 5)).bind (fun b =>
    let f := b.2
    let sparse := b.1 == .mmas
    let q := yBlocks sparse (sparse && f.md.getLsbD 2)
    let c : Except Stop AnvilCmd := do
      let tile ← tileOf sc f
      if b.1 = .cclr then pure (captureAnvil sc .cclr id tile {} {} 0)
      else
        let x ← blockOf sc 2 f.oa 1 2048 (if sparse then 2 else 1) false
        let y ← blockOf sc 3 f.ob 0 4096 q false
        checkEngine sc r.tmpol sparse (f.md.getLsbD 0) y q
        pure (captureAnvil sc b.1 id tile x y f.md)
    match c with
    | .ok c => some { c with tmpol := r.tmpol, owner := r.cmd.owner, ctx := r.ctx, rcb := r.rcb, ts := 0, act := none,
                             graph := some (cl, r.batch, r.node) }
    | .error _ => none)

/-- The core whose place a stream record takes: its issuer if that is of the cluster, else the cluster's first (log 18). -/
def recordCore (cl : Nat) (r : GraphRec) : Nat := if isCompute r.cmd.core && clusterOf r.cmd.core == cl then r.cmd.core else cl * 16

/-- The lease slot of a context's partition by its number among those of both dies (R245, R313): 16 to a die. -/
def graphLease (s : State) (cls slot : Nat) (ctx : BitVec 12) : Nat := leaseKey (slot / 16) (s.partitionOf ctx.toNat) (cls - 1) (slot % 16)

/-- A record handed to its engine, which can accept it. RQ of the header of its body asks for the command's own completion too (R243,
log 34). -/
def dispatchTo (s : State) (cl cls core : Nat) (r : GraphRec) : State :=
  let (id, s) := s.fresh
  let s := modRecord s cl r (fun x => { x with state := .dispatched, since := none, waited := 0 })
  let g := some (cl, r.batch, r.node)
  let head := r.cmd.word 0
  match cls with
  | 0 =>
    match anvilRecord s cl id r with
    | some c => s.modCore core (fun k => { k with anvil := k.anvil ++ [c] })
    | none => modRecord s cl r (fun x => { x with done := some (6, 0, 0, 0) })
  | 1 =>
    let m : StreamCmd :=
      { id := id, core := recordCore cl r, ctx := r.ctx, owner := r.cmd.owner, words := head :: r.cmd.words.tail ++ [0], fmts := r.cmd.fmts,
        books := r.cmd.books, msg := some head, route := head, rq := r.cmd.rq, graph := g }
    s.modCluster cl (fun u => { u with stream := u.stream ++ [m] })
  | _ =>
    s.modLease (graphLease s cls core r.ctx) (fun l => { cmds := l.cmds ++ [{ cmd := r.cmd, id := id, graph := g }] })

/-- Whether the engine of a dispatch can accept work of a context: the Anvil queue of a core, the stream queue, or a lease slot. -/
def engineAccepts (s : State) (cl cls core : Nat) (ctx : BitVec 12) : Bool :=
  match cls with
  | 0 => decide ((s.core core).anvil.length < Config.anvilEntries) && (s.core core).ctx == some ctx
  | 1 => streamRoom s cl
  | 2 | 3 =>
    decide (core < 32) && decide (core % 16 < quotaOf s (core / 16) (s.partitionOf ctx.toNat) (cls - 1)) &&
      decide ((s.lease (graphLease s cls core ctx)).cmds.length < Config.poolEntries)
  | _ => false

/-- GRAPH_DISPATCH (R245): the best ready record of the resident context for an engine of a class: the Anvil queue of `core` for
class 0, a lease slot of either die for classes 2 and 3. -/
def execGraphDispatch (cluster cls core : Nat) (s : State) : Outcome :=
  let ready := (s.cluster cluster).graph.filter (fun r => r.isReady && r.cls == cls && graphLive s cluster r.ctx &&
    (cls != 0 || r.core == core))
  match bestRecord s cluster ready with
  | some r => if engineAccepts s cluster cls core r.ctx then .next (dispatchTo s cluster cls core r) else .next s
  | none => .next s

/-! ## Completion -/

/-- The nodes reached from some nodes of a batch through successor links, in `n` rounds. -/
def reachedFrom (rs : List GraphRec) : Nat → List Nat → List Nat
  | 0, ks => ks
  | n + 1, ks => reachedFrom rs n ((rs.filter (fun r => ks.contains r.node)).foldl (fun l r => r.succ.foldl (fun l k => insertUniq k l) l) ks)

/-- What the end of a record does to the others of its batch (R246, R247). -/
def settleBatch (s : State) (cl : Nat) (r : GraphRec) (status : Nat) : State :=
  let rs := (s.cluster cl).graph.filter (fun x => x.ctx == r.ctx && x.batch == r.batch)
  let gone := if status = 0 then [] else reachedFrom rs rs.length r.succ
  let now := clusterCycle s cl
  let live := graphLive s cl r.ctx
  let upd := fun (x : GraphRec) =>
    if x.ctx == r.ctx && x.batch == r.batch then
      let x := if r.state == .dispatched && r.succ.contains x.node then
          { x with pred := x.pred - 1, since := if x.pred = 1 && live then some now else x.since,
                   readyAt := if x.pred = 1 then now else x.readyAt } else x
      if gone.contains x.node && x.state == .sealed && x.done.isNone then { x with done := some (8, 0, 0, 0) } else x
    else x
  s.modCluster cl (fun u => { u with graph := (u.graph.filter (fun x => !(x.ctx == r.ctx && x.batch == r.batch && x.node == r.node))).map upd })

/-- The completion message of a record (R205, R246), which waits at its unit for a reply slot (R212). For an Anvil body no rule gives the
opcode, the count and word 1 (log 4); a cancelled one moved nothing (R243). -/
def recordCompletion (s : State) (r : GraphRec) (result : Nat × Nat × Nat × Nat) : State :=
  let route : Word := r.tag.setWidth 64 ||| r.prio.setWidth 64 <<< 12
  let (st, n, sat, unf) := result
  if r.cls = 0 then
    let (a, s) := s.freeWord
    let (b, s) := s.freeWord
    completionDue s r.sealCore r.ctx route (completionWords st (a.toNat % 256) (if st = 8 then 0 else a.toNat / 256) b sat unf)
  else completionDue s r.sealCore r.ctx route (completionWords st r.cmd.opcode n (r.cmd.word 0 >>> 32) sat unf)

/-- GRAPH_RECORD_COMPLETE (R246, R247): the `k`-th record of a unit, whose work has ended or which was cancelled, leaves it, and its
successors and those it cancels are settled; with RQ its message is then sent. -/
def execGraphRecordComplete (cluster k : Nat) (s : State) : Outcome :=
  match (s.cluster cluster).graph[k]? with
  | none => .next s
  | some r =>
    match r.done with
    | none => .next s
    | some result =>
      let s := settleBatch s cluster r result.1
      .next (if r.rq then recordCompletion s r result else s)

end Sys2Proof.Machine
end

