-- ==== Sys2Proof/Machine/Search.lean ====
section
/-! DEFINITION. Class 11, MJ 0011: search (R178 to R183), with search theft and its prune notices (R271 to R276, R287, R288). -/

namespace Sys2Proof.Machine

/-! ## Choice points -/

/-- A choice point is 384 bytes (R178). -/
def cpBytes : Nat := 384
/-- A 64-bit field of a choice point of a thread set, in its core's scratchpad as it has written it (Table 9.6). -/
def cpWord (s : State) (core ts cp off : Nat) : Nat := ownRead s core ts (cp + off) 8
/-- NEXT. -/
def cpNext (s : State) (core ts cp : Nat) : Nat := ownRead s core ts (cp + 0x158) 4
/-- COUNT. -/
def cpCount (s : State) (core ts cp : Nat) : Nat := ownRead s core ts (cp + 0x15C) 4
/-- The trail top at the push. -/
def cpTrail (s : State) (core ts cp : Nat) : Nat := ownRead s core ts (cp + 0x160) 3 % 2 ^ 18
/-- RESUME: a fetch address of 57 bits (R33). -/
def resumeAt (s : State) (core ts cp : Nat) : Word := BitVec.ofNat 64 (cpWord s core ts cp 0x168 % 2 ^ 57)
/-- The index of OD. -/
def cpOd (s : State) (core ts cp : Nat) : Nat := ownRead s core ts (cp + 0x163) 1 % 32

/-- The 384 bytes of a new choice point (Table 9.6): the snapshot of g1 to g31 of bank 0, p1 to p7 and c0 to c7, then its fields. -/
def choicePoint (t : TSet) (core ts od : Nat) (table : Word) (count : Nat) (resume : Word) : List Byte :=
  let word := fun (w : Word) => bytesOf 8 w.toNat
  (List.range 31).flatMap (fun k => word (t.gRaw (k + 1))) ++ (List.range 7).flatMap (fun k => word (t.readP (k + 1))) ++
    (List.range 8).flatMap (fun k => bytesOf 4 (t.readC k).toNat) ++
    bytesOf 8 table.toNat ++ bytesOf 8 (1 + count * 2 ^ 32) ++ bytesOf 8 (t.trtop.toNat + od * 2 ^ 24) ++ bytesOf 8 resume.toNat ++
    bytesOf 8 0 ++ bytesOf 8 (core % 1024 * 2 ^ 22 + ts * 2 ^ 20 + (t.pushCount + 1).toNat)

/-- Bytes from an address on, each with its own. -/
def bytesFrom (addr : Nat) (bs : List Byte) : List (Nat × Byte) := (List.range bs.length).zip bs |>.map (fun p => (addr + p.1, p.2))
/-- Bytes that a stream engine puts into a scratchpad. -/
def putBytes (s : State) (core addr : Nat) (bs : List Byte) : State :=
  foreignLanded (s.scratchLand core (bytesFrom addr bs)) core ((bytesFrom addr bs).map (·.1 / 64))

/-- g1 to g31 of bank 0, p1 to p7 and c0 to c7 from a choice point (R181); error marks of those registers go. -/
def restoreFrom (s : State) (core ts cp : Nat) (t : TSet) : TSet :=
  let t := (List.range 31).foldl (fun (t : TSet) k => t.writeGRaw (k + 1) (BitVec.ofNat 64 (cpWord s core ts cp (8 * k)))) t
  let t := (List.range 7).foldl (fun (t : TSet) k => t.writeP (k + 1) (BitVec.ofNat 64 (cpWord s core ts cp (0xF8 + 8 * k)))) t
  (List.range 8).foldl (fun (t : TSet) k => t.writeC k (BitVec.ofNat 25 (ownRead s core ts (cp + 0x130 + 4 * k) 4))) t

/-- Traps `ILLEGAL_OP` above trap level 0 (R178). -/
def needLevel0 (s : State) (i : Instr) : Except Stop Unit :=
  if s.me.tlvl = 0 then .ok () else .error (.trap 0x01 (highWord i))

/-- Whether a theft from the thread set under execution is still being copied (R273). -/
def beingCopied (s : State) : Bool := s.thefts.any (fun x => x.victim == s.curCore && x.victimTs == s.curTs && !x.copied)

/-! ## The end of a search (R182) -/

/-- The search-exhausted notice of a thread set, or its discard, counted. -/
def exhaustedNotice (s : State) (core ts st : Nat) : State :=
  let t := s.tset core ts
  match t.act with
  | none => s
  | some a =>
    let w := t.srchdone
    if !w.getLsbD 31 then s
    else
      let to_ := fieldN w 16 10
      if !contextMayRun s a.msg.ctx.toNat to_ then raiseCounter s a.msg.ctx.toNat a.rcb 0xF8 1 a.launch
      else
        let (q, s) := nextSeq s core
        let m : Msg :=
          { tag := routeTag w, prio := routePrio w, len := 3, kind := 0, ctx := a.msg.ctx, score := BitVec.ofNat 11 core, seq := q,
            words := [BitVec.ofNat 64 st, a.rootId.getD 0, a.msg.id] }
        s.modTset core ts (fun t => { t with sendBuf := t.sendBuf ++ [.send (.core to_) m] })

/-- `end_search(s)`: the activation ends as at `END`, the notice first among what it releases last (R182). -/
def endSearch (s : State) (core ts st : Nat) : State :=
  endActivation (exhaustedNotice s core ts st) core ts (if st = 0 then 3 else 4) none

/-! ## FAIL -/

/-- What `FAIL` comes to: the choice point that has an alternative left, if any, the trail top it undoes down to, and `CSTOP`
after the exhausted ones are popped. `n` choice points stand on the stack. -/
def failTarget (s : State) (core ts : Nat) : Nat → Nat → Nat → Option Nat × Nat × Nat
  | 0, cstop, top => (none, top, cstop)
  | n + 1, cstop, top =>
    let cp := cstop - cpBytes
    let top := min top (cpTrail s core ts cp)
    if cpNext s core ts cp < cpCount s core ts cp then (some cp, top, cstop) else failTarget s core ts n cp top

/-- A write that `FAIL` undoes. -/
inductive Undo where
  | scratch (addr size old : Nat)
  | global (va : Word) (old : Nat)
  deriving DecidableEq, Repr

/-- The undo of `n` trail entries below a top, newest first, as `read` gives the bytes of the trail; `v` is a global value whose address
comes next (R181). -/
def undoList (read : Nat → Nat → Nat) : Nat → Nat → Option Nat → List Undo
  | 0, _, _ => []
  | n + 1, top, v =>
    let e := read (top - 16) 16
    let old := e / 2 ^ 64
    match v with
    | some x => .global (BitVec.ofNat 64 old) x :: undoList read n (top - 16) none
    | none =>
      let sz := e / 2 ^ 24 % 8
      if sz ≤ 3 then .scratch (e % 2 ^ 18) (2 ^ sz) old :: undoList read n (top - 16) none
      else undoList read n (top - 16) (if sz = 7 then some old else none)

/-- The writes that `FAIL` makes to undo, with the checks of the global ones (R181): each is an ordinary store. -/
def checkUndo (s : State) : List Undo → Except Stop (List QWrite)
  | [] => .ok []
  | .scratch a n o :: rest => (checkUndo s rest).map (fun l => .scratch s.curCore (bytesFrom a (bytesOf n o)) false none :: l)
  | .global va o :: rest => do
    let x ← checkAccess s va 8 8 rightW
    let l ← checkUndo s rest
    pure (.global va x ((List.range 8).zip (bytesOf 8 o)) :: l)

/-- A write of a speculative activation held in its Crucible lines (R277). -/
def holdOne (s : State) (w : QWrite) : Except Stop State :=
  match w with
  | .scratch _ bs _ _ => holdScratch s bs
  | .global va x bs => holdBytes s (s.mySpec.getD (0, 0, 0)) false (ptrAddr va / 64) va x (bs.map (fun b => (ptrAddr va % 64 + b.1, b.2)))

/-- The writes of a `FAIL` made in order: they enter the store queue, which must have room when the first does (R60, log 66), or are held
(R277). -/
def failWrites (s : State) (ws : List QWrite) : Except Stop State :=
  if ws.isEmpty then .ok s
  else if s.mySpec.isSome then (match ws.foldlM holdOne s with | .ok s' => .ok s' | .error _ => .error (.stall s))
  else if Config.storeEntries ≤ s.me.storeq.length then .error (.stall s)
  else .ok (queueWrites s s.curCore s.curTs ws)

/-- Whether a queued write of a thread set is still to land in a range of its core's scratchpad (R60). -/
def queuedIn (t : TSet) (core from_ to_ : Nat) : Bool :=
  t.storeq.any (fun q => match q.w with
    | .scratch c bs _ _ => c == core && bs.any (fun b => decide (from_ / 64 ≤ b.1 / 64) && decide (b.1 < to_))
    | _ => false)

/-- Whether an undo has to wait: for the thread set's queued stores, and for earlier accesses that a store may not pass (R60,
R250). -/
def undoWaits (t : TSet) : Bool :=
  !t.storeq.isEmpty || t.pend.any (fun p => p.holdsStores || (match p.kind with | .atomic _ _ _ _ _ _ _ none => true | _ => false))

/-- Whether a register of the snapshot is empty or locked (R181). -/
def snapshotBusy (t : TSet) : Bool := (List.range 31).any (fun k => t.isEmpty false (k + 1) || t.isLocked false (k + 1))

/-- The next alternative of a choice point, after its writes: the registers restored, the entry on its way, the pc at RESUME. -/
def takeAlternative (s : State) (cp cstop top : Nat) (ea : Word) (x : Xlat) : State :=
  let core := s.curCore
  let s := s.modMe (fun t => { restoreFrom s core s.curTs cp t with cstop := BitVec.ofNat 18 cstop, trtop := BitVec.ofNat 18 top })
  let s := pendG (s.used ea 8 rightR false) (cpOd s core s.curTs cp) true ea (.load ea x 8 false (forwardedTo s (ptrAddr ea) 8))
  let resume : Word := resumeAt s core s.curTs cp
  s.modMe (fun t => { t with pc := resume })

/-- A `FAIL` of this cycle has read NEXT (R287). -/
def failed (s : State) : State := s.modMe (fun t => { t with failedAt := some (s.cycle s.curCore) })

/-- A check of `FAIL` that traps: NEXT has been read (R287). -/
def failCheck {α : Type} (s : State) (r : Except Stop α) : Except Stop α :=
  match r with
  | .error (.trap cause tval) => .error (.took (failed (trapNow cause tval s)))
  | r => r

/-- The effect of `FAIL` (R181) for an instruction `i`. It reads its choice points once their queued writes have landed (R60). -/
def failBody (i : Instr) (s : State) : Except Stop State := do
  needLevel0 s i
  let core := s.curCore
  let base := (s.me.act.map (·.choiceBase)).getD 0
  if snapshotBusy s.me || queuedIn s.me core base s.me.cstop.toNat then .error (.stall s)
  let (target, top, cstop) := failTarget s core s.curTs ((s.me.cstop.toNat - base) / cpBytes) s.me.cstop.toNat s.me.trtop.toNat
  let n := (s.me.trtop.toNat - top) / 16
  if n ≠ 0 && (undoWaits s.me || beingCopied s) then .error (.stall s)
  let us ← failCheck s (checkUndo s (undoList (seenRead s core) n s.me.trtop.toNat none))
  match target with
  | some cp =>
    let next := cpNext s core s.curTs cp
    let ea : Word := BitVec.ofNat 64 (cpWord s core s.curTs cp 0x150) + BitVec.ofNat 64 (8 * next)
    let x ← failCheck s (checkAccess s ea 8 8 rightR)
    needCredit s
    let s ← failWrites s (us ++ [.scratch core (bytesFrom (cp + 0x158) (bytesOf 4 (next + 1))) false none])
    pure (failed (takeAlternative s cp cstop top ea x))
  | none =>
    let s ← failWrites s us
    pure (endSearch ((failed s).modMe (fun t => { t with cstop := BitVec.ofNat 18 cstop, trtop := BitVec.ofNat 18 top })) core s.curTs 0)

/-- FAIL (R181). -/
def execFail (f : Form) (s : State) : Outcome := run f none .none (failBody (.fail f)) s

/-! ## TRYE -/

/-- The snapshot as sources of `TRYE`: it waits until they are full (R178), and their parity must hold (R354). -/
def snapshotSrcs : List Src :=
  ((List.range 31).map (· + 1) ++ (List.range 7).map (fun k => predNum (k + 1)) ++ (List.range 8).map cursorNum).map
    (fun k => ⟨1, 0, false, k, false⟩)

/-- TRYE (R178): a choice point pushed, entry 0 on its way; a count of 0 acts as `FAIL`. -/
def execTrye (f : Form) (s : State) : Outcome :=
  let count := (s.me.value f.ob).toNat
  let pushes := decide (count ≠ 0) && decide (count ≤ 65535) && decide (s.me.tlvl = 0)
  let body := fun (s : State) => do
    if 65535 < count then badOperand 3 f.ob
    if count = 0 then failBody (.trye f) s
    else
      needLevel0 s (.trye f)
      let ea := s.me.value f.oa
      let x ← checkAccess s ea 8 8 rightR
      let t := s.me
      let at_ := t.cstop.toNat
      if (t.act.map (·.choiceEnd)).getD 0 < at_ + cpBytes then .error (.trap 0x21 (t.cstop.setWidth 64))
      needCredit s
      let s ← queueLocal s (bytesFrom at_ (choicePoint t s.curCore s.curTs (regOf f.od) ea count s.me.pc))
      let s := s.modMe (fun t => { t with cstop := BitVec.ofNat 18 (at_ + cpBytes), pushCount := t.pushCount + 1 })
      pure (pendG (s.used ea 8 rightR false) (regOf f.od) true ea (.load ea x 8 false (forwardedTo s (ptrAddr ea) 8)))
  if pushes then runExtra f .write { srcs := snapshotSrcs } body s
  else run f none (if count = 0 then .none else .write) body s

/-! ## CUT and TRAIL -/

/-- CUT (R183): the n oldest choice points are kept; a theft of one that would go is waited for (R273). -/
def execCut (f : Form) (s : State) : Outcome :=
  run f none .none (fun s => do
    needLevel0 s (.cut f)
    let base := (s.me.act.map (·.choiceBase)).getD 0
    let keep := base + cpBytes * (s.me.value f.oa).toNat
    let gone := (choicePoints s.me).filter (fun cp => decide (keep ≤ cp))
    if s.thefts.any (fun x => x.victim == s.curCore && x.victimTs == s.curTs && !x.sent && gone.contains x.cp) then .error (.stall s)
    let s := pruneFor s s.curCore s.curTs gone
    pure (s.modMe (fun t => { t with cstop := BitVec.ofNat 18 (min t.cstop.toNat keep) }))) s

/-- TRAIL (R180): the old value of a global word pushed as two entries. -/
def execTrail (f : Form) (s : State) : Outcome :=
  run f none .none (fun s => do
    needLevel0 s (.trail f)
    let ea := s.me.value f.oa
    needOrdinary s
    let x ← checkedOnce s (checkAccess s ea 8 8 (rightR ||| rightW))
    if !s.me.choiceOpen then pure s
    else
      if (s.me.act.map (·.trailEnd)).getD 0 < s.me.trtop.toNat + 32 then .error (.trap 0x20 (s.me.trtop.setWidth 64))
      if beingCopied s || loadBlocked s.me { seq := s.uid, kind := .load ea x 8 false [] } then .error (.stall s)
      let va := ptrAddr ea
      if !lineHere s (cacheOf s.curCore) s.asker va x then waitPeer (askLine s (cacheOf s.curCore) s.asker va x s.me.owner) x
      let fwd := forwarded s.me va 8
      let (l, bad, s) := loadFor (s.used ea 8 (rightR ||| rightW) false) s.curCore s.asker va x true
      let s := answersTaken s s.asker
      if (bytesAt va 8).any (fun k => bad.getLsbD k && !fwd.any (fun b => va % 64 + b.1 == k)) then
        .error (.took (trapNow 0x14 ea s))
      let old := natOfBytes ((List.range 8).map (fun k => ((fwd.find? (fun b => b.1 == k)).map (·.2)).getD (lineByte l (va % 64 + k))))
      queueTrail s [trailEntry 6 0 ea.toNat, trailEntry 7 0 old]) s

/-! ## Theft: the request (R272) -/

/-- SEARCH_THEFT_REQUEST (R272): a core with a possible thief, its lowest-numbered, lists the cores of its cluster in the order of
R227, lf as it stands, to ask them one at a time. -/
def execSearchTheftRequest (core : Nat) (s : State) : Outcome :=
  let c := s.core core
  match freeTset s core with
  | some ts =>
    if isCompute core && coreSelects s core && !c.inbox.any (fun x => x.state == .eligible) && (bottomUnheld s core).isNone &&
        c.asking.isEmpty && decide (c.nextTheft ≤ s.cycle core) then
      let vs := askOrder core (clusterOf core) (c.lf.toNat % 16)
      .next (s.modCore core (fun c => { c with asking := vs, askFor := ts,
                                               nextTheft := if vs.isEmpty then s.cycle core + 1024 else c.nextTheft }))
    else .next s
  | none => .next s

/-! ## Theft: the grant (R272, R273, R287) -/

/-- The oldest choice point of a thread set with an alternative left. -/
def oldestOpen (s : State) (core ts : Nat) : Option Nat :=
  (choicePoints (s.tset core ts)).find? (fun cp => decide (cpNext s core ts cp < cpCount s core ts cp))

/-- The thread set and choice point from which a victim grants a theft to a thief's core. -/
def grantable (s : State) (thief victim : Nat) : Option (Nat × Nat) :=
  let rcb := regionRcb s thief
  (List.range 4).findSome? (fun ts =>
    let t := s.tset victim ts
    match t.act with
    | some a =>
      if t.stealpol == 1 && a.rcb == rcb && (s.core thief).ctx == some a.msg.ctx && !atBudget s a.msg.ctx.toNat a.rcb a.launch &&
          !s.thefts.any (fun x => x.victim == victim && x.victimTs == ts && !x.copied) then
        (oldestOpen s victim ts).map (fun cp => (ts, cp))
      else none
    | none => none)

/-- The frame of a victim as it stood when a choice point was pushed (R273): its trail entries newer than the push are applied to
the copy, newest first. -/
def rewoundFrame (s : State) (core ts cp : Nat) : List Byte :=
  let t := s.tset core ts
  let base := t.sfbase.toNat
  let now := (List.range t.sflen.toNat).map (fun k => s.queuedByte t.storeq core (base + k))
  let top := t.trtop.toNat
  let undo := undoList (s.queuedRead t.storeq core) ((top - cpTrail s core ts cp) / 16) top none
  undo.foldl (fun (bs : List Byte) u => match u with
    | .scratch a n o => ((List.range n).zip (bytesOf n o)).foldl (fun (bs : List Byte) b =>
        if base ≤ a + b.1 then bs.set (a + b.1 - base) b.2 else bs) bs
    | .global _ _ => bs) now

/-- A number that a grant writes to a choice point of a victim: into the line that the victim holds, or at the bank (R273, R277). -/
def stealWrite (s : State) (core ts addr n x : Nat) : State :=
  let bs := bytesFrom addr (bytesOf n x)
  match (s.tset core ts).act.bind (·.spec) with
  | none => s.scratchLand core bs
  | some sp => modSide s sp (fun y => { y with held := y.held.map (fun h =>
      if h.scratch && h.at_ == addr / 64 then { h with bytes := h.bytes ++ bs.map (fun b => (b.1 % 64, b.2)) } else h) })

/-- The grant of a choice point of a victim thread set to the thief's thread set (R273). -/
def grantTheft (s : State) (thief victim vts cp : Nat) : State :=
  let tts := (s.core thief).askFor
  let t := s.tset victim vts
  let i := cpNext s victim vts cp
  let (id, s) := s.fresh
  let s := stealWrite s victim vts (cp + 0x158) 4 (i + 1)
  let s := stealWrite s victim vts (cp + 0x170) 8 (2 ^ 63 + thief % 1024 * 2 ^ 32 + tts * 2 ^ 28)
  let x : Theft :=
    { id := id, thief := thief, thiefTs := tts, victim := victim, victimTs := vts, cp := cp,
      cpId := BitVec.ofNat 64 (ownRead s victim vts (cp + 0x178) 4), index := i, sfbase := t.sfbase, sflen := t.sflen,
      srchdone := t.srchdone, stealpol := t.stealpol, owner := t.owner, prio := (t.act.map (·.msg.prio)).getD 0,
      ctx := (t.act.map (·.msg.ctx)).getD 0, rcb := (t.act.map (·.rcb)).getD 0, cpBytes := (List.range cpBytes).map (fun k => seenByteOf s victim vts victim (cp + k)),
      frame := rewoundFrame s victim vts cp }
  let s := { s with thefts := s.thefts ++ [x] }
  countAt ((s.modTset thief tts (fun t => { t with theftGrant := some id })).modCore thief (fun c => { c with asking := [] })) victim 0x7001 1

/-- Whether a thread set of a core has issued a `FAIL` in this cycle, before which a grant of the cycle would have come (R287). -/
def failedNow (s : State) (core : Nat) : Bool := (List.range 4).any (fun ts => (s.tset core ts).failedAt == some (s.cycle core))

/-- THEFT_GRANT (R272, R273, R287): the request reaches the next core it asks, which grants or refuses. A grant and a `FAIL` of one
cycle are taken grant first, so after the `FAIL` it waits for a later cycle; it reads NEXT once the victim's writes of the choice point
have landed. -/
def execTheftGrant (thief victim : Nat) (s : State) : Outcome :=
  match (s.core thief).asking with
  | [] => .next s
  | v :: rest =>
    if v ≠ victim || failedNow s victim then .next s
    else if freeTset s thief ≠ some (s.core thief).askFor then
      .next (s.modCore thief (fun c => { c with asking := [], nextTheft := s.cycle thief }))
    else
      match grantable s thief victim with
      | some (ts, cp) =>
        if queuedIn (s.tset victim ts) victim cp (cp + cpBytes) then .next s else .next (grantTheft s thief victim ts cp)
      | none => .next (s.modCore thief (fun c => { c with
          asking := rest, nextTheft := if rest.isEmpty then s.cycle thief + 1024 else c.nextTheft }))

/-! ## Theft: the copy, the message and the start (R273, R274) -/

/-- The root record of a thief (R274): ROOT with the victim, NEXT and COUNT both i + 1. -/
def rootRecord (x : Theft) : List Byte :=
  x.cpBytes.take 0x158 ++ bytesOf 4 (x.index + 1) ++ bytesOf 4 (x.index + 1) ++ (x.cpBytes.drop 0x160).take 16 ++
    bytesOf 8 (2 ^ 62 + x.victim % 1024 * 2 ^ 32 + x.victimTs * 2 ^ 28) ++ x.cpBytes.drop 0x178

/-- The CBASE of a thief's thread set, under its victim's region. -/
def thiefBase (s : State) (x : Theft) : Nat := (allotments (regionAt s x.ctx.toNat x.rcb) x.thiefTs).1

/-- A theft changed, by its identity. -/
def modTheft (s : State) (id : Nat) (f : Theft → Theft) : State := { s with thefts := s.thefts.map (fun x => if x.id == id then f x else x) }

/-- The message of a theft takes a slot of the thief's inbox, ELIGIBLE with no test (R273). -/
def sendTheft (s : State) (x : Theft) : State :=
  let (q, s) := nextSeq s x.thief
  let m : Msg :=
    { prio := x.prio, len := 2, kind := 5, ctx := x.ctx, score := BitVec.ofNat 11 x.thief, seq := q, stamp := BitVec.ofNat 64 s.now,
      words := [x.cpId, BitVec.ofNat 64 x.index], rcb := some x.rcb }
  let slot : Slot := { state := .eligible, msg := m, since := s.cycle x.thief, theft := some x.id, arrival := s.now }
  modTheft (s.modCore x.thief (fun c => { c with inbox := c.inbox ++ [slot] })) x.id (fun y => { y with sent := true })

/-- THEFT_COPY_COMPLETE (R239, R273): the `k`-th theft's copy, once a stream engine of the cluster has freed and taken it, lands at the
thief, and its message enters the inbox once a slot is free. -/
def execTheftCopyComplete (k : Nat) (s : State) : Outcome :=
  match s.thefts[k]? with
  | none => .next s
  | some x =>
    if !x.copying then .next (if enginesTaken s (clusterOf x.victim) < 2 then modTheft s x.id (fun y => { y with copying := true }) else s)
    else
    let s := if x.copied || (s.core x.thief).ctx != some x.ctx then s
      else modTheft (putBytes (putBytes s x.thief (thiefBase s x) (rootRecord x)) x.thief x.sfbase.toNat x.frame) x.id
        (fun y => { y with copied := true })
    if !x.sent && (s.core x.thief).ctx == some x.ctx && requestFree s x.thief then .next (sendTheft s x) else .next s

/-- The read of the alternative by a thief that starts (R274): its cause when a check of R138 fails. -/
def thiefRead (s : State) (owner : BitVec 20) (ea : Word) : Except Nat Xlat :=
  if ea.toNat % 8 ≠ 0 then .error 0x05
  else
    match tableDecision s owner (ptrGen ea) (ptrAddr ea) 8 rightR false with
    | some c => .error c
    | none => match xlatOf s (ptrAddr ea) with | some x => .ok x | none => .error 0x10

/-- A thief starts from its root record (R274). -/
def startThief (s : State) (core k ts : Nat) (x : Theft) (slot : Slot) : State :=
  let y := { slot with state := .running ts, age := slotAge s core slot }
  let s := s.modCore core (fun c => { c with inbox := modAt (fun _ => y) c.inbox k })
  let cb := thiefBase s x
  let resume : Word := resumeAt s core ts cb
  let s := startActivation s core ts slot.msg .theft resume slot.arrival
  let s := s.modTset core ts (fun t =>
    { restoreFrom s core ts cb t with
      pc := resume, owner := x.owner, sfbase := x.sfbase, sflen := x.sflen, srchdone := x.srchdone, stealpol := x.stealpol,
      cstop := BitVec.ofNat 18 (cb + cpBytes), theftGrant := some x.id,
      act := t.act.map (fun a => { a with choiceBase := cb + cpBytes, stolen := some (x.victim, x.victimTs, x.cpId), rootId := some x.cpId }) })
  let ea : Word := BitVec.ofNat 64 (cpWord s core ts cb 0x150) + BitVec.ofNat 64 (8 * x.index)
  let here := { s with curCore := core, curTs := ts }
  let back := fun (r : State) => { r with curCore := s.curCore, curTs := s.curTs }
  match thiefRead s x.owner ea with
  | .ok xl => back (pendG here (cpOd s core ts cb) true ea (.load ea xl 8 false []))
  | .error cause => back (takeTrap cause ea resume here)

/-- THEFT_START (R273, R274): the theft message that selection finds starts on the thief's thread set. -/
def execTheftStart (core : Nat) (s : State) : Outcome :=
  match coreSelects s core, selected s core with
  | true, some (.slot k ts) =>
    match (s.core core).inbox[k]? with
    | some slot =>
      match slot.theft.bind (fun n => s.thefts.find? (fun x => x.id == n)) with
      | some x => .next (startThief s core k ts x slot)
      | none => .next s
    | none => .next s
  | _, _ => .next s

/-! ## Prune notices (R276) -/

/-- The search-exhausted notice of a theft message that is pruned before it starts. -/
def prunedNotice (s : State) (x : Theft) (m : Msg) : State :=
  let w := x.srchdone
  let to_ := fieldN w 16 10
  if !w.getLsbD 31 then s
  else if !contextMayRun s x.ctx.toNat to_ then raiseCounter s x.ctx.toNat x.rcb 0xF8 1
  else postUnit s to_ 0 (routeTag w) (routePrio w) x.ctx.toNat [1, x.cpId, m.id]

/-- A theft message removed from its inbox, with its notice. -/
def pruneMessage (s : State) (core k : Nat) (x : Theft) (m : Msg) : State :=
  let s := s.modCore core (fun c => { c with inbox := dropAt c.inbox k })
  settleTheft (prunedNotice (admitReturned s core) x m) core x.thiefTs

/-- The waiting theft messages of an ID at a core removed, in its inbox and in the saved images of its contexts (R276). -/
def pruneWaiting (s : State) (core : Nat) (id : Word) : Nat → State
  | 0 =>
    let of := fun (y : Slot) => (y.theft.bind (fun n => s.thefts.find? (fun x => x.id == n))).filter (fun x => x.cpId == id)
    let saved := s.contexts.flatMap (fun c => match c.2 with
      | some k => (mget {} k.saved core).slots.filterMap (fun y => (of y).map (fun x => (c.1, x, y)))
      | none => [])
    saved.foldl (fun s w =>
      let s := modImage s w.1 core (fun i => { i with slots := i.slots.filter (fun y => y.theft != w.2.2.theft) })
      let s := prunedNotice s w.2.1 w.2.2.msg
      { s with thefts := s.thefts.filter (fun x => x.id != w.2.1.id) }) s
  | n + 1 =>
    let waiting := (s.core core).inbox.zipIdx.findSome? (fun p =>
      match p.1.state, p.1.theft.bind (fun n => s.thefts.find? (fun x => x.id == n)) with
      | .eligible, some x => if x.cpId == id then some (p.2, x, p.1.msg) else none
      | _, _ => none)
    match waiting with
    | some (k, x, m) => pruneWaiting (pruneMessage s core k x m) core id n
    | none => pruneWaiting s core id 0

/-- The prune of an ID at one core: none while the thief it means must be waited for. -/
def pruneAt (s : State) (core : Nat) (id : Word) : Option State :=
  if s.thefts.any (fun x => x.thief == core && x.cpId == id && !x.sent) then none
  else
    let mine := (List.range 4).filter (fun ts => (s.tset core ts).act.any (fun a => a.rootId == some id))
    if mine.any (fun ts => (s.tset core ts).tlvl != 0) then none
    else
      let s := mine.foldl (fun s ts => endSearch (pruneFor s core ts (choicePoints (s.tset core ts))) core ts 1) s
      some (pruneWaiting s core id (s.core core).inbox.length)

/-- PRUNE_NOTICE (R276): the `k`-th prune notice of a cluster reaches one of its cores; it acts at an instruction boundary at trap
level 0. -/
def execPruneNotice (cluster k core : Nat) (s : State) : Outcome :=
  match (s.cluster cluster).prunes[k]? with
  | none => .next s
  | some (id, cores) =>
    if !cores.contains core then .next s
    else
      match pruneAt s core id with
      | none => .next s
      | some s =>
        .next (s.modCluster cluster (fun u => { u with prunes := u.prunes.zipIdx.filterMap (fun p =>
          if p.2 = k then (let rest := p.1.2.filter (fun c => c != core)
            if rest.isEmpty then none else some (p.1.1, rest)) else some p.1) }))

end Sys2Proof.Machine
end

