-- ==== Sys2Proof/Machine/Spec.lean ====
section
/-! DEFINITION. Class 11, MJ 0100: `SPEC` and `RESOLVE` (R184, R185), with the commit of a winner (R277 to R280). -/

namespace Sys2Proof.Machine

/-! ## SPEC -/

/-- The lowest free decision ID of a cluster. -/
def freeDecision (c : Cluster) : Option Nat := (List.range Config.decisions).find? (fun k => !c.decisions.any (fun d => d.id == k))

/-- The status of a `SPEC`, or the ID it takes (R184). A service core has no cluster. -/
def specStatus (s : State) : Nat :=
  let cl := clusterOf s.curCore
  let rcb := (s.me.act.map (·.rcb)).getD 0
  if !isCompute s.curCore then 64
  else
    match freeDecision (s.cluster cl) with
    | none => 64
    | some id => if (regionAt s s.myCtx rcb (s.me.act.bind (·.launch))).cruc ≤ crucUsed s cl rcb then 65 else id

/-- The speculative message of a side (R184). -/
def sideMsg (s : State) (f : Form) (id side : Nat) : Dest × Msg × State :=
  let w := s.me.value f.oa
  let ctx : BitVec 12 := BitVec.ofNat 12 s.myCtx
  let (q, s) := nextSeq s s.curCore
  let m : Msg :=
    { tag := if side = 0 then w.extractLsb' 0 12 else w.extractLsb' 16 12, prio := w.extractLsb' 28 2, len := 6, kind := 0, ctx := ctx,
      score := BitVec.ofNat 11 s.curCore, seq := q, stamp := BitVec.ofNat 64 s.now,
      words := (List.range 4).map (fun k => s.me.readG (regOf f.ob + k)) ++ [BitVec.ofNat 64 id, BitVec.ofNat 64 side],
      spec := some (clusterOf s.curCore, id, side) }
  (.region ((s.me.act.map (·.rcb)).getD 0) s.curCore ctx, m, s)

/-- SPEC (R184): both successors of an undecided choice are started. -/
def execSpec (f : Form) (s : State) : Outcome :=
  runExtra f .write { srcs := srcRange s.me 3 f.ob (min 4 (32 - regOf f.ob)) } (fun s => do
    if 31 < regOf f.ob + 3 then badOperand 3 f.ob
    needOrdinary s
    needCredit s
    let st := specStatus s
    if 64 ≤ st then pure (pendG s (regOf f.od) true 0 (.value (BitVec.ofNat 64 st)))
    else
      let (d0, m0, s) := sideMsg s f st 0
      let (d1, m1, s) := sideMsg s f st 1
      let d : Decision :=
        { id := st, ctx := BitVec.ofNat 12 s.myCtx, rcb := (s.me.act.map (·.rcb)).getD 0, act := (s.me.act.map (·.uid)).getD 0,
          core := s.curCore, sides := [{}, {}] }
      let s := { s with mail := s.mail ++ [(d0, m0), (d1, m1)] }
      let s := s.modCluster (clusterOf s.curCore) (fun u => { u with decisions := u.decisions ++ [d] })
      pure (pendG s (regOf f.od) true 0 (.value (BitVec.ofNat 64 st)))) s

/-! ## The commit of a winner -/

/-- A committed line enters its memory as a CORE-path store of the winner's core (R280): none while it has no room in the hold buffer
(R337), or while the line of a peer page has to come, with the request made. Its page is translated again: no purge waits for it. -/
def commitLine (s : State) (who : Asker) (core : Nat) (h : HeldLine) : Except State State :=
  if h.scratch then .ok (s.scratchLand core (h.bytes.map (fun b => (64 * h.at_ + b.1, b.2))))
  else
    let (n, s) := s.fresh
    let x := currentXlat s core (64 * h.at_) { h.x with pa := h.x.pa / 64 * 64 }
    storeEnters s who core n h.owner (64 * h.at_) x h.bytes

/-- A held entry of a winner released (R280): none while the injection queue has no room, or while a `JOIN` waits to publish as
`FENCE.dev` does (R175), for its thread set where it still runs, or for its page (R337). -/
def releaseEntry (s : State) (core : Nat) (ts : Option Nat) (ctx : BitVec 12) : Held → Option State
  | .send d m => if injectRoom s core then some (inject s core d m) else none
  | .join va x =>
    let x := (xlatOf s (ptrAddr va)).getD x
    if x.wb || ts.any (fun t => fenceWaits s core t 2) || heldInScope s (cacheOf core) false then none
    else some (joinRecord (flushLine (publish s core false) (cacheOf core) (ptrAddr va)) core ctx va x)

/-- A winner's message made ordinary wherever it waits, and tested again (R184, R215). -/
def makeOrdinary (s : State) (sp : Nat × Nat × Nat) : State :=
  let plain := fun (m : Msg) => if m.spec == some sp then { m with spec := none } else m
  let plainSlot := fun (x : Slot) => { x with msg := plain x.msg }
  let cores := s.cores.map (fun (c : Nat × Core) => (c.1, { c.2 with inbox := c.2.inbox.map plainSlot }))
  let image := fun (i : Nat × CoreImage) => (i.1, { i.2 with slots := i.2.slots.map plainSlot, arrivals := i.2.arrivals.map plain })
  let contexts := s.contexts.map (fun (c : Nat × Option Context) => (c.1, c.2.map (fun k => { k with saved := k.saved.map image })))
  let where_ := s.cores.filterMap (fun c => (c.2.inbox.find? (fun x => x.msg.spec == some sp)).map (fun x => (c.1, x.msg.tag)))
  let s : State := { s with cores := cores, contexts := contexts, mail := s.mail.map (fun d => (d.1, plain d.2)) }
  where_.foldl (fun s c => retestTag s c.1 c.2) s

/-- A running winner goes on as an ordinary activation. -/
def unspec (s : State) (core ts : Nat) : State :=
  s.modTset core ts (fun t => { t with act := t.act.map (fun a => { a with spec := none, msg := { a.msg with spec := none } }), sendBuf := [] })

/-- The decision ID of a committed decision frees. -/
def closeDecision (s : State) (cl id : Nat) : State :=
  s.modCluster cl (fun u => { u with decisions := u.decisions.filter (fun e => e.id != id) })

/-- What follows the last line and the last entry of a winner (R280): its records are unheld, a deferred watch is armed, and it goes on as
an ordinary activation. -/
def finishCommit (s : State) (cl : Nat) (d : Decision) (side : Nat) (x : Side) (uid : Nat) : State :=
  match findAct s uid with
  | some (c, t) => closeDecision (makeOrdinary (unspec (unholdRecords s c uid) c t) (cl, d.id, side)) cl d.id
  | none =>
    let s := unholdRecords s x.core uid
    closeDecision (match x.watch with | some w => armWatch s w | none => s) cl d.id

/-- The entries of a winner in program order, its thread set where it still runs. -/
def winnerEntries (s : State) (x : Side) (uid : Nat) : Option Nat × List Held :=
  match findAct s uid with
  | some (c, t) => (some t, (s.tset c t).sendBuf)
  | none => (none, x.entries)

/-- The entries of a winner replaced by those that are left. -/
def leaveEntries (s : State) (sp : Nat × Nat × Nat) (uid : Nat) (rest : List Held) : State :=
  match findAct s uid with
  | some (c, t) => s.modTset c t (fun t => { t with sendBuf := rest })
  | none => modSide s sp (fun y => { y with entries := rest })

/-- One step of the commit of a winner (R280): the line it wrote first enters its memory, or, after the last, an entry is released, or,
after the last of these, the rest follows. A winner that has trapped is aborted and runs again. With `.error` the commit goes on in a
later step. -/
def commitStep (s : State) (cl id : Nat) : Except State State :=
  match decisionOf s cl id with
  | none => .ok s
  | some d =>
    let side := d.winner.getD 0
    let x := (d.sides[side]?).getD {}
    let sp := (cl, id, side)
    match x.act with
    | none => .ok (closeDecision (makeOrdinary s sp) cl id)
    | some uid =>
      match findAct s uid with
      | some (c, t) =>
        if ((s.tset c t).act.bind (·.specTrap)).isSome then .ok (closeDecision (makeOrdinary (abortPlain s c t 0x42 true 0) sp) cl id)
        else commitNext s cl d side x uid
      | none => commitNext s cl d side x uid
where
  /-- The next line of a winner's commit, or its end. -/
  commitNext (s : State) (cl : Nat) (d : Decision) (side : Nat) (x : Side) (uid : Nat) : Except State State :=
    match x.held with
    | h :: rest =>
      match commitLine s (.commit cl d.id) x.core h with
      | .ok s => .error (modSide s (cl, d.id, side) (fun y => { y with held := rest }))
      | .error s => .error s
    | [] =>
      match winnerEntries s x uid with
      | (_, []) => .ok (finishCommit s cl d side x uid)
      | (ts, e :: rest) =>
        match releaseEntry s x.core ts d.ctx e with
        | some s => .error (leaveEntries s (cl, d.id, side) uid rest)
        | none => .error s

/-- RESOLVE (R185, R280): the loser is settled in its step; the winner is committed line by line, and g[OD] lands after the last. -/
def execResolve (f : Form) (s : State) : Outcome :=
  run f none .write (fun s => do
    let id := (s.me.value f.oa).toNat
    let w := s.me.value f.ob
    if 1 < w.toNat then badOperand 3 f.ob
    needCredit s
    let cl := clusterOf s.curCore
    match if isCompute s.curCore then (decisionOf s cl id).filter (fun d => d.ctx.toNat == s.myCtx && d.winner.isNone) else none with
    | some d =>
      let s := (settleLoser s cl d (1 - w.toNat)).modCluster cl (fun u => { u with
        decisions := u.decisions.map (fun e => if e.id == id then { e with winner := some w.toNat } else e) })
      pure (pendG s (regOf f.od) true 0 (.resolve cl id))
    | none => pure (pendG s (regOf f.od) true 0 (.value 1))) s

end Sys2Proof.Machine
end

