-- ==== Sys2Proof/Machine/Arrival.lean ====
section
/-! DEFINITION. The arrival of results in flight (R52 to R56, R116, R141, R255, R280). -/

namespace Sys2Proof.Machine

/-- The line of a load that may be performed now, the bytes of it that carry an uncorrectable error, and the state after it. A load of
a peer page that misses what it needs sends its own request, and takes its own answer (R255), under the bytes its cluster had written when
it asked: none of a later store of its thread set (R142, R258). Until then it waits. -/
def loadedLine (s : State) (core ts k : Nat) (p : Pend) (va : Word) (x : Xlat) (need : List Nat) :
    Except State (Line × BitVec 64 × State) :=
  let a := ptrAddr va
  if x.tier ≠ 3 then .ok (loadLine s core a x true)
  else
    match p.asked, p.reply with
    | none, _ => if lineReady s core a need then .ok (loadLine s core a x true) else .error (askPeer s core ts k p va x)
    | some _, none => .error s
    | some _, some r =>
      .ok (setLineBytes (r.getD 0) p.mine, if r.isSome then 0 else ~~~(byteBits p.mine), s)

/-- Whether some of these bytes of a line carry an error. -/
def anyBad (bad : BitVec 64) (need : List Nat) : Bool := need.any (fun k => bad.getLsbD k)

/-- RESULT_ARRIVAL (R52): the `k`-th result in flight of a thread set arrives, if it can. DESIGN CHOICE (log 73): a load performs when its
result arrives, after it has issued in order, and never before an older load whose value decided the branch to it; R19's Table 1.6 allows a
load to be satisfied ahead of the flag that was to admit it, which happens here only where a line was refilled for another thread set. -/
def execResultArrival (core ts k : Nat) (s : State) : Outcome :=
  let t := s.tset core ts
  match t.pend[k]? with
  | none => .next s
  | some p =>
    let put := fun (s : State) (w : Word) (l : Line) (bad : Bool) => Host.Outcome.next (s.modTset core ts (fun t => deliver t p w l bad))
    match p.kind with
    | .value w => put s w 0 p.bad
    | .float w flags => put (s.modTset core ts (fun t => { t with fpctl := t.fpctl ||| (flags.setWidth 64 <<< 8) })) w 0 p.bad
    | .load va x n sext fwd =>
      let a := ptrAddr va
      let need := (bytesAt a n).filter (fun k => !fwd.any (fun b => a % 64 + b.1 == k))
      if loadBlocked t p then .next s
      else
        match loadedLine s core ts k p va x need with
        | .error s => .next s
        | .ok (l, bad, s) =>
          let bs := (List.range n).map (fun k => ((fwd.find? (fun b => b.1 == k)).map (·.2)).getD (lineByte l (a % 64 + k)))
          put s (extendTo n sext (natOfBytes bs)) 0 (anyBad bad need || p.bad)
    | .vload va x mask fwd =>
      let need := mask.filter (fun k => !fwd.any (fun b => b.1 == k))
      if loadBlocked t p then .next s
      else
        match loadedLine s core ts k p va x need with
        | .error s => .next s
        | .ok (l, bad, s) =>
          let l := setLineBytes l fwd
          put s 0 (setLineBytes (t.readV p.reg) (mask.map (fun k => (k, lineByte l k)))) (anyBad bad need || p.bad)
    | .cursor c line =>
      let bad := s.scratchBad c ((List.range 64).map (64 * line + ·))
      .next (s.modTset core ts (fun t => { t with
        pend := dropAt t.pend k, arrived := if p.dropped then t.arrived else t.arrived ++ [(c, line, seenLineOf s core ts c line, bad)],
        stalled := false }))
    | .sload c addr n sext =>
      put s (extendTo n sext (seenReadOf s core ts c addr n)) 0 (p.bad || s.scratchBad c ((List.range n).map (addr + ·)))
    | .sldl c addr => put s (BitVec.ofNat 64 (s.scratchRead c addr 8)) 0 (p.bad || s.scratchBad c [addr])
    | .svload c bytes =>
      put s 0 (setLineBytes (t.readV p.reg) (bytes.map (fun b => (b.1, seenByteOf s core ts c b.2)))) (p.bad || s.scratchBad c (bytes.map (·.2)))
    | .atomic _ _ n _ _ _ _ (some m) => put s (extendTo n (n == 4) m.toNat) 0 p.bad
    | .atomic _ _ _ _ _ _ _ none => .next s
    | .spinw .. => .next s
    | .purge id status => if purgeDone s id then put { s with purges := s.purges.filter (fun q => q.id != id) } status 0 p.bad else .next s
    | .resolve cl id =>
      match commitStep s cl id with
      | .error s => .next s
      | .ok s => put s 0 0 false
    | .temper rc cmds => if cmds.any (anvilBusy s core) then .next s else put s (statusValue t rc) 0 false
    | .counter num slot => put s (observed s core num slot) 0 p.bad

end Sys2Proof.Machine
end

