-- ==== Sys2Proof/Machine/Launch.lean ====
section
/-! DEFINITION. Launches: their checks (R293, R303, R307), the queues (R294 to R297), placement and dispatch (R306, R307), the end
(R262, R309), the fabric validator (R298, R299) and the direct path (R300). -/

namespace Sys2Proof.Machine

/-! ## Launch records (Table 17.1) -/

/-- Word `k` of a record. -/
def recWord (r : List Word) (k : Nat) : Word := (r[k]?).getD 0
/-- The 16 words of a record's 128 bytes. -/
def recordWords (bs : List Byte) : List Word := (List.range 16).map (fun k => BitVec.ofNat 64 (natOfBytes ((bs.drop (8 * k)).take 8)))
/-- CTX. -/
def recCtx (r : List Word) : Nat := fieldN (recWord r 0) 8 12
/-- Elements of a launch. -/
def recTotal (r : List Word) : Nat := fieldN (recWord r 2) 0 16 * fieldN (recWord r 2) 16 16 * fieldN (recWord r 2) 32 16

/-- Check 1 of Table 17.2. -/
def recordOk (r : List Word) (fabric : Bool) : Bool :=
  decide (fieldN (recWord r 0) 0 8 = 1) && decide (fieldN (recWord r 0) 26 38 = 0) && decide (fieldN (recWord r 0) 20 4 = 0) &&
    decide (fieldN (recWord r 2) 48 16 = 0) && decide (fieldN (recWord r 3) 14 50 = 0) && decide (recTotal r ≠ 0) &&
    decide (recTotal r ≤ 2 ^ 32) && (!fabric || (List.range 4).all (fun k => recWord r (4 + k) == 0))

/-! ## The RCB chain (R303) -/

/-- Reserved bits of an RCB are zero, and root-only fields outside the root. -/
def rcbReserved (s : State) (rcb : Word) (isRoot : Bool) : Bool :=
  let w := fun off => rcbWord s rcb off
  fieldN (w 8) 44 20 == 0 && fieldN (w 8) 35 5 == 0 && fieldN (w 8) 15 17 == 0 && fieldN (w 0x38) 25 39 == 0 &&
    fieldN (w 0x50) 37 27 == 0 && fieldN (w 0x50) 27 5 == 0 && fieldN (w 0x50) 14 2 == 0 &&
    (List.range 8).all (fun j => fieldN (w (0x68 + 16 * j)) 32 32 == 0 && !(w (0x68 + 16 * j)).getLsbD 30) &&
    (isRoot || (w 0x48 == 0 && w 0x50 == 0 && w 0x58 == 0 && !(w 8).getLsbD 42))

/-- Whether no element of a list repeats. -/
def distinct : List Nat → Bool
  | [] => true
  | x :: r => !r.contains x && distinct r

/-- Whether two scratchpad ranges of lines meet. -/
def linesMeet (a b : Word × Nat × Nat) : Bool := decide (a.2.2 < b.2.2 + 64 * b.2.1) && decide (b.2.2 < a.2.2 + 64 * a.2.1)

/-- Whether no two of some region entries overlap. -/
def regionsApart : List (Word × Nat × Nat) → Bool
  | [] => true
  | x :: r => !r.any (linesMeet x) && regionsApart r

/-- The region entries of effective fields: in one bank, off the deque and the allotments, apart, within BUFB. -/
def regionsFit (r : Region) : Bool :=
  let low := 0x2F000 - 4 * (r.trail + r.choice)
  r.regions.all (fun e =>
    decide (1 ≤ e.2.1) && decide (e.2.1 ≤ 3072) && e.2.2 % 64 == 0 && decide (e.2.2 < 0x30000) &&
      e.2.2 / 65536 == (e.2.2 + 64 * e.2.1 - 1) / 65536 && (decide (e.2.2 + 64 * e.2.1 ≤ low) || decide (0x30000 ≤ e.2.2))) &&
    regionsApart r.regions && decide ((r.regions.map (fun e => 64 * e.2.1)).sum ≤ r.bufb)

/-- The effective fields of one RCB of a chain by themselves (R271, R303). -/
def regionFits (s : State) (ctx : Nat) (r : Region) : Bool :=
  distinct r.cores && r.cores.all (fun c => contextMayRun s ctx c && s.isReady (readyOffset c)) &&
    decide (1 ≤ r.tsets) && decide (r.tsets ≤ 4 * r.cores.length) && decide (1 ≤ r.qslots) && decide (r.qslots ≤ 48) &&
    decide (4096 ≤ r.wdog) && decide (r.wdog ≤ 2 ^ 24) && r.choice % 64 == 0 && r.trail % 16 == 0 &&
    decide (4 * (r.choice + r.trail) ≤ 61440) && r.htab.toNat % 65536 == 0 && regionsFit r

/-- The budgets of a child are within its parent's, and its cores among the parent's. -/
def withinParent (r p : Region) : Bool :=
  decide (r.cores.length ≤ p.cores.length) && decide (r.tsets ≤ p.tsets) && decide (r.qslots ≤ p.qslots) && decide (r.cruc ≤ p.cruc) &&
    r.cores.all (fun c => p.cores.contains c)

/-- Every RCB of a chain with its own checks and against its parent; SYS only over service cores (R95). -/
def chainFits (s : State) (ctx : Nat) : List Word → Bool
  | [] => true
  | [root] =>
    rcbReserved s root true && rcbWord s root 0 == 0 && fieldN (rcbWord s root 8) 0 32 == 0 && regionFits s ctx (regionOf s [root]) &&
      (rcbWord s root 0x48).toNat % 64 == 0 &&
      (!(rcbWord s root 8).getLsbD 42 || (s.isSystem ctx && (regionOf s [root]).cores.all (fun c => !isCompute c)))
  | r :: p :: rest =>
    rcbReserved s r false && regionFits s ctx (regionOf s (r :: p :: rest)) &&
      withinParent (regionOf s (r :: p :: rest)) (regionOf s (p :: rest)) && chainFits s ctx (p :: rest)

/-- The chain of a launch's RCB when it is valid (R303), the sum of CRUC over the region's open launches included. -/
def validChain (s : State) (ctx : Nat) (rcb : Word) : Option (List Word) :=
  match if rcb.toNat % 256 = 0 then chainFrom s (rootOf s ctx) 8 rcb else none with
  | none => none
  | some ch =>
    let r := regionOf s ch
    let open_ := (s.launches.filter (fun l => l.ctx.toNat == ctx && ptrAddr l.rcb == ptrAddr rcb && l.isOpen)).map (·.region.cruc)
    if chainFits s ctx ch && decide (open_.sum + r.cruc ≤ (s.partition (s.partitionOf ctx)).crucible) then some ch else none

/-! ## Placement (R306, R307) -/

/-- The linear index of the `k`-th element of position `p`. -/
def elementIndex (r : Region) (p k : Nat) : Nat :=
  let n := r.cores.length
  if r.pack then 4 * (p + n * (k / 4)) + k % 4 else p + n * k

/-- The co-residency test (R307). -/
def coresidentOk (r : Region) (total : Nat) : Bool :=
  decide (total ≤ r.tsets) && (List.range r.cores.length).all (fun p => decide (elementsAt r total p ≤ 4))

/-! ## Validation and taking -/

/-- What the validator makes of a record. -/
inductive Verdict where
  | refused (status : Nat)
  | accepted (chain : List Word) (region : Region)
  deriving DecidableEq, Repr

/-- Checks 4 and 5, and a killed context (R293, R349). -/
def judgeRegion (s : State) (r : List Word) : Verdict :=
  let ctx := recCtx r
  if ((s.context ctx).map (·.killed)).getD false then .refused 5
  else
    match validChain s ctx (recWord r 1) with
    | none => .refused 3
    | some ch =>
      let g := regionOf s ch
      if (recWord r 0).getLsbD 24 && !coresidentOk g (recTotal r) then .refused 1 else .accepted ch g

/-- The partition a queue is assigned to. -/
def queueOwner (s : State) (q : Nat) : Option Nat := (s.partitions.find? (fun p => p.2.made && p.2.blocks.contains (q / 64))).map (·.1)

/-- Whether the record at the head of a queue is to complete KILLED: its context is killed, or the record stood in the queue when the
context was restarted after a kill (R349). -/
def headDoomed (s : State) (q : Nat) (r : List Word) : Bool :=
  (s.context (recCtx r)).any (fun c => c.killed || c.doomed.any (fun d => d.1 == q &&
    decide ((d.2 + 2 ^ 32 - queueField s q 20 4) % 2 ^ 32 ≤ 65536) && d.2 != queueField s q 20 4))

/-- The checks of Table 17.2 for a queue's record, in their order. -/
def judge (s : State) (q : Nat) (r : List Word) : Verdict :=
  if !recordOk r false then .refused 2
  else if (s.context (recCtx r)).isNone || some (s.partitionOf (recCtx r)) != queueOwner s q then .refused 4
  else if headDoomed s q r then .refused 5
  else judgeRegion s r

/-- The launch of a record. -/
def launchOf (r : List Word) (id : Nat) (g : Region) (taken : List Taken) (status : Option Nat) : Launch :=
  { id := id, taken := taken, ctx := BitVec.ofNat 12 (recCtx r), rcb := recWord r 1, region := g, coresident := (recWord r 0).getLsbD 24,
    tag := (recWord r 3).extractLsb' 0 12, prio := (recWord r 3).extractLsb' 12 2, dimx := fieldN (recWord r 2) 0 16,
    dimy := fieldN (recWord r 2) 16 16, dimz := fieldN (recWord r 2) 32 16, args := (List.range 4).map (fun k => recWord r (12 + k)),
    set := (List.range 4).map (fun k => recWord r (8 + k)), armed := !(recWord r 0).getLsbD 24, status := status, endSeq := id }

/-- Whether every WAIT bit of a record is set in its context's event vector (R296). -/
def waitMetBy (s : State) (r : List Word) : Bool :=
  let ev := ((s.context (recCtx r)).map (·.events)).getD []
  (List.range 4).all (fun k => (mget 0 ev k &&& recWord r (4 + k)) == recWord r (4 + k))

/-- The WAIT bits cleared when CONSUME is set. -/
def consumeWait (s : State) (r : List Word) : State :=
  if (recWord r 0).getLsbD 25 then (List.range 4).foldl (fun s k => modEvent s (recCtx r) k (fun w => w &&& ~~~(recWord r (4 + k)))) s else s

/-- A launch opened, or a refused one that waits for its completion. -/
def openLaunch (s : State) (l : Launch) : State := { s with launches := s.launches ++ [l] }

/-- The effective values of a chain taken by a validation for its context (R302). -/
def takeChain (s : State) (ctx : Nat) (chain : List Word) : State := s.modContext ctx (fun c => { c with taken := takeRegions s chain c.taken })

/-- The record at the head of a queue, as its ring holds it. -/
def headRecord (s : State) (q : Nat) : List Word := recordWords (unitReadBytes s (queueEntry s q (queueField s q 20 4)) 128)

/-- The head of a queue leaves it as a launch. -/
def takeHead (s : State) (q : Nat) (l : Launch) : State :=
  let head := queueField s q 20 4
  let s := s.modQueue q (fun x => { x with accepted := none })
  queueTick (openLaunch (s.homeWrite ((s.queue q).block + 20) 4 ((head + 1) % 2 ^ 32)) { l with queue := some q, slot := head % 65536 }) q

/-- The head of a queue taken with a refusal. -/
def refuseHead (s : State) (q : Nat) (r : List Word) (status : Nat) : State :=
  let (id, s) := s.fresh
  takeHead s q (launchOf r id {} [] (some status))

/-- An accepted head taken if its WAIT bits stand. -/
def takeAccepted (s : State) (q : Nat) (a : Accepted) : State :=
  if waitMetBy s a.record then takeHead (consumeWait s a.record) q (launchOf a.record a.id a.region a.taken none) else s

/-- LAUNCH_TAKE (R293, R296): the record at the head of a queue is checked once; it is refused and taken, or taken once its WAIT bits
stand. -/
def execLaunchTake (q : Nat) (s : State) : Outcome :=
  if !queueValid s q || queueLen s q == 0 then .next s
  else
    match (s.queue q).accepted with
    | some a => .next (if headDoomed s q a.record then refuseHead s q a.record 5 else takeAccepted s q a)
    | none =>
      let r := headRecord s q
      match judge s q r with
      | .refused st => .next (refuseHead s q r st)
      | .accepted ch g =>
        let taken := takeRegions s ch []
        let (id, s) := (takeChain s (recCtx r) ch).fresh
        let a : Accepted := ⟨id, r, g, taken⟩
        .next (takeAccepted (s.modQueue q (fun x => { x with accepted := some a })) q a)

/-! ## Reservations and element starts -/

/-- A launch by its identity. -/
def launchBy (s : State) (id : Nat) : Option Launch := s.launches.find? (fun l => l.id == id)
/-- A launch changed. -/
def modLaunch (s : State) (id : Nat) (f : Launch → Launch) : State :=
  { s with launches := s.launches.map (fun l => if l.id == id then f l else l) }
/-- Starts sent to a position. -/
def Launch.sentTo (l : Launch) (p : Nat) : Nat := mget 0 l.sent p

/-- Whether a launch has every reservation it needs. -/
def allReserved (s : State) (l : Launch) : Bool :=
  l.region.cores.zipIdx.all (fun c => decide (elementsAt l.region l.total c.2 ≤ reservedFor s c.1 l.id))

/-- CORESIDENT_RESERVATION (R307): the launch being served takes a thread set that has freed; with the last, its starts may be
sent. -/
def execCoresidentReservation (launch core ts : Nat) (s : State) : Outcome :=
  match launchBy s launch with
  | none => .next s
  | some l =>
    match (servedLaunch s l.ctx).map (·.id) == some launch, l.pos core with
    | true, some p =>
      if ts < 4 && (s.core core).ctx == some l.ctx && (s.tset core ts).isFree && !atBudget s l.ctx.toNat l.rcb (some l.id) &&
          decide (reservedFor s core launch < elementsAt l.region l.total p) then
        let s := s.modTset core ts (fun t => { t with reserved := some launch })
        .next (if allReserved s l then modLaunch s launch (fun l => { l with armed := true }) else s)
      else .next s
    | _, _ => .next s

/-- Starts of a region sent to a core and not selected yet (R306). -/
def unselected (s : State) (ctx : BitVec 12) (core : Nat) (rcb : Word) : Nat :=
  let start := fun (m : Msg) => m.kind == 1 && m.ctx == ctx && (m.words[5]?).getD 0 == rcb
  let i := imageOf s ctx.toNat core
  (s.mail.filter (fun d => d.1 == .core core && start d.2)).length +
    ((s.core core).inbox.filter (fun x => start x.msg && !x.chosen && (match x.state with | .running _ => false | _ => true))).length +
    (if (s.core core).ctx == some ctx then 0 else (i.slots.filter (fun x => start x.msg && !x.chosen)).length) + (i.arrivals.filter start).length

/-- The linear index of the next start of a position; none once all are sent. -/
def Launch.nextIndex (l : Launch) (p : Nat) : Option Nat :=
  if l.sentTo p < elementsAt l.region l.total p then some (elementIndex l.region p (l.sentTo p)) else none

/-- Whether the next start of a position has the lowest index of those that its cluster's dispatcher is still to send (R306). -/
def Launch.ascends (l : Launch) (p : Nat) : Bool :=
  match l.nextIndex p with
  | none => false
  | some i => l.region.cores.zipIdx.all (fun c => cacheOf c.1 != cacheOf ((l.region.cores[p]?).getD 0) ||
      (match l.nextIndex c.2 with | some j => decide (i ≤ j) | none => true))

/-- Whether a launch has a start that its core may be sent now. -/
def startWaits (s : State) (core : Nat) (l : Launch) : Bool :=
  match l.pos core with
  | some p => l.status.isNone && l.armed && l.ascends p && decide (unselected s l.ctx core l.rcb < l.region.qslots)
  | none => false

/-- Whether no launch of the context goes first at a core (R306): lower PRIO, then earlier validation. -/
def goesFirst (s : State) (core : Nat) (l : Launch) : Bool :=
  s.launches.all (fun m => m.id == l.id || m.ctx != l.ctx || !startWaits s core m || decide (l.region.prio < m.region.prio) ||
    (l.region.prio == m.region.prio && decide (l.id < m.id)))

/-- The drop of stale lines before the first start of a launch in a cluster (R262). -/
def dropStale (s : State) (l : Launch) (cl : Nat) : State :=
  if l.dropped.contains cl then s
  else
    let keys := (s.partition (s.partitionOf l.ctx.toNat)).keys
    modLaunch (dropCleanIf s cl (fun x => !x.tv && keys.contains x.x.key)) l.id (fun m => { m with dropped := m.dropped ++ [cl] })

/-- ELEMENT_START_DISPATCH (R306): the next element start of a launch for a core of its list. -/
def execElementStartDispatch (launch core : Nat) (s : State) : Outcome :=
  match launchBy s launch with
  | none => .next s
  | some l =>
    match l.pos core with
    | some p =>
      if startWaits s core l && goesFirst s core l then
        let s := dropStale s l (cacheOf core)
        let i := elementIndex l.region p (l.sentTo p)
        let (m, s) := unitMsg s core 1 l.tag l.prio l.ctx.toNat (l.args ++ [BitVec.ofNat 64 i, l.rcb])
        let s := modLaunch s launch (fun l => { l with sent := mset 0 l.sent p (l.sentTo p + 1) })
        .next { s with mail := s.mail ++ [(.core core, { m with launch := some launch })] }
      else .next s
    | none => .next s

/-! ## The end (R297, R309) -/

/-- The publication of R262: every cluster of a region writes back the lines that cores of the region have dirtied. -/
def publishRegion (s : State) (cores : List Nat) : State :=
  ((cores.map cacheOf).foldr insertUniq []).foldl (fun s c =>
    let mine := cores.filter (fun k => cacheOf k == c)
    writeBackIf s c (fun l => mine.any (fun k => l.dc.getLsbD (dcBit k)))) s

/-- Whether a thread set still has a queued store, an atomic to be performed or, in its core's hold buffer, a held store older than an
issue number. -/
def writesOpen (s : State) (core ts seq : Nat) : Bool :=
  let t := s.tset core ts
  t.storeq.any (fun q => decide (q.seq < seq)) || t.pend.any (fun p => (p.posted || p.atomicLine.isSome) && decide (p.seq < seq)) ||
    (s.cluster (cacheOf core)).hold.any (fun h => h.of core seq)

/-- Whether what the clusters of a launch's region have sent to peers is answered. -/
def regionAnswered (s : State) (l : Launch) : Bool := !l.region.cores.any (fun c => storesAway s (cacheOf c))

/-- The publication at a launch's end (R262): once what its elements wrote has left their store queues (log 60), its clusters write back;
it is complete when no peer has still to answer. -/
def publishLaunch (s : State) (l : Launch) : Bool × State :=
  if l.published then (regionAnswered s l, s)
  else if l.left.any (fun x => writesOpen s x.1 x.2.1 x.2.2) then (false, s)
  else
    let s := modLaunch (publishRegion s l.region.cores) l.id (fun m => { m with published := true })
    (regionAnswered s l, s)

/-- LAUNCH_COMPLETE (R262, R309): every element has ended or died, and what they dirtied is published. -/
def execLaunchComplete (launch : Nat) (s : State) : Outcome :=
  match launchBy s launch with
  | some l =>
    if l.status.isNone && l.armed && decide (l.total ≤ l.ended) then
      let (done, s) := publishLaunch s l
      if done then
        let (n, s) := s.fresh
        .next (modLaunch s launch (fun l => { l with status := some 0, endSeq := n }))
      else .next s
    else .next s
  | none => .next s

/-- Bytes 7:0 of a completion record (Table 17.4). -/
def completionWord (l : Launch) (status : Nat) : Word := BitVec.ofNat 64 (l.slot % 65536 + status * 2 ^ 16 + l.dead % 2 ^ 32 * 2 ^ 32)

/-- The SET bits of a launch that completes DONE (R297). -/
def setBits (s : State) (l : Launch) (status : Nat) : State :=
  if status = 0 then l.set.zipIdx.foldl (fun s w => modEvent s l.ctx.toNat w.2 (fun x => x ||| w.1)) s else s

/-- A launch gone. -/
def dropLaunch (s : State) (id : Nat) : State := { s with launches := s.launches.filter (fun l => l.id != id) }

/-- Records in a completion ring. -/
def completionLen (s : State) (q : Nat) : Nat := (queueField s q 24 4 + 2 ^ 32 - queueField s q 28 4) % 2 ^ 32

/-- The progress watchdog of a queue restarts at a completion record (R317). -/
def queueRestart (s : State) (q : Nat) : State :=
  queueTick (s.modQueue q (fun x => { x with counted := 0, since := x.since.map (fun _ => s.now) })) q

/-- Whether no launch of the queue has ended before and still waits for its record (R297). -/
def endedFirst (s : State) (l : Launch) : Bool :=
  s.launches.all (fun m => m.queue != l.queue || m.status.isNone || decide (l.endSeq ≤ m.endSeq))

/-- COMPLETION_WRITE (R262, R297): the record of a launch that has ended, in the order of the ends of its queue, its SET bits in the same
step, and the NOTE message. -/
def execCompletionWrite (launch : Nat) (s : State) : Outcome :=
  match launchBy s launch with
  | none => .next s
  | some l =>
    match l.queue, l.status with
    | some q, some st =>
      let (done, s) := publishLaunch s l
      if !done || !endedFirst s l then .next s
      else if !queueValid s q then .next (setBits (dropLaunch s launch) l st)
      else if completionLen s q = 2 ^ queueField s q 33 1 then .next s
      else
        let w := completionWord l st
        let tail := queueField s q 24 4
        let at_ := queueField s q 8 8 + 16 * (tail % 2 ^ queueField s q 33 1)
        let s := unitWrite (unitWrite s at_ 8 w.toNat) (at_ + 8) 8 (s.now % 2 ^ 64)
        let s := s.homeWrite ((s.queue q).block + 24) 4 ((tail + 1) % 2 ^ 32)
        let s := queueRestart (setBits (dropLaunch s launch) l st) q
        match noteOf (queueField s q 40 4) with
        | some (c, pr, tg) => .next (postUnit s c 0 tg pr l.ctx.toNat [BitVec.ofNat 64 q, w])
        | none => .next s
    | _, _ => .next s

/-! ## The fabric validator (R298, R299) -/

/-- A tenant entry of a die. -/
def State.tenant (s : State) (die k : Nat) : Tenant := mget {} s.tenants (die * 4096 + k)
/-- The state with a tenant entry changed. -/
def State.modTenant (s : State) (die k : Nat) (f : Tenant → Tenant) : State := { s with tenants := mmod {} s.tenants (die * 4096 + k) f }

/-- A bucket brought up to date: it has gained a token at each step due since it was written, but for those due while it was full
(R299). -/
def Tenant.settled (t : Tenant) (now : Nat) : Tenant :=
  let due := (now - t.since) * t.rate / 1000000
  { t with tokens := max t.tokens (min t.burst (t.tokens + (due - t.gained))), gained := max t.gained due }

/-- FABRIC_LAUNCH (R293, R298, R299): a LAUNCH packet, of a link that is up, is judged at once. Its completion has no ring index (log 4). -/
def execFabricLaunch (die src tenant : Nat) (cookie : Word) (record : List Word) (s : State) : Outcome :=
  if !portUp s (Config.portOf src) then .next s
  else
  let s := s.modTenant die tenant (fun t => if t.valid then t.settled s.now else t)
  let t := s.tenant die tenant
  let (w, s) := s.freeWord
  let (id, s) := s.fresh
  let put := fun (s : State) (g : Region) (taken : List Taken) (st : Option Nat) =>
    Host.Outcome.next (openLaunch s { launchOf record id g taken st with fabric := some (src, cookie), slot := w.toNat % 65536 })
  let rcb := ptrAddr (recWord record 1)
  if !recordOk record true then put s {} [] (some 2)
  else if !t.valid || t.ctx.toNat != recCtx record || (s.context (recCtx record)).isNone ||
      (s.partition (s.partitionOf t.ctx.toNat)).resetting.isSome || decide (rcb < ptrAddr t.lo) ||
      decide (ptrAddr t.hi ≤ rcb) then put s {} [] (some 4)
  else if t.tokens = 0 then put s {} [] (some 6)
  else
    let s := s.modTenant die tenant (fun t => { t with tokens := t.tokens - 1 })
    match judgeRegion s record with
    | .refused st => put s {} [] (some st)
    | .accepted ch g => put (takeChain s (recCtx record) ch) g (takeRegions s ch []) none

/-- TOKEN_REFILL (R299): a bucket gains the tokens that are due. -/
def execTokenRefill (die tenant : Nat) (s : State) : Outcome :=
  .next (s.modTenant die tenant (fun t => if t.valid then t.settled s.now else t))

/-- LAUNCHDONE (R298, R378): the completion record of a fabric launch returns to its sender, and its SET bits are set. -/
def execLaunchDone (launch : Nat) (s : State) : Outcome :=
  match launchBy s launch with
  | none => .next s
  | some l =>
    match l.fabric, l.status with
    | some (node, cookie), some st =>
      let (done, s) := publishLaunch s l
      if !done then .next s
      else
      let o := packetTo node 5 (s.partitionOf l.ctx.toNat) cookie
        (wordBytes (completionWord l st) ++ wordBytes (BitVec.ofNat 64 s.now))
      let s := setBits (dropLaunch s launch) l st
      .next { s with out := s.out ++ [o] }
    | _, _ => .next s

/-! ## The direct path (R300) -/

/-- Bytes written to host memory. -/
def hostWrite (s : State) (at_ : Nat) (bs : List Byte) : State :=
  { s with hostMem := ((List.range bs.length).zip bs).foldl (fun m p => mset unwritten m (at_ + p.1) p.2) s.hostMem }
/-- Bytes of host memory. -/
def hostRead (s : State) (at_ n : Nat) : List Byte := (List.range n).map (fun k => mget unwritten s.hostMem (at_ + k))

/-- A completion record of a mailbox, and the MSI-X vector that its function's configuration names (R371, R372). -/
def mailboxDone (s : State) (fn cid status result : Nat) (value : Word) : State :=
  let b := (s.partition fn).mailbox
  let at_ := b.cq + 16 * (b.done % b.cqLen)
  let s := hostWrite s at_ (bytesOf 8 (cid % 65536 + status * 2 ^ 16 + result % 2 ^ 32 * 2 ^ 32) ++ wordBytes value)
  let s := s.modPartition fn (fun p => { p with mailbox := { p.mailbox with
    head := p.mailbox.head + 1, done := p.mailbox.done + 1, msix := p.mailbox.msix + 1, moved := 0, busy := false } })
  { s with out := s.out ++ [Output.msix fn b.vector] }

/-- The answer to a direct request: 2 BUSY, 3 DENIED or 4 STARTED, in a mailbox completion or a REPLY packet. -/
def directReply (s : State) (d : Direct) (status : Nat) : State :=
  match d.fn with
  | some fn => mailboxDone s fn d.cid status 0 0
  | none =>
    let o := packetTo d.node 3 (s.partitionOf d.ctx.toNat) d.cookie [BitVec.ofNat 8 status]
    { s with out := s.out ++ [o] }

/-- DIRECT_REQUEST (R300): a DIRECT packet, of a link that is up, which check 2 of its tenant may deny. -/
def execDirectRequest (die src tenant : Nat) (cookie : Word) (ctx : BitVec 12) (core : Nat) (entry : Word) (args : List Word) (s : State) :
    Outcome :=
  let t := s.tenant die tenant
  let d : Direct := ⟨ctx, core, entry, args.take 2, none, 0, src, cookie, s.now⟩
  if !portUp s (Config.portOf src) then .next s
  else if !t.valid || t.ctx != ctx || (s.context ctx.toNat).isNone || (s.partition (s.partitionOf ctx.toNat)).resetting.isSome then .next (directReply s d 3)
  else .next { s with directs := s.directs ++ [d] }

/-- The thread set on which a direct message starts: the context is resident and selected for, a thread set is free, and the root
RCB is below its budget (R214, R300). -/
def directTset (s : State) (d : Direct) : Option Nat :=
  if coreSelects s d.core && (s.core d.core).ctx == some d.ctx && !atBudget s d.ctx.toNat (rootOf s d.ctx.toNat) then freeTset s d.core
  else none

/-- DIRECT_MESSAGE (R214, R300, R318): the `k`-th direct request reaches its core, or the one that has its share now: an activation starts
at once, or the origin is told `BUSY`. -/
def execDirectMessage (k : Nat) (s : State) : Outcome :=
  match takeAt s.directs k with
  | none => .next s
  | some (d, rest) =>
    let s := { s with directs := rest }
    let d := { d with core := routedCore s d.ctx d.core }
    match directTset s d with
    | none => .next (directReply s d 2)
    | some ts =>
      let (m, s) := unitMsg s d.core 7 0 0 d.ctx.toNat d.args
      .next (directReply (startActivation s d.core ts m .direct d.entry s.now) d 4)

end Sys2Proof.Machine
end

