-- ==== Sys2Proof/Machine/Partition.lean ====
section
/-! DEFINITION. Partitions over time: slices and pre-emption, the progress watchdog, migration, the kill of a context and the
reset of a VF (R314 to R318, R349, R350). -/

namespace Sys2Proof.Machine

/-! ## Slices (R314) -/

/-- The entry of a slice list at the position it has reached. -/
def Partition.entry (p : Partition) : Option SliceEntry := p.list[p.pos]?

/-- The supervisor's change to the slice list takes effect (R314); a new list begins with its first entry. -/
def Partition.newList (p : Partition) : Partition :=
  match p.nextList with
  | some l => { p with list := l, nextList := none, pos := l.length - 1 }
  | none => p

/-- The halves that the cores of a partition hold unmatched are discarded where a slice ends (R385). -/
def discardHalves (s : State) (p : Nat) : State :=
  (partitionCores s p).foldl (fun s core =>
    let matched := fun (h : Half) => (s.core core).anvil.any (fun a => a.phase == .rotating &&
      (matchesHalf a true (eastOf a.isPair core) h || matchesHalf a false (southOf core) h))
    let gone := (s.core core).halves.filter (fun h => !matched h)
    gone.foldl (fun s h => noteHeld s h none) (s.modCore core (fun c => { c with halves := c.halves.filter matched }))) s

/-- The waiting times of a context's records stop, or go on (R248). -/
def graphClock (s : State) (p : Nat) (ctx : BitVec 12) (on : Bool) : State :=
  (s.partition p).clusters.foldl (fun s cl =>
    let now := clusterCycle s cl
    s.modCluster cl (fun u => { u with graph := u.graph.map (fun (r : GraphRec) =>
      if r.ctx != ctx then r
      else if on then (if r.isReady then { r with since := some now } else r)
      else { r with waited := r.waited + (match r.since with | some c => now - c | none => 0), since := none }) })) s

/-- The slice of a partition's entry is over (R315): pre-emption begins, the new list in place; halves that nothing matches are discarded
(R385), and the context's records wait no longer (R248). -/
def endSlice (s : State) (p : Nat) (ctx : BitVec 12) (ph : SlicePhase) : State :=
  discardHalves (graphClock (s.modPartition p (fun t => { t.newList with phase := ph })) p ctx false) p

/-- SLICE_END (R314, R315): a list with one entry renews its slice; otherwise pre-emption begins. DESIGN CHOICE (log 55): a slice so
renewed is not the context's next slice in the sense of R35, so the instruction caches keep what they hold. -/
def execSliceEnd (p : Nat) (s : State) : Outcome :=
  let t := s.partition p
  match t.phase, t.entry with
  | .running, some e =>
    if s.now < t.sliceEnd then .next s
    else
      let n := t.newList
      match n.list with
      | [x] =>
        if x.ctx == e.ctx then .next (s.modPartition p (fun _ => { n with pos := 0, sliceEnd := t.sliceEnd + 1000 * x.slice }))
        else .next (endSlice s p e.ctx (.preempting s.now (1000 * e.limit) false false))
      | _ => .next (endSlice s p e.ctx (.preempting s.now (1000 * e.limit) false false))
  | _, _ => .next s

/-- SLICE_OVERRUN (R315 step 3, R317): past the limit, what still runs is aborted uncounted, or the context is killed. -/
def execSliceOverrun (p : Nat) (s : State) : Outcome := .next (overrun s p)

/-! ## Saving and restoring a core (R315, R316) -/

/-- Whether nothing of a context is left in progress on a core (R248, R250, R270, R315 step 4). -/
def coreQuiet (s : State) (ctx : BitVec 12) (core : Nat) : Bool :=
  let c := s.core core
  let u := s.cluster (cacheOf core)
  (List.range 4).all (fun t =>
    let x := s.tset core t
    x.act.isNone && x.releasing.isEmpty && x.armAfter.isNone && x.storeq.isEmpty && x.unacked.isEmpty && x.pend.isEmpty &&
      x.gLock == 0 && x.vLock == 0) &&
    c.anvil.isEmpty && s.flights.all (fun f => f.to_ != core) && u.stream.all (fun x => x.core != core || x.ctx != ctx) &&
    u.graph.all (fun (r : GraphRec) => r.ctx != ctx || r.state != .dispatched) && !heldInScope s (cacheOf core) true &&
    !storesAway s (cacheOf core)

/-- The named regions of a core written to their homes (R315 step 5). -/
def saveRegions (s : State) (ctx : Nat) (core : Nat) : State :=
  (regionAt s ctx (boundRcb s core)).regions.foldl (fun s r =>
    (List.range r.2.1).foldl (fun s k =>
      unitWriteBytes s (ptrAddr r.1 + 64 * k) ((List.range 64).map (lineByte (s.scratchLine core (r.2.2 / 64 + k))))) s) s

/-- The named regions of a core read back (R316), with the watches of its banks on what came (R225). -/
def loadRegions (s : State) (ctx : Nat) (core : Nat) : State :=
  let rs := (regionAt s ctx (boundRcb s core)).regions
  (fun s => testBankWatches s core (rs.flatMap (fun r => (List.range r.2.1).map (r.2.2 / 64 + ·)))) <| rs.foldl (fun s r =>
    (List.range r.2.1).foldl (fun s k =>
      s.setScratchLine core (r.2.2 / 64 + k) (setLineBytes 0 ((unitReadBytes s (ptrAddr r.1 + 64 * k) 64).zipIdx.map (fun b => (b.2, b.1))))) s) s

/-- The save area of a core, whose layout no rule gives: 16 KiB of free bytes (R315 step 6, log 4). -/
def writeSaveArea (s : State) (ctx i : Nat) : State :=
  let a := ((s.context ctx).map (·.saveArea)).getD 0
  if a = 0 then s
  else
    let s := unitWriteBytes s (a + 16384 * i) ((List.range 16384).map (fun k => Config.freeByte (s.drawn + k)))
    { s with drawn := s.drawn + 16384 }

/-- A context's share of a core saved; the core holds it no more (R315 steps 5 and 6). -/
def saveCore (s : State) (ctx : BitVec 12) (core i : Nat) : State :=
  let s := saveRegions (publish s core true) ctx.toNat core
  let s := writeSaveArea s ctx.toNat i
  let c := s.core core
  let slots := c.inbox.map (fun (x : Slot) => { x with age := slotAge s core x, since := 0 })
  let deque := (List.range c.dqLen).map (fun k => dequeRec s core k)
  let s := modImage s ctx.toNat core (fun j => { j with
    slots := slots, returned := c.returned, dqTop := c.dqTop, deque := deque, dqOwner := c.dqOwner, tagOff := c.tagOff,
    rcb := some c.rcb, stopped := c.stopped, replyReserved := j.replyReserved + c.replyReserved })
  let s := s.modCore core (fun c => { c with
    ctx := none, last := some ctx, rcb := 0, inbox := [], returned := [], replyReserved := 0, dqTop := 0, dqLen := 0, dqOwner := [],
    tagOff := [], handlers := [], round := [], asking := [], halves := [], stopped := false })
  (List.range 4).foldl (fun s t => s.modTset core t (fun x => { x with reserved := none, theftGrant := none })) s

/-- A sidecar of free bits (log 4). -/
def freeSidecar (l : Line) : Sidecar :=
  { satc := l.extractLsb' 0 16, unfc := l.extractLsb' 16 16, fmt := l.extractLsb' 32 4, hfmt := l.extractLsb' 36 4, hv := l.getLsbD 40,
    sparse := l.getLsbD 41, n8 := l.getLsbD 42, cbs := l.extractLsb' 43 3, home := l.extractLsb' 64 64, hpitch := l.extractLsb' 128 32 }

/-- What a core's local memories and sidecars held is lost when another context becomes resident (chapter 12, R2, R51, R362): free lines,
and core-scope registers and delay table zeroed. -/
def loseLocal (s : State) (core : Nat) : State :=
  let lines := fun (per off : Nat) (m : List (Nat × Line)) =>
    (List.range per).foldl (fun m k => mset 0 m (core * per + k) (Config.freeLine (s.drawn + off + k))) m
  let sides := fun (per off : Nat) (m : List (Nat × Sidecar)) =>
    (List.range per).foldl (fun m k => mset {} m (core * per + k) (freeSidecar (Config.freeLine (s.drawn + off + k)))) m
  let s := { s with
    scratch := lines 3072 0 s.scratch, abuf := lines 2048 3072 s.abuf, wbuf := lines 4096 5120 s.wbuf, cbuf := lines 1024 9216 s.cbuf,
    aside := sides 32 10240 s.aside, wside := sides 64 10272 s.wside, drawn := s.drawn + 10336 }
  s.modCore core (fun c => { c with bfmt0 := 0, bfmt1 := 0, bfmt2 := 0, afmt := 0, wfmt := 0, cfmt := 0, cbk := [], mrland := 0, delays := [] })

/-- A search theft whose thief is on the core: its thread set stays granted and its copy stands again (R273). -/
def restoreThefts (s : State) (ctx : BitVec 12) (core : Nat) : State :=
  (s.thefts.filter (fun x => x.thief == core && x.ctx == ctx)).foldl (fun s x =>
    let s := s.modTset core x.thiefTs (fun t => { t with theftGrant := some x.id })
    if x.copied then putBytes (putBytes s core (thiefBase s x) (rootRecord x)) core x.sfbase.toNat x.frame else s) s

/-- A context becomes resident on a core: saved state restored, then the arrivals of its image in their order (R316); a message of the
image takes its arrival time now, as it rejoins the inbox (R215, R361).
What the instruction cache holds is fetched anew (R35). -/
def restoreCore (s : State) (ctx : BitVec 12) (core : Nat) : State :=
  let s := if (s.core core).last.any (· != ctx) then loseLocal s core else s
  let i := imageOf s ctx.toNat core
  let now := s.cycle core
  let s := modImage s ctx.toNat core (fun j => { arrivals := j.arrivals })
  let s := s.modCore core (fun c => { c with
    ctx := some ctx, last := some ctx, rcb := i.rcb.getD 0, inbox := i.slots.map (fun (x : Slot) => { x with since := now, arrival := s.now }),
    returned := i.returned, dqTop := i.dqTop, dqLen := i.deque.length, dqOwner := i.dqOwner, tagOff := i.tagOff, stopped := i.stopped,
    replyReserved := i.replyReserved, nextSteal := 0, nextTheft := 0, icache := [] })
  let s := loadRegions s ctx.toNat core
  let s := i.deque.zipIdx.foldl (fun s l => s.setScratchLine core (dequeLine (dequeAt (s.core core) l.2)) l.1) s
  let s := restoreThefts s ctx core
  let s := (i.slots.map (fun (x : Slot) => x.msg.tag)).eraseDups.foldl (fun s t => retestTag s core t) s
  admitReturned s core

/-- PREEMPTION_SAVE (R315): the work in progress has drained; what the context has on its cores is saved. -/
def execPreemptionSave (p : Nat) (s : State) : Outcome :=
  match (s.partition p).phase with
  | .preempting _ _ _ _ =>
    let cores := partitionCores s p
    match residentOf s p with
    | none => .next (s.modPartition p (fun t => { t with phase := .idle, pos := (t.pos + 1) % max 1 t.list.length }))
    | some ctx =>
      if cores.all (coreQuiet s ctx) then
        let s := cores.zipIdx.foldl (fun s c => saveCore s ctx c.1 c.2) s
        .next (tickQueues (s.modPartition p (fun t => { t with phase := .idle, pos := (t.pos + 1) % max 1 t.list.length })))
      else .next s
  | _ => .next s

/-- Whether a record of a context is queued or open (R314). -/
def launchQueued (s : State) (ctx : BitVec 12) : Bool :=
  s.launches.any (fun l => l.ctx == ctx && l.status.isNone) ||
    s.queues.any (fun q => queueValid s q.1 && (List.range (queueLen s q.1)).any (fun k =>
      recordCtx (unitReadBytes s (queueEntry s q.1 (queueField s q.1 20 4 + k)) 8) == ctx.toNat))

/-- Whether an entry's context has something to do: a queued launch, a saved message, or engine work (R314). -/
def hasWork (s : State) (p : Nat) (ctx : BitVec 12) : Bool :=
  match s.context ctx.toNat with
  | none => false
  | some c =>
    !c.killed && (launchQueued s ctx ||
      c.saved.any (fun i => !i.2.slots.isEmpty || !i.2.arrivals.isEmpty || !i.2.returned.isEmpty || !i.2.deque.isEmpty) ||
      (s.partition p).clusters.any (fun k =>
        (s.cluster k).stream.any (fun x => x.ctx == ctx) || (s.cluster k).graph.any (fun (r : GraphRec) => r.ctx == ctx)) ||
      s.leases.any (fun l => l.2.cmds.any (fun x => x.cmd.ctx == ctx)))

/-- CONTEXT_RESUME (R314, R316): the next entry of the list that has work becomes resident on every core of the partition; a system context
runs on service cores alone (R95). -/
def execContextResume (p : Nat) (s : State) : Outcome :=
  let t := s.partition p
  match t.phase with
  | .idle =>
    let order := (List.range t.list.length).map (fun k => (t.pos + k) % t.list.length)
    match order.find? (fun k => (t.list[k]?).any (fun e => hasWork s p e.ctx && !s.isSystem e.ctx.toNat)) with
    | none => .next s
    | some k =>
      match t.list[k]? with
      | none => .next s
      | some e =>
        let s := s.modPartition p (fun t => { t with phase := .running, pos := k, sliceEnd := s.now + 1000 * e.slice })
        let s := (partitionCores s p).foldl (fun s c => restoreCore s e.ctx c) s
        .next (tickQueues (graphClock s p e.ctx true))
  | _ => .next s

/-! ## The progress watchdog (R317) -/

/-- Nanoseconds that a queue's watchdog has counted. -/
def queueCounted (s : State) (q : Nat) : Nat :=
  (s.queue q).counted + (match (s.queue q).since with | some t => s.now - t | none => 0)
/-- The interval of a queue's watchdog, in ns: WDOG µs, 0 for 10,000. -/
def queueWdog (s : State) (q : Nat) : Nat :=
  let w := queueField s q 36 4
  1000 * (if w = 0 then 10000 else w)

/-- A queue's watchdog restarted, and the notice of its stall (R317). -/
def stallNotice (s : State) (q ctx : Nat) : State :=
  faultNotice (s.modQueue q (fun x => { x with counted := 0, since := x.since.map (fun _ => s.now) })) ctx 16 0 0 Config.noCore 0

/-- QUEUE_STALL (R317): the slice of the queue's context ends at once, and the pre-emption is forced. DESIGN CHOICE (log 75): a system context,
which is resident on service cores outside any slice, gets the notice alone. -/
def execQueueStall (q : Nat) (s : State) : Outcome :=
  if queueCounted s q < queueWdog s q then .next s
  else
    match queueOwner s q, countingCtxs s q with
    | some p, c :: rest =>
      match residentOf s p, (s.partition p).entry with
      | some ctx, some e =>
        if (c :: rest).contains ctx.toNat then
          match (s.partition p).phase with
          | .running => .next (stallNotice (endSlice s p ctx (.preempting s.now (1000 * e.limit) true false)) q ctx.toNat)
          | .preempting d l false o =>
            if d = s.now then .next (stallNotice (endSlice s p ctx (.preempting d l true o)) q ctx.toNat) else .next s
          | _ => .next s
        else .next (stallNotice s q c)
      | _, _ => .next (stallNotice s q c)
    | _, _ => .next s

/-! ## Migration (R318) -/

/-- The RCBs of a context that the device has met: its root, and the chains of its accepted launches. -/
def knownRcbs (s : State) (ctx : Nat) : List Word :=
  let r := ((s.context ctx).map (fun c => c.taken.map (·.rcb))).getD []
  if r.contains (rootOf s ctx) then r else rootOf s ctx :: r

/-- Whether a core may leave its place: no open co-resident launch on it, and no pinned RCB that lists it. -/
def mayLeave (s : State) (ctx old : Nat) : Bool :=
  s.launches.all (fun l => l.ctx.toNat != ctx || !l.coresident || !l.isOpen || !l.region.cores.contains old) &&
    (knownRcbs s ctx).all (fun r => let g := regionAt s ctx r; !g.pin || !g.cores.contains old)

/-- Whether a core is free for a context's share: of the partition, ready, listed nowhere, and with nothing of the context. -/
def freeFor (s : State) (ctx core : Nat) : Bool :=
  contextMayRun s ctx core && s.isReady (readyOffset core) &&
    (knownRcbs s ctx).all (fun r => !(regionAt s ctx r).cores.contains core) &&
    s.launches.all (fun l => l.ctx.toNat != ctx || !l.isOpen || !l.region.cores.contains core) &&
    (imageOf s ctx core).slots.isEmpty && (imageOf s ctx core).arrivals.isEmpty && (imageOf s ctx core).deque.isEmpty &&
    (imageOf s ctx core).returned.isEmpty

/-- A core's number rewritten in every CLIST of a context. -/
def rewriteClists (s : State) (ctx old new : Nat) : State :=
  (knownRcbs s ctx).foldl (fun s r =>
    if (rcbWord s r 8).getLsbD 3 then s
    else (clistOf s r).zipIdx.foldl (fun s c =>
      if c.1 = old then unitWrite s (ptrAddr (rcbWord s r 0x40) + 2 * c.2) 2 new else s) s) s

/-- The migration map with one move more: earlier moves lead to the new core. -/
def addMove (m : List (Nat × Nat)) (old new : Nat) : List (Nat × Nat) :=
  (m.filter (fun x => x.1 != new && x.1 != old)).map (fun x => if x.2 == old then (x.1, new) else x) ++ [(old, new)]

/-- The forwarding entries with one move more. -/
def forwardMove (s : State) (ctx : BitVec 12) (old new : Nat) : State :=
  let keep := fun (f : Forward) => !(f.ctx == ctx && (f.old == new || f.old == old))
  let lead := fun (f : Forward) => if f.ctx == ctx && f.new == old then { f with new := new } else f
  let s := { s with clusters := s.clusters.map (fun (c : Nat × Cluster) => (c.1, { c.2 with forwards := (c.2.forwards.filter keep).map lead })) }
  s.modCluster (clusterOf old) (fun u => { u with forwards := u.forwards ++ [⟨ctx, old, new, s.now⟩] })

/-- Whether a session that changes scheduling holds a core's die still (R366). -/
def migrationHeld (s : State) (core : Nat) : Bool :=
  match (s.die (dieOf core)).session with | some (_, false) => true | _ => false

/-- CORE_MIGRATION (R318): a context's share of one core moves to a free core of the partition. -/
def execCoreMigration (ctx old new : Nat) (s : State) : Outcome :=
  match s.context ctx with
  | none => .next s
  | some k =>
    let c : BitVec 12 := BitVec.ofNat 12 ctx
    let here := fun (n : Nat) => (s.core n).ctx == some c
    let quiet := fun (n : Nat) => !here n || (coreQuiet s c n && (s.thefts.all (fun x => x.ctx != c || (x.thief != n && x.victim != n))))
    let room := decide ((s.cluster (clusterOf old)).forwards.length < Config.forwardEntries)
    if !k.killed && !k.sys && old != new && isCompute old && isCompute new && contextMayRun s ctx old && freeFor s ctx new && mayLeave s ctx old &&
        room && quiet old && quiet new && !migrationHeld s old && !migrationHeld s new && here old == here new &&
        (!here new || ((s.core new).inbox.isEmpty && (s.core new).dqLen == 0 && (s.core new).returned.isEmpty)) then
      let live := here old
      let s := if live then saveCore (saveCore s c old 0) c new 0 else s
      let swap := fun (r : Region) => { r with cores := r.cores.map (fun n => if n = old then new else n) }
      let swapTaken := fun (t : Taken) => { t with region := swap t.region }
      let s := s.modContext ctx (fun k => { k with
        taken := k.taken.map swapTaken,
        saved := mset {} (mset {} k.saved new (mget {} k.saved old)) old {}, moved := addMove k.moved old new })
      let s := forwardMove (rewriteClists s ctx old new) c old new
      let s := { s with launches := s.launches.map (fun l =>
        if l.ctx == c then { l with region := swap l.region, taken := l.taken.map swapTaken } else l),
                        queues := s.queues.map (fun q => (q.1, { q.2 with accepted := q.2.accepted.map (fun a =>
        if recCtx a.record = ctx then { a with region := swap a.region, taken := a.taken.map swapTaken } else a) })) }
      .next (if live then restoreCore (restoreCore s c old) c new else s)
    else .next s

/-- FORWARDING_EXPIRY (R318): an entry goes after 100 µs. -/
def execForwardingExpiry (cluster k : Nat) (s : State) : Outcome :=
  match (s.cluster cluster).forwards[k]? with
  | some f => if f.made + 100000 ≤ s.now then .next (s.modCluster cluster (fun u => { u with forwards := dropAt u.forwards k })) else .next s
  | none => .next s

/-! ## Kill and reset (R349, R350) -/

/-- CONTEXT_KILL (R349): at the request of the supervisor. The kills of traps, overruns and resets happen within those steps. -/
def execContextKill (ctx : Nat) (s : State) : Outcome := .next (tickQueues (killContext ctx 3 Config.noCore 0 s))

/-- The contexts of a partition. -/
def contextsOf (s : State) (p : Nat) : List Nat :=
  s.contexts.filterMap (fun c => if c.2.any (fun k => k.partition == p) then some c.1 else none)

/-- The cores whose requests are tagged with a partition: its own, and service cores on which a system context of it is resident. -/
def requestCores (s : State) (p : Nat) : List Nat :=
  let mine := contextsOf s p
  partitionCores s p ++ (s.cores.map (·.1)).filter (fun c => !isCompute c && (s.core c).ctx.any (fun k => mine.contains k.toNat))

/-- Requests of a partition still in flight (R350 step 2): queued stores, results and acknowledgements awaited, writes held under
write-block, messages on their way, accesses to peers. -/
def inFlight (s : State) (p : Nat) : Nat :=
  let mine := (contextsOf s p).map (BitVec.ofNat 12)
  let cores := requestCores s p
  (cores.map (fun c => ((List.range 4).map (fun t =>
      let x := s.tset c t
      x.storeq.length + x.pend.length + x.unacked.length + x.releasing.length)).sum)).sum +
    (s.clusters.map (fun c => (c.2.hold.filter (fun h => h.stores.any (fun q => cores.contains q.core))).length)).sum +
    (s.cores.map (fun c => (c.2.inject.filter (fun e => mine.contains e.msg.ctx)).length)).sum +
    (s.mail.filter (fun m => mine.contains m.2.ctx)).length + (s.due.filter (fun d => mine.contains d.ctx)).length +
    (s.peerStores.filter (fun x => x.part == p)).length + (s.peerLoads.filter (fun x => x.part == p && x.reply.isNone)).length

/-- The same requests voided: unperformed writes are dropped, and replies discarded (R350 step 2). -/
def voidRequests (s : State) (p : Nat) : State :=
  let mine := (contextsOf s p).map (BitVec.ofNat 12)
  let cores := requestCores s p
  let s := cores.foldl (fun s c => (List.range 4).foldl (fun s t => s.modTset c t (fun x =>
    { x with storeq := [], pend := [], unacked := [], releasing := [], armAfter := none })) s) s
  { s with
    clusters := s.clusters.map (fun (c : Nat × Cluster) => (c.1, { c.2 with hold := (c.2.hold.map (fun h =>
      { h with stores := h.stores.filter (fun q => !cores.contains q.core) })).filter (fun h => !h.stores.isEmpty) })),
    cores := s.cores.map (fun (c : Nat × Core) => (c.1, { c.2 with inject := c.2.inject.filter (fun e => !mine.contains e.msg.ctx) })),
    mail := s.mail.filter (fun m => !mine.contains m.2.ctx), due := s.due.filter (fun d => !mine.contains d.ctx),
    peerStores := s.peerStores.filter (fun x => x.part != p), peerLoads := s.peerLoads.filter (fun x => x.part != p || x.reply.isSome) }

/-- What is still in flight 100 µs into the reset of a partition is dropped and counted (R350 step 2). -/
def voidPast (s : State) (p : Nat) : State :=
  match (s.partition p).resetting with
  | some (since, _) =>
    let n := inFlight s p
    if s.now < since + 100000 || n = 0 then s else (voidRequests s p).modPartition p (fun t => { t with voided := t.voided + n })
  | none => s

/-- REQUEST_VOID (R350 step 2): the requests of a partition in reset voided at their time. -/
def execRequestVoid (p : Nat) (s : State) : Outcome := .next (voidPast s p)

/-- The partition an owner belongs to (R320). -/
def ownerPartition (o : BitVec 20) : Nat := o.toNat / 2 ^ 13

/-- Consent records that name a partition, and the XP entries made under them, removed (R325). -/
def dropConsents (s : State) (p : Nat) : State :=
  let names := fun (c : Consent) => ownerPartition c.granter == p || ownerPartition c.target == p
  { s with
    partitions := s.partitions.map (fun t => (t.1, { t.2 with consents := t.2.consents.filter (fun c => !names c) })),
    owners := s.owners.map (fun o => (o.1, o.2.map (fun t => { t with entries := t.entries.filter (fun e =>
      !(e.xp && (o.1 / 2 ^ 13 == p || ownerPartition e.granter == p))) }))) }

/-- The cores, cache lines, Crucible, TLBs and PLBs, task graph slots and engines of a partition scrubbed (R350 step 3). -/
def scrubPartition (s : State) (p : Nat) : State :=
  let t := s.partition p
  let cores := partitionCores s p
  let s := scrubCores s cores
  let s := cores.foldl (fun s c => s.modCore c (fun k => { k with
    ctx := none, last := none, icache := [], tlb := [], plb := [], xfences := [], delays := [], brkStop := false, breaks := [], stopped := false })) s
  let s := { s with
    tsets := s.tsets.filter (fun x => !cores.contains (x.1 / 4)),
    clusters := s.clusters.map (fun (c : Nat × Cluster) =>
      let u := { c.2 with lines := c.2.lines.filter (fun l => !t.keys.contains l.x.key) }
      (c.1, if t.clusters.contains c.1 then { u with
        rights := [], tlb := [], barriers := [], stream := [], decisions := [], graph := [], prunes := [], hold := [], forwards := [] } else u)),
    leases := s.leases.filter (fun l => leasePartition l.1 != p) }
  { s with engines := s.engines.map (fun (e : Nat × PoolEngine) => (e.1, if e.2.slot.any (fun k => leasePartition k == p) then { e.2 with slot := none, plb := [] } else e.2)) }

/-- The keys of a partition rotated: what stands under them reads as its old ciphertext under the new key (R350 step 4, R376). -/
def rotateKeys (s : State) (p : Nat) : State :=
  { s with rotations := (s.partition p).keys.foldl (fun m k => mmod 0 m k (· + 1)) s.rotations }

/-- The holds of a partition on counter banks and trace units released; refused requesters are told (R365). -/
def releaseBank (s : State) (cl : Nat) : State :=
  let r := (s.cluster cl).refused
  let s := s.modCluster cl (fun u => { u with holder := none, refused := [] })
  r.foldl (fun s p => supervisorNotice s p 5 0 0 Config.noCore 0 0 (BitVec.ofNat 64 cl)) s
/-- See `releaseBank`; a notice names a trace unit as `OBSERVE` does, 0x80 + die (Table 23.3). -/
def releaseTrace (s : State) (d : Nat) : State :=
  let r := (s.die d).traceRefused
  let s := s.modDie d (fun u => { u with traceHolder := none, traceRefused := [], ring := 0, frames := 0, traceStopped := false })
  let s := (List.range 32).foldl (fun s c => s.modCluster (32 * d + c) (fun u => { u with traceQ := [], trace := {} })) s
  r.foldl (fun s p => supervisorNotice s p 5 0 0 Config.noCore 0 0 (BitVec.ofNat 64 (0x80 + d))) s
/-- Every hold of a partition on counter banks released. -/
def releaseBanks (s : State) (p : Nat) : State :=
  (List.range 64).foldl (fun s c => if (s.cluster c).holder == some p then releaseBank s c else s) s
/-- Every hold of a partition on trace units released. -/
def releaseTraces (s : State) (p : Nat) : State :=
  [0, 1].foldl (fun s d => if (s.die d).traceHolder == some p then releaseTrace s d else s) s

end Sys2Proof.Machine
end

