-- ==== Sys2Proof/Machine/Integrity.lean ====
section
/-! DEFINITION. Access counters (R334, R335) and data integrity: corrected and uncorrectable errors, the die bridge (R352 to R354,
R381). -/

namespace Sys2Proof.Machine

/-! ## Access counting -/

/-- The partition that owns the page of a counted unit: its key belongs to it (R330). -/
def unitPartition (s : State) (unit : Nat) : Nat :=
  let key := ((xlatOf s (unit * 65536)).map (·.key)).getD 0
  ((s.partitions.find? (fun p => p.2.keys.contains key)).map (·.1)).getD 0

/-- A notification record in a tier ring, and the NOTE message after it (R335, Tables 18.6 and 18.7), in the context resident on
NOTE's core (log 21). -/
def tierNotice (s : State) (p unit tier : Nat) : State :=
  let b := (s.partition p).tierBlock
  let ring := s.homeRead b 8
  let tail := s.homeRead (b + 8) 4
  let head := s.homeRead (b + 12) 4
  let log_ := s.homeRead (b + 16) 1 % 32
  if b = 0 then s
  else if ring = 0 ∨ (tail + 2 ^ 32 - head) % 2 ^ 32 = 2 ^ log_ then
    s.homeWrite (b + 24) 4 ((s.homeRead (b + 24) 4 + 1) % 2 ^ 32)
  else
    let w0 := s.homeRead (b + 18) 2 + tier % 4 * 2 ^ 21 + unit % 2 ^ 41 * 2 ^ 23
    let at_ := ring + 16 * (tail % 2 ^ log_)
    let s := unitWrite (unitWrite s at_ 8 w0) (at_ + 8) 8 (s.now % 2 ^ 64)
    let s := s.homeWrite (b + 8) 4 ((tail + 1) % 2 ^ 32)
    match noteOf (s.homeRead (b + 20) 4) with
    | some (c, pr, tg) => postUnit s c 0 tg pr ((s.core c).ctx.getD 0).toNat [BitVec.ofNat 64 w0]
    | none => s

/-- ACCESS_COUNT (R334): the oldest request to a counted page adds to its counter; at THRESH a record is written. -/
def execAccessCount (s : State) : Outcome :=
  match s.countQ with
  | [] => .next s
  | (unit, tier) :: rest =>
    let n := mget 0 s.counts unit
    let s := { s with countQ := rest, counts := mset 0 s.counts unit (min 65535 (n + 1)) }
    let p := unitPartition s unit
    if n < 65535 && n + 1 == s.homeRead ((s.partition p).tierBlock + 18) 2 then .next (tierNotice s p unit tier) else .next s

/-! ## Errors -/

/-- A corrected error of a partition; each CETHR of them write a notice of code 3 (R352). -/
def correctedError (s : State) (p : Nat) : State :=
  let s := s.modPartition p (fun t => { t with corrected := t.corrected + 1, sinceNotice := t.sinceNotice + 1 })
  let t := s.partition p
  let thr := s.homeRead (t.supBlock + 36) 4
  if t.supBlock != 0 && thr != 0 && decide (thr ≤ t.sinceNotice) then
    supervisorNotice (s.modPartition p (fun t => { t with sinceNotice := 0 })) p 3 0 0 Config.noCore 0 t.sinceNotice 0
  else s

/-- An uncorrectable error in an SRAM array, by kind (R353): a scratchpad word; an operand or a sidecar of the first Anvil command of a
core; a word of a cluster-cache line; a running stream command; a message of an inbox; an entry of an L1 TLB or PLB, which is dropped and
found again (log 63); a Crucible line, which counts as read at once (log 63); a line of a typed buffer; a word of an instruction-cache line; a
sidecar. -/
def sramError (s : State) (kind x : Nat) : State :=
  match kind with
  | 0 => { s with sramBad := mset false s.sramBad x true }
  | 1 => s.modCore x (fun c => { c with anvil := modAt (fun (a : AnvilCmd) => { a with bad := true }) c.anvil 0 })
  | 2 => s.modCluster (x % 64) (fun u => { u with lines := modAt (fun (l : CacheLine) => { l with bad := l.bad ||| 1#8 <<< (x / 64 % 8) }) u.lines (x / 512) })
  | 3 => s.modCluster (x % 64) (fun u => { u with stream := modAt (fun (c : StreamCmd) =>
        if c.engine.isSome && !c.fin then { c with status := 4, fin := true } else c) u.stream (x / 64) })
  | 4 => s.modCore (x % 2048) (fun c => { c with inbox := modAt (fun (y : Slot) => { y with msg := { y.msg with bad := true } }) c.inbox (x / 2048) })
  | 5 => s.modCore (x % 2048) (fun c => { c with tlb := dropAt c.tlb (x / 2048) })
  | 6 => s.modCore (x % 2048) (fun c => { c with plb := dropAt c.plb (x / 2048) })
  | 7 =>
    match (s.cluster (x % 64)).decisions[x / 128]? with
    | some d => crucibleError s (x % 64) d (x / 64 % 2)
    | none => s
  | 8 => { s with abufBad := mset false s.abufBad x true }
  | 9 => { s with wbufBad := mset false s.wbufBad x true }
  | 10 => { s with cbufBad := mset false s.cbufBad x true }
  | 11 => s.modCore (x % 2048) (fun c =>
      match c.icache[x / 16384]? with
      | some l => { c with icacheBad := mmod 0 c.icacheBad l.1 (fun b => b ||| 1#8 <<< (x / 2048 % 8)) }
      | none => c)
  | 12 => { s with asideBad := mset false s.asideBad x true }
  | 13 => { s with wsideBad := mset false s.wsideBad x true }
  | _ => s
where
  /-- A side that loses what it holds: running, it has met `DATA_UC`; ended, its first line is not committed. -/
  crucibleError (s : State) (cl : Nat) (d : Decision) (side : Nat) : State :=
    let y := (d.sides[side]?).getD {}
    match y.act.bind (findAct s) with
    | some (c, t) => s.modTset c t (fun t => { t with act := t.act.map (fun a => { a with specTrap := some 0x14 }) })
    | none => modSide s (cl, d.id, side) (fun z => { z with held := z.held.tail })

/-- What an uncorrectable error leaves for its consumer at a place of Table 20.8 (R353, R354). Memory keeps the unit; an SRAM array
as above; a register file a g, p, c or v register; a lost flit a result, a message or a write; a Prakeric port goes down. -/
def errorAt (s : State) (place at_ : Nat) : State :=
  let x := at_ / 4
  match place with
  | 1 | 7 | 8 => { s with eccBad := mset false s.eccBad (at_ / 64) true }
  | 2 => sramError s (at_ % 16) (at_ / 16)
  | 3 =>
    let r := at_ / 2 % 64
    s.modTset (at_ / 512) (at_ / 128 % 4) (fun t =>
      if at_ % 2 = 1 then { t with vPar := t.vPar ||| 1#32 <<< (r % 32) }
      else if r = 0 || r = predNum 0 then t else { t with gPar := t.gPar ||| 1#56 <<< r })
  | 4 =>
    match at_ % 4 with
    | 0 => s.modTset (x / 4 % 2048) (x % 4) (fun t => { t with pend := modAt (fun (p : Pend) => { p with bad := true }) t.pend (x / 8192) })
    | 1 => { s with mail := dropAt s.mail x }
    | 2 => s.modCore (x % 2048) (fun c => { c with inject := dropAt c.inject (x / 2048) })
    | _ => s.modTset (x / 4) (x % 4) (fun t => { t with storeq := dropAt t.storeq 0 })
  | 6 => s.modPort at_ (fun p => { p with down := true })
  | _ => s

/-- The cluster of an SRAM array by kind. -/
def sramCluster (kind x : Nat) : Nat :=
  match kind with
  | 0 => clusterOf (x / 24576)
  | 1 => clusterOf x
  | 2 | 3 | 7 => x % 64
  | 8 => clusterOf (x / 2048)
  | 9 => clusterOf (x / 4096)
  | 10 => clusterOf (x / 1024)
  | 12 => clusterOf (x / 32)
  | 13 => clusterOf (x / 64)
  | _ => clusterOf (x % 2048)

/-- The partition whose key the memory unit at a physical address was last written under (R376). -/
def keyOwner (s : State) (pa : Nat) : Option Nat :=
  (s.partitions.find? (fun x => x.2.made && x.2.keys.contains (mget (0, 0) s.under (pa / 64)).1)).map (·.1)

/-- The partition of what runs on a core: of its thread set's activation, else of its resident context, else of its cluster. -/
def coreOwner (s : State) (core ts : Nat) : Option Nat :=
  match ((s.tset core ts).act.map (·.msg.ctx)).orElse (fun _ => (s.core core).ctx) with
  | some c => some (s.partitionOf c.toNat)
  | none => if isCompute core then s.clusterOwner (clusterOf core) else none

/-- The partition of an on-chip flit that is lost: of the thread set, or of the message that it carried. -/
def flitOwner (s : State) (at_ : Nat) : Option Nat :=
  let x := at_ / 4
  match at_ % 4 with
  | 0 => coreOwner s (x / 4 % 2048) (x % 4)
  | 1 => (s.mail[x]?).map (fun m => s.partitionOf m.2.ctx.toNat)
  | 2 => ((s.core (x % 2048)).inject[x / 2048]?).map (fun e => s.partitionOf e.msg.ctx.toNat)
  | _ => coreOwner s (x / 4) (x % 4)

/-- The partition of the traffic of a Prakeric port: the one named where it has a request out there, else the oldest that has. -/
def linkOwner (s : State) (p port : Nat) : Option Nat :=
  let out := (s.peerLoads.filter (fun x => x.port == port && x.reply.isNone)).map (·.part) ++ (s.peerStores.filter (fun x => x.port == port)).map (·.part)
  if out.contains p then some p else out.head?

/-- The partition that owns what stands at a place, or sent the traffic (R352, R353): of the HBM slice, of the array's cluster, of the core, of
the flit, of the link's requests, of the memory's key; where that is none, the one named. -/
def placeOwner (s : State) (p place at_ : Nat) : Nat :=
  (match place with
  | 1 => (s.partitions.find? (fun (x : Nat × Partition) => x.2.slicesHbm.contains (at_ / 2 ^ 30))).map (fun (x : Nat × Partition) => x.1)
  | 2 => s.clusterOwner (sramCluster (at_ % 16) (at_ / 16))
  | 3 => coreOwner s (at_ / 512) (at_ / 128 % 4)
  | 4 => flitOwner s at_
  | 6 => linkOwner s p at_
  | 7 | 8 => keyOwner s at_
  | _ => none).getD p

/-- An uncorrectable error: counted, reported to the partition that owns the memory or sent the traffic, and left for its
consumer (R353). -/
def uncorrectableError (s : State) (p place at_ : Nat) : State :=
  let p := placeOwner s p place at_
  let s := s.modPartition p (fun t => { t with uncorrected := t.uncorrected + 1 })
  let pa := if place == 1 || place == 7 || place == 8 then at_ else 0
  supervisorNotice (errorAt s place at_) p 2 place 0 Config.noCore 0 0 (BitVec.ofNat 64 pa)

/-- UNCORRECTABLE (R353): an error the checks of Table 20.8 detect and cannot correct; the die bridge has a step of its own. -/
def execUncorrectable (p place at_ : Nat) (s : State) : Outcome :=
  if place = 0 || 8 < place || place = 5 then .next s else .next (uncorrectableError s p place at_)

/-- Whether a word of HBM or of an SRAM array holds an uncorrectable error already. -/
def alreadyBad (s : State) (place at_ : Nat) : Bool :=
  if place = 1 then s.eccFails at_
  else
    let x := at_ / 16
    match at_ % 16 with
    | 0 => mget false s.sramBad x
    | 1 => ((s.core x).anvil.head?).any (·.bad)
    | 2 => ((s.cluster (x % 64)).lines[x / 512]?).any (fun l => l.bad.getLsbD (x / 64 % 8))
    | 4 => ((s.core (x % 2048)).inbox[x / 2048]?).any (·.msg.bad)
    | 8 => mget false s.abufBad x
    | 9 => mget false s.wbufBad x
    | 10 => mget false s.cbufBad x
    | 11 => ((s.core (x % 2048)).icache[x / 16384]?).any (fun l => (mget 0 (s.core (x % 2048)).icacheBad l.1).getLsbD (x / 2048 % 8))
    | 12 => mget false s.asideBad x
    | 13 => mget false s.wsideBad x
    | _ => false

/-- PATROL_SCRUB (R352): a word of HBM (place 1) or of an SRAM array (2) is read, by the scrub or by anyone, or a flit of the die bridge
(5) or of a CXL or host port (7, 8) is sent again. A corrected value is written back and counted; an uncorrectable one is reported without a
consumer. -/
def execPatrolScrub (p place at_ : Nat) (bad : Bool) (s : State) : Outcome :=
  if place = 1 || place = 2 then
    if bad || alreadyBad s place at_ then .next (uncorrectableError s p place at_) else .next (correctedError s (placeOwner s p place at_))
  else if (place = 5 || place = 7 || place = 8) && !bad then .next (correctedError s p)
  else .next s

/-- The offsets in the bring-up page of the functions of a die (R381): those named by number lie on die 0 in their lower half, and
the host port on die 0 (log 20). -/
def dieOffsets (d : Nat) : List Nat :=
  let half := fun (base n : Nat) => (List.range n).map (fun k => base + d * n + k)
  half 0 32 ++ half 0x40 4 ++ half 0x48 2 ++ half 0x50 8 ++ (if d = 0 then [0x60] else []) ++ half 0x68 4 ++ half 0x100 128

/-- The byte of a function of the bring-up page, in the device and in the page (R381). -/
def setReady (s : State) (offset : Nat) (b : Byte) : State :=
  { s with ready := mset 0 s.ready offset b }.homeWrite (ptrAddr s.bupage + offset) 1 b.toNat

/-- DIE_BRIDGE_FAILURE (R352, R381): the retries of a flit are exhausted; every partition is told, and the functions of the other
die are READY no more. The die named goes on. -/
def execDieBridgeFailure (die : Nat) (s : State) : Outcome :=
  if 1 < die || (s.die die).bridgeDown then .next s
  else
    let gone := dieOffsets (1 - die)
    let s := gone.foldl (fun s o => setReady s o (mget 0 s.ready o &&& 0xFE)) s
    let s := s.modDie die (fun d => { d with bridgeDown := true })
    let told := s.partitions.filterMap (fun (p : Nat × Partition) => if p.2.made then some p.1 else none)
    .next (told.foldl (fun s p =>
      supervisorNotice (s.modPartition p (fun t => { t with uncorrected := t.uncorrected + 1 })) p 2 5 0 Config.noCore 0 0 0) s)

end Sys2Proof.Machine
end

