-- ==== Sys2Proof/Machine/Observe.lean ====
section
/-! DEFINITION. Observation: features and their closing, sessions, trace frames (R359, R365 to R368). -/

namespace Sys2Proof.Machine

/-! ## Features (R359) -/

/-- The features of a partition that are open. -/
def openFeatures (s : State) (p : Nat) : BitVec 6 :=
  (List.range 6).foldl (fun b k => if featureOpen s p k then b ||| 1#6 <<< k else b) 0

/-- A stepping activation runs on: its watchdog counts cycles again (R369). -/
def leaveStep (s : State) (core ts : Nat) : State :=
  let now := s.cycle core
  s.modTset core ts (fun x =>
    if x.act.any (·.stepping) then
      { x with steps := 0, wdogEnd := now + x.wdogEnd, act := x.act.map (fun (a : Act) => { a with stepping := false }) }
    else x)

/-- The cores of a partition dispatch again, its stepping activations run on, and the watchdogs of its queues count again (R359, R369). -/
def resumeAll (s : State) (p : Nat) : State :=
  tickQueues <|
  let s := (partitionCores s p).foldl (fun s c =>
    let s := s.modCore c (fun k => { k with stopped := false, brkStop := false, breaks := [] })
    (List.range 4).foldl (fun s t => leaveStep s c t) s) s
  { s with contexts := s.contexts.map (fun (c : Nat × Option Context) => (c.1, c.2.map (fun (k : Context) =>
      if k.partition == p then { k with saved := k.saved.map (fun (i : Nat × CoreImage) => (i.1, { i.2 with stopped := false })) } else k))) }

/-- Features close: what each of them held goes, and the supervisor is told (R359). -/
def closeFeatures (s : State) (p : Nat) (gone : BitVec 6) : State :=
  if gone = 0 then s
  else
    let s := if gone.getLsbD 0 then releaseBanks s p else s
    let s := if gone.getLsbD 2 then releaseTraces s p else s
    let s := if gone.getLsbD 3 then resumeAll s p else s
    supervisorNotice s p 7 0 0 Config.noCore 0 0 0

/-- A policy whose time is over goes, and with it what it held (R359). -/
def settlePolicy (s : State) (p : Nat) : State :=
  match (s.partition p).policy with
  | some (f, expiry) =>
    if s.now < expiry then s
    else
      let live := match (s.partition p).tdi with | .running => true | _ => false
      closeFeatures (s.modPartition p (fun t => { t with policy := none })) p (if live then f else 0)
  | none => s

/-- Closes every feature of a partition: on entry to CONFIG_LOCKED or ERROR (R359). -/
def closeAll (s : State) (p : Nat) : State :=
  let s := settlePolicy s p
  let gone := openFeatures s p
  closeFeatures (s.modPartition p (fun t => { t with opened := 0, policy := none })) p gone

/-- POLICY_EXPIRY (R359). -/
def execPolicyExpiry (p : Nat) (s : State) : Outcome := .next (settlePolicy s p)

/-! ## Sessions (R366) -/

/-- The notices at the start and the end of a session: every partition with clusters on the die. -/
def sessionNotices (s : State) (die : Nat) (start : Bool) : State :=
  let told := s.partitions.filterMap (fun (p : Nat × Partition) => if p.2.clusters.any (fun c => c / 32 == die) then some p.1 else none)
  told.foldl (fun s p => supervisorNotice s p 6 0 0 Config.noCore 0 0 (BitVec.ofNat 64 (die + (if start then 256 else 0)))) s

/-- The session of a die ends. -/
def endSession (s : State) (die : Nat) : State := sessionNotices (s.modDie die (fun d => { d with session := none })) die false

/-- CLOCK_LOCK_SESSION (R366): a session granted by the PF starts while the VF's LOCK is open, or ends. Locked clocks run at full
rate: no cluster of the die is stretched. -/
def execClockLockSession (die vf : Nat) (clocks start : Bool) (s : State) : Outcome :=
  if start then
    if (s.die die).session.isNone && decide (die < 2) && decide (0 < vf) && featureOpen s vf 5 then
      let s := s.modDie die (fun d => { d with session := some (vf, clocks) })
      let s := if clocks then (List.range 32).foldl (fun s c => s.modCluster (32 * die + c) (fun u => { u with stretched := false })) s else s
      .next (sessionNotices s die true)
    else .next s
  else if (s.die die).session == some (vf, clocks) then .next (endSession s die) else .next s

/-! ## Trace frames (R367, R368) -/

/-- The delta of a record: its code and bytes. -/
def deltaBytes (d : Nat) : Nat × List Byte :=
  if d < 2 ^ 8 then (1, bytesOf 1 d) else if d < 2 ^ 16 then (2, bytesOf 2 d) else (3, bytesOf 4 d)

/-- A record as bytes, after the time of the one before it (R368, Table 22.6). -/
def traceRecordBytes (e : TraceEvent) (last now : Nat) : List Byte :=
  let d := now - last
  let one := fun (dw : Nat) (delta : List Byte) => BitVec.ofNat 8 (64 * dw + e.kind % 64) :: (delta ++ e.payload)
  if 2 ^ 32 ≤ d then (1 : Byte) :: (bytesOf 8 now ++ one 1 [0])
  else one (deltaBytes d).1 (deltaBytes d).2

/-- The header of a frame (Table 22.5). -/
def frameHeader (s : State) (cluster : Nat) (t : TraceStream) : List Byte :=
  let w1 : Word := (BitVec.ofInt 32 s.offs).setWidth 64 <<< 32 ||| (BitVec.ofNat 12 t.fseq).setWidth 64 <<< 8 |||
    (if t.lost then 0x80 else 0) ||| BitVec.ofNat 64 (cluster % 64)
  bytesOf 8 s.now ++ wordBytes w1

/-- The address of a frame of a die's ring. -/
def frameAt (d : Die) (k : Nat) : Nat := d.ring + 4096 * k

/-- The rest of a cluster's open frame filled with pad. -/
def padFrame (s : State) (cluster : Nat) : State :=
  let t := (s.cluster cluster).trace
  match t.frame with
  | some k => unitWriteBytes s (frameAt (s.die (cluster / 32)) k + t.fill) (copies (4096 - t.fill) 0)
  | none => s

/-- The number of the next frame of a die's ring in which no other cluster is writing. -/
def nextFrame (s : State) (cluster : Nat) (d : Die) : Option Nat :=
  let taken := fun (k : Nat) => (List.range 32).any (fun c =>
    let o := 32 * (cluster / 32) + c
    o != cluster && (s.cluster o).trace.frame == some (k % 2 ^ d.ringLog))
  ((List.range (min 33 (2 ^ d.ringLog))).map (d.frames + ·)).find? (fun k => !taken k)

/-- The next frame of a cluster's stream, when the unit can give it one: in stop mode it stops at the full ring. -/
def openFrame (s : State) (cluster : Nat) : Option State :=
  let die := cluster / 32
  let d := s.die die
  let t := (s.cluster cluster).trace
  if d.ring = 0 || d.traceStopped || (d.stopMode && decide (2 ^ d.ringLog ≤ d.frames)) then none
  else
    (nextFrame s cluster d).map (fun n =>
      let k := n % 2 ^ d.ringLog
      let s := unitWriteBytes s (frameAt d k) (frameHeader s cluster t)
      let s := s.modDie die (fun d => { d with frames := n + 1 })
      s.modCluster cluster (fun u => { u with trace := ⟨some k, 16, s.now, (t.fseq + 1) % 4096, false⟩ }))

/-- A record written at the end of the open frame. -/
def putRecord (s : State) (cluster : Nat) (bs : List Byte) : State :=
  let t := (s.cluster cluster).trace
  match t.frame with
  | some k =>
    let s := unitWriteBytes s (frameAt (s.die (cluster / 32)) k + t.fill) bs
    s.modCluster cluster (fun u => { u with trace := { t with fill := t.fill + bs.length, last := s.now } })
  | none => s

/-- A record that the unit cannot write is dropped: LOST stands in the next frame written. -/
def loseRecord (s : State) (cluster : Nat) : State :=
  s.modCluster cluster (fun u => { u with trace := { u.trace with frame := none, lost := true } })

/-- TRACE_RECORD (R367): the oldest event at a cluster's trace port is stamped and written. -/
def execTraceRecord (cluster : Nat) (s : State) : Outcome :=
  match (s.cluster cluster).traceQ with
  | [] => .next s
  | e :: rest =>
    let s := s.modCluster cluster (fun u => { u with traceQ := rest })
    let t := (s.cluster cluster).trace
    let bs := traceRecordBytes e t.last s.now
    if t.frame.isSome && decide (t.fill + bs.length ≤ 4096) then .next (putRecord s cluster bs)
    else
      match openFrame (padFrame s cluster) cluster with
      | some s => .next (putRecord s cluster (traceRecordBytes e s.now s.now))
      | none => .next (loseRecord (padFrame (s.modDie (cluster / 32) (fun d => { d with traceStopped := d.traceStopped || d.stopMode })) cluster) cluster)

end Sys2Proof.Machine
end

