-- ==== Sys2Proof/Machine/Mailbox.lean ====
section
/-! DEFINITION. The mailboxes of the host port (R295, R300, R360, R365, R369, R371, R372). -/

namespace Sys2Proof.Machine

/-- A mailbox command (Table 23.2). -/
structure MailCmd where
  op : Nat
  cid : Nat
  len : Nat
  a : Word
  b : Nat
  data : List Word
  /-- An unknown OP or a nonzero reserved bit. -/
  bad : Bool
  deriving DecidableEq, Repr

/-- The mailbox of a function. -/
def State.mailbox (s : State) (fn : Nat) : Mailbox := (s.partition fn).mailbox
/-- The state with a mailbox changed. -/
def State.modMailbox (s : State) (fn : Nat) (f : Mailbox → Mailbox) : State :=
  s.modPartition fn (fun p => { p with mailbox := f p.mailbox })
/-- Word `k` of a command in host memory. -/
def hostWord (s : State) (at_ : Nat) : Word := BitVec.ofNat 64 (natOfBytes (hostRead s at_ 8))
/-- Data word `k` of a command. -/
def MailCmd.word (c : MailCmd) (k : Nat) : Word := (c.data[k]?).getD 0

/-- The command at the head of a mailbox's ring, unless another unit is answering it (R371). -/
def nextCommand (s : State) (fn : Nat) : Option MailCmd :=
  let b := s.mailbox fn
  if b.head = b.tail || b.sqLen = 0 || b.busy then none
  else
    let at_ := b.sq + 64 * (b.head % b.sqLen)
    let w := fun k => hostWord s (at_ + 8 * k)
    let op := (w 0).toNat % 256
    some { op := op, cid := fieldN (w 0) 16 16, len := (w 1).toNat, a := w 2, b := (w 3).toNat,
           data := (List.range 4).map (fun k => w (4 + k)), bad := op = 0 || 8 < op || (op = 8 && fn != 0) || fieldN (w 0) 8 8 != 0 || fieldN (w 0) 32 32 != 0 }

/-- The command of a function executed, once the host port answers: `DENIED` while its VF is reset (R350, R382), `BAD` when malformed,
nothing when it is another operation's. -/
def mailboxRun (fn op : Nat) (body : State → MailCmd → State) (s : State) : Outcome :=
  match nextCommand s fn with
  | none => .next s
  | some c =>
    if !hostUp s || (c.op != op && !c.bad) then .next s
    else if (s.partition fn).resetting.isSome then .next (mailboxDone s fn c.cid 3 (s.mailbox fn).moved 0)
    else if c.bad then .next (mailboxDone s fn c.cid 5 0 0)
    else .next (body s c)

/-! ## The doorbell -/

/-- A byte that the host's processors write: in the memory that its mailbox rings and buffers stand in, by host address, or in a page of
the host tier, by the device's virtual address of it (R254, R263). -/
def hostByte (s : State) (page a : Nat) (b : Byte) : State :=
  if page = 0 then hostWrite s a [b]
  else
    match xlatOf s (a % 2 ^ 57) with
    | some x => if x.tier = 2 then s.homeWriteBytes [(x.pa, b)] else s
    | none => s

/-- Bytes that the host has written to its memory since the last doorbell, as the environment gives them (log 3). -/
def hostInput : Nat → State → State
  | 0, s => s
  | n + 1, s =>
    let (page, s) := s.choose 2
    let (a, s) := s.choose (2 ^ 64)
    let (b, s) := s.choose 256
    hostInput n (hostByte s page a (BitVec.ofNat 8 b))

/-- The rings of a mailbox and its MSI-X vector, 256 of the PF and 64 of each VF (Table 23.1), as the host configures them before its first
doorbell (log 3). -/
def ringSetup (s : State) (fn : Nat) : State :=
  if (s.mailbox fn).sqLen = 0 then
    let (sq, s) := s.choose (2 ^ 64)
    let (n, s) := s.choose (2 ^ 32)
    let (cq, s) := s.choose (2 ^ 64)
    let (m, s) := s.choose (2 ^ 32)
    let (v, s) := s.choose (if fn = 0 then 256 else 64)
    s.modMailbox fn (fun b => { b with sq := sq, sqLen := n + 1, cq := cq, cqLen := m + 1, vector := v })
  else s

/-- MAILBOX_DOORBELL (R371): the host writes the tail. -/
def execMailboxDoorbell (fn tail : Nat) (s : State) : Outcome :=
  if 64 < fn || !hostUp s then .next s
  else
    let s := ringSetup s fn
    let (n, s) := s.choose (2 ^ 32)
    .next ((hostInput n s).modMailbox fn (fun b => { b with tail := tail }))

/-! ## WRITE and READ -/

/-- The host owner of a partition (R371). -/
def hostOwner (fn : Nat) : BitVec 20 := BitVec.ofNat 20 (fn * 2 ^ 13 + 0x1FFF)

/-- The rights check of a mailbox access: 7 RIGHTS (R138, R372). -/
def mailRights (s : State) (fn : Nat) (p : Word) (n : Nat) (need : BitVec 5) : Option Nat :=
  (tableDecision s (hostOwner fn) (ptrGen p) (ptrAddr p) n need false).map (fun _ => 7)

/-- Whether the length of a `WRITE` or `READ` is allowed. -/
def lengthOk (c : MailCmd) (isWrite : Bool) : Bool :=
  (isWrite && decide (1 ≤ c.len) && decide (c.len ≤ 32)) || (c.len % 64 == 0 && decide (0 < c.len) && decide (c.len ≤ 2 ^ 24))

/-- The status of a failed access of the pool's operations: 8 XLATE, 6 DATA_UC. -/
def ioStatus (n : Nat) : Nat := if n = 4 then 6 else 8

/-- The next piece of a `WRITE` or `READ`, within one 64-byte unit: the address, its length, and whether anything is left. -/
def mailPiece (s : State) (fn : Nat) (c : MailCmd) : Option (Word × Nat) :=
  let m := (s.mailbox fn).moved
  if c.len ≤ m then none
  else
    let p := c.a + BitVec.ofNat 64 m
    some (p, min (64 - ptrAddr p % 64) (c.len - m))

/-- Bytes moved by the command under way. -/
def mailMoved (s : State) (fn n : Nat) : State := s.modMailbox fn (fun b => { b with moved := b.moved + n })

/-- The bytes that a `WRITE` takes: inline up to 32, else from host memory. -/
def writeSource (s : State) (fn : Nat) (c : MailCmd) (n : Nat) : List Byte :=
  let m := (s.mailbox fn).moved
  if c.len ≤ 32 then ((c.data.flatMap wordBytes).drop m).take n else hostRead s (c.b + m) n

/-- Pieces of a `WRITE` moved, as far as nothing holds it back; a failed piece ends it (R372). -/
def writePieces (fn : Nat) (c : MailCmd) : Nat → State → State
  | 0, s => s
  | k + 1, s =>
    match mailPiece s fn c with
    | none =>
      if storesAway s (engineCache (mailUnit fn)) then s
      else mailboxDone s fn c.cid 0 (s.mailbox fn).moved 0
    | some (p, n) =>
      match mailRights s fn p n rightW with
      | some st => mailboxDone s fn c.cid st (s.mailbox fn).moved 0
      | none =>
        let l := setLineBytes 0 ((writeSource s fn c n).zipIdx.map (fun b => (b.2, b.1)))
        match poolWrite s (mailUnit fn) (ptrAddr p) n l with
        | .done s _ => writePieces fn c k (mailMoved s fn n)
        | .wait s => s
        | .fail st => mailboxDone s fn c.cid (ioStatus st) (s.mailbox fn).moved 0

/-- Pieces of a `READ` moved: published values (R263). -/
def readPieces (fn : Nat) (c : MailCmd) : Nat → State → State
  | 0, s => s
  | k + 1, s =>
    match mailPiece s fn c with
    | none => mailboxDone s fn c.cid 0 (s.mailbox fn).moved 0
    | some (p, n) =>
      match mailRights s fn p n rightR with
      | some st => mailboxDone s fn c.cid st (s.mailbox fn).moved 0
      | none =>
        let o := ptrAddr p % 64
        match poolRead s (mailUnit fn) (hostOwner fn) (ptrAddr p - o) with
        | .done s l => readPieces fn c k (mailMoved (hostWrite s (c.b + (s.mailbox fn).moved) ((List.range n).map (fun k => lineByte l (o + k)))) fn n)
        | .wait s => s
        | .fail st => mailboxDone s fn c.cid (ioStatus st) (s.mailbox fn).moved 0

/-- MAILBOX_WRITE (R371): some pieces of a `WRITE`; how many, the environment chooses (log 3). -/
def execMailboxWrite (fn : Nat) (s : State) : Outcome :=
  mailboxRun fn 1 (fun s c =>
    if lengthOk c true then
      let (n, s) := s.choose (2 ^ 19)
      writePieces fn c (n + 1) s
    else mailboxDone s fn c.cid 5 0 0) s

/-- MAILBOX_READ (R371). -/
def execMailboxRead (fn : Nat) (s : State) : Outcome :=
  mailboxRun fn 2 (fun s c =>
    if lengthOk c false then
      let (n, s) := s.choose (2 ^ 19)
      readPieces fn c (n + 1) s
    else mailboxDone s fn c.cid 5 0 0) s

/-! ## ENQUEUE, DIRECT, DEBUG, POLICY, OBSERVE -/

/-- ENQUEUE (R295, Table 23.3): DENIED, BAD, QFULL, or the record is in the queue. -/
def execEnqueue (fn : Nat) (s : State) : Outcome :=
  mailboxRun fn 3 (fun s c =>
    let q := c.a.toNat
    if !queueOf s fn q then mailboxDone s fn c.cid 3 0 0
    else if !queueValid s q then mailboxDone s fn c.cid 5 0 0
    else if queueFull s q then mailboxDone s fn c.cid 1 0 0
    else mailboxDone (enqueueRecord s q (hostRead s c.b 128)) fn c.cid 0 0 0) s

/-- The state with a command given to another unit, which completes it. -/
def mailBusy (s : State) (fn : Nat) : State := s.modMailbox fn (fun b => { b with busy := true })

/-- DIRECT (R300, R371): the request goes to its core; its context must be of the function's partition. -/
def execDirect (fn : Nat) (s : State) : Outcome :=
  mailboxRun fn 4 (fun s c =>
    let ctx : BitVec 12 := c.a.extractLsb' 48 12
    let core := fieldN c.a 0 10
    if fieldN c.a 10 38 != 0 || fieldN c.a 60 4 != 0 then mailboxDone s fn c.cid 5 0 0
    else if (s.context ctx.toNat).isNone || s.partitionOf ctx.toNat != fn then mailboxDone s fn c.cid 3 0 0
    else
      let d : Direct := ⟨ctx, core, BitVec.ofNat 64 c.b, c.data.take 2, some fn, c.cid, 0, 0, s.now⟩
      mailBusy { s with directs := s.directs ++ [d] } fn) s

/-- DEBUG (R369, Table 22.7): delivered to a core of the partition while its STOP is open. The framing of code 5 beyond Table 23.3
is the model's (log 22): word 1 names the register, a nonzero LEN makes it a WRITE, of word 2 or of 64 bytes at B. -/
def execDebug (fn : Nat) (s : State) : Outcome :=
  mailboxRun fn 5 (fun s c =>
    let code := fieldN (c.word 0) 0 8
    let core := fieldN (c.word 0) 8 10
    if code = 0 || 7 < code || fieldN (c.word 0) 22 42 != 0 then mailboxDone s fn c.cid 5 0 0
    else if !featureOpen s fn 3 || !(partitionCores s fn).contains core then mailboxDone s fn c.cid 3 0 0
    else
      let l := setLineBytes 0 ((hostRead s c.b 64).zipIdx.map (fun b => (b.2, b.1)))
      let d : DebugCmd := { code := code, sel := fieldN (c.word 0) 18 4, value := if code = 5 then c.word 2 else c.word 1, reg := c.word 1,
                            fn := fn, cid := c.cid, write := c.len != 0, line := l, host := c.b }
      mailBusy (s.modCore core (fun k => { k with debugIn := k.debugIn ++ [d] })) fn) s

/-- Whether a debug policy is accepted (R360, Table 22.2). -/
def policyOk (s : State) (fn : Nat) (body sig : List Byte) : Bool :=
  let n := fun (o k : Nat) => natOfBytes ((body.drop o).take k)
  let t := s.partition fn
  Config.policyVerifies body sig t.keyHash && n 0 4 == 0x50474244 && n 4 2 == 1 && n 6 2 == fn && decide (1 ≤ fn) && n 16 32 == t.nonce.toNat &&
    decide (s.now < n 48 8) && n 56 8 == 0 && decide (n 8 8 < 64)

/-- POLICY (R360, R372): an accepted policy replaces the one before it whole; one whose time is over has closed before (R359). -/
def execPolicy (fn : Nat) (s : State) : Outcome :=
  mailboxRun fn 6 (fun s c =>
    let body := hostRead s c.b 64
    if policyOk s fn body (hostRead s (c.b + 64) 3309) then
      let s := settlePolicy s fn
      let before := openFeatures s fn
      let f := BitVec.ofNat 6 (natOfBytes ((body.drop 8).take 8))
      let s := s.modPartition fn (fun t => { t with policy := some (f, natOfBytes ((body.drop 48).take 8)) })
      mailboxDone (closeFeatures s fn (before &&& ~~~(openFeatures s fn))) fn c.cid 0 0 0
    else mailboxDone s fn c.cid 0 1 0) s

/-- The unit that an `OBSERVE` command names: a cluster bank (0 to 63), a trace unit (64 + die). -/
def observeUnit (w : Nat) : Option Nat := if w < 64 then some w else if w = 0x80 then some 64 else if w = 0x81 then some 65 else none

/-- Who holds a unit. -/
def unitHolder (s : State) (u : Nat) : Option Nat := if u < 64 then (s.cluster u).holder else (s.die (u - 64)).traceHolder

/-- Whether a function may hold a unit (R365): the PF any; a VF the banks of its own clusters while COUNT is open, a trace unit
while TRACE is open. -/
def mayHold (s : State) (fn u : Nat) : Bool :=
  fn == 0 || (if u < 64 then s.clusterOwner u == some fn && featureOpen s fn 0 else featureOpen s fn 2)

/-- Whether the PF asks for a unit by the command at the head of its ring: a VF that asks in the same cycle comes after it (R365). -/
def pfAsks (s : State) (u : Nat) : Bool :=
  (nextCommand s 0).any (fun c => !c.bad && c.op == 7 && c.a == 0 && observeUnit c.b == some u)

/-- OBSERVE_ACQUIRE (R365): granted when free; BUSY when held, and remembered. -/
def execObserveAcquire (fn : Nat) (s : State) : Outcome :=
  mailboxRun fn 7 (fun s c =>
    match observeUnit c.b, c.a.toNat with
    | some u, 0 =>
      if !mayHold s fn u then mailboxDone s fn c.cid 3 0 0
      else
        let add := fun (l : List Nat) => if l.contains fn then l else l ++ [fn]
        match unitHolder s u with
        | some _ =>
          let s := if u < 64 then s.modCluster u (fun k => { k with refused := add k.refused })
            else s.modDie (u - 64) (fun d => { d with traceRefused := add d.traceRefused })
          mailboxDone s fn c.cid 2 0 0
        | none =>
          if fn != 0 && pfAsks s u then s
          else
          let s := if u < 64 then s.modCluster u (fun k => { k with holder := some fn, refused := [], issued := 0 })
            else s.modDie (u - 64) (fun d => { d with traceHolder := some fn, traceRefused := [] })
          mailboxDone s fn c.cid 0 0 0
    | some _, 1 => s
    | _, _ => mailboxDone s fn c.cid 5 0 0) s

/-- OBSERVE_RELEASE (R365): the holder releases a unit; those refused are told. A release by another is DENIED (log 23). -/
def execObserveRelease (fn : Nat) (s : State) : Outcome :=
  mailboxRun fn 7 (fun s c =>
    match observeUnit c.b, c.a.toNat with
    | some u, 1 =>
      if unitHolder s u = some fn then mailboxDone (if u < 64 then releaseBank s u else releaseTrace s (u - 64)) fn c.cid 0 0 0
      else mailboxDone s fn c.cid 3 0 0
    | some _, 0 => s
    | _, _ => mailboxDone s fn c.cid 5 0 0) s

end Sys2Proof.Machine
end

