-- ==== Sys2Proof/Machine/Security.lean ====
section
/-! DEFINITION. Trust: the reset of a VF and its TDISP states (R350, R375), the SPDM responder (R374), firmware (R373). -/

namespace Sys2Proof.Machine

/-! ## The reset of a VF (R350) -/

/-- The first step of a VF reset: its contexts are killed (R350 step 1). -/
def beginReset (s : State) (p : Nat) (rotate : Bool) : State :=
  let s := (contextsOf s p).foldl (fun s c => killContext c 4 Config.noCore 0 s) s
  tickQueues (s.modPartition p (fun t => { t with resetting := some (s.now, rotate), voided := 0 }))

/-- A TDI enters CONFIG_UNLOCKED: features that a policy opened close, the key hash and the nonce are cleared (R359, R375). -/
def unlockTdi (s : State) (p : Nat) : State :=
  let locked := match (s.partition p).tdi with | .unlocked => false | _ => true
  let s := if locked then closeAll s p else s
  s.modPartition p (fun t => { t with tdi := .unlocked, keyHash := 0, nonce := 0 })

/-- The last steps of a VF reset, once its requests have drained or were voided (R350 steps 3 to 5, R325, R365, R375). -/
def endReset (s : State) (p : Nat) (rotate : Bool) : State :=
  let s := dropConsents (releaseTraces (releaseBanks (scrubPartition s p) p) p) p
  let s := if rotate then rotateKeys s p else s
  let s := unlockTdi s p
  let s := supervisorNotice s p 4 0 0 Config.noCore 0 0 (BitVec.ofNat 64 (s.partition p).voided)
  s.modPartition p (fun t => { t with resetting := none, voided := 0, phase := .idle, corrected := 0, uncorrected := 0 })

/-- Whether a number names a VF. -/
def isVf (vf : Nat) : Bool := decide (1 ≤ vf) && decide (vf ≤ 64)

/-- VF_RESET (R350): a reset begins, asked for at the host port; once the partition has no request in flight, the same event ends it. -/
def execVfReset (p : Nat) (rotate : Bool) (s : State) : Outcome :=
  if !isVf p then .next s
  else
    match (s.partition p).resetting with
    | none => if hostUp s then .next (beginReset s p rotate) else .next s
    | some (_, r) => if inFlight s p = 0 then .next (endReset s p r) else .next s

/-! ## TDISP (R375, Table 23.4): requests over the host port's secured SPDM, which the Device Security Manager answers (R370, R373) -/

/-- LOCK_INTERFACE_REQUEST: the policy key hash is bound and a nonce drawn; every feature closes (R359, R375). -/
def execLockInterfaceRequest (vf : Nat) (keyHash : BitVec 256) (s : State) : Outcome :=
  if hostUp s && isVf vf && (s.partition vf).tdi == .unlocked && (s.partition vf).resetting.isNone then
    let s := closeAll s vf
    let s := s.modPartition vf (fun t => { t with tdi := .locked, keyHash := keyHash, nonce := Config.freeNonce s.drawn })
    .next { s with drawn := s.drawn + 1 }
  else .next s

/-- START_INTERFACE_REQUEST. -/
def execStartInterfaceRequest (vf : Nat) (s : State) : Outcome :=
  if hostUp s && isVf vf && (s.partition vf).tdi == .locked then .next (s.modPartition vf (fun t => { t with tdi := .running })) else .next s

/-- STOP_INTERFACE_REQUEST: the VF is reset, and its TDI is CONFIG_UNLOCKED after the reset. -/
def execStopInterfaceRequest (vf : Nat) (s : State) : Outcome :=
  if hostUp s && isVf vf && (s.partition vf).resetting.isNone then .next (beginReset s vf false) else .next s

/-- A TDI enters ERROR: features close and every context is killed (R359, R375). -/
def enterError (s : State) (vf : Nat) : State :=
  let s := closeAll s vf
  let s := s.modPartition vf (fun t => { t with tdi := .error })
  tickQueues ((contextsOf s vf).foldl (fun s c => killContext c 4 Config.noCore 0 s) s)

/-- TDI_ERROR: a write to locked configuration or an IDE stream fault. -/
def execTdiError (vf : Nat) (s : State) : Outcome :=
  if isVf vf && ((s.partition vf).tdi == .locked || (s.partition vf).tdi == .running) then .next (enterError s vf) else .next s

/-! ## SPDM (R374): messages hold the fields that the manual names, after a byte that tells them apart (log 11) -/

/-- A response: on the outside, and in the transcript. -/
def spdmAnswer (s : State) (request response : List Byte) : State :=
  { s with out := s.out ++ [Output.spdm response], spdm := { s.spdm with transcript := s.spdm.transcript ++ request ++ response } }
/-- The ERROR response. -/
def spdmError (s : State) : State := { s with out := s.out ++ [Output.spdm [0x7F]] }
/-- Whether the responder answers: die 0's firmware has verified (R373). -/
def spdmLives (s : State) : Bool := (s.die 0).verified

/-- An extended-algorithm entry (R374): the PCI-SIG registry, which is 3 in SPDM's standards-body table, the device's vendor ID and an
algorithm: 1 ML-DSA-65, 2 SHAKE256, 3 ML-KEM-768. Four bytes do not hold three such parts of SPDM's sizes: the packing is the model's
(log 11). -/
def extEntry (alg : BitVec 16) : Word := (alg ++ Config.vendorId ++ (3 : BitVec 8) : BitVec 40).setWidth 64

/-- ALGORITHMS (R374): no base bit for signing and hash, their extended entries, no base group but ML-KEM-768's entry, the AES-256-GCM bit
where it is offered, SPDM's key schedule, and measurements as raw bit streams. -/
def algorithms (aead : Bool) : List Byte :=
  [0x63, 0, 0] ++ wordBytes (extEntry 1) ++ wordBytes (extEntry 2) ++ [0] ++ wordBytes (extEntry 3) ++ [if aead then 2 else 0, 1, 1]

/-- NEGOTIATE_ALGORITHMS: the extended entries that a requester offers, and the AES-256-GCM bit; without one of the device's own entries no
session can be made. -/
def execNegotiateAlgorithms (asym hash dhe : List Word) (aead : Bool) (s : State) : Outcome :=
  if !spdmLives s then .next s
  else if asym.contains (extEntry 1) && hash.contains (extEntry 2) && dhe.contains (extEntry 3) then
    let s := { s with spdm := { s.spdm with agreed := true } }
    .next (spdmAnswer s ((asym ++ hash ++ dhe).flatMap wordBytes) (algorithms aead))
  else .next (spdmError { s with spdm := { s.spdm with agreed := false } })

/-- What a certificate slot depends on: slot 1 on the current firmware of the dies (R374). -/
def slotFirmware (s : State) (slot : Nat) : List Byte := if slot = 1 then (s.die 0).image ++ (s.die 1).image else []

/-- GET_CERTIFICATE: a part of the chain of slot 0 or 1. -/
def execGetCertificate (slot offset length : Nat) (s : State) : Outcome :=
  if !spdmLives s then .next s
  else if slot < 2 then
    .next (spdmAnswer s (bytesOf 1 slot ++ bytesOf 2 offset ++ bytesOf 2 length) (0x02 :: ((Config.certificate slot (slotFirmware s slot)).drop offset).take length))
  else .next (spdmError s)

/-- CHALLENGE: the transcript with the nonce, signed with ML-DSA-65. -/
def execChallenge (slot : Nat) (nonce : List Byte) (s : State) : Outcome :=
  if !spdmLives s then .next s
  else if slot < 2 && s.spdm.agreed then
    .next (spdmAnswer s nonce (0x03 :: Config.sign slot (slotFirmware s slot) (s.spdm.transcript ++ nonce)))
  else .next (spdmError s)

/-- The partition layout that block 5 measures: what is assigned to each partition (R311, R374). -/
def layoutData (s : State) : List Nat :=
  s.partitions.flatMap (fun (x : Nat × Partition) =>
    if x.2.made then
      [x.1, x.2.clusters.length] ++ x.2.clusters ++ [x.2.slicesHbm.length] ++ x.2.slicesHbm ++ [x.2.blocks.length] ++ x.2.blocks ++
        [x.2.crucible, x.2.leaseTime, x.2.floor, x.2.keys.length] ++ x.2.keys ++ x.2.quota.flatMap (fun q => [q.1, q.2])
    else [])

/-- The TDI configuration of a VF that block 6 measures: its state, policy key hash and nonce, and its rings' sizes and vector (R374,
R375). -/
def tdiData (s : State) (vf : Nat) : List Nat :=
  let t := s.partition vf
  [vf, match t.tdi with | .unlocked => 0 | .locked => 1 | .running => 2 | .error => 3, t.keyHash.toNat, t.nonce.toNat, t.mailbox.vector]

/-- A measurement block (R374): 1 the boot ROM, 2 and 3 the firmware of the dies, 4 the Device Security Manager, 5 the layout, 6 a TDI. -/
def measure (s : State) (block vf : Nat) : List Byte :=
  Config.measurement block (if block = 2 then (s.die 0).image else if block = 3 then (s.die 1).image else [])
    (if block = 5 then layoutData s else if block = 6 then tdiData s vf else [])

/-- GET_MEASUREMENTS: raw block 1 to 6, block 6 for the VF asked about, signed. -/
def execGetMeasurements (block vf : Nat) (nonce : List Byte) (s : State) : Outcome :=
  if !spdmLives s then .next s
  else if 1 ≤ block && block ≤ 6 && s.spdm.agreed then
    let m := measure s block vf
    .next (spdmAnswer s (bytesOf 1 block ++ nonce) (0x60 :: (m ++ Config.sign 0 (slotFirmware s 0) (s.spdm.transcript ++ nonce ++ m))))
  else .next (spdmError s)

/-- KEY_EXCHANGE: the requester's ML-KEM-768 encapsulation key of 1,184 bytes gives a ciphertext of 1,088 bytes and a session's secret. -/
def execKeyExchange (key : List Byte) (s : State) : Outcome :=
  if !spdmLives s then .next s
  else if s.spdm.agreed && key.length == 1184 then
    let r := Config.encapsulate key s.drawn
    let s := spdmAnswer { s with drawn := s.drawn + 1 } key (0x64 :: bytesOf 1088 r.1.toNat)
    .next { s with spdm := { s.spdm with sessions := s.spdm.sessions ++ [r.2] } }
  else .next (spdmError s)

/-- BOOT_VERIFY (R373): the boot ROM checks a die's image and its security version; a die whose image fails stays in recovery. -/
def execBootVerify (die : Nat) (image : List Byte) (version : Nat) (s : State) : Outcome :=
  if 1 < die then .next s
  else
    let ok := Config.imageVerifies die image && decide ((s.die die).fuse ≤ version)
    .next (s.modDie die (fun d => { d with verified := ok, image := image }))

end Sys2Proof.Machine
end

