-- ==== Sys2Proof/Machine/Debug.lean ====
section
/-! DEFINITION. Stops and stepping (R369, Table 22.7): the debug commands that a mailbox has delivered to a core. -/

namespace Sys2Proof.Machine

/-- The oldest command of a core, when it has a code. -/
def debugHead (s : State) (core code : Nat) : Option DebugCmd :=
  match (s.core core).debugIn with
  | d :: _ => if d.code == code then some d else none
  | [] => none

/-- A core's oldest command completes with a status and a value. -/
def debugDone (s : State) (core : Nat) (d : DebugCmd) (status : Nat) (value : Word) : State :=
  mailboxDone (s.modCore core (fun c => { c with debugIn := c.debugIn.drop 1 })) d.fn d.cid status 0 value

/-- The oldest command of a core executed; DENIED once STOP has closed (R369). -/
def debugRun (core code : Nat) (body : State → DebugCmd → State) (s : State) : Outcome :=
  match debugHead s core code with
  | none => .next s
  | some d => if featureOpen s d.fn 3 then .next (body s d) else .next (debugDone s core d 3 0)

/-- STOP: the activations of the thread sets named are aborted uncounted; the core then selects nothing, and a stop is armed for
`BRK`. -/
def execStop (core : Nat) (s : State) : Outcome :=
  debugRun core 1 (fun s d =>
    let s := (maskSets d.sel).foldl (fun s t => if (s.tset core t).act.isSome then stopTset s core t 3 else s) s
    debugDone (tickQueues (s.modCore core (fun c => { c with stopped := true, brkStop := true }))) core d 0 0) s

/-- RESUME: the core dispatches again. -/
def execResume (core : Nat) (s : State) : Outcome :=
  debugRun core 2 (fun s d =>
    let s := s.modCore core (fun c => { c with stopped := false, brkStop := false })
    debugDone (tickQueues (becameFree ((List.range 4).foldl (fun s t => leaveStep s core t) s) core)) core d 0 0) s

/-- The activation of a thread set in step mode, with `n` instructions to issue; HWDOG counts only cycles in which it issues. -/
def enterStep (s : State) (core ts n : Nat) : State :=
  let now := s.cycle core
  s.modTset core ts (fun t => { t with
    steps := n, wdogEnd := t.wdogEnd - now, act := t.act.map (fun (a : Act) => { a with stepping := true }) })

/-- The next message for a thread set: what the selection of R217 finds when no other thread set of the core is free. A theft message
starts in a step of its own. -/
def stepChoice (s : State) (core ts : Nat) : Option Selected :=
  choice s core (selectRecord s core [ts])
    (bestSlot s core (fun x => if x.theft.isNone && (slotTsets s core x).contains ts then some ts else none) (s.core core).inbox 0 none)

/-- STEP: the next message is selected onto the thread set in step mode and issues one instruction. -/
def execStep (core : Nat) (s : State) : Outcome :=
  debugRun core 3 (fun s d =>
    let ts := d.sel % 4
    match stepChoice s core ts with
    | none => s
    | some c =>
      let s := startSelected s core c
      if (s.tset core ts).act.isSome then debugDone (enterStep s core ts 1) core d 0 0 else s) s

/-- Whether a thread set runs in step mode. -/
def isStepping (s : State) (core ts : Nat) : Bool := (s.tset core ts).act.any (·.stepping)

/-- STEPN: `n` further instructions, 1 to 65,535. -/
def execStepn (core : Nat) (s : State) : Outcome :=
  debugRun core 4 (fun s d =>
    let ts := d.sel % 4
    if isStepping s core ts && decide (1 ≤ d.value.toNat) && decide (d.value.toNat ≤ 65535) then
      debugDone (s.modTset core ts (fun t => { t with steps := t.steps + d.value.toNat, stalled := false })) core d 0 0
    else debugDone s core d 5 0) s

/-- The register that a command names: class (0 g, 1 v, 2 p, 3 c, 4 special) and number (log 22). -/
def debugReg (w : Word) : Nat × Nat := (fieldN w 12 4, fieldN w 0 12)

/-- Whether a debug access to a special register is let through by the register's own rules (R50, R94, R363). -/
def debugSpecial (s : State) (core ts n : Nat) (write : Bool) : Bool :=
  let t := s.tset core ts
  srAssigned n && (!write || srWritable n) && !(isTbg n && t.tlvl == 0) &&
    (!(0x800 ≤ n) || (s.isSystem (s.ctxOf core ts) && n ≤ 0x802 && !(write && n == 0x801))) &&
    (!(0x100 ≤ n && n < 0x800) || obsOpen s core (s.partitionOf (s.ctxOf core ts)) n)

/-- The value of a special register as `MFS` delivers it. -/
def debugSpecialValue (s : State) (core ts n : Nat) : Word :=
  if 0x100 ≤ n && n < 0x800 && n != 0x110 then observed s core n (s.tset core ts).dlysel.toNat else readSpecial s core ts n

/-- DEBUG_READ: a register of a stepping thread set; a v register or codebook goes to the host address of the command. -/
def execDebugRead (core : Nat) (s : State) : Outcome :=
  debugRun core 5 (fun s d =>
    let ts := d.sel % 4
    let t := s.tset core ts
    let (cls, n) := debugReg d.reg
    let long := fun (l : Line) => debugDone (hostWrite s d.host ((List.range 64).map (lineByte l))) core d 0 (l.setWidth 64)
    if d.write then s
    else if !isStepping s core ts then debugDone s core d 5 0
    else
      match cls with
      | 0 => if n < 32 then debugDone s core d 0 (t.readG n) else debugDone s core d 5 0
      | 1 => if n < 32 then long (t.readV n) else debugDone s core d 5 0
      | 2 => if n < 8 then debugDone s core d 0 (t.readP n) else debugDone s core d 5 0
      | 3 => if n < 8 then debugDone s core d 0 ((t.readC n).setWidth 64) else debugDone s core d 5 0
      | 4 =>
        if !debugSpecial s core ts n false then debugDone s core d 3 0
        else if isCodebook n then long ((mget 0 (s.core core).cbk (n - 0x028)).setWidth 512)
        else debugDone s core d 0 (debugSpecialValue s core ts n)
      | _ => debugDone s core d 5 0) s

/-- A special register written by a debugger as `MTS` writes it, or none where `MTS` refuses the value. -/
def debugSpecialWrite (s : State) (core ts n : Nat) (x : Word) (book : BitVec 256) : Option State :=
  let t := s.tset core ts
  if (isCodebook n && bookHasNaN book) || valueRefused t n x then none
  else if n = 0x009 then
    if (((s.context (s.ctxOf core ts)).map (·.owners)).getD []).contains (x.setWidth 20) then
      some (s.modTset core ts (fun t => { t with owner := x.setWidth 20 }))
    else none
  else if n = 0x034 then some (s.modTset core ts (fun t => { t with fpctl := x &&& 0x1F1F }))
  else if 0x108 ≤ n ∧ n ≤ 0x10F then
    some (s.modCluster (clusterOf core) (fun u => { u with counters := mset 0 (mset 0 u.counters n (x &&& 0x1FFFF)) (n - 8) 0 }))
  else if n = 0x800 then some { s with pgroot := x }
  else if n = 0x802 then some { s with pwrcap := x.setWidth 12 }
  else if isCoreScope n then some (s.modCore core (fun c => c.writeSpecial n x book))
  else some (s.modTset core ts (fun t => t.writeSpecial n x))

/-- DEBUG_WRITE: a register of a stepping thread set. -/
def execDebugWrite (core : Nat) (s : State) : Outcome :=
  debugRun core 5 (fun s d =>
    let ts := d.sel % 4
    let (cls, n) := debugReg d.reg
    let set := fun (f : TSet → TSet) => debugDone (s.modTset core ts f) core d 0 0
    if !d.write then s
    else if !isStepping s core ts then debugDone s core d 5 0
    else
      match cls with
      | 0 => if n < 32 then set (fun t => t.writeG n d.value) else debugDone s core d 5 0
      | 1 => if n < 32 then set (fun t => t.writeV n d.line) else debugDone s core d 5 0
      | 2 => if n < 8 then set (fun t => t.writeP n d.value) else debugDone s core d 5 0
      | 3 => if n < 8 then set (fun t => t.writeC n (d.value.setWidth 25)) else debugDone s core d 5 0
      | 4 =>
        if !debugSpecial s core ts n true then debugDone s core d 3 0
        else
          match debugSpecialWrite s core ts n d.value (d.line.setWidth 256) with
          | some s => debugDone s core d 0 0
          | none => debugDone s core d 5 0
      | _ => debugDone s core d 5 0) s

/-- BKPT: one of four instruction-address comparators armed, or cleared with IA 0. -/
def execBkpt (core : Nat) (s : State) : Outcome :=
  debugRun core 6 (fun s d =>
    debugDone (s.modCore core (fun c => { c with breaks := mset 0 c.breaks (d.sel % 4) d.value })) core d 0 0) s

/-- BREAKPOINT_HIT: the activation is stopped before the matched instruction issues. -/
def execBreakpointHit (core ts : Nat) (s : State) : Outcome :=
  if atBreakpoint s core ts then .next (stopTset s core ts 2) else .next s

/-- ENDSTEP: the stepping activation is aborted with reason 0x42. -/
def execEndstep (core : Nat) (s : State) : Outcome :=
  debugRun core 7 (fun s d =>
    let ts := d.sel % 4
    if isStepping s core ts then debugDone (abortActivation core ts 0x42 0 s) core d 0 0 else debugDone s core d 5 0) s

end Sys2Proof.Machine
end

