-- ==== Sys2Proof/Machine/Dsm.lean ====
section
/-! DEFINITION. Requests of the supervisors to the Device Security Manager (R95, R298, R311, R313, R314, R320 to R329, R349, R359,
R367, R371, R379, R384). A request is its meaning (log 11); a refused one changes nothing. -/

namespace Sys2Proof.Machine

/-- Whether two lists share nothing. -/
def apart (a b : List Nat) : Bool := a.all (fun x => !b.contains x)

/-- Whether a request changes only the lease time of a partition (R313). -/
def leaseOnly (s : State) (p : Nat) (clusters slices blocks : List Nat) (crucible : Nat) (quota : List (Nat × Nat))
    (lease floor : Nat) (keys : List Nat) (sup tier : Nat) : Bool :=
  let t := s.partition p
  t.made && decide (1000 ≤ lease) && decide (lease ≤ 1000000) && t.clusters == clusters && t.slicesHbm == slices && t.blocks == blocks &&
    t.crucible == crucible && t.quota == quota && t.floor == floor && t.keys == keys && t.supBlock == sup && t.tierBlock == tier

/-- Resources of a partition (R311, R381, Table 17.8): clusters, HBM slices, 64 to a stack, and queue blocks that are READY, at least one
cluster for a VF, none in two partitions; the sums in bounds; changed only while the partition holds no context. -/
def partitionOk (s : State) (p : Nat) (clusters slices blocks : List Nat) (crucible : Nat) (quota : List (Nat × Nat))
    (lease floor : Nat) (keys : List Nat) : Bool :=
  let others := s.partitions.filter (fun x => x.1 != p)
  decide (p ≤ 64) && (contextsOf s p).isEmpty && (if p = 0 then clusters.isEmpty else !clusters.isEmpty) &&
    distinct clusters && clusters.all (fun c => decide (c < 64) && s.isReady c) && slices.all (fun x => decide (x < 512) && s.isReady (0x40 + x / 64)) &&
    blocks.all (fun x => decide (x < 256) && s.isReady (0x100 + x)) && decide (crucible ≤ 2048) && quota.all (fun q => decide (q.1 < 4) && decide (q.2 ≤ 16)) &&
    decide (1000 ≤ lease) && decide (lease ≤ 1000000) && keys.all (fun k => decide (1 ≤ k) && decide (k < 128)) &&
    others.all (fun x => apart clusters x.2.clusters && apart slices x.2.slicesHbm && apart blocks x.2.blocks && apart keys x.2.keys) &&
    decide ((others.map (fun x => x.2.floor)).sum + floor ≤ 256)

/-- A context as it is created (R303, R320, R384): refused unless its root satisfies R303 by itself. A system context becomes resident
on the service cores of its CLIST (R95). -/
def createContext (s : State) (ctx p : Nat) (root : Word) (owners : List (BitVec 20)) (saveArea : Nat) : Option State :=
  let sys := (rcbWord s root 8).getLsbD 42
  let k : Context := { partition := p, root := root, owners := owners, sys := sys, saveArea := saveArea }
  let s' := { s with contexts := mset none s.contexts ctx (some k) }
  if (s.context ctx).isSome || decide (4096 ≤ ctx) || !(s.partition p).made || decide (64 ≤ (contextsOf s p).length) || decide (16 < owners.length) ||
      !owners.all (fun o => ownerPartition o == p) || root.toNat % 256 != 0 || !chainFits s' ctx [root] then none
  else if sys then
    some (((regionOf s' [root]).cores.filter (fun c => !isCompute c && (s.core c).ctx.isNone)).foldl
      (fun s c => restoreCore s (BitVec.ofNat 12 ctx) c) s')
  else some s'

/-- A supervisor asks for a consent record (R325), which is made once both have. Which of the two partitions' supervisors it is, the
environment chooses (log 3). -/
def askConsent (s : State) (g t : BitVec 20) (base len : Nat) (rights : BitVec 5) : State :=
  let (n, s) := s.choose 2
  let by_ := if n = 1 then ownerPartition t else ownerPartition g
  let same := fun (c : Consent) => c.granter == g && c.target == t && c.base == base && c.len == len && c.rights == rights
  s.modPartition (ownerPartition g) (fun p =>
    if p.consents.any same then
      { p with consents := p.consents.map (fun c => if same c then { c with asked := insertUniq by_ c.asked } else c) }
    else { p with consents := p.consents ++ [⟨g, t, base, len, rights, [by_]⟩] })

/-- Whether the page table below a table of a level, for the addresses from `base` on, maps a page of range `q` to physical memory
[lo, hi) (R331). -/
def mapsInto (s : State) (q : Range) (lo hi : Nat) : (level table base : Nat) → Bool
  | 0, table, base => (List.range 32).any (fun i => leafInto s q lo hi 0 (table + 8 * i) (base + i * 2 ^ 16))
  | l + 1, table, base => (List.range 512).any (fun i =>
      let at_ := table + 8 * i
      let va := base + i * 2 ^ (21 + 9 * l)
      let pte : Word := BitVec.ofNat 64 (s.homeRead at_ 8)
      rangesMeet q (va, 2 ^ (21 + 9 * l)) &&
        (match pteKind pte (l + 1) with
         | some true => leafInto s q lo hi (l + 1) at_ va
         | some false => mapsInto s q lo hi l (pte.toNat / 65536 * 65536) va
         | none => false))
where
  /-- Whether a leaf maps a page of the range into the memory. -/
  leafInto (s : State) (q : Range) (lo hi level at_ va : Nat) : Bool :=
    let pte : Word := BitVec.ofNat 64 (s.homeRead at_ 8)
    (pteKind pte level).isSome && (leafXlat pte at_ level).any (fun e =>
      rangesMeet q (va, e.size) && decide (e.x.pa < hi) && decide (lo < e.x.pa + e.size))

/-- Whether a range of virtual addresses reaches the memory of an owner's table: through the window, or where a page of it is mapped to
that memory (R320, R330). -/
def reachesTable (s : State) (q : Range) (t : OwnerTable) : Bool :=
  let hi := t.base + 32 * t.capacity
  rangesMeet q (Config.systemWindow + t.base, hi - t.base) || mapsInto s q t.base hi 4 (s.pgroot.toNat / 65536 * 65536) 0

/-- An original entry (R322): GEN 0, every right that the supervisor names. The window of physical addresses is for system owners only
(R330). -/
def writeOriginal (s : State) (o : BitVec 20) (base len : Nat) (rights : BitVec 5) : Option State :=
  match mget none s.owners o.toNat with
  | none => none
  | some t =>
    if t.capacity ≤ t.entries.length || base % 64 != 0 || len = 0 || decide (2 ^ 32 ≤ len) || decide (2 ^ 57 < base + len * 64) ||
        (inWindow (base, len * 64) && !systemOwner s o) || s.owners.any (fun u => u.2.any (reachesTable s (base, len * 64))) then none
    else
      let e : REntry := { base := base, len := len, gen := 0, rights := rights, gid := s.takeGid, pgid := 0, granter := o, orig := true }
      some { s with nextGid := nextIdentity s.takeGid, owners := mset none s.owners o.toNat (some { t with entries := insertEntry e t.entries }) }

/-- The sweep of quarantined parts (R329): GEN 0 and QUAR 0 on the original parts inside the range, and a purge, whose number it gives
while acknowledgements are out. -/
def sweepRange (s : State) (o : BitVec 20) (base len : Nat) : Option Nat × State :=
  let q : Range := (base, len)
  let s := splitTables s (isOriginal o q) (fun e => insertEntry { e.inside q with gen := 0, quar := false } (e.outside q))
  sendRightsPurge s [o] q

/-- A slice list (R314): up to 64 contexts of the partition, which run on its clusters and not on service cores (R95), slices and limits of 1
to 65,535 µs. -/
def slicesOk (s : State) (p : Nat) (l : List (Nat × Nat × Nat)) : Bool :=
  decide (l.length ≤ 64) && l.all (fun e => (s.context e.1).any (fun k => k.partition == p && !k.sys) &&
    decide (1 ≤ e.2.1) && decide (e.2.1 ≤ 65535) && decide (1 ≤ e.2.2) && decide (e.2.2 ≤ 65535))

/-- The list takes effect at the next slice end, or at once while nothing is resident. -/
def setSlices (s : State) (p : Nat) (l : List (Nat × Nat × Nat)) : State :=
  let es : List SliceEntry := l.map (fun e => ⟨BitVec.ofNat 12 e.1, e.2.1, e.2.2⟩)
  s.modPartition p (fun t =>
    match t.phase with
    | .idle => { t with list := es, nextList := none, pos := 0 }
    | _ => { t with nextList := some es })

/-- The partition that a request names. -/
def requestPartition (s : State) : DsmRequest → Nat
  | .partition p .. | .slices p _ | .features p _ | .group p .. => p
  | .queue q _ => (queueOwner s q).getD 0
  | .context _ p .. => p
  | .kill c | .restart c => s.partitionOf c
  | .owner o _ | .original o .. | .sweep o .. => ownerPartition o
  | .consent g .. => ownerPartition g
  | .tenant _ _ _ _ _ ctx _ _ => s.partitionOf ctx
  | .trace d .. => ((s.die d).traceHolder).getD 0

/-- The sweep asked for by the command of the PF's mailbox, which waits for the acknowledgements (R329); of whole 64-byte units only
(R321). -/
def serveSweep (s : State) (o : BitVec 20) (base len : Nat) : Option State :=
  if base % 64 != 0 || len % 64 != 0 || len = 0 || decide (2 ^ 57 < base + len) then none
  else
    let cid := ((nextCommand s 0).map (·.cid)).getD 0
    let (n, s) := sweepRange s o base len
    some { s with dsmWait := n.map (fun id => (id, cid)) }

/-- What a request does; none when it is refused. -/
def serve (s : State) (req : DsmRequest) : Option State :=
  match req with
  | .partition p clusters slices blocks crucible quota lease floor keys sup tier =>
    if partitionOk s p clusters slices blocks crucible quota lease floor keys then
      some (s.modPartition p (fun t => { t with
        made := true, clusters := clusters, slicesHbm := slices, blocks := blocks, crucible := crucible, quota := quota, leaseTime := lease,
        floor := floor, keys := keys, supBlock := sup, tierBlock := tier }))
    else if leaseOnly s p clusters slices blocks crucible quota lease floor keys sup tier then
      some (s.modPartition p (fun t => { t with leaseTime := lease }))
    else none
  | .queue q block => if (queueOwner s q).isSome then some (queueTick (s.modQueue q (fun x => { x with block := block })) q) else none
  | .context ctx p root owners saveArea => createContext s ctx p root owners saveArea
  | .kill ctx => if (s.context ctx).isSome then some (tickQueues (killContext ctx 3 Config.noCore 0 s)) else none
  | .restart ctx =>
    if (s.context ctx).any (·.killed) then
      let full := (s.queues.map (·.1)).filter (fun q => queueValid s q && queueLen s q != 0)
      some (s.modContext ctx (fun k => { k with killed := false, doomed := full.map (fun q => (q, queueField s q 16 4)) }))
    else none
  | .owner o capacity =>
    if (mget none s.owners o.toNat).isNone && decide (1 ≤ capacity) && decide (capacity ≤ 2 ^ 20) &&
        decide (ownerPartition o ≤ 64) then
      let (n, s) := s.choose (2 ^ 51 - capacity)
      let t : OwnerTable := { base := 32 * n, capacity := capacity }
      if (allEntries s).any (fun e => reachesTable s (e.base, e.len * 64) t) then none
      else some { s with owners := mset none s.owners o.toNat (some t) }
    else none
  | .original o base len rights => writeOriginal s o base len rights
  | .consent g t base len rights =>
    some (askConsent s g t base len rights)
  | .sweep o base len => serveSweep s o base len
  | .slices p l => if slicesOk s p l then some (setSlices s p l) else none
  | .features p bits =>
    let before := openFeatures s p
    let s := s.modPartition p (fun t => { t with opened := bits })
    some (closeFeatures s p (before &&& ~~~(openFeatures s p)))
  | .group p g nodes timeout =>
    if g < 64 && decide (nodes.length ≤ 256) then
      some (s.modPartition p (fun t => { t with groups := t.groups.filter (fun x => x.1 != g) ++ [(g, (nodes, if timeout = 0 then 1000000 else timeout))] }))
    else none
  | .tenant die k valid rate burst ctx lo hi =>
    if die < 2 && k < 4096 && decide (1 ≤ burst) && decide (burst ≤ 65535) && decide (rate < 65536) then
      some (s.modTenant die k (fun _ => ⟨valid, rate, burst, BitVec.ofNat 12 ctx, lo, hi, burst, s.now, 0⟩))
    else none
  | .trace die ring log stop =>
    if (s.die die).traceHolder.isSome && decide (4 ≤ log) && decide (log ≤ 20) && ring % 4096 == 0 then
      let s := s.modDie die (fun d => { d with ring := ring, ringLog := log, stopMode := stop, frames := 0, traceStopped := false })
      some ((List.range 32).foldl (fun s c => s.modCluster (32 * die + c) (fun u => { u with trace := { lost := u.trace.lost } })) s)
    else none

/-- Whether a request would write locked configuration (R375). -/
def writesLocked (s : State) (req : DsmRequest) : Bool :=
  match req with
  | .partition p .. => (s.partition p).tdi == .locked || (s.partition p).tdi == .running
  | _ => false

/-- A request served for the command at the head of the PF's ring, whose body at B asks for it, or refused with DENIED; a failed request
that names a locked or running VF, or one that would write its configuration, puts its TDI in ERROR (R375). A sweep leaves its command open
until its purge is acknowledged. -/
def serveFor (req : DsmRequest) (s : State) (c : MailCmd) : State :=
  match if writesLocked s req then none else serve s req with
  | some s => if s.dsmWait.isSome then mailBusy s 0 else mailboxDone s 0 c.cid 0 0 0
  | none =>
    let p := requestPartition s req
    let s := if isVf p && ((s.partition p).tdi == .locked || (s.partition p).tdi == .running) then enterError s p else s
    mailboxDone s 0 c.cid 3 0 0

/-- DSM (R371): the command at the head of the PF's ring is a request of the supervisor, which is served, or completed where it waits for a
purge that every holder has acknowledged (R329). -/
def execDsm (req : DsmRequest) (s : State) : Outcome :=
  match s.dsmWait with
  | some (id, cid) =>
    if purgeDone s id then .next (mailboxDone { s with dsmWait := none, purges := s.purges.filter (fun q => q.id != id) } 0 cid 0 0 0)
    else .next s
  | none => mailboxRun 0 8 (serveFor req) s

end Sys2Proof.Machine
end

