-- ==== Sys2Proof/Machine/Fabric.lean ====
section
/-! DEFINITION. The Prakeric Link and time (R255, R256, R352, R378, R379): flits, packets that arrive, their answers, TIMESYNC. -/

namespace Sys2Proof.Machine

/-! ## The link -/

/-- FLIT_RETRY (R352, R378): a flit fails its CRC and is retried, a corrected error of the partition whose traffic it carries; a ninth
failure in a row takes the link down. Whose traffic it is, and whether the flit then passes, the environment chooses (log 3). -/
def execFlitRetry (port : Nat) (s : State) : Outcome :=
  if !portUp s port then .next s
  else
    let (p, s) := s.choose 65
    let (passed, s) := s.choose 2
    if (s.port port).retries < 8 then
      .next (correctedError (s.modPort port (fun x => { x with retries := if passed = 1 then 0 else x.retries + 1 })) p)
    else .next (uncorrectableError (s.modPort port (fun x => { x with retries := 0 })) p 6 port)

/-- The nodes of the collective groups that this node is in (R379). -/
def groupNodes (s : State) : List Nat :=
  s.partitions.flatMap (fun (p : Nat × Partition) => (p.2.groups.filter (fun g => g.2.1.contains Config.ownNode)).flatMap (fun g => g.2.1))

/-- Whether this node is the fabric reference of its group: no node of it is lower (R379). -/
def isReference (s : State) : Bool := (groupNodes s).all (fun n => decide (Config.ownNode ≤ n))

/-- TIMESYNC (R379): a packet with a send time and the last receive time arrives; a node with a lower one in its group adjusts OFFS against
the fabric reference, by a calculation that the manual does not give (log 11). -/
def execTimesync (port : Nat) (_sent _received : Word) (offset : BitVec 32) (s : State) : Outcome :=
  if !portUp s port then .next s
  else .next { s.modPort port (fun x => { x with lastReceived := s.now }) with offs := if isReference s then s.offs else offset.toInt }

/-- TIMESYNC_SEND (R379): each port sends one every 1 ms, with its time and the time of the last one received. -/
def execTimesyncSend (port : Nat) (s : State) : Outcome :=
  let p := s.port port
  if !portUp s port || decide (s.now < p.lastSent + 1000000) then .next s
  else
    let o := Output.packet port ⟨0, 16, 0, 0, Config.ownNode, 9⟩ (bytesOf 8 s.now ++ bytesOf 8 p.lastReceived)
    .next { s.modPort port (fun x => { x with lastSent := s.now }) with out := s.out ++ [o] }

/-- PACKET_RESERVED_KIND (R378): kinds 10 to 15 are dropped and counted. -/
def execPacketReservedKind (port kind : Nat) (s : State) : Outcome :=
  if portUp s port && 10 ≤ kind && kind ≤ 15 then .next (s.modPort port (fun x => { x with dropped := x.dropped + 1 })) else .next s

/-! ## Accesses of peers to this node's memory -/

/-- The unit number of a port among the units that read and write homes. -/
def portUnit (port : Nat) : Nat := 300 + port

/-- The REPLY to a peer: a status of R372's numbers, and data (log 11). -/
def replyTo (s : State) (port src : Nat) (owner : BitVec 20) (cookie : Word) (status : Nat) (bytes : List Byte) : State :=
  let bs := BitVec.ofNat 8 status :: bytes
  { s with out := s.out ++ [Output.packet port ⟨cookie, bs.length % 4096, ownerPartition owner, src, Config.ownNode, 3⟩ bs] }

/-- The checks of a peer's access (R138): 7 RIGHTS. -/
def peerRights (s : State) (owner : BitVec 20) (ptr : Word) (n : Nat) (need : BitVec 5) : Bool :=
  (tableDecision s owner (ptrGen ptr) (ptrAddr ptr) n need false).isNone

/-- Bytes of published memory from an address on, line by line. -/
def peerRead (port : Nat) (owner : BitVec 20) : Nat → Nat → Nat → State → List Byte → Except (Option Nat) (List Byte × State)
  | 0, _, _, s, acc => .ok (acc, s)
  | k + 1, va, n, s, acc =>
    if n = 0 then .ok (acc, s)
    else
      let o := va % 64
      let m := min (64 - o) n
      match poolRead s (portUnit port) owner (va - o) with
      | .done s l => peerRead port owner k (va + m) (n - m) s (acc ++ (List.range m).map (fun j => lineByte l (o + j)))
      | .wait _ => .error none
      | .fail st => .error (some (ioStatus st))

/-- PACKET_LOAD (R378): a peer loads. Errors that this node's own peers have answered it with are met once. -/
def execPacketLoad (port src : Nat) (cookie : Word) (owner : BitVec 20) (ptr : Word) (len : Nat) (s : State) : Outcome :=
  if !portUp s port || decide (4095 < len) then .next s
  else if !peerRights s owner ptr len rightR then .next (replyTo s port src owner cookie 7 [])
  else
    match peerRead port owner 66 (ptrAddr ptr) len s [] with
    | .ok (bs, s) => .next (replyTo s port src owner cookie 0 bs)
    | .error (some st) => .next (replyTo (forgetLines s (engineCache (portUnit port))) port src owner cookie st [])
    | .error none => .next s

/-- Bytes written at their homes from an address on, line by line. -/
def peerWrite (port : Nat) : Nat → Nat → List Byte → State → Except (Option Nat) State
  | 0, _, _, s => .ok s
  | k + 1, va, bs, s =>
    if bs.isEmpty then .ok s
    else
      let m := min (64 - va % 64) bs.length
      match poolWrite s (portUnit port) va m (setLineBytes 0 ((bs.take m).zipIdx.map (fun b => (b.2, b.1)))) with
      | .done s _ => peerWrite port k (va + m) (bs.drop m) s
      | .wait _ => .error none
      | .fail st => .error (some (ioStatus st))

/-- PACKET_STORE (R378): a peer stores. A write-blocked page holds the packet back (R337). -/
def execPacketStore (port src : Nat) (cookie : Word) (owner : BitVec 20) (ptr : Word) (bytes : List Byte) (s : State) : Outcome :=
  if !portUp s port || decide (4095 < bytes.length) then .next s
  else if !peerRights s owner ptr bytes.length rightW then .next (replyTo s port src owner cookie 7 [])
  else
    match peerWrite port 66 (ptrAddr ptr) bytes s with
    | .ok s => .next (replyTo s port src owner cookie 0 [])
    | .error (some st) => .next (replyTo s port src owner cookie st [])
    | .error none => .next s

/-- PACKET_ATOMIC (R378): a peer's atomic executes at the home agent (R148). -/
def execPacketAtomic (port src : Nat) (cookie : Word) (owner : BitVec 20) (ptr : Word) (op width : Nat) (b cmp : Word) (s : State) :
    Outcome :=
  if !portUp s port || !(width == 4 || width == 8) || decide (ptrAddr ptr % 8 % width ≠ 0) || decide (10 < op) then .next s
  else if !peerRights s owner ptr width rightA then .next (replyTo s port src owner cookie 7 [])
  else
    match xlatOf s (ptrAddr ptr) with
    | none => .next (replyTo s port src owner cookie 8 [])
    | some x =>
      if x.wb || x.tier = 3 then .next s
      else if s.eccFails x.pa then .next (replyTo s port src owner cookie 6 [])
      else
        let m := s.readAt x width
        let new := atomicNew op width m (b.toNat % 2 ^ (8 * width)) (cmp.toNat % 2 ^ (8 * width))
        match poolWrite s (portUnit port) (ptrAddr ptr) width (setLineBytes 0 ((bytesOf width new).zipIdx.map (fun b => (b.2, b.1)))) with
        | .done s _ => .next (replyTo s port src owner cookie 0 (bytesOf width m))
        | .wait s => .next s
        | .fail st => .next (replyTo s port src owner cookie (ioStatus st) [])

/-! ## Answers to this node's own requests -/

/-- The result in flight that waits for an answer under a cookie: core, thread set, place. -/
def pendOf (s : State) (cookie : Nat) : Option (Nat × Nat × Nat × Pend) :=
  s.tsets.findSome? (fun t => (t.2.pend.zipIdx.find? (fun p => p.1.asked == some cookie && p.1.reply.isNone)).map
    (fun p => (t.1 / 4, t.1 % 4, p.2, p.1)))

/-- A line of a peer page filled where no byte of it is known yet (R255). A line asked for before stale clean lines were last dropped is
not kept: it may be older than what the drop was for (R258). `byCore` is set where a load of the core asked for it (R237). -/
def fillPeer (s : State) (c core va cookie : Nat) (x : Xlat) (bytes : List Byte) (byCore : Bool) : State :=
  if cookie < (s.cluster c).purged then s
  else
    let (l, s) := fillLine s c core va x byCore
    let news := bytes.zipIdx.filterMap (fun b => if b.2 < 64 && l.hole.getLsbD b.2 then some (b.2, b.1) else none)
    s.modCluster c (fun k => k.put { l with data := setLineBytes l.data news, hole := 0 })

/-- The answer to a load or an atomic of a thread set: the line as the load takes it, and as its cluster keeps it; the line from which an
atomic of the cluster is performed; or the old value of an atomic. A refusal by the peer arrives as an error mark (log 24). -/
def answerPend (s : State) (core ts k cookie : Nat) (p : Pend) (status : Nat) (bytes : List Byte) : State :=
  let mod := fun (s : State) (f : Pend → Pend) => s.modTset core ts (fun t => { t with pend := modAt f t.pend k })
  let drop := fun (s : State) => s.modTset core ts (fun t => { t with pend := dropAt t.pend k })
  let line := setLineBytes 0 (bytes.zipIdx.map (fun b => (b.2, b.1)))
  let failed := decide (status ≠ 0)
  match p.kind with
  | .load va x .. | .vload va x .. =>
    if failed then mod s (fun q => { q with reply := some none })
    else mod (fillPeer s (cacheOf core) core (ptrAddr va) cookie x bytes true) (fun q => { q with reply := some (some line) })
  | .atomic op scope n va x b cmp none =>
    if failed then (if p.posted || p.dropped then drop s else s.modTset core ts (fun t => deliver t p 0 0 true))
    else if effScope scope 3 = 0 then
      mod (fillPeer s (cacheOf core) core (ptrAddr va) cookie x bytes false) (fun q => { q with asked := none })
    else if p.posted || p.dropped then drop s
    else mod s (fun q => { q with kind := .atomic op scope n va x b cmp (some (BitVec.ofNat 64 (natOfBytes (bytes.take n)))) })
  | _ => mod s (fun q => { q with asked := none })

/-- Whether the one that asked for a line still needs the answer. -/
def askerLives (s : State) (who : Asker) : Bool :=
  match who with
  | .act uid => (findAct s uid).isSome
  | .stream id => s.clusters.any (fun c => c.2.stream.any (fun x => x.id == id))
  | .anvil core id => (s.core core).anvil.any (fun a => a.id == id)
  | .unit u id => decide (engineCache (mailUnit 0) ≤ u) || s.leases.any (fun l => l.2.cmds.any (fun c => c.id == id))
  | _ => true

/-- The answer to a line that a unit has asked a peer for: the line, or that it is in error, for the one that asked (R255, R36, R353), and
the line for its cluster's cache. A store takes the line there alone, and asks again where it was not kept. -/
def answerLine (s : State) (p : PeerLoad) (status : Nat) (bytes : List Byte) : State :=
  let line := setLineBytes 0 (bytes.zipIdx.map (fun b => (b.2, b.1)))
  let s' := { s with peerLoads := s.peerLoads.map (fun q =>
    if q.cookie == p.cookie then { q with reply := some (if status = 0 then some line else none) } else q) }
  let gone := { s with peerLoads := s.peerLoads.filter (fun q => q.cookie != p.cookie) }
  let fill := fun (s : State) => match xlatOf s p.va with
    | some x => fillPeer s p.cache (if p.cache < 64 then 16 * p.cache else 1024 + (p.cache - 64)) p.va p.cookie x bytes false
    | none => s
  if !askerLives s p.who then gone
  else
    match p.who with
    | .unit .. => s'
    | .store .. | .commit .. => if status = 0 then fill gone else s'
    | _ => if status = 0 then fill s' else s'

/-- The port by which a result in flight has asked its peer. -/
def Pend.port (p : Pend) : Nat :=
  match p.kind with
  | .load _ x .. | .vload _ x .. | .atomic _ _ _ _ x .. => peerPort x.pa
  | _ => 16

/-- PACKET_REPLY (R255, R378): data or status under the cookie of a request of this node, by the port that the request left by; any other is
dropped. Of a link that is down no packet comes: the interface itself answers its requests, with a status other than 0 (R353, log 24). -/
def execPacketReply (cookie status : Nat) (bytes : List Byte) (s : State) : Outcome :=
  let comes := fun (port : Nat) => portUp s port || (status != 0 && (s.port port).down)
  match pendOf s cookie with
  | some (core, ts, k, p) => if comes p.port then .next (settleOwed (answerPend s core ts k cookie p status bytes) core) else .next s
  | none =>
    match s.peerLoads.find? (fun x => x.cookie == cookie && x.reply.isNone) with
    | some p => if comes p.port then .next (answerLine s p status bytes) else .next s
    | none =>
      .next (settleAll { s with peerStores := s.peerStores.filter (fun x => x.cookie != cookie || !comes x.port) })

/-! ## Messages and collective segments -/

/-- A message as its 64 bytes carry it (Table 11.1). -/
def msgOfWords (ws : List Word) : Msg :=
  let h := (ws[0]?).getD 0
  { tag := h.extractLsb' 0 12, prio := h.extractLsb' 12 2, len := fieldN h 14 3, kind := h.extractLsb' 17 3, ctx := h.extractLsb' 20 12,
    score := h.extractLsb' 32 11, seq := h.extractLsb' 48 16, stamp := (ws[1]?).getD 0,
    words := (List.range (fieldN h 14 3)).map (fun k => (ws[2 + k]?).getD 0) }

/-- PACKET_MESSAGE (R378): a request-class message from a peer goes to a core on which its context may run; any other is dropped. -/
def execPacketMessage (port core : Nat) (words : List Word) (s : State) : Outcome :=
  let m := msgOfWords words
  if !portUp s port || isReply m.kind || (s.context m.ctx.toNat).isNone || !contextMayRun s m.ctx.toNat core || decide (6 < m.len) then .next s
  else .next { s with mail := s.mail ++ [(.core core, m)] }

/-- PACKET_REDUCE (R379): a segment of up to 4 KiB of a rank of a group of the partition is kept until the REDUCE takes it. It comes by the
port of the rank's node. -/
def execPacketReduce (p group rank offset : Nat) (bytes : List Byte) (s : State) : Outcome :=
  match groupOf s p group with
  | some (nodes, _) =>
    if portUp s (Config.portOf ((nodes[rank]?).getD 0)) && rank < nodes.length && bytes.length ≤ 4096 then
      .next { s with segments := s.segments ++ [⟨p, group, rank, offset, bytes, s.now⟩] }
    else .next s
  | none => .next s

end Sys2Proof.Machine
end

