-- ==== Sys2Proof/Machine/Power.lean ====
section
/-! DEFINITION. Bring-up and power (R5, R364, R381, R382): READY, supply sags, the power cap, reset and loss of power, and the
passing of clock periods. -/

namespace Sys2Proof.Machine

/-- The die of a function of the bring-up page (R381). -/
def offsetDie (offset : Nat) : Nat := if (dieOffsets 1).contains offset then 1 else 0

/-- A CXL port that has trained maps up to 1 TiB of its device into the CXL tier; which range, the environment chooses (R377, log 3). -/
def mapPort (s : State) (port : Nat) : State :=
  let (base, s) := s.choose (2 ^ 56)
  let (n, s) := s.choose (2 ^ 40)
  { s with cxl := s.cxl.filter (fun m => m.1 != port) ++ [(port, base, n + 1)] }

/-- READY (R381): a function sets its own byte after its self-test or training, on a die whose firmware has verified (R373). The page
holds it too, at its physical address (log 12). -/
def execReady (offset : Nat) (ok : Bool) (s : State) : Outcome :=
  if ((dieOffsets 0).contains offset || (dieOffsets 1).contains offset) && (s.die (offsetDie offset)).verified &&
      !(s.die (1 - offsetDie offset)).bridgeDown then
    let b : Byte := mget 0 s.ready offset ||| (if ok then 1 else 2)
    let s := if ok && decide (0x48 ≤ offset) && decide (offset < 0x4C) then mapPort s (offset - 0x48) else s
    .next (setReady s offset b)
  else .next s

/-- Whether a session holds the clocks of a cluster's die (R366). -/
def clocksLocked (s : State) (cluster : Nat) : Bool :=
  match (s.die (cluster / 32)).session with | some (_, true) => true | _ => false

/-- SUPPLY_SAG (R382): the cluster's clock is halved; a session that locks clocks ends at once. -/
def execSupplySag (cluster : Nat) (s : State) : Outcome :=
  if 64 ≤ cluster then .next s
  else
    let s := if clocksLocked s cluster then endSession s (cluster / 32) else s
    .next (s.modCluster cluster (fun u => { u with stretched := true, sagSince := clusterCycle s cluster }))

/-- SAG_STRETCH_END (R382): after at least 256 stretched cycles of the cluster. -/
def execSagStretchEnd (cluster : Nat) (s : State) : Outcome :=
  let u := s.cluster cluster
  if u.stretched && decide (u.sagSince + 256 ≤ clusterCycle s cluster) then .next (s.modCluster cluster (fun u => { u with stretched := false }))
  else .next s

/-- POWER_CAP_ADJUST (R382): above PWRCAP every cluster's clock is lowered by a step of 1/16, below it one step is restored, 1 ms or more
after the step before it. -/
def execPowerCapAdjust (watts : Nat) (s : State) : Outcome :=
  if s.pwrcap.toNat < watts then .next { s with capSteps := min 15 (s.capSteps + 1), capAt := s.now }
  else if watts = s.pwrcap.toNat || decide (s.now < s.capAt + 1000000) then .next s
  else .next { s with capSteps := s.capSteps - 1, capAt := s.now }

/-- What outlives a reset: the environment's choices, what has left the device, the host's memory, fused counters, and the model's own
counters. -/
def afterReset (s : State) : State :=
  { State.reset with
    dies := (s.dies.map (fun (d : Nat × Die) => (d.1, ({ fuse := d.2.fuse } : Die)))).filter (fun d => d.2 != {}),
    hostMem := s.hostMem, out := s.out, uid := s.uid, drawn := s.drawn, agenda := s.agenda, choices := s.choices }

/-- DEVICE_RESET (R381): all state has its reset value, READY bits included; power is on. -/
def execDeviceReset (s : State) : Outcome := .next (afterReset s)

/-- POWER_LOSS (R382): all state is lost, keys included. -/
def execPowerLoss (s : State) : Outcome := .next { afterReset s with powered := false }

/-! ## Time (R5, R382) -/

/-- Thirty-seconds of a cycle that a cluster's clock loses in a period. -/
def lostRate (s : State) (cluster : Nat) : Nat :=
  if clocksLocked s cluster then 0
  else 32 - (16 - s.capSteps) * (if (s.cluster cluster).stretched then 1 else 2)

/-- Periods pass at one cluster: cycles lost, and cycles clocked and idle issue slots counted (R364). -/
def advanceCluster (s : State) (n cluster : Nat) : State :=
  let u := s.cluster cluster
  let lost := u.part + n * lostRate s cluster
  let s := s.modCluster cluster (fun u => { u with part := lost % 32, lost := u.lost + lost / 32, issued := 0 })
  let clocked := 16 * (n - lost / 32)
  countEvent (countEvent s cluster 0x0001 clocked) cluster 0x0007 (clocked - u.issued)

/-- Requests of partitions in reset whose 100 µs have passed are voided: none of them is performed any later (R7, R350). -/
def voidDue (s : State) : State := (s.partitions.map (·.1)).foldl voidPast s

/-- `n` clock periods pass. -/
def advance (n : Nat) (s : State) : State :=
  if n = 0 then s
  else
    let plain := s.capSteps == 0 && s.clusters.all (fun c => !c.2.stretched && c.2.holder.isNone && c.2.part == 0)
    let s' := if plain then s else (List.range 64).foldl (fun s c => advanceCluster s n c) s
    voidDue { s' with periods := s'.periods + n }

end Sys2Proof.Machine
end

