-- ==== Sys2Proof/Machine/Scalar.lean ====
section
/-! DEFINITION. Class 00, integers, logic, predicates, moves and cursors (R97 to R104, R109). -/

namespace Sys2Proof.Machine

/-! ## Values -/

/-- The width W of a modifier (R97). -/
def widthOf (md : BitVec 3) : Nat := if md = 1 then 32 else 64

/-- sext(x[W−1:0]) of an exact integer (R99). -/
def narrow (w : Nat) (x : Int) : Word := (BitVec.ofInt w x).signExtend 64
/-- The signed value of the low W bits. -/
def sval (w : Nat) (a : Word) : Int := (a.setWidth w).toInt
/-- The unsigned value of the low W bits. -/
def uval (w : Nat) (a : Word) : Nat := (a.setWidth w).toNat
/-- sext(x[W−1:0]) of a natural number. -/
def narrowN (w : Nat) (x : Nat) : Word := (BitVec.ofNat w x).signExtend 64

/-- ADD, SUB, MUL, MULH of Table 6.2. -/
def addW (w : Nat) (a b : Word) : Word := narrow w (sval w a + sval w b)
/-- SUB. -/
def subW (w : Nat) (a b : Word) : Word := narrow w (sval w a - sval w b)
/-- MUL. -/
def mulW (w : Nat) (a b : Word) : Word := narrow w (sval w a * sval w b)
/-- MULH: the upper half of the signed product. -/
def mulhW (w : Nat) (a b : Word) : Word := narrow w (sval w a * sval w b / 2 ^ w)
/-- DIV: the quotient rounded toward zero. -/
def divW (w : Nat) (a b : Word) : Word := narrow w (Int.tdiv (sval w a) (sval w b))
/-- DIVU. -/
def divuW (w : Nat) (a b : Word) : Word := narrowN w (uval w a / uval w b)
/-- REM: the remainder takes the sign of the dividend. -/
def remW (w : Nat) (a b : Word) : Word := narrow w (sval w a - sval w b * Int.tdiv (sval w a) (sval w b))
/-- REMU. -/
def remuW (w : Nat) (a b : Word) : Word := narrowN w (uval w a - uval w b * (uval w a / uval w b))
/-- NEG. -/
def negW (w : Nat) (a : Word) : Word := narrow w (-sval w a)
/-- ABS. -/
def absW (w : Nat) (a : Word) : Word := narrow w (sval w a).natAbs
/-- MIN. -/
def minW (w : Nat) (a b : Word) : Word := narrow w (min (sval w a) (sval w b))
/-- MAX. -/
def maxW (w : Nat) (a b : Word) : Word := narrow w (max (sval w a) (sval w b))
/-- MINU. -/
def minuW (w : Nat) (a b : Word) : Word := narrowN w (min (uval w a) (uval w b))
/-- MAXU. -/
def maxuW (w : Nat) (a b : Word) : Word := narrowN w (max (uval w a) (uval w b))

/-- The shift count of a width: b[5:0] or b[4:0] (R101). -/
def shiftCount (w : Nat) (b : Word) : Nat := b.toNat % w
/-- AND, OR, XOR, ANDN of Table 6.3. -/
def andW (w : Nat) (a b : Word) : Word := narrowN w ((a &&& b).setWidth w).toNat
/-- OR. -/
def orW (w : Nat) (a b : Word) : Word := narrowN w ((a ||| b).setWidth w).toNat
/-- XOR. -/
def xorW (w : Nat) (a b : Word) : Word := narrowN w ((a ^^^ b).setWidth w).toNat
/-- ANDN. -/
def andnW (w : Nat) (a b : Word) : Word := narrowN w ((a &&& ~~~b).setWidth w).toNat
/-- SHL. -/
def shlW (w : Nat) (a b : Word) : Word := narrowN w (uval w a * 2 ^ shiftCount w b)
/-- SHR. -/
def shrW (w : Nat) (a b : Word) : Word := narrowN w (uval w a / 2 ^ shiftCount w b)
/-- SAR: the floor of the signed quotient by the power of two. -/
def sarW (w : Nat) (a b : Word) : Word := narrow w (sval w a / 2 ^ shiftCount w b)
/-- ROR. -/
def rorW (w : Nat) (a b : Word) : Word := ((a.setWidth w).rotateRight (shiftCount w b)).signExtend 64

/-- The number of leading zeros among `n` bits of `x`, from bit n−1 down. -/
def leadingZeros (x : Nat) : Nat → Nat
  | 0 => 0
  | n + 1 => if x.testBit n then 0 else leadingZeros x n + 1
/-- The number of trailing zeros among `n` bits of `x`, from bit `k` up. -/
def trailingZeros (x k : Nat) : Nat → Nat
  | 0 => 0
  | n + 1 => if x.testBit k then 0 else trailingZeros x (k + 1) n + 1
/-- The number of ones among the low `n` bits. -/
def onesCount (x : Nat) : Nat → Nat
  | 0 => 0
  | n + 1 => onesCount x n + (if x.testBit n then 1 else 0)
/-- CLZ, CTZ, POPC. -/
def clzW (w : Nat) (a : Word) : Word := BitVec.ofNat 64 (leadingZeros (uval w a) w)
/-- CTZ. -/
def ctzW (w : Nat) (a : Word) : Word := BitVec.ofNat 64 (trailingZeros (uval w a) 0 w)
/-- POPC. -/
def popcW (w : Nat) (a : Word) : Word := BitVec.ofNat 64 (onesCount (uval w a) w)

/-- The position and the length of the field an OB value names (R102). -/
def fieldSpec (w : Nat) (b : Word) : Nat × Nat :=
  let len := b.toNat / 64 % 128
  (b.toNat % 64, if len = 0 ∨ w < len then w else len)
/-- EXTR. -/
def extrW (w : Nat) (a b : Word) : Word :=
  let (pos, len) := fieldSpec w b
  narrowN w (uval w a / 2 ^ pos % 2 ^ len)
/-- INS: OA[len−1:0] placed into `d` at pos, bits at or above W discarded. -/
def insW (w : Nat) (d a b : Word) : Word :=
  let (pos, len) := fieldSpec w b
  let mask : Word := BitVec.ofNat 64 ((2 ^ len - 1) * 2 ^ pos)
  narrowN w (((d &&& ~~~mask) ||| ((a <<< pos) &&& mask)).setWidth w).toNat

/-- The conditions of `CMP` (Table 6.4). -/
def cmpHolds (md : BitVec 3) (a b : Word) : Bool :=
  match md.toNat with
  | 0 => a == b
  | 1 => a != b
  | 2 => a.slt b
  | 3 => a.sle b
  | 4 => a.ult b
  | _ => a.ule b

/-- A whole predicate (R103). -/
def predOf (b : Bool) : Word := if b then BitVec.allOnes 64 else 0

/-! ## Meanings -/

/-- A two-source operation with the widths of R97. -/
def intOp (op : Nat → Word → Word → Word) (f : Form) (s : State) : Outcome :=
  runToG f .write (fun t => op (widthOf f.md) (t.value f.oa) (t.value f.ob)) s
/-- A one-source operation. -/
def intOp1 (op : Nat → Word → Word) (f : Form) (s : State) : Outcome :=
  runToG f .write (fun t => op (widthOf f.md) (t.value f.oa)) s

/-- ADD (R99). -/
def execAdd (f : Form) (s : State) : Outcome := intOp addW f s
/-- SUB (R99). -/
def execSub (f : Form) (s : State) : Outcome := intOp subW f s
/-- A multiplication: its result is ready 3 cycles after issue (Table 6.1). -/
def mulOp (op : Nat → Word → Word → Word) (f : Form) (s : State) : Outcome :=
  run f none .write (fun s => .ok (readyIn 3 f.od (s.modMe (fun t =>
    t.writeG (regOf f.od) (op (widthOf f.md) (t.value f.oa) (t.value f.ob)))))) s

/-- MUL (R99). -/
def execMul (f : Form) (s : State) : Outcome := mulOp mulW f s
/-- MULH (R99). -/
def execMulh (f : Form) (s : State) : Outcome := mulOp mulhW f s
/-- MIN (R99). -/
def execMin (f : Form) (s : State) : Outcome := intOp minW f s
/-- MAX (R99). -/
def execMax (f : Form) (s : State) : Outcome := intOp maxW f s
/-- MINU (R99). -/
def execMinu (f : Form) (s : State) : Outcome := intOp minuW f s
/-- MAXU (R99). -/
def execMaxu (f : Form) (s : State) : Outcome := intOp maxuW f s
/-- AND (R101). -/
def execAnd (f : Form) (s : State) : Outcome := intOp andW f s
/-- OR (R101). -/
def execOr (f : Form) (s : State) : Outcome := intOp orW f s
/-- XOR (R101). -/
def execXor (f : Form) (s : State) : Outcome := intOp xorW f s
/-- ANDN (R101). -/
def execAndn (f : Form) (s : State) : Outcome := intOp andnW f s
/-- SHL (R101). -/
def execShl (f : Form) (s : State) : Outcome := intOp shlW f s
/-- SHR (R101). -/
def execShr (f : Form) (s : State) : Outcome := intOp shrW f s
/-- SAR (R101). -/
def execSar (f : Form) (s : State) : Outcome := intOp sarW f s
/-- ROR (R101). -/
def execRor (f : Form) (s : State) : Outcome := intOp rorW f s
/-- EXTR (R102). -/
def execExtr (f : Form) (s : State) : Outcome := intOp extrW f s
/-- NEG (R99). -/
def execNeg (f : Form) (s : State) : Outcome := intOp1 negW f s
/-- ABS (R99). -/
def execAbs (f : Form) (s : State) : Outcome := intOp1 absW f s
/-- CLZ (R101). -/
def execClz (f : Form) (s : State) : Outcome := intOp1 clzW f s
/-- CTZ (R101). -/
def execCtz (f : Form) (s : State) : Outcome := intOp1 ctzW f s
/-- POPC (R101). -/
def execPopc (f : Form) (s : State) : Outcome := intOp1 popcW f s

/-- Division and remainder (R100): a zero divisor traps `INT_DIVZERO` with the dividend; otherwise the result is
a long-latency one. -/
def divOp (op : Nat → Word → Word → Word) (f : Form) (s : State) : Outcome :=
  run f none .write (fun s =>
    if uval (widthOf f.md) (s.me.value f.ob) = 0 then .error (.trap 0x08 (s.me.value f.oa))
    else .ok (pendG s (regOf f.od) false 0 (.value (op (widthOf f.md) (s.me.value f.oa) (s.me.value f.ob))))) s

/-- DIV (R100). -/
def execDiv (f : Form) (s : State) : Outcome := divOp divW f s
/-- DIVU (R100). -/
def execDivu (f : Form) (s : State) : Outcome := divOp divuW f s
/-- REM (R100). -/
def execRem (f : Form) (s : State) : Outcome := divOp remW f s
/-- REMU (R100). -/
def execRemu (f : Form) (s : State) : Outcome := divOp remuW f s

/-- INS (R102): OD is read. -/
def execIns (f : Form) (s : State) : Outcome :=
  runToG f .both (fun t => insW (widthOf f.md) (t.value f.od) (t.value f.oa) (t.value f.ob)) s

/-- CMP (R103). -/
def execCmp (f : Form) (s : State) : Outcome :=
  runToP f (fun t => predOf (cmpHolds f.md (t.value f.oa) (t.value f.ob))) s
/-- SEL (R103): OD is read. -/
def execSel (f : Form) (s : State) : Outcome :=
  runToG f .both (fun t => (t.value f.ob &&& t.value f.oa) ||| (t.value f.od &&& ~~~t.value f.oa)) s
/-- PAND (R103). -/
def execPand (f : Form) (s : State) : Outcome := runToP f (fun t => t.value f.oa &&& t.value f.ob) s
/-- POR (R103). -/
def execPor (f : Form) (s : State) : Outcome := runToP f (fun t => t.value f.oa ||| t.value f.ob) s
/-- PXOR (R103). -/
def execPxor (f : Form) (s : State) : Outcome := runToP f (fun t => t.value f.oa ^^^ t.value f.ob) s
/-- PNOT (R103). -/
def execPnot (f : Form) (s : State) : Outcome := runToP f (fun t => ~~~t.value f.oa) s
/-- PTOG (R103). -/
def execPtog (f : Form) (s : State) : Outcome := runToG f .write (fun t => t.value f.oa) s
/-- GTOP (R103). -/
def execGtop (f : Form) (s : State) : Outcome := runToP f (fun t => t.value f.oa) s

/-- MOV (R104). -/
def execMov (f : Form) (s : State) : Outcome := runToG f .write (fun t => t.value f.oa) s
/-- LIMM (R104): the sign-extended 48-bit value. -/
def execLimm (g : Guard) (h : Hints) (od : Operand) (value : BitVec 48) (s : State) : Outcome :=
  runToG ⟨g, h, 0, od, .unused, .unused⟩ .write (fun _ => value.signExtend 64) s
/-- LIMM.hi (R104): bits 63:48 replaced, bits 47:0 kept. -/
def execLimmHi (g : Guard) (h : Hints) (od : Operand) (value : BitVec 16) (s : State) : Outcome :=
  runToG ⟨g, h, 1, od, .unused, .unused⟩ .both (fun t => value ++ (t.value od).extractLsb' 0 48) s
/-- LEA (R104): OA plus OB shifted by the scale. -/
def execLea (f : Form) (s : State) : Outcome :=
  runToG f .write (fun t => t.value f.oa + (t.value f.ob <<< f.md.toNat)) s
/-- PTRG (R104): the generation of a pointer. -/
def execPtrg (f : Form) (s : State) : Outcome :=
  runToG f .write (fun t => ((t.value f.oa).extractLsb' 57 7).setWidth 64) s
/-- PTRS (R104): a pointer with another generation. -/
def execPtrs (f : Form) (s : State) : Outcome :=
  runToG f .write (fun t => (t.value f.ob).extractLsb' 0 7 ++ (t.value f.oa).extractLsb' 0 57) s

/-- CURS (R109): bits 24:20 and 17:0 of the source. -/
def execCurs (f : Form) (s : State) : Outcome :=
  run f none .none (fun s => .ok (s.modMe (fun t => t.writeC (regOf f.od) ((t.value f.oa).extractLsb' 0 25)))) s
/-- CURG (R109). -/
def execCurg (f : Form) (s : State) : Outcome :=
  runToG f .write (fun t => (t.readC (regOf f.oa)).setWidth 64) s

end Sys2Proof.Machine
end

