-- ==== Sys2Proof/Machine/ScalarFloat.lean ====
section
/-! DEFINITION. Class 00, MJ 0100: scalar floating point (R110 to R114). -/

namespace Sys2Proof.Machine

/-- The precision of a modifier bit: FP32 for `.s`, FP64 for `.d`. -/
def precision (d : Bool) : Fmt := if d then fp64 else fp32

/-- A scalar source in a precision: bits 31:0 for `.s` (R110). -/
def fsrc (d : Bool) (w : Word) : FVal := decodeF (precision d) (w.toNat % 2 ^ (precision d).width)

/-- Whether a form is `.d`. -/
def isD (f : Form) : Bool := f.md == 1

/-- An operation on the two sources and OD, all in the form's precision. -/
def fpResult (op : Fmt → FVal → FVal → FVal → Nat × BitVec 5) (f : Form) (t : TSet) : Nat × BitVec 5 :=
  op (precision (isD f)) (fsrc (isD f) (t.value f.od)) (fsrc (isD f) (t.value f.oa)) (fsrc (isD f) (t.value f.ob))

/-- The delivery of a floating result that holds no result in flight (R110, R111): flags merge or the trap `FP` is
taken; with an enable set the next issue waits 4 cycles. Readers of the result, and accesses to `FPCTL`, wait for its completion
(R98, R108). -/
def fpDeliver (cycles : Nat) (o : Operand) (exc : BitVec 5) (write : TSet → TSet) (s : State) : Except Stop State :=
  match fpOutcome s.me exc with
  | .error e => .error e
  | .ok t =>
    .ok (fpHold (readyIn cycles o (s.modMe (fun _ => (write t).setLate 192 (s.cycle s.curCore + cycles)))) (fpEnables t.fpctl) cycles)

/-- FADD to FFMA, FMIN, FMAX: 4 cycles. -/
def fpOp (use : OdUse) (op : Fmt → FVal → FVal → FVal → Nat × BitVec 5) (f : Form) (s : State) : Outcome :=
  run f none use (fun s =>
    let r := fpResult op f s.me
    fpDeliver 4 f.od r.2 (fun t => t.writeG (regOf f.od) (BitVec.ofNat 64 r.1)) s) s

/-- FDIV and FSQRT (R111): long-latency with every enable clear, held with one set. -/
def fpLong (cycles : Nat) (op : Fmt → FVal → FVal → FVal → Nat × BitVec 5) (f : Form) (s : State) : Outcome :=
  run f none .write (fun s =>
    let r := fpResult op f s.me
    if fpEnables s.me.fpctl = 0 then .ok (pendG s (regOf f.od) false 0 (.float (BitVec.ofNat 64 r.1) r.2))
    else fpDeliver cycles f.od r.2 (fun t => t.writeG (regOf f.od) (BitVec.ofNat 64 r.1)) s) s

/-- FADD (R110). -/
def execFadd (f : Form) (s : State) : Outcome := fpOp .write (fun p _ a b => opAdd p a b) f s
/-- FSUB (R110): the sum with the second source negated. -/
def execFsub (f : Form) (s : State) : Outcome := fpOp .write (fun p _ a b => opAdd p a (fNeg b)) f s
/-- FMUL (R110). -/
def execFmul (f : Form) (s : State) : Outcome := fpOp .write (fun p _ a b => opMul p a b) f s
/-- FFMA (R110): d + a · b with one rounding. -/
def execFfma (f : Form) (s : State) : Outcome := fpOp .both (fun p d a b => opFma p d a b) f s
/-- FMIN (R110, R74). -/
def execFmin (f : Form) (s : State) : Outcome := fpOp .write (fun p _ a b => (roundBits p (fMin a b), 0)) f s
/-- FMAX (R110, R74). -/
def execFmax (f : Form) (s : State) : Outcome := fpOp .write (fun p _ a b => (roundBits p (fMax a b), 0)) f s
/-- FDIV (R110, R111). -/
def execFdiv (f : Form) (s : State) : Outcome := fpLong 14 (fun p _ a b => opDiv p a b) f s
/-- FSQRT (R110, R111). -/
def execFsqrt (f : Form) (s : State) : Outcome := fpLong 18 (fun p _ a _ => opSqrt p a) f s

/-- The condition of `FCMP` (R112): 0 eq, 1 lt, 2 le, 3 un. -/
def fcmpHolds (cond : Nat) (a b : FVal) : Bool :=
  match cond with
  | 0 => fEq a b
  | 1 => fLt a b
  | 2 => fLe a b
  | _ => a.isNan || b.isNan

/-- The exceptions of `FCMP`: lt and le with a NaN raise invalid (R112). -/
def fcmpExc (cond : Nat) (a b : FVal) : BitVec 5 :=
  if (cond = 1 ∨ cond = 2) ∧ (a.isNan || b.isNan) = true then 1 else 0

/-- FCMP (R112): the condition in md[1:0], the precision in md[2]. -/
def execFcmp (f : Form) (s : State) : Outcome :=
  run f none .none (fun s =>
    let d := f.md.getLsbD 2
    let a := fsrc d (s.me.value f.oa)
    let b := fsrc d (s.me.value f.ob)
    let cond := f.md.toNat % 4
    fpDeliver 4 f.od (fcmpExc cond a b) (fun t => t.writeP (regOf f.od) (predOf (fcmpHolds cond a b))) s) s

/-- The result and exceptions of a conversion between floating formats: a NaN raises nothing (R113). -/
def convFloat (dst : Fmt) (v : FVal) : Nat × BitVec 5 := finish dst false false v

/-- The result and exceptions of a conversion to INT64 (R79, R113). -/
def convInt (v : FVal) : Nat × BitVec 5 :=
  let (x, invalid, cut) := toIntF (-(2 : Int) ^ 63) (2 ^ 63 - 1) v
  (toBits 64 x, excBits invalid false false false (cut && !invalid))

/-- The conversions of Table 6.8. -/
def fcvtResult (md : Nat) (a : Word) : Nat × BitVec 5 :=
  match md with
  | 0 => convFloat fp64 (decodeF fp32 (a.toNat % 2 ^ 32))
  | 1 => convFloat fp32 (decodeF fp64 a.toNat)
  | 2 => convFloat fp32 (ofInt a.toInt)
  | 3 => convInt (decodeF fp32 (a.toNat % 2 ^ 32))
  | 4 => convFloat fp64 (ofInt a.toInt)
  | 5 => convInt (decodeF fp64 a.toNat)
  | 6 => convFloat bf16 (decodeF fp32 (a.toNat % 2 ^ 32))
  | _ => convFloat fp32 (decodeF bf16 (a.toNat % 2 ^ 16))

/-- FCVT (R113). -/
def execFcvt (f : Form) (s : State) : Outcome :=
  run f none .write (fun s =>
    let r := fcvtResult f.md.toNat (s.me.value f.oa)
    fpDeliver 4 f.od r.2 (fun t => t.writeG (regOf f.od) (BitVec.ofNat 64 r.1)) s) s

end Sys2Proof.Machine
end

