-- ==== Sys2Proof/Machine/Dispatch.lean ====
section
/-! DEFINITION. The one dispatch: every instruction to its meaning. -/

namespace Sys2Proof.Machine

/-- What an instruction does: a word at the thread set under execution, or a step of the device that no word names. -/
def exec (i : Instr) (s : State) : Host.Outcome State Fault Refusal :=
  match i with
  | .add f => Sys2Proof.Machine.execAdd f s
  | .sub f => Sys2Proof.Machine.execSub f s
  | .mul f => Sys2Proof.Machine.execMul f s
  | .mulh f => Sys2Proof.Machine.execMulh f s
  | .div f => Sys2Proof.Machine.execDiv f s
  | .divu f => Sys2Proof.Machine.execDivu f s
  | .rem f => Sys2Proof.Machine.execRem f s
  | .remu f => Sys2Proof.Machine.execRemu f s
  | .neg f => Sys2Proof.Machine.execNeg f s
  | .abs f => Sys2Proof.Machine.execAbs f s
  | .min f => Sys2Proof.Machine.execMin f s
  | .max f => Sys2Proof.Machine.execMax f s
  | .minu f => Sys2Proof.Machine.execMinu f s
  | .maxu f => Sys2Proof.Machine.execMaxu f s
  | .and f => Sys2Proof.Machine.execAnd f s
  | .or f => Sys2Proof.Machine.execOr f s
  | .xor f => Sys2Proof.Machine.execXor f s
  | .andn f => Sys2Proof.Machine.execAndn f s
  | .shl f => Sys2Proof.Machine.execShl f s
  | .shr f => Sys2Proof.Machine.execShr f s
  | .sar f => Sys2Proof.Machine.execSar f s
  | .ror f => Sys2Proof.Machine.execRor f s
  | .clz f => Sys2Proof.Machine.execClz f s
  | .ctz f => Sys2Proof.Machine.execCtz f s
  | .popc f => Sys2Proof.Machine.execPopc f s
  | .extr f => Sys2Proof.Machine.execExtr f s
  | .ins f => Sys2Proof.Machine.execIns f s
  | .cmp f => Sys2Proof.Machine.execCmp f s
  | .sel f => Sys2Proof.Machine.execSel f s
  | .pand f => Sys2Proof.Machine.execPand f s
  | .por f => Sys2Proof.Machine.execPor f s
  | .pxor f => Sys2Proof.Machine.execPxor f s
  | .pnot f => Sys2Proof.Machine.execPnot f s
  | .ptog f => Sys2Proof.Machine.execPtog f s
  | .gtop f => Sys2Proof.Machine.execGtop f s
  | .mov f => Sys2Proof.Machine.execMov f s
  | .limm guard hints od value => Sys2Proof.Machine.execLimm guard hints od value s
  | .limmHi guard hints od value => Sys2Proof.Machine.execLimmHi guard hints od value s
  | .lea f => Sys2Proof.Machine.execLea f s
  | .ptrg f => Sys2Proof.Machine.execPtrg f s
  | .ptrs f => Sys2Proof.Machine.execPtrs f s
  | .mfs f => Sys2Proof.Machine.execMfs f s
  | .mts f => Sys2Proof.Machine.execMts f s
  | .mtsOwner f => Sys2Proof.Machine.execMtsOwner f s
  | .fpctlAccess f => Sys2Proof.Machine.execFpctlAccess f s
  | .mfsTmstat f => Sys2Proof.Machine.execMfsTmstat f s
  | .mfsCounter f => Sys2Proof.Machine.execMfsCounter f s
  | .mtsCsel f => Sys2Proof.Machine.execMtsCsel f s
  | .curs f => Sys2Proof.Machine.execCurs f s
  | .curg f => Sys2Proof.Machine.execCurg f s
  | .fadd f => Sys2Proof.Machine.execFadd f s
  | .fsub f => Sys2Proof.Machine.execFsub f s
  | .fmul f => Sys2Proof.Machine.execFmul f s
  | .ffma f => Sys2Proof.Machine.execFfma f s
  | .fdiv f => Sys2Proof.Machine.execFdiv f s
  | .fsqrt f => Sys2Proof.Machine.execFsqrt f s
  | .fmin f => Sys2Proof.Machine.execFmin f s
  | .fmax f => Sys2Proof.Machine.execFmax f s
  | .fcmp f => Sys2Proof.Machine.execFcmp f s
  | .fcvt f => Sys2Proof.Machine.execFcvt f s
  | .vfadd f => Sys2Proof.Machine.execVfadd f s
  | .vfsub f => Sys2Proof.Machine.execVfsub f s
  | .vfmul f => Sys2Proof.Machine.execVfmul f s
  | .vffma f => Sys2Proof.Machine.execVffma f s
  | .vfmin f => Sys2Proof.Machine.execVfmin f s
  | .vfmax f => Sys2Proof.Machine.execVfmax f s
  | .vfabs f => Sys2Proof.Machine.execVfabs f s
  | .vfneg f => Sys2Proof.Machine.execVfneg f s
  | .vfrcp f => Sys2Proof.Machine.execVfrcp f s
  | .vfrsq f => Sys2Proof.Machine.execVfrsq f s
  | .vfexp2 f => Sys2Proof.Machine.execVfexp2 f s
  | .vfcmpeq f => Sys2Proof.Machine.execVfcmpeq f s
  | .vfcmplt f => Sys2Proof.Machine.execVfcmplt f s
  | .vfcmple f => Sys2Proof.Machine.execVfcmple f s
  | .vadd f => Sys2Proof.Machine.execVadd f s
  | .vsub f => Sys2Proof.Machine.execVsub f s
  | .vmul f => Sys2Proof.Machine.execVmul f s
  | .vmulh f => Sys2Proof.Machine.execVmulh f s
  | .vmin f => Sys2Proof.Machine.execVmin f s
  | .vmax f => Sys2Proof.Machine.execVmax f s
  | .vand f => Sys2Proof.Machine.execVand f s
  | .vor f => Sys2Proof.Machine.execVor f s
  | .vxor f => Sys2Proof.Machine.execVxor f s
  | .vshl f => Sys2Proof.Machine.execVshl f s
  | .vshr f => Sys2Proof.Machine.execVshr f s
  | .vsar f => Sys2Proof.Machine.execVsar f s
  | .vabs f => Sys2Proof.Machine.execVabs f s
  | .vcmpeq f => Sys2Proof.Machine.execVcmpeq f s
  | .vcmplt f => Sys2Proof.Machine.execVcmplt f s
  | .vsel f => Sys2Proof.Machine.execVsel f s
  | .vadds f => Sys2Proof.Machine.execVadds f s
  | .vcvt f => Sys2Proof.Machine.execVcvt f s
  | .vqnt f => Sys2Proof.Machine.execVqnt f s
  | .vdqnt f => Sys2Proof.Machine.execVdqnt f s
  | .vscl f => Sys2Proof.Machine.execVscl f s
  | .vamax f => Sys2Proof.Machine.execVamax f s
  | .vrsum f => Sys2Proof.Machine.execVrsum f s
  | .vrmax f => Sys2Proof.Machine.execVrmax f s
  | .vrmin f => Sys2Proof.Machine.execVrmin f s
  | .vperm f => Sys2Proof.Machine.execVperm f s
  | .vbcast f => Sys2Proof.Machine.execVbcast f s
  | .vext f => Sys2Proof.Machine.execVext f s
  | .vins f => Sys2Proof.Machine.execVins f s
  | .vrot f => Sys2Proof.Machine.execVrot f s
  | .vcomp f => Sys2Proof.Machine.execVcomp f s
  | .vexpd f => Sys2Proof.Machine.execVexpd f s
  | .vld f => Sys2Proof.Machine.execVld f s
  | .vst f => Sys2Proof.Machine.execVst f s
  | .vlds f => Sys2Proof.Machine.execVlds f s
  | .vsts f => Sys2Proof.Machine.execVsts f s
  | .vgth f => Sys2Proof.Machine.execVgth f s
  | .vsct f => Sys2Proof.Machine.execVsct f s
  | .ld f => Sys2Proof.Machine.execLd f s
  | .st f => Sys2Proof.Machine.execSt f s
  | .vgld f => Sys2Proof.Machine.execVgld f s
  | .vgst f => Sys2Proof.Machine.execVgst f s
  | .pft f => Sys2Proof.Machine.execPft f s
  | .sld f => Sys2Proof.Machine.execSld f s
  | .sst f => Sys2Proof.Machine.execSst f s
  | .ldl f => Sys2Proof.Machine.execLdl f s
  | .stu f => Sys2Proof.Machine.execStu f s
  | .ulk f => Sys2Proof.Machine.execUlk f s
  | .aadd f => Sys2Proof.Machine.execAadd f s
  | .afadd f => Sys2Proof.Machine.execAfadd f s
  | .amax f => Sys2Proof.Machine.execAmax f s
  | .amaxu f => Sys2Proof.Machine.execAmaxu f s
  | .afmax f => Sys2Proof.Machine.execAfmax f s
  | .amin f => Sys2Proof.Machine.execAmin f s
  | .aand f => Sys2Proof.Machine.execAand f s
  | .aor f => Sys2Proof.Machine.execAor f s
  | .axor f => Sys2Proof.Machine.execAxor f s
  | .axchg f => Sys2Proof.Machine.execAxchg f s
  | .acas f => Sys2Proof.Machine.execAcas f s
  | .acq f => Sys2Proof.Machine.execAcq f s
  | .rel f => Sys2Proof.Machine.execRel f s
  | .bind f => Sys2Proof.Machine.execBind f s
  | .unbind f => Sys2Proof.Machine.execUnbind f s
  | .fence f => Sys2Proof.Machine.execFence f s
  | .xfence f => Sys2Proof.Machine.execXfence f s
  | .spinw f => Sys2Proof.Machine.execSpinw f s
  | .barsync f => Sys2Proof.Machine.execBarsync f s
  | .barmax f => Sys2Proof.Machine.execBarmax f s
  | .grant f => Sys2Proof.Machine.execGrant f s
  | .revoke f => Sys2Proof.Machine.execRevoke f s
  | .rchk f => Sys2Proof.Machine.execRchk f s
  | .genadv f => Sys2Proof.Machine.execGenadv f s
  | .tlbinv f => Sys2Proof.Machine.execTlbinv f s
  | .mma f => Sys2Proof.Machine.execMma f s
  | .mmas f => Sys2Proof.Machine.execMmas f s
  | .mrot f => Sys2Proof.Machine.execMrot f s
  | .mrot2 f => Sys2Proof.Machine.execMrot2 f s
  | .cclr f => Sys2Proof.Machine.execCclr f s
  | .tld f => Sys2Proof.Machine.execTld f s
  | .tst f => Sys2Proof.Machine.execTst f s
  | .tcvt f => Sys2Proof.Machine.execTcvt f s
  | .twait f => Sys2Proof.Machine.execTwait f s
  | .esend f => Sys2Proof.Machine.execEsend f s
  | .gnode f => Sys2Proof.Machine.execGnode f s
  | .gseal f => Sys2Proof.Machine.execGseal f s
  | .br f => Sys2Proof.Machine.execBr f s
  | .bri f => Sys2Proof.Machine.execBri f s
  | .call f => Sys2Proof.Machine.execCall f s
  | .ret f => Sys2Proof.Machine.execRet f s
  | .loop f => Sys2Proof.Machine.execLoop f s
  | .send f => Sys2Proof.Machine.execSend f s
  | .sendnow f => Sys2Proof.Machine.execSendnow f s
  | .endAct f => Sys2Proof.Machine.execEnd f s
  | .endw f => Sys2Proof.Machine.execEndw f s
  | .rread f => Sys2Proof.Machine.execRread f s
  | .htset f => Sys2Proof.Machine.execHtset f s
  | .tagen f => Sys2Proof.Machine.execTagen f s
  | .tagpnd f => Sys2Proof.Machine.execTagpnd f s
  | .fork f => Sys2Proof.Machine.execFork f s
  | .join f => Sys2Proof.Machine.execJoin f s
  | .qpost f => Sys2Proof.Machine.execQpost f s
  | .evset f => Sys2Proof.Machine.execEvset f s
  | .evclr f => Sys2Proof.Machine.execEvclr f s
  | .trye f => Sys2Proof.Machine.execTrye f s
  | .fail f => Sys2Proof.Machine.execFail f s
  | .cut f => Sys2Proof.Machine.execCut f s
  | .trail f => Sys2Proof.Machine.execTrail f s
  | .spec f => Sys2Proof.Machine.execSpec f s
  | .resolve f => Sys2Proof.Machine.execResolve f s
  | .nop f => Sys2Proof.Machine.execNop f s
  | .trap f => Sys2Proof.Machine.execTrap f s
  | .tret f => Sys2Proof.Machine.execTret f s
  | .tabort f => Sys2Proof.Machine.execTabort f s
  | .yieldAct f => Sys2Proof.Machine.execYield f s
  | .brk f => Sys2Proof.Machine.execBrk f s
  | .specialRegisterWrite f => Sys2Proof.Machine.execSpecialRegisterWrite f s
  | .atomicPerform core ts k => Sys2Proof.Machine.execAtomicPerform core ts k s
  | .syncGrant pa => Sys2Proof.Machine.execSyncGrant pa s
  | .watchArm k => Sys2Proof.Machine.execWatchArm k s
  | .spinwFire k => Sys2Proof.Machine.execSpinwFire k s
  | .tierWatchPoll k peer => Sys2Proof.Machine.execTierWatchPoll k peer s
  | .barrierRelease cluster b => Sys2Proof.Machine.execBarrierRelease cluster b s
  | .purgeArrival k core => Sys2Proof.Machine.execPurgeArrival k core s
  | .rightsWalk core ts => Sys2Proof.Machine.execRightsWalk core ts s
  | .pageWalk core ts => Sys2Proof.Machine.execPageWalk core ts s
  | .anvilStart core => Sys2Proof.Machine.execAnvilStart core s
  | .anvilEvaluationEnd core => Sys2Proof.Machine.execAnvilEvaluationEnd core s
  | .replayFetch core => Sys2Proof.Machine.execReplayFetch core s
  | .remoteBlockFetch core y => Sys2Proof.Machine.execRemoteBlockFetch core y s
  | .rotationHalfArrival k => Sys2Proof.Machine.execRotationHalfArrival k s
  | .rotationLanding core => Sys2Proof.Machine.execRotationLanding core s
  | .pairAbort core => Sys2Proof.Machine.execPairAbort core s
  | .halfDiscard core k => Sys2Proof.Machine.execHalfDiscard core k s
  | .streamCommandStart cluster engine => Sys2Proof.Machine.execStreamCommandStart cluster engine s
  | .streamCommandComplete cluster engine => Sys2Proof.Machine.execStreamCommandComplete cluster engine s
  | .streamLoad cluster engine rows => Sys2Proof.Machine.execStreamLoad cluster engine rows s
  | .streamStore cluster engine rows => Sys2Proof.Machine.execStreamStore cluster engine rows s
  | .streamConvert cluster engine rows => Sys2Proof.Machine.execStreamConvert cluster engine rows s
  | .copy die engine units => Sys2Proof.Machine.execCopy die engine units s
  | .fill die engine units => Sys2Proof.Machine.execFill die engine units s
  | .reduce die engine => Sys2Proof.Machine.execReduce die engine s
  | .engineCommandComplete die engine => Sys2Proof.Machine.execEngineCommandComplete die engine s
  | .leaseExpiry die engine => Sys2Proof.Machine.execLeaseExpiry die engine s
  | .graphDispatch cluster cls core => Sys2Proof.Machine.execGraphDispatch cluster cls core s
  | .graphRecordComplete cluster k => Sys2Proof.Machine.execGraphRecordComplete cluster k s
  | .messageArrival src => Sys2Proof.Machine.execMessageArrival src s
  | .handlerCacheFill core tag => Sys2Proof.Machine.execHandlerCacheFill core tag s
  | .directMessage k => Sys2Proof.Machine.execDirectMessage k s
  | .endwWatchFire bank k => Sys2Proof.Machine.execEndwWatchFire bank k s
  | .readCompletion cluster engine => Sys2Proof.Machine.execReadCompletion cluster engine s
  | .joinStep core ts => Sys2Proof.Machine.execJoinStep core ts s
  | .queueSpaceTrigger q => Sys2Proof.Machine.execQueueSpaceTrigger q s
  | .searchTheftRequest core => Sys2Proof.Machine.execSearchTheftRequest core s
  | .theftGrant thief victim => Sys2Proof.Machine.execTheftGrant thief victim s
  | .theftCopyComplete k => Sys2Proof.Machine.execTheftCopyComplete k s
  | .theftStart core => Sys2Proof.Machine.execTheftStart core s
  | .pruneNotice cluster k core => Sys2Proof.Machine.execPruneNotice cluster k core s
  | .resultArrival core ts k => Sys2Proof.Machine.execResultArrival core ts k s
  | .lockCapture core ts => Sys2Proof.Machine.execLockCapture core ts s
  | .lockBitGrant at_ => Sys2Proof.Machine.execLockBitGrant at_ s
  | .storeQueueDrain core ts => Sys2Proof.Machine.execStoreQueueDrain core ts s
  | .remoteWriteAck core ts k => Sys2Proof.Machine.execRemoteWriteAck core ts k s
  | .lineEviction cluster set => Sys2Proof.Machine.execLineEviction cluster set s
  | .messageSelection core => Sys2Proof.Machine.execMessageSelection core s
  | .stealRound core => Sys2Proof.Machine.execStealRound core s
  | .stealGrant thief victim => Sys2Proof.Machine.execStealGrant thief victim s
  | .taskRecordBounce k => Sys2Proof.Machine.execTaskRecordBounce k s
  | .activationAbort core ts reason => Sys2Proof.Machine.execActivationAbort core ts reason s
  | .watchdog core ts => Sys2Proof.Machine.execWatchdog core ts s
  | .launchTake q => Sys2Proof.Machine.execLaunchTake q s
  | .coresidentReservation launch core ts => Sys2Proof.Machine.execCoresidentReservation launch core ts s
  | .elementStartDispatch launch core => Sys2Proof.Machine.execElementStartDispatch launch core s
  | .launchComplete launch => Sys2Proof.Machine.execLaunchComplete launch s
  | .completionWrite launch => Sys2Proof.Machine.execCompletionWrite launch s
  | .fabricLaunch die src tenant cookie record => Sys2Proof.Machine.execFabricLaunch die src tenant cookie record s
  | .tokenRefill die tenant => Sys2Proof.Machine.execTokenRefill die tenant s
  | .directRequest die src tenant cookie ctx core entry args => Sys2Proof.Machine.execDirectRequest die src tenant cookie ctx core entry args s
  | .sliceEnd p => Sys2Proof.Machine.execSliceEnd p s
  | .sliceOverrun p => Sys2Proof.Machine.execSliceOverrun p s
  | .preemptionSave p => Sys2Proof.Machine.execPreemptionSave p s
  | .contextResume p => Sys2Proof.Machine.execContextResume p s
  | .queueStall q => Sys2Proof.Machine.execQueueStall q s
  | .coreMigration ctx old new => Sys2Proof.Machine.execCoreMigration ctx old new s
  | .forwardingExpiry cluster k => Sys2Proof.Machine.execForwardingExpiry cluster k s
  | .contextKill ctx => Sys2Proof.Machine.execContextKill ctx s
  | .vfReset p rotate => Sys2Proof.Machine.execVfReset p rotate s
  | .requestVoid p => Sys2Proof.Machine.execRequestVoid p s
  | .accessCount => Sys2Proof.Machine.execAccessCount s
  | .heldWriteDrain cluster => Sys2Proof.Machine.execHeldWriteDrain cluster s
  | .patrolScrub p place at_ bad => Sys2Proof.Machine.execPatrolScrub p place at_ bad s
  | .uncorrectable p place at_ => Sys2Proof.Machine.execUncorrectable p place at_ s
  | .dieBridgeFailure die => Sys2Proof.Machine.execDieBridgeFailure die s
  | .traceRecord cluster => Sys2Proof.Machine.execTraceRecord cluster s
  | .policyExpiry p => Sys2Proof.Machine.execPolicyExpiry p s
  | .mailboxDoorbell fn tail => Sys2Proof.Machine.execMailboxDoorbell fn tail s
  | .mailboxWrite fn => Sys2Proof.Machine.execMailboxWrite fn s
  | .mailboxRead fn => Sys2Proof.Machine.execMailboxRead fn s
  | .enqueue fn => Sys2Proof.Machine.execEnqueue fn s
  | .direct fn => Sys2Proof.Machine.execDirect fn s
  | .debugCommand fn => Sys2Proof.Machine.execDebug fn s
  | .policy fn => Sys2Proof.Machine.execPolicy fn s
  | .observeAcquire fn => Sys2Proof.Machine.execObserveAcquire fn s
  | .observeRelease fn => Sys2Proof.Machine.execObserveRelease fn s
  | .dsm req => Sys2Proof.Machine.execDsm req s
  | .stop core => Sys2Proof.Machine.execStop core s
  | .resume core => Sys2Proof.Machine.execResume core s
  | .stepOne core => Sys2Proof.Machine.execStep core s
  | .stepN core => Sys2Proof.Machine.execStepn core s
  | .debugRead core => Sys2Proof.Machine.execDebugRead core s
  | .debugWrite core => Sys2Proof.Machine.execDebugWrite core s
  | .bkpt core => Sys2Proof.Machine.execBkpt core s
  | .breakpointHit core ts => Sys2Proof.Machine.execBreakpointHit core ts s
  | .endStep core => Sys2Proof.Machine.execEndstep core s
  | .clockLockSession die vf clocks start => Sys2Proof.Machine.execClockLockSession die vf clocks start s
  | .lockInterfaceRequest vf keyHash => Sys2Proof.Machine.execLockInterfaceRequest vf keyHash s
  | .startInterfaceRequest vf => Sys2Proof.Machine.execStartInterfaceRequest vf s
  | .stopInterfaceRequest vf => Sys2Proof.Machine.execStopInterfaceRequest vf s
  | .tdiError vf => Sys2Proof.Machine.execTdiError vf s
  | .negotiateAlgorithms asym hash dhe aead => Sys2Proof.Machine.execNegotiateAlgorithms asym hash dhe aead s
  | .getCertificate slot offset length => Sys2Proof.Machine.execGetCertificate slot offset length s
  | .challenge slot nonce => Sys2Proof.Machine.execChallenge slot nonce s
  | .getMeasurements block vf nonce => Sys2Proof.Machine.execGetMeasurements block vf nonce s
  | .keyExchange key => Sys2Proof.Machine.execKeyExchange key s
  | .bootVerify die image version => Sys2Proof.Machine.execBootVerify die image version s
  | .ready offset ok => Sys2Proof.Machine.execReady offset ok s
  | .supplySag cluster => Sys2Proof.Machine.execSupplySag cluster s
  | .powerCapAdjust watts => Sys2Proof.Machine.execPowerCapAdjust watts s
  | .flitRetry port => Sys2Proof.Machine.execFlitRetry port s
  | .timesync port sent received offset => Sys2Proof.Machine.execTimesync port sent received offset s
  | .timesyncSend port => Sys2Proof.Machine.execTimesyncSend port s
  | .packetLoad port src cookie owner ptr len => Sys2Proof.Machine.execPacketLoad port src cookie owner ptr len s
  | .packetStore port src cookie owner ptr bytes => Sys2Proof.Machine.execPacketStore port src cookie owner ptr bytes s
  | .packetAtomic port src cookie owner ptr op width b cmp => Sys2Proof.Machine.execPacketAtomic port src cookie owner ptr op width b cmp s
  | .packetReply cookie status bytes => Sys2Proof.Machine.execPacketReply cookie status bytes s
  | .launchDone launch => Sys2Proof.Machine.execLaunchDone launch s
  | .packetMessage port core words => Sys2Proof.Machine.execPacketMessage port core words s
  | .packetReduce p group rank offset bytes => Sys2Proof.Machine.execPacketReduce p group rank offset bytes s
  | .packetReservedKind port kind => Sys2Proof.Machine.execPacketReservedKind port kind s
  | .reduceTimeout die engine => Sys2Proof.Machine.execReduceTimeout die engine s
  | .deviceReset => Sys2Proof.Machine.execDeviceReset s
  | .powerLoss => Sys2Proof.Machine.execPowerLoss s
  | .sagStretchEnd cluster => Sys2Proof.Machine.execSagStretchEnd cluster s

end Sys2Proof.Machine
end

