-- ==== Sys2Proof/Machine/Issue.lean ====
section
/-! DEFINITION. Issue: the fetch of an instruction (R33 to R36), which thread set issues (R63, R64), step mode and breakpoints (R369),
and one turn of the machine (log 3), for whatever the instructions do. -/

namespace Sys2Proof.Machine

/-! ## Fetch -/

/-- The trap of a fetch: TVAL is the instruction's address (Table 2.3). -/
def fetchTrap {α : Type} (pc : Word) (r : Except Stop α) : Except Stop α :=
  match r with
  | .error (.trap cause _) => .error (.trap cause pc)
  | r => r

/-- Whether an instruction that has passed its fetch waits for something of its own: it is neither fetched nor checked again. -/
def Wait.isOwn (w : Wait) : Bool := w != .none

/-- A line brought into the instruction cache from its home, as published (R35); not when an error is met (R353). -/
def fetchLine (s : State) (va : Nat) (x : Xlat) : State :=
  let l := s.lineAt x
  let s := homeRequest s (cacheOf s.curCore) va x
  s.modMyCore (fun c => { c with icache := mset 0 c.icache (va / 64) l, icacheBad := mdel c.icacheBad (va / 64) })

/-- The bytes of a line as a fetch of those at `need` reads them: held lines may be old, and where one is, or is in error, the environment
chooses whether it is still held (R35, R353, log 3). DESIGN CHOICE (log 69): which cache serves a fetch from a peer's page no rule says;
the line comes through the cluster's cache as it stands there, and the instruction cache never holds it. DESIGN CHOICE (log 56): an uncorrectable error at the home unit traps
`DATA_UC` (R36) even where the instruction cache still holds the line as it was. -/
def fetchBytes (s : State) (va : Nat) (x : Xlat) (need : List Nat) : Except Stop (Line × State) :=
  let c := cacheOf s.curCore
  if x.tier = 3 then
    match askedLine s c s.asker va with
    | some p =>
      match p.reply with
      | some (some l) => .ok (setLineBytes l p.mine, answersTaken s s.asker)
      | some none => .error (.took (takeTrap 0x14 s.me.pc s.me.pc { answersTaken s s.asker with ia := s.me.pc }))
      | none => .error (.stall s)
    | none =>
      match (s.cluster c).find va with
      | some l =>
        if need.any (fun k => l.bad.getLsbD (k / 8)) then .error (.trap 0x14 0)
        else if need.all (fun k => !l.hole.getLsbD k) then .ok (l.data, s)
        else .error (.stall (askLine s c s.asker va x s.me.owner))
      | none => .error (.stall (askLine s c s.asker va x s.me.owner))
  else if s.eccFails x.pa then .error (.trap 0x14 0)
  else
    let home := s.lineAt x
    match s.myCore.icache.find? (fun l => l.1 == va / 64) with
    | some l =>
      let bad := need.any (fun k => (mget 0 s.myCore.icacheBad (va / 64)).getLsbD (k / 8))
      if l.2 = home && !bad then .ok (home, s)
      else
        let (n, s) := s.choose 2
        if n ≠ 0 then .ok (home, fetchLine s va x) else if bad then .error (.trap 0x14 0) else .ok (l.2, s)
    | none => .ok (home, fetchLine s va x)

/-- The bytes [va, va + n) of an instruction that lie in one page: translation, then the bytes (R36). -/
def fetchPage (s : State) (va n : Nat) : Except Stop (List Byte × State) := do
  let x ← checkXlat s (BitVec.ofNat 64 va)
  let m := min n (64 - va % 64)
  let (l, s) ← fetchBytes s va x ((List.range m).map (va % 64 + ·))
  let low := (List.range m).map (fun k => lineByte l (va % 64 + k))
  if m = n then pure (low, s)
  else
    let (h, s) ← fetchBytes s (va + m) { x with pa := x.pa + m } (List.range (n - m))
    pure (low ++ (List.range (n - m)).map (lineByte h), s)

/-- The word at the pc of the thread set under execution: the X right over its 12 bytes by one entry (R34, R323), then their
translation and bytes. An instruction that spans two pages meets the lower page first. -/
def fetch (s : State) : Except Stop (IWord × State) :=
  let pc := s.me.pc
  let va := pc.toNat
  fetchTrap pc (do
    if 2 ^ 57 < va + 12 then .error (.trap 0x10 pc)
    checkRights s pc 12 rightX true
    let s := s.used pc 12 rightX true
    let m := min 12 (65536 - va % 65536)
    let (low, s) ← fetchPage s va m
    if m = 12 then pure (wordOfBytes low, s)
    else
      let (high, s) ← fetchPage s (va + m) (12 - m)
      pure (wordOfBytes (low ++ high), s))

/-! ## Issue -/

/-- The trap of a word that the decoder refuses (Table 2.3, steps 4 and 5). -/
def decodeTrap (w : IWord) (e : DecodeError) : Nat × Word :=
  match e with
  | .illegalOp _ => (0x01, (w >>> 32).setWidth 64)
  | .illegalOperand pos field => (0x02, (pos ++ field).setWidth 64)

/-- The word that a thread set issues next: the one that waits, or the one at its pc, which is kept in case it comes to wait. -/
def nextWord (s : State) : Except Stop (IWord × State) :=
  if s.me.wait.isOwn then .ok (s.me.word, s)
  else (fetch s).map (fun r => (r.1, r.2.modMe (fun t => { t with word := r.1 })))

/-- The issue of a thread set's next instruction, by whatever gives instructions their effect: fetched, decoded, run. -/
def issueOne (ex : Instr → State → Outcome) (core ts : Nat) (s : State) : Outcome :=
  let s := { s with curCore := core, curTs := ts }
  let pc := s.me.pc
  match nextWord s with
  | .error (.trap cause tval) => .next (takeTrap cause tval pc { s with ia := pc })
  | .error (.stall s') => .next (markStall { s' with ia := pc })
  | .error (.took s') => .next s'
  | .ok (w, s) =>
    match decode w with
    | .ok i => ex i s
    | .error e => .next (takeTrap (decodeTrap w e).1 (decodeTrap w e).2 pc { s with ia := pc })

/-- Whether a thread set may try to issue (R64): it holds an activation, is in no delay, waits for no `RESOLVE`, for no commit of its own
(R280) and for no room in a hold buffer (R337), and, in step mode, has instructions left to issue (R369). -/
def mayIssue (s : State) (core ts : Nat) : Bool :=
  let t := s.tset core ts
  match t.act with
  | none => false
  | some a => decide (t.readyAt ≤ s.cycle core) && a.specTrap.isNone && !committing s core ts && !holdStalls s core ts && (!a.stepping || decide (0 < t.steps))

/-- An instruction issued in step mode: HWDOG counts the cycle, and after the last one a kind-6 record is written (R368, R369). -/
def afterStep (s : State) (core ts : Nat) : State :=
  let t := s.tset core ts
  match t.act with
  | some a =>
    if a.stepping then
      let s := s.modTset core ts (fun t => { t with steps := t.steps - 1, wdogEnd := t.wdogEnd - 1 })
      if t.steps = 1 then emitTrace s core 6 [traceP a.msg core ts ||| (BitVec.ofNat 64 4) <<< 40] else s
    else s
  | none => s

/-- An instruction has issued: it is counted (R364), the core issues no other in the cycle, and the slot stays with its thread set unless
the activation is gone (R63). -/
def afterIssue (s : State) (core ts : Nat) : State :=
  let s := afterStep (slotsTaken (countAt s core 0x0002 1) core 1) core ts
  s.modCore core (fun c => { c with rr := ts, pass := c.pass || (s.tset core ts).act.isNone, nextIssue := max c.nextIssue (s.cycle core + 1) })

/-- The order in which a core's thread sets may take the issue slot (R63). -/
def issueOrder (c : Core) : List Nat :=
  let from_ := fun k => (c.rr + k) % 4
  if c.pass then [from_ 1, from_ 2, from_ 3, from_ 0] else [from_ 0, from_ 1, from_ 2, from_ 3]

/-- The issue slot of a core: the thread sets try in their order until an instruction does not stall (R63). -/
def issueFrom (ex : Instr → State → Outcome) (core : Nat) : List Nat → State → Outcome
  | [], s => .next (s.modCore core (fun c => { c with pass := true }))
  | ts :: rest, s =>
    if !mayIssue s core ts then issueFrom ex core rest s
    else if breakDue s core ts then execBreakpointHit core ts s
    else
      match issueOne ex core ts ((s.modCore core (fun c => { c with pass := false })).modTset core ts (fun t => { t with stalled := false })) with
      | .next s' => if (s'.tset core ts).stalled then issueFrom ex core rest s' else .next (afterIssue s' core ts)
      | .fault r => .fault r
      | .refused r => .refused r

/-- A core's issue slot: at most one instruction a cycle (R63). -/
def issueSlot (ex : Instr → State → Outcome) (core : Nat) (s : State) : Outcome :=
  let s := dueAborts s core
  if s.cycle core < (s.core core).nextIssue then .next s else issueFrom ex core (issueOrder (s.core core)) s

/-! ## One turn -/

/-- The core that issues when the environment names no turn: the next one with an activation, and whether a clock period passes before
it (log 3). -/
def defaultCore (s : State) : Option (Nat × Nat) :=
  let busy := s.tsets.filterMap (fun t => if t.2.act.isSome then some (t.1 / 4) else none)
  match busy.find? (fun c => decide (s.curCore < c)), busy.head? with
  | some c, _ => some (0, c)
  | none, some c => some (1, c)
  | none, none => none

/-- The next turn of the machine: the environment's, or the issue slot of the next core. -/
def nextTurn (s : State) : Option Turn × State :=
  match s.agenda with
  | t :: rest => (some t, { s with agenda := rest })
  | [] => ((defaultCore s).map (fun c => Turn.issue c.1 c.2), s)

/-- One turn: clock periods pass, then a step of the device or an issue slot takes place. Without power only a reset does (R382). -/
def stepWith (ex : Instr → State → Outcome) (s : State) : Outcome :=
  match nextTurn s with
  | (some (.event n i), s') =>
    if s.powered || i == .deviceReset then ex i (advance n s') else .fault .noPower
  | (some (.issue n core), s') => if s.powered then issueSlot ex core (advance n s') else .fault .noPower
  | (none, s') => if s.powered then .next (advance 1 s') else .fault .noPower

end Sys2Proof.Machine
end

