-- ==== Sys2Proof/Machine/Step.lean ====
section
/-! DEFINITION. The step of the machine, and the placing of one instruction where it fetches next. -/

namespace Sys2Proof.Machine

/-- One step: a turn of the machine (log 3). -/
def step (s : State) : Host.Outcome State Fault Refusal := stepWith exec s

/-- The activation that fetches the placed instruction: the thread set's own, or a fresh one. -/
def fetchAct (t : TSet) : Act := { t.act.getD {} with specTrap := none, stepping := false }

/-- A thread set about to fetch at address 0, its watchdog not expired and nothing of it waiting at core cycle `now`. -/
def fetchTset (now : Nat) (t : TSet) : TSet :=
  { t with act := some (fetchAct t), pc := 0, readyAt := 0, wait := .none, walk := .none, storeq := [], wdogEnd := max t.wdogEnd (now + 65536) }

/-- A core whose thread set 0 fetches next: address 0 is executable by its owner and stands at physical address 0. -/
def fetchCore (owner : BitVec 20) (c : Core) : Core :=
  { c with rr := 0, pass := false, nextIssue := 0, icache := [], breaks := [],
           plb := ⟨owner, 0, 0, 64, 0, rightX, false⟩ :: c.plb, tlb := ⟨0, 65536, {}⟩ :: c.tlb }

/-- `s` with an instruction placed where its next step fetches: thread set 0 of core 0 holds an activation at address 0, the bytes
stand there, and the next turn is that core's issue slot (log 3). -/
def State.withFetchWord (s : State) (nbits w : Nat) : State :=
  let bytes := Sys2Proof.wordBytes (BitVec.ofNat 96 (w % 2 ^ nbits))
  let home := ((List.range 12).zip bytes).foldl (fun (m : Memory) (b : Nat × Byte) => mset unwritten m b.1 b.2) s.home
  let s := { s with home := home, eccBad := mset false s.eccBad 0 false, powered := true, agenda := .issue 0 0 :: s.agenda }
  (s.modTset 0 0 (fetchTset (s.cycle 0))).modCore 0 (fetchCore (s.tset 0 0).owner)

end Sys2Proof.Machine
end

