-- ==== Sys2Proof/WellFormed.lean ====
section
/-! DEFINITION. Which instructions the encodings admit: said of the operands themselves, beside the checks of steps 4 and 5 of
Table 2.3 that the decoder makes on the bits. -/

namespace Sys2Proof

/-- A guard that can hold: GP = 0 with GN = 1 is refused (R36). -/
def Guard.ok (g : Guard) : Bool := !(g.neg && g.p == 0)

/-- Whether a B field names a place: the remote form's core only when remote, and an offset inside the buffer's range (R27). -/
def descriptorOk (buf : BitVec 2) (remote : Bool) (core : BitVec 4) (off : BitVec 14) : Bool :=
  (remote || core == 0) &&
  match buf.toNat with
  | 0 => decide (off.toNat < 4096)
  | 1 => decide (off.toNat < 2048)
  | 2 => decide (off.toNat < 16)
  | _ => decide (off.toNat < 4096)

/-- Whether an operand may stand in a position (R24 to R28, R47, R50, R109). -/
def Operand.fits (o : Operand) (sl : Slot) : Bool :=
  match o with
  | .unused => !sl.used
  | .g _ te => sl.used && sl.kinds.contains 0 && (!te || sl.te)
  | .v _ te => sl.used && sl.kinds.contains 1 && (!te || sl.te)
  | .p idx => sl.used && sl.kinds.contains 2 && (idx != 0 || sl.p0)
  | .c _ post inc => sl.used && sl.kinds.contains 3 && (!post || sl.post) && (post || inc == 0)
  | .i _ => sl.used && sl.kinds.contains 4
  | .s num => sl.used && sl.kinds.contains 5 && srAssigned num.toNat && (!sl.writes || srWritable num.toNat)
  | .b buf remote core off =>
    sl.used && sl.kinds.contains 6 && sl.bufs.contains buf && (!remote || sl.remote) && descriptorOk buf remote core off

/-- Whether three operands fit three positions. -/
def Slots.accept (sl : Slots) (f : Form) : Bool := f.od.fits sl.od && f.oa.fits sl.oa && f.ob.fits sl.ob

/-- Whether a form may stand with an operation of Tables 5.3 to 5.6: a modifier it has, a guard that can hold, operands its positions
allow. -/
def Op.admits (o : Op) (f : Form) : Bool :=
  o.mods.contains f.md.toNat && f.guard.ok && (o.shape.slots f.md (encodeField f.od) (encodeField f.oa)).accept f

/-- The instructions that the encodings admit. A constructor that only some words of its operation name has operands of those words.
The steps of the device that no word names are all admitted: their meanings say when they apply. -/
def Instr.wellFormed (i : Instr) : Bool :=
  match i with
  | .limm g _ od _ => g.ok && od.fits .gD
  | .limmHi g _ od _ => g.ok && od.fits .g
  | i =>
    match cellOf i with
    | none => true
    | some (cell, f) =>
      match findOp cell with
      | none => false
      | some o => o.admits f && o.build f == i

end Sys2Proof
end

