-- ==== Sys2Proof/Safety.lean ====
section
/-! DEFINITION. The terms in which statements speak of a run: when an instruction word executes normally, the state after it, what
it leaves alone, and the canonical form of the memories. -/

namespace Sys2Proof.Machine

/-! ## When a word executes normally -/

/-- No source is empty, not ready yet or carries an error, and no destination is empty, not ready or locked (R53 to R57, R98, R354). -/
def regsClear (s : State) (srcs : List Src) (dsts : List (Bool × Nat)) : Bool :=
  let busy := s.me.isBusy (s.cycle s.curCore)
  srcs.all (fun x => !busy x.isV x.reg && (srcError s.me x).isNone) && dsts.all (fun d => !busy d.1 d.2 && !s.me.isLocked d.1 d.2)

/-- The predicates of a form, its guard's among them, are ready, and its guard's parity holds (R98, R354). -/
def predsReady (s : State) (f : Form) : Bool :=
  !predsLate s [f.guard.p.toNat] && !guardFails s.me f.guard && !predsLate s (formPreds f)

/-- A word of a form that has come to step 6 of Table 2.3 with nothing to stop it: power, predicates that are ready, a guard that holds
(R30), and clear registers. -/
def formReady (s : State) (f : Form) (lanes : Option Nat) (use : OdUse) : Bool :=
  s.powered && predsReady s f && guardHolds s.me f.guard lanes && regsClear s (formSrcs s.me use f) (formDsts s.me use f)

/-! ## The state after it -/

/-- The end of an instruction word whose own effect leaves `s'`: nothing of it waits, and its hints are applied (R31). -/
def finished (h : Hints) (s' : State) : State := applyHints h (s'.modMe TSet.settled)

/-- The state after a word whose own effect is a change of its thread set: the pc is past the word (R23). -/
def after (h : Hints) (s : State) (upd : TSet → TSet) : State := finished h ((begin s).modMe upd)

/-- The outcome of an ordinary producer that writes `x` to g[OD] (R98). -/
def givesG (f : Form) (s : State) (x : Word) : Outcome := .next (after f.hints s (fun t => t.writeG (regOf f.od) x))

/-- The outcome of an ordinary producer of `n` cycles that writes `x` to g[OD]: a reader waits for it (R98). -/
def givesGIn (n : Nat) (f : Form) (s : State) (x : Word) : Outcome :=
  .next (finished f.hints (readyIn n f.od ((begin s).modMe (fun t => t.writeG (regOf f.od) x))))

/-- The outcome of an instruction that writes `x` to p[OD]. -/
def givesP (f : Form) (s : State) (x : Word) : Outcome := .next (after f.hints s (fun t => t.writeP (regOf f.od) x))

/-- The outcome of a long-latency producer whose result `kind` will reach g[OD] (R52): the destination is empty until then. -/
def pendsG (f : Form) (s : State) (kind : PendKind) : Outcome := .next (finished f.hints (pendG (begin s) (regOf f.od) false 0 kind))

/-- The outcome of an instruction that traps precisely: the exception is taken on the state before it (R36, R343). -/
def traps (s : State) (cause : Nat) (tval : Word) : Outcome := .next (takeTrap cause tval s.me.pc { s with ia := s.me.pc })

/-- A result at the width of a modifier: sext(x[31:0]) with `.w`, else the 64 bits (R97). -/
def wide (md : BitVec 3) (x : Word) : Word := if md = 1 then sextLow 32 x else x

/-- The zero-extended source of the width of a modifier. -/
def wideU (md : BitVec 3) (x : Word) : Word := if md = 1 then zextLow 32 x else x

/-- The word `i` of form `f` executes to `t`, where a result `st` is on its way to g[OD] (R52). -/
def answers (i : Instr) (f : Form) (s t : State) (st : Word) : Prop :=
  exec i s = .next t ∧ ∃ q ∈ t.me.pend, s.uid ≤ q.seq ∧ q.isV = false ∧ q.reg = gIndex s.me.tlvl (regOf f.od) ∧ q.kind = .value st

/-- Nothing of the thread set under execution is still on its way: no queued store, no result in flight, no unacknowledged write, and
no `RREAD` to be performed. -/
def quiet (s : State) : Prop :=
  s.me.storeq = [] ∧ s.me.pend = [] ∧ s.me.unacked = [] ∧ rreadPending s s.curCore s.curTs s.uid = false

/-- The lines of a cache stand each once, at the address of a line. -/
def linesOk (s : State) (c : Nat) : Prop :=
  ((s.cluster c).lines.map (·.va)).Nodup ∧ ∀ l ∈ (s.cluster c).lines, l.va % 64 = 0

/-! ## Lane instructions -/

/-- Lane `k` of a lane operand: its bits in the register, the line at the cursor, or the broadcast pattern (R62, R115, R116). -/
def laneOf (s : State) (f : Form) (o : Operand) (k : Nat) : Nat :=
  ((lineOperand (begin s) (laneBits (tyOf f)) o).extractLsb' (laneBits (tyOf f) * k) (laneBits (tyOf f))).toNat

/-- The active lanes of a form: lane `k` where bit `k` of its guard is set (R29). -/
def activeOf (s : State) (f : Form) : List Bool := (List.range (laneCount (tyOf f))).map (fun k => (guardMask s.me f.guard).getLsbD k)

/-- A lane instruction with nothing to stop it before its result is written: a ready word whose cursors are aligned, name lines it
may reach, and wait for nothing. -/
def lanesReady (f : Form) (s : State) (readsOD : Bool) : Prop :=
  formReady s f (some (laneCount (tyOf f))) (if readsOD then .both else .write) = true ∧ checkCursors (begin s) f readsOD = .ok ()

/-- The lane instruction of `n` cycles writes the lanes `new` where `act` says so, and its cursors move (R26, R59, R98); the write itself
may still stall or trap for want of room in the store queue or the trail. -/
def lanesDone (f : Form) (s : State) (n : Nat) (readsOD : Bool) (act : List Bool) (new : List Nat) (out : Outcome) : Prop :=
  ∀ s', writeLanes (begin s) (laneBits (tyOf f)) act f.od new = .ok s' →
    out = .next (finished f.hints (lanesEnd f n (cursorLines (begin s) f readsOD) s'))

/-- The outcome of a lane instruction of `n` cycles whose result is one register, written by `write`. -/
def lanesGive (f : Form) (s : State) (n : Nat) (write : TSet → TSet) : Outcome :=
  .next (finished f.hints (lanesEnd f n (cursorLines (begin s) f false) ((begin s).modMe write)))

/-! ## Accesses -/

/-- An access of a core that passes every check at once (R138, Table 8.1): aligned, allowed by a cover that the PLB holds, and
translated by an entry of the L1 TLB to `x`; no `XFENCE` holds its path back. -/
def accessOk (s : State) (ea : Word) (n : Nat) (need : BitVec 5) (x : Xlat) : Prop :=
  ea.toNat % n = 0 ∧ ptrGen ea ≠ 127 ∧
  (∃ e ∈ s.myCore.plb, e.covers s.me.owner (ptrAddr ea) n = true ∧ e.passes (ptrGen ea) need false = true) ∧
  (∃ e, s.myCore.tlb.find? (fun e => e.holds (ptrAddr ea)) = some e ∧ x = e.at_ (ptrAddr ea)) ∧ needPath s 0 = .ok ()

/-- A state in which an entry has joined the store queue of the thread set under execution. -/
def queued (s : State) (w : QWrite) : State :=
  State.modMe { s with uid := s.uid + 1 } (fun t => { t with storeq := t.storeq ++ [⟨s.uid, w, s.me.owner⟩] })

/-- No ended activation of a core owes the release of a hold (R152). -/
def owesNothing (s : State) (core : Nat) : Prop := ∀ o ∈ s.owed, o.core ≠ core

/-! ## What is left alone -/

/-- Every byte of every memory reads as before: global memory at its homes, every scratchpad, the local buffers, the caches of the
clusters, and the host's memory. -/
structure SameMemory (s t : State) : Prop where
  home : ∀ a, t.homeRead a 1 = s.homeRead a 1
  scratch : ∀ c a, t.scratchByte c a = s.scratchByte c a
  host : t.hostMem = s.hostMem
  buffers : t.abuf = s.abuf ∧ t.wbuf = s.wbuf ∧ t.cbuf = s.cbuf ∧ t.aside = s.aside ∧ t.wside = s.wside
  caches : ∀ c, (t.cluster c).lines = (s.cluster c).lines

/-- Only the thread set under execution, its core's issue turn and the instruction's address may differ. -/
structure OnlyMe (s t : State) : Prop where
  rest : t = { s with tsets := t.tsets, cores := t.cores, ia := t.ia }
  tsets : ∀ c k, c * 4 + k ≠ s.curCore * 4 + s.curTs → t.tset c k = s.tset c k
  cores : ∀ n, t.core n = { s.core n with pass := (t.core n).pass, nextIssue := (t.core n).nextIssue }

/-! ## Memories in canonical form -/

/-- The byte memories of the device and of the host list strictly rising addresses, and no byte that reads as an unlisted one. -/
abbrev State.memoryWf (s : State) : Prop := s.home.wf = true ∧ s.hostMem.wf = true

end Sys2Proof.Machine
end

