-- ==== Sys2Proof/Certificates/Slice0/Obligations.lean ====
section
/-! DEFINITION. The statements about the model, for the provers. -/

open Sys2Proof Sys2Proof.Machine

/-- What R75, R76 and R114 say of a scalar floating instruction whose result is written by `write` after `n` cycles and raises
`exc`: no enabled exception, and the flags merge, to be read like the result once the instruction has completed; else the trap `FP`
with the enabled ones raised. -/
def deliversFloat (f : Form) (s : State) (n : Nat) (exc : BitVec 5) (write : TSet → TSet) (out : Outcome) : Prop :=
  let on := s.me.fpctl.extractLsb' 0 5
  (exc &&& on = 0 → out = .next (finished f.hints
    (fpHold (readyIn n f.od ((begin s).modMe (fun t =>
      (write { t with fpctl := t.fpctl ||| (exc.setWidth 64 <<< 8) }).setLate 192 (s.cycle s.curCore + n)))) on n))) ∧
  (exc &&& on ≠ 0 → out = traps s 0x09 ((exc &&& on).setWidth 64))

/-- The special registers of Table 3.2 with the values their readers see (R105, R107, R223). -/
def specialValues (s : State) : List (Nat × Word) :=
  let t := s.me
  let c := s.myCore
  let a := t.act.getD {}
  let ev := ((s.context s.myCtx).map (·.events)).getD []
  [(0x001, a.ex.setWidth 64), (0x002, a.ey.setWidth 64), (0x003, a.ez.setWidth 64), (0x004, a.edim),
   (0x005, BitVec.ofNat 64 s.curCore), (0x006, BitVec.ofNat 64 s.curTs), (0x007, BitVec.ofNat 64 s.myCtx), (0x008, a.rcb),
   (0x009, t.owner.setWidth 64), (0x00A, msgHead a.msg), (0x00B, a.msg.stamp), (0x00C, a.msg.id), (0x00D, a.msg.tag.setWidth 64),
   (0x010, BitVec.ofNat 64 (s.periods * 4 / 9)), (0x011, BitVec.ofNat 64 (s.cycle s.curCore)),
   (0x020, c.bfmt0.setWidth 64), (0x021, c.bfmt1.setWidth 64), (0x022, c.bfmt2.setWidth 64), (0x023, c.afmt.setWidth 64),
   (0x024, c.wfmt.setWidth 64), (0x025, c.cfmt.setWidth 64), (0x030, c.mrland &&& 0x0000FFFF0FFF07FF), (0x031, t.tmpol &&& 0x00000FFFFFFFFFFF), (0x040, t.sfbase),
   (0x041, t.sflen), (0x042, t.cstop.setWidth 64), (0x043, t.trtop.setWidth 64), (0x044, t.stealpol &&& 1), (0x045, t.srchdone),
   (0x060, BitVec.ofNat 64 t.tlvl), (0x061, t.tvec.setWidth 64), (0x062, t.tsave1), (0x063, t.tsave2), (0x064, t.tcause1),
   (0x065, t.tepc1), (0x066, t.tval1), (0x067, t.tcause2), (0x068, t.tepc2), (0x069, t.tval2), (0x070, hwdog s s.curCore s.curTs),
   (0x080, mget 0 ev 0), (0x081, mget 0 ev 1), (0x082, mget 0 ev 2), (0x083, mget 0 ev 3),
   (0x800, s.pgroot), (0x801, s.bupage), (0x802, s.pwrcap.setWidth 64)]

/-- The page of an object stands as one core's L1 TLB has it: translated to `x`, dirty, open to writes, its unit written under its key. -/
def objectHere (s : State) (core va pa : Nat) (x : Xlat) : Prop :=
  x.pa = pa ∧ pa % 16 = 0 ∧ x.dirty = true ∧ x.wb = false ∧ keyStands s x = true ∧
  ∃ e, (s.core core).tlb.find? (fun e => e.holds va) = some e ∧ x = e.at_ va

/-- The words whose registers are those of their form alone, with the lanes of their mask (none for a guard's bit 0) and how they use OD: all
but `MFS`, `MTS`, `SEND`, `SENDNOW`, `FORK`, `SPEC` and `TRYE`, which name registers besides, and `PFT` and `TLBINV`. -/
def formWords (f : Form) : List (Instr × Option Nat × OdUse) :=
  let v := some (laneCount (tyOf f))
  [Instr.add f, .sub f, .mul f, .mulh f, .div f, .divu f, .rem f, .remu f, .neg f, .abs f, .min f, .max f, .minu f, .maxu f, .and f, .or f,
    .xor f, .andn f, .shl f, .shr f, .sar f, .ror f, .clz f, .ctz f, .popc f, .extr f, .mov f, .lea f, .ptrg f, .ptrs f, .curg f, .ptog f,
    .fadd f, .fsub f, .fmul f, .fmin f, .fmax f, .fdiv f, .fsqrt f, .fcvt f].map (fun i => (i, none, .write)) ++
  [Instr.ld f, .sld f, .ldl f, .aadd f, .afadd f, .amax f, .amaxu f, .afmax f, .amin f, .aand f, .aor f, .axor f, .axchg f, .unbind f,
    .spinw f, .barmax f, .grant f, .rchk f, .revoke f, .genadv f, .twait f, .gnode f, .gseal f, .call f, .tagpnd f, .qpost f,
    .resolve f].map (fun i => (i, none, .write)) ++
  [Instr.ins f, .sel f, .ffma f, .acas f, .bind f, .loop f].map (fun i => (i, none, .both)) ++
  [Instr.st f, .sst f, .stu f, .mma f, .mmas f, .mrot f, .mrot2 f, .cclr f, .tld f, .tst f, .tcvt f, .esend f, .endw f].map
    (fun i => (i, none, .read)) ++
  [Instr.cmp f, .pand f, .por f, .pxor f, .pnot f, .gtop f, .curs f, .fcmp f, .ulk f, .acq f, .rel f, .fence f, .xfence f, .barsync f, .br f,
    .bri f, .ret f, .endAct f, .yieldAct f, .rread f, .htset f, .tagen f, .join f, .evset f, .evclr f, .fail f, .cut f, .trail f, .nop f,
    .trap f, .tret f, .tabort f, .brk f].map (fun i => (i, none, .none)) ++
  [Instr.vfadd f, .vfsub f, .vfmul f, .vfmin f, .vfmax f, .vfabs f, .vfneg f, .vfrcp f, .vfrsq f, .vfexp2 f, .vadd f, .vsub f, .vmul f,
    .vmulh f, .vmin f, .vmax f, .vabs f, .vadds f, .vand f, .vor f, .vxor f, .vshl f, .vshr f, .vsar f, .vscl f, .vcvt f, .vqnt f,
    .vdqnt f, .vamax f, .vrsum f, .vrmax f, .vrmin f, .vperm f, .vbcast f, .vrot f, .vcomp f, .vexpd f, .vext f, .vld f, .vlds f, .vgth f,
    .vgld f].map (fun i => (i, v, .write)) ++
  [Instr.vffma f, .vsel f, .vins f].map (fun i => (i, v, .both)) ++
  [Instr.vst f, .vsts f, .vsct f, .vgst f].map (fun i => (i, v, .read)) ++
  [Instr.vfcmpeq f, .vfcmplt f, .vfcmple f, .vcmpeq f, .vcmplt f].map (fun i => (i, v, .none))

/-- R99, Tables 6.1 and 6.2, but for the four divisions: the value written to g[OD] at both widths, in 64-bit arithmetic that
wraps; a product can be read 3 cycles after its issue. R101, Table 6.3: logic, shifts, counts. The count of leading zeros is the n for which the value lies below 2^(W − n) and, short
of W, not below 2^(W − n − 1); that of trailing zeros the n whose power divides it, and no higher one. R102: `EXTR` and `INS`, bit by bit: the low W bits of the value written, which is then sign-extended from bit W − 1. -/
def Obligations.IntegerArithmetic : Prop :=
  (∀ (f : Form) (s : State), formReady s f none .write = true →
     let a := wide f.md (s.me.value f.oa)
     let b := wide f.md (s.me.value f.ob)
     exec (.add f) s = givesG f s (wide f.md (a + b)) ∧
     exec (.sub f) s = givesG f s (wide f.md (a - b)) ∧
     exec (.mul f) s = givesGIn 3 f s (wide f.md (a * b)) ∧
     exec (.mulh f) s = givesGIn 3 f s
       (wide f.md (((a.signExtend 128 * b.signExtend 128) >>> (if f.md = 1 then 32 else 64)).setWidth 64)) ∧
     exec (.neg f) s = givesG f s (wide f.md (-a)) ∧
     exec (.abs f) s = givesG f s (wide f.md (if a.msb then -a else a)) ∧
     exec (.min f) s = givesG f s (if b.slt a then b else a) ∧
     exec (.max f) s = givesG f s (if a.slt b then b else a) ∧
     exec (.minu f) s = givesG f s (if b.ult a then b else a) ∧
     exec (.maxu f) s = givesG f s (if a.ult b then b else a)) ∧
  (∀ (f : Form) (s : State), formReady s f none .write = true →
     let a := s.me.value f.oa
     let b := s.me.value f.ob
     let w := if f.md = 1 then 32 else 64
     let n := b.toNat % w
     let u := (wideU f.md a).toNat
     exec (.and f) s = givesG f s (wide f.md (a &&& b)) ∧
     exec (.or f) s = givesG f s (wide f.md (a ||| b)) ∧
     exec (.xor f) s = givesG f s (wide f.md (a ^^^ b)) ∧
     exec (.andn f) s = givesG f s (wide f.md (a &&& ~~~b)) ∧
     exec (.shl f) s = givesG f s (wide f.md (a <<< n)) ∧
     exec (.shr f) s = givesG f s (wide f.md (wideU f.md a >>> n)) ∧
     exec (.sar f) s = givesG f s ((wide f.md a).sshiftRight n) ∧
     exec (.ror f) s = givesG f s (wide f.md (wideU f.md a >>> n ||| a <<< (w - n))) ∧
     (∃ k, exec (.clz f) s = givesG f s (BitVec.ofNat 64 k) ∧ k ≤ w ∧ u < 2 ^ (w - k) ∧ (k < w → 2 ^ (w - k - 1) ≤ u)) ∧
     (∃ k, exec (.ctz f) s = givesG f s (BitVec.ofNat 64 k) ∧ k ≤ w ∧ u % 2 ^ k = 0 ∧ (k < w → u % 2 ^ (k + 1) ≠ 0)) ∧
     exec (.popc f) s = givesG f s (BitVec.ofNat 64 ((List.range w).filter (fun k => a.getLsbD k)).length)) ∧
  (∀ (f : Form) (s : State),
     let a := s.me.value f.oa
     let b := s.me.value f.ob
     let d := s.me.value f.od
     let w := if f.md = 1 then 32 else 64
     let pos := b.toNat % 64
     let len := if b.toNat / 64 % 128 = 0 ∨ w < b.toNat / 64 % 128 then w else b.toNat / 64 % 128
     (formReady s f none .write = true → ∃ x : Word, exec (.extr f) s = givesG f s (wide f.md x) ∧
       ∀ i < w, x.getLsbD i = (decide (i < len) && decide (pos + i < w) && a.getLsbD (pos + i))) ∧
     (formReady s f none .both = true → ∃ x : Word, exec (.ins f) s = givesG f s (wide f.md x) ∧
       ∀ i < w, x.getLsbD i = if pos ≤ i ∧ i < pos + len then a.getLsbD (i - pos) else d.getLsbD i))

/-- R99 and R100: with a nonzero divisor the quotient or remainder reaches g[OD] later; a zero divisor, tested at the width, traps
`INT_DIVZERO` with the whole dividend. -/
def Obligations.Division : Prop :=
  ∀ (f : Form) (s : State), formReady s f none .write = true →
    let a := s.me.value f.oa
    let b := s.me.value f.ob
    if wideU f.md b = 0 then
      exec (.div f) s = traps s 0x08 a ∧ exec (.divu f) s = traps s 0x08 a ∧
      exec (.rem f) s = traps s 0x08 a ∧ exec (.remu f) s = traps s 0x08 a
    else
      exec (.div f) s = pendsG f s (.value (wide f.md ((wide f.md a).sdiv (wide f.md b)))) ∧
      exec (.divu f) s = pendsG f s (.value (wide f.md (wideU f.md a / wideU f.md b))) ∧
      exec (.rem f) s = pendsG f s (.value (wide f.md ((wide f.md a).srem (wide f.md b)))) ∧
      exec (.remu f) s = pendsG f s (.value (wide f.md (wideU f.md a % wideU f.md b)))

/-- R103, Table 6.4: compares and predicate operations. R104 and R109, Tables 6.5: moves, immediates, addresses, pointers and cursor moves. -/
def Obligations.PredicatesAndMoves : Prop :=
  (∀ (f : Form) (s : State),
     let a := s.me.value f.oa
     let b := s.me.value f.ob
     let d := s.me.value f.od
     (formReady s f none .none = true →
       (f.md = 0 → exec (.cmp f) s = givesP f s (if a = b then BitVec.allOnes 64 else 0)) ∧
       (f.md = 1 → exec (.cmp f) s = givesP f s (if a = b then 0 else BitVec.allOnes 64)) ∧
       (f.md = 2 → exec (.cmp f) s = givesP f s (if a.toInt < b.toInt then BitVec.allOnes 64 else 0)) ∧
       (f.md = 3 → exec (.cmp f) s = givesP f s (if a.toInt ≤ b.toInt then BitVec.allOnes 64 else 0)) ∧
       (f.md = 4 → exec (.cmp f) s = givesP f s (if a.toNat < b.toNat then BitVec.allOnes 64 else 0)) ∧
       (f.md = 5 → exec (.cmp f) s = givesP f s (if a.toNat ≤ b.toNat then BitVec.allOnes 64 else 0)) ∧
       exec (.pand f) s = givesP f s (a &&& b) ∧
       exec (.por f) s = givesP f s (a ||| b) ∧
       exec (.pxor f) s = givesP f s (a ^^^ b) ∧
       exec (.pnot f) s = givesP f s (~~~a) ∧
       exec (.gtop f) s = givesP f s a) ∧
     (formReady s f none .both = true → exec (.sel f) s = givesG f s ((b &&& a) ||| (d &&& ~~~a))) ∧
     (formReady s f none .write = true → exec (.ptog f) s = givesG f s a)) ∧
  (∀ (f : Form) (s : State) (n : BitVec 48) (h : BitVec 16),
     let a := s.me.value f.oa
     let b := s.me.value f.ob
     let d := s.me.value f.od
     (formReady s f none .write = true →
       exec (.mov f) s = givesG f s a ∧
       (f.md.toNat < 5 → exec (.lea f) s = givesG f s (a + b * BitVec.ofNat 64 (2 ^ f.md.toNat))) ∧
       exec (.ptrg f) s = givesG f s (a >>> 57) ∧
       exec (.ptrs f) s = givesG f s ((b <<< 57) ||| (a &&& 0x01FF_FFFF_FFFF_FFFF)) ∧
       exec (.curg f) s = givesG f s ((s.me.readC (regOf f.oa)).setWidth 64)) ∧
     (formReady s f none .none = true →
       exec (.curs f) s = .next (after f.hints s (fun t => t.writeC (regOf f.od) (a.setWidth 25 &&& 0x1F3FFFF)))) ∧
     (formReady s { f with oa := .unused, ob := .unused } none .write = true →
       exec (.limm f.guard f.hints f.od n) s = givesG f s (n.signExtend 64)) ∧
     (formReady s { f with oa := .unused, ob := .unused } none .both = true →
       exec (.limmHi f.guard f.hints f.od h) s =
         givesG f s ((d &&& 0x0000_FFFF_FFFF_FFFF) ||| (h.setWidth 64 <<< 48))))

/-- R110, R111, Table 6.7: sums, products, quotients, roots, minimum and maximum, each rounded once from the exact value; `FDIV`
and `FSQRT` are long-latency while every enable is zero. R112, R113, Table 6.8: `FCMP` with its invalid exception on a NaN under lt and le; the eight conversions of `FCVT`. R69 and R72: in each of the six floating formats, a pattern that is no NaN is the rounding of its own value, without exceptions;
and a shift by `k` places rounds to the nearest number, to the even one at a tie. -/
def Obligations.FloatScalar : Prop :=
  (∀ (f : Form) (s : State),
     let p := if f.md = 1 then fp64 else fp32
     let v := fun o => decodeF p ((s.me.value o).toNat % 2 ^ p.width)
     let a := v f.oa
     let b := v f.ob
     let d := v f.od
     let new := fun (x : FVal) => !a.isNan && !b.isNan && x.isNan
     let delivers := fun n (r : Nat × BitVec 5) => deliversFloat f s n r.2 (fun t => t.writeG (regOf f.od) (BitVec.ofNat 64 r.1))
     let later := fun (r : Nat × BitVec 5) => pendsG f s (.float (BitVec.ofNat 64 r.1) r.2)
     let quot := finish p (new (fDiv a b)) (b.isZero && !a.isZero && !a.isNan && !a.isInf) (fDiv a b)
     let root := finish p (!a.isNan && (fSqrt a).isNan) false (fSqrt a)
     (formReady s f none .write = true →
       delivers 4 (finish p (new (fAdd a b)) false (fAdd a b)) (exec (.fadd f) s) ∧
       delivers 4 (finish p (new (fAdd a (fNeg b))) false (fAdd a (fNeg b))) (exec (.fsub f) s) ∧
       delivers 4 (finish p (new (fMul a b)) false (fMul a b)) (exec (.fmul f) s) ∧
       delivers 4 (roundBits p (fMin a b), 0) (exec (.fmin f) s) ∧
       delivers 4 (roundBits p (fMax a b), 0) (exec (.fmax f) s) ∧
       (s.me.fpctl.extractLsb' 0 5 = 0 → exec (.fdiv f) s = later quot ∧ exec (.fsqrt f) s = later root) ∧
       (s.me.fpctl.extractLsb' 0 5 ≠ 0 → delivers 14 quot (exec (.fdiv f) s) ∧ delivers 18 root (exec (.fsqrt f) s))) ∧
     (formReady s f none .both = true →
       delivers 4 (finish p (new (fMul a b) || (!d.isNan && !(fMul a b).isNan && (fAdd d (fMul a b)).isNan)) false
         (fAdd d (fMul a b))) (exec (.ffma f) s))) ∧
  (∀ (f : Form) (s : State),
     let x := s.me.value f.oa
     let p := if f.md.getLsbD 2 then fp64 else fp32
     let v := fun o => decodeF p ((s.me.value o).toNat % 2 ^ p.width)
     let a := v f.oa
     let b := v f.ob
     let unordered := a.isNan || b.isNan
     let holds := fun (c : Bool) => fun t : TSet => t.writeP (regOf f.od) (if c then BitVec.allOnes 64 else 0)
     let single := decodeF fp32 (x.toNat % 2 ^ 32)
     let float := fun dst val => deliversFloat f s 4 (finish dst false false val).2
       (fun t => t.writeG (regOf f.od) (BitVec.ofNat 64 (finish dst false false val).1)) (exec (.fcvt f) s)
     let int := fun val => deliversFloat f s 4 (convInt val).2
       (fun t => t.writeG (regOf f.od) (BitVec.ofNat 64 (convInt val).1)) (exec (.fcvt f) s)
     (formReady s f none .none = true →
       (f.md.toNat % 4 = 0 → deliversFloat f s 4 0 (holds (fEq a b)) (exec (.fcmp f) s)) ∧
       (f.md.toNat % 4 = 1 → deliversFloat f s 4 (if unordered then 1 else 0) (holds (fLt a b)) (exec (.fcmp f) s)) ∧
       (f.md.toNat % 4 = 2 → deliversFloat f s 4 (if unordered then 1 else 0) (holds (fLe a b)) (exec (.fcmp f) s)) ∧
       (f.md.toNat % 4 = 3 → deliversFloat f s 4 0 (holds unordered) (exec (.fcmp f) s))) ∧
     (formReady s f none .write = true →
       (f.md = 0 → float fp64 single) ∧ (f.md = 1 → float fp32 (decodeF fp64 x.toNat)) ∧
       (f.md = 2 → float fp32 (ofInt x.toInt)) ∧ (f.md = 3 → int single) ∧
       (f.md = 4 → float fp64 (ofInt x.toInt)) ∧ (f.md = 5 → int (decodeF fp64 x.toNat)) ∧
       (f.md = 6 → float bf16 single) ∧ (f.md = 7 → float fp32 (decodeF bf16 (x.toNat % 2 ^ 16))))) ∧
  ((∀ p ∈ [fp64, fp32, fp16, bf16, e4m3, e5m2], ∀ x < 2 ^ p.width, (decodeF p x).isNan = false →
     roundF p false (decodeF p x) = ⟨x, false, false, false⟩) ∧
   (∀ m k : Nat, 2 * m ≤ 2 ^ k * (2 * shiftRne m k + 1) ∧ 2 ^ k * (2 * shiftRne m k) ≤ 2 * m + 2 ^ k ∧
     (0 < k → (2 * m + 2 ^ k) % 2 ^ (k + 1) = 0 → shiftRne m k % 2 = 0)))

/-- R94, R105, Table 3.2: `MFS` of a special register. The system registers need system privilege; a codebook slot fills the low half
of a v register; above trap level 0, TBG28 to TBG31 are the registers of the bank below. R4, R105 and Table 6.6: a value that no check refuses is stored, and the register then reads as the table's last column says, its
reserved bits as zero. -/
def Obligations.SpecialRegisters : Prop :=
  (∀ (f : Form) (s : State), formReady s f none .write = true →
     (∀ p ∈ specialValues s, srOf f.oa = p.1 → (p.1 < 0x800 ∨ s.isSystem s.myCtx = true) → exec (.mfs f) s = givesG f s p.2) ∧
     (∀ k < 8, srOf f.oa = 0x028 + k → exec (.mfs f) s =
       .next (after f.hints s (fun t => t.writeV (regOf f.od) ((mget 0 s.myCore.cbk k).setWidth 512)))) ∧
     (∀ k < 4, srOf f.oa = 0x06A + k → s.me.tlvl ≠ 0 → regsClear s (tbgSrc s.me f.oa) [] = true →
       exec (.mfs f) s = givesG f s (s.me.gRaw (28 + 4 * (s.me.tlvl - 1) + k))) ∧
     (0x800 ≤ srOf f.oa → s.isSystem s.myCtx = false → exec (.mfs f) s = traps s 0x03 (BitVec.ofNat 64 (srOf f.oa)))) ∧
  (∀ (f : Form) (s : State), formReady s f none .none = true → isTbg (srOf f.od) = false →
     let n := srOf f.od
     let x := s.me.value f.oa
     (n ≤ 0x025 → 0x020 ≤ n → x.toNat % 16 ≤ 8 → ∃ t, exec (.mts f) s = .next t ∧ readSpecial t s.curCore s.curTs n = x &&& 0xF) ∧
     (n = 0x030 → ∃ t, exec (.mts f) s = .next t ∧ readSpecial t s.curCore s.curTs n = x &&& 0x0000FFFF0FFF07FF) ∧
     (n = 0x031 → ∃ t, exec (.mts f) s = .next t ∧ readSpecial t s.curCore s.curTs n = x &&& 0x00000FFFFFFFFFFF) ∧
     (n = 0x044 → ∃ t, exec (.mts f) s = .next t ∧ readSpecial t s.curCore s.curTs n = x &&& 1) ∧
     (n = 0x045 ∨ (0x062 ≤ n ∧ n ≤ 0x069) →
       ∃ t, exec (.mts f) s = .next t ∧ readSpecial t s.curCore s.curTs n = x) ∧
     (n = 0x061 → ∃ t, exec (.mts f) s = .next t ∧ readSpecial t s.curCore s.curTs n = x &&& 0x01FF_FFFF_FFFF_FFFC) ∧
     (n = 0x040 → x &&& 7 = 0 → x.toNat / 65536 % 4 ≠ 3 →
       (s.me.sflen = 0 ∨ x.toNat % 2 ^ 18 / 65536 = (x.toNat % 2 ^ 18 + s.me.sflen.toNat - 1) / 65536) →
       ∃ t, exec (.mts f) s = .next t ∧ readSpecial t s.curCore s.curTs n = x &&& 0x3FFFF) ∧
     (n = 0x041 → x.toNat ≤ 4096 → x.toNat % 8 = 0 →
       (x = 0 ∨ s.me.sfbase.toNat / 65536 = (s.me.sfbase.toNat + x.toNat - 1) / 65536) →
       ∃ t, exec (.mts f) s = .next t ∧ readSpecial t s.curCore s.curTs n = x) ∧
     (n = 0x110 → x.toNat ≤ 16 → obsOpen s s.curCore s.myPartition n = true →
       ∃ t, exec (.mts f) s = .next t ∧ readSpecial t s.curCore s.curTs n = x) ∧
     (∀ k < 8, n = 0x028 + k → bookHasNaN ((s.me.readV (regOf f.oa)).setWidth 256) = false →
       ∃ t, exec (.mts f) s = .next t ∧ mget 0 (t.core s.curCore).cbk k = (s.me.readV (regOf f.oa)).setWidth 256) ∧
     (n ≤ 0x025 → 0x020 ≤ n → 8 < x.toNat % 16 → exec (.mts f) s = traps s 0x02 (posTval 2 (encodeField f.oa))))

/-- R50, Table 6.6: `MTS` of TBG28 to TBG31 at a level above 0 writes the bank below; at level 0 it traps, naming OD. R106, R107, R108, R363, R380: the special registers with rules of their own. OWNER takes an owner of the context's list and traps
for another; FPCTL is read and replaced once no floating result is in flight; TMSTAT and TMRC are long-latency and wait for the
activation's tempered tiles; a counter is read at its bank; a write of a selector zeroes its counter; the system registers are stored as written. -/
def Obligations.SpecialBanks : Prop :=
  (∀ (f : Form) (s : State) (k : Nat), k < 4 → srOf f.od = 0x06A + k → formReady s f none .none = true →
     let j := 28 + 4 * (s.me.tlvl - 1) + k
     (s.me.tlvl = 0 → exec (.mts f) s = traps s 0x02 (posTval 1 (encodeField f.od))) ∧
     (s.me.tlvl ≠ 0 → s.me.isBusy (s.cycle s.curCore) false j = false → s.me.gLock.getLsbD j = false →
       exec (.mts f) s = .next (after f.hints s (fun t => t.writeGRaw j (s.me.value f.oa))))) ∧
  (∀ (f : Form) (s : State),
     let x := s.me.value f.oa
     (formReady s f none .none = true →
       (∀ c, s.context s.myCtx = some c → x.setWidth 20 ∈ c.owners →
         exec (.mtsOwner f) s = .next (after f.hints s (fun t => { t with owner := x.setWidth 20 }))) ∧
       (∀ c, s.context s.myCtx = some c → x.setWidth 20 ∉ c.owners →
         exec (.mtsOwner f) s = traps s 0x03 ((x.setWidth 20 : BitVec 20).setWidth 64)) ∧
       ((∀ n, f.oa ≠ .s n) → floatPending s = false →
         exec (.fpctlAccess f) s = .next (after f.hints s (fun t => { t with fpctl := x &&& 0x1F1F }))) ∧
       (∀ n, srOf f.od = n → 0x108 ≤ n → n ≤ 0x10F → obsOpen s s.curCore s.myPartition n = true →
         ∃ t, exec (.mtsCsel f) s = .next t ∧ mget 0 (t.cluster (clusterOf s.curCore)).counters n = x &&& 0x1FFFF ∧
           mget 0 (t.cluster (clusterOf s.curCore)).counters (n - 8) = 0) ∧
       (srOf f.od = 0x800 → s.isSystem s.myCtx = true →
         exec (.specialRegisterWrite f) s = .next (finished f.hints { begin s with pgroot := x })) ∧
       (srOf f.od = 0x802 → s.isSystem s.myCtx = true →
         exec (.specialRegisterWrite f) s = .next (finished f.hints { begin s with pwrcap := x.setWidth 12 })) ∧
       (0x800 ≤ srOf f.od → s.isSystem s.myCtx = false →
         exec (.specialRegisterWrite f) s = traps s 0x03 (BitVec.ofNat 64 (srOf f.od)))) ∧
     (formReady s f none .write = true →
       (∀ n, f.oa = .s n → floatPending s = false → exec (.fpctlAccess f) s = givesG f s s.me.fpctl) ∧
       (temperedOf s s.curCore (s.me.act.map (·.uid)) = [] →
         exec (.mfsTmstat f) s = pendsG f s (.value (statusValue s.me (srOf f.oa == 0x033)))) ∧
       (temperedOf s s.curCore (s.me.act.map (·.uid)) ≠ [] →
         exec (.mfsTmstat f) s = pendsG f s (.temper (srOf f.oa == 0x033) (temperedOf s s.curCore (s.me.act.map (·.uid))))) ∧
       (obsOpen s s.curCore s.myPartition (srOf f.oa) = true →
         exec (.mfsCounter f) s = pendsG f s
           (if srOf f.oa = 0x110 then .value (s.me.dlysel.setWidth 64) else .counter (srOf f.oa) s.me.dlysel.toNat))))

/-- R118, R119: floating lane operations, each rounded once into the lane type from the exact value; masked lanes are kept (R117). For
`VFEXP2` what is rounded is the model's fixed-point series `fExp2` in place of the exact 2^a: this clause is the model's choice (log 30). R121: integer lane operations at the lane width, signed or unsigned by the type, wrapping or, for `VADDS`, clamped. -/
def Obligations.Lanes : Prop :=
  (∀ (f : Form) (s : State),
     let p := laneFmt (tyOf f)
     let a := fun k => decodeF p (laneOf s f f.oa k)
     let b := fun k => decodeF p (laneOf s f f.ob k)
     let d := fun k => decodeF p (laneOf s f f.od k)
     let lanes := fun n readsOD (op : Nat → FVal) =>
       lanesDone f s n readsOD (activeOf s f) ((List.range (laneCount (tyOf f))).map (fun k => roundBits p (op k)))
     (lanesReady f s false →
       lanes 4 false (fun k => fAdd (a k) (b k)) (exec (.vfadd f) s) ∧
       lanes 4 false (fun k => fAdd (a k) (fNeg (b k))) (exec (.vfsub f) s) ∧
       lanes 4 false (fun k => fMul (a k) (b k)) (exec (.vfmul f) s) ∧
       lanes 4 false (fun k => fMin (a k) (b k)) (exec (.vfmin f) s) ∧
       lanes 4 false (fun k => fMax (a k) (b k)) (exec (.vfmax f) s) ∧
       lanes 4 false (fun k => fAbs (a k)) (exec (.vfabs f) s) ∧
       lanes 4 false (fun k => fNeg (a k)) (exec (.vfneg f) s) ∧
       lanes 8 false (fun k => fDiv (.fin false 1 0) (a k)) (exec (.vfrcp f) s) ∧
       lanes 8 false (fun k => fRsqrt (a k)) (exec (.vfrsq f) s) ∧
       lanes 8 false (fun k => fExp2 (a k)) (exec (.vfexp2 f) s)) ∧
     (lanesReady f s true → lanes 4 true (fun k => fAdd (d k) (fMul (a k) (b k))) (exec (.vffma f) s))) ∧
  (∀ (f : Form) (s : State), lanesReady f s false →
     let ty := tyOf f
     let w := laneBits ty
     let ua := laneOf s f f.oa
     let ub := laneOf s f f.ob
     let a := fun k => laneInt ty (ua k)
     let b := fun k => laneInt ty (ub k)
     let wraps := fun (op : Nat → Int) => lanesDone f s 2 false (activeOf s f) ((List.range (laneCount ty)).map (fun k => (op k % 2 ^ w).toNat))
     let bits := fun (op : Nat → Nat) => lanesDone f s 2 false (activeOf s f) ((List.range (laneCount ty)).map (fun k => op k % 2 ^ w))
     let lo : Int := if ty = 4 then 0 else -2 ^ (w - 1)
     let hi : Int := if ty = 4 then 2 ^ w - 1 else 2 ^ (w - 1) - 1
     wraps (fun k => a k + b k) (exec (.vadd f) s) ∧
     wraps (fun k => a k - b k) (exec (.vsub f) s) ∧
     wraps (fun k => a k * b k) (exec (.vmul f) s) ∧
     wraps (fun k => a k * b k / 2 ^ w) (exec (.vmulh f) s) ∧
     wraps (fun k => min (a k) (b k)) (exec (.vmin f) s) ∧
     wraps (fun k => max (a k) (b k)) (exec (.vmax f) s) ∧
     wraps (fun k => if a k < 0 then -a k else a k) (exec (.vabs f) s) ∧
     wraps (fun k => if hi < a k + b k then hi else if a k + b k < lo then lo else a k + b k) (exec (.vadds f) s) ∧
     bits (fun k => ua k &&& ub k) (exec (.vand f) s) ∧
     bits (fun k => ua k ||| ub k) (exec (.vor f) s) ∧
     bits (fun k => ua k ^^^ ub k) (exec (.vxor f) s) ∧
     bits (fun k => ua k <<< (ub k % w)) (exec (.vshl f) s) ∧
     bits (fun k => ua k >>> (ub k % w)) (exec (.vshr f) s) ∧
     wraps (fun k => signedOf w (ua k) / 2 ^ (ub k % w)) (exec (.vsar f) s))

/-- R120, R121: lane compares. Bit k of p[OD] takes the comparison in an active lane and keeps its value in a masked one; bits from the
lane count up are cleared. R122, R129, R130: selects, inserts, broadcasts, permutes, rotations, compression and expansion of lanes. -/
def Obligations.LaneComparesAndMoves : Prop :=
  (∀ (f : Form) (s : State), formReady s f (some (laneCount (tyOf f))) .none = true → checkCursors (begin s) f false = .ok () →
     let ty := tyOf f
     let ua := laneOf s f f.oa
     let ub := laneOf s f f.ob
     let v := decodeF (laneFmt ty)
     let compares := fun n (test : Nat → Bool) (out : Outcome) => ∃ x : Word, out = lanesGive f s n (fun t => t.writeP (regOf f.od) x) ∧
       ∀ k < 64, x.getLsbD k = (decide (k < laneCount ty) &&
         if (guardMask s.me f.guard).getLsbD k then test k else (s.me.readP (regOf f.od)).getLsbD k)
     compares 4 (fun k => fEq (v (ua k)) (v (ub k))) (exec (.vfcmpeq f) s) ∧
     compares 4 (fun k => fLt (v (ua k)) (v (ub k))) (exec (.vfcmplt f) s) ∧
     compares 4 (fun k => fLe (v (ua k)) (v (ub k))) (exec (.vfcmple f) s) ∧
     compares 2 (fun k => ua k == ub k) (exec (.vcmpeq f) s) ∧
     compares 2 (fun k => decide (laneInt ty (ua k) < laneInt ty (ub k))) (exec (.vcmplt f) s)) ∧
  (∀ (f : Form) (s : State),
     let n := laneCount (tyOf f)
     let a := laneOf s f f.oa
     let b := laneOf s f f.ob
     let x := (s.me.value f.ob).toNat
     let sel := fun k => (s.me.value f.ob).getLsbD k
     let lanes := fun (op : Nat → Nat) => lanesDone f s 3 false (activeOf s f) ((List.range n).map op)
     let only := fun cycles (who : Nat → Bool) (op : Nat → Nat) out => ∀ act new, act.length = n → new.length = n →
       (∀ k < n, act[k]? = some ((guardMask s.me f.guard).getLsbD k && who k)) → (∀ k < n, who k = true → new[k]? = some (op k)) →
       (∀ k < n, who k = false → new[k]? = some 0) → lanesDone f s cycles true act new out
     (lanesReady f s false →
       lanes (fun k => a (b k % n)) (exec (.vperm f) s) ∧
       lanes (fun _ => a (x % n)) (exec (.vbcast f) s) ∧
       lanes (fun k => a ((k + x) % n)) (exec (.vrot f) s) ∧
       lanes (fun k => (((List.range n).filter sel)[k]?.map a).getD 0) (exec (.vcomp f) s) ∧
       lanes (fun k => if sel k then a ((List.range k).filter sel).length else 0) (exec (.vexpd f) s) ∧
       exec (.vext f) s = lanesGive f s 3 (fun t => t.writeG (regOf f.od) (reducedWord (tyOf f) (a (x % n))))) ∧
     (lanesReady f s true →
       only 2 (fun k => (s.me.value f.oa).getLsbD k) b (exec (.vsel f) s) ∧
       only 3 (fun k => k == x % n) (fun _ => (s.me.value f.oa).toNat % 2 ^ laneBits (tyOf f)) (exec (.vins f) s)))

/-- R90, R127, R128: reductions of the active lanes into g[OD]. Floating sums follow the tree of R90, in which an excluded lane is −0;
an integer sum is the wrapped sum of the active lanes, whatever the tree. R123 to R126: conversions between lane types, scaling, and quantisation into and out of the 4-bit and 8-bit formats. The saturating cases
of `cvtLane`, that `VQNT` with FRESH first writes the sidecar's fields, and that `VDQNT` decodes CB4 by its slot CBS are the model's choices
(log 64). -/
def Obligations.LaneReductionsAndConversions : Prop :=
  (∀ (f : Form) (s : State), lanesReady f s false →
     let ty := tyOf f
     let n := laneCount ty
     let a := laneOf s f f.oa
     let on := fun k => (guardMask s.me f.guard).getLsbD k
     let active := (List.range n).filter on
     let gives := fun (x : Word) (out : Outcome) => out = lanesGive f s 6 (fun t => t.writeG (regOf f.od) x)
     let some? := (List.range n).map (fun k => if on k then some (a k) else none)
     (ty < 3 → gives (BitVec.ofNat 64 (reduceTree (sumStep ty) 0
       ((List.range n).map (fun k => if on k then a k else (laneFmt ty).signBit)))) (exec (.vrsum f) s)) ∧
     (3 ≤ ty → ty ≤ 5 → gives (reducedWord ty ((active.map (fun k => laneInt ty (a k))).sum % 2 ^ laneBits ty).toNat) (exec (.vrsum f) s)) ∧
     gives (reducedWord ty (canonLane ty ((reduceTree (optOp (orderStep ty true)) none some?).getD 0))) (exec (.vrmax f) s) ∧
     gives (reducedWord ty (canonLane ty ((reduceTree (optOp (orderStep ty false)) none some?).getD 0))) (exec (.vrmin f) s) ∧
     (ty < 3 → ∃ x, gives x (exec (.vamax f) s) ∧
       ((∃ k ∈ active, (decodeF (laneFmt ty) (a k)).isNan = true) → x = 0x7FC00000) ∧
       ((∀ k ∈ active, (decodeF (laneFmt ty) (a k)).isNan = false) →
         x = BitVec.ofNat 64 (roundBits fp32 ((active.map (fun k => fAbs (decodeF (laneFmt ty) (a k)))).foldl fMax (.fin false 0 0)))))) ∧
  (∀ (f : Form) (s : State),
     let ty := tyOf f
     let n := laneCount ty
     let c := (s.me.value f.ob).toNat % 2 ^ 21
     let src := c % 8
     let part := c / 16 % 4
     let q := qword (s.me.value f.ob)
     let book := bookOf (mget 0 s.myCore.cbk q.cbs)
     let elem := fun w k => ((lineOperand (begin s) w f.oa).extractLsb' (w * k) w).toNat
     let qw := if q.qf = 0 then 4 else 8
     (lanesReady f s false → cvtRefused ty c = false → n ≤ laneCount src →
       lanesDone f s 4 false (activeOf s f)
         ((List.range n).map (fun k => cvtLane src ty (c / 8 % 2 == 1) (elem (laneBits src) (part * n + k)))) (exec (.vcvt f) s)) ∧
     (lanesReady f s false → cvtRefused ty c = false → laneCount src < n → ∀ act new, act.length = n → new.length = n →
       (∀ k < n, act[k]? = some ((guardMask s.me f.guard).getLsbD k && decide (part * laneCount src ≤ k ∧ k < (part + 1) * laneCount src))) →
       (∀ k < n, new[k]? = some (if part * laneCount src ≤ k ∧ k < (part + 1) * laneCount src then
         cvtLane src ty (c / 8 % 2 == 1) (elem (laneBits src) (k - part * laneCount src)) else 0)) →
       lanesDone f s 4 false act new (exec (.vcvt f) s)) ∧
     (lanesReady f s false → lanesDone f s 4 false (activeOf s f) ((List.range n).map (fun k =>
       if laneOf s f f.ob k % 256 = 255 then (laneFmt ty).nanBits
       else roundBits (laneFmt ty) (fScale ((laneOf s f f.ob k % 256 : Nat) - 127) (decodeF (laneFmt ty) (laneOf s f f.oa k)))))
       (exec (.vscl f) s)) ∧
     (lanesReady f s false → qRefused ty q false = false → lanesDone f s 4 false (activeOf s f) ((List.range n).map (fun k =>
       if q.e = 255 then (laneFmt ty).nanBits
       else roundBits (laneFmt ty) (fScale ((q.e : Int) - 127) (storedValue book (qfStorage q.qf) (elem qw (q.part * n + k))))))
       (exec (.vdqnt f) s)) ∧
     (lanesReady f s false → qRefused ty q true = false →
       let r := fun k => match q.qf with
         | 0 => quantCb4 book q.e (decodeF (laneFmt ty) (laneOf s f f.oa k))
         | 1 => quantFp8 e4m3 q.e (decodeF (laneFmt ty) (laneOf s f f.oa k))
         | _ => quantFp8 e5m2 q.e (decodeF (laneFmt ty) (laneOf s f f.oa k))
       let count := fun (c : Quantised → Bool) => ((List.range n).filter (fun k => (guardMask s.me f.guard).getLsbD k && c (r k))).length
       let put := lanesEnd f 4 (cursorLines (begin s) f false) ((begin s).modMe (fun t => t.writeV (regOf f.od)
         (putElems qw (t.readV (regOf f.od)) (q.part * n) (activeOf s f) ((List.range n).map (fun k => (r k).elem)))))
       let side := mmod {} s.aside (s.curCore * 32 + q.blk / 64) (fun x =>
         (if q.fresh then x.afresh (BitVec.ofNat 4 q.qf) (BitVec.ofNat 3 q.cbs) else x).count (count (·.sat)) (count (·.unf)))
       exec (.vqnt f) s = .next (finished f.hints (if q.sce then { put with aside := side } else put))) ∧
     (lanesReady f s false → qRefused ty q true = true →
       exec (.vqnt f) s = traps s 0x02 (posTval 3 (encodeField f.ob))))

/-- R117: what a lane result leaves. In a v register the active lanes are new and the others kept; at a cursor the bytes of the active
lanes, and no others, enter the store queue of an ordinary activation outside its search frame, at the cursor's address. R132 to R136, R353: the loads of lanes from the scratchpad and from the A, W and C buffers, ready after 3 cycles and one more for
each bank collision; a line that is uncorrectable marks its register (for a typed buffer the mark's value is the model's choice, log 63). A
remote line is a long-latency result. R132 to R134: the stores of lanes. The bytes of the active lanes go to the line or to the lane addresses; that a store to the A buffer
lands at once is the model's choice (log 65; R135 leaves old or new open). -/
def Obligations.LaneMemory : Prop :=
  (∀ (s : State) (w : Nat) (act : List Bool) (new : List Nat) (i : BitVec 5) (te : Bool) (c : BitVec 3) (post : Bool) (inc : BitVec 8),
     (w = 8 ∨ w = 16 ∨ w = 32) → act.length = 512 / w → new.length = 512 / w →
     (∃ s', writeLanes s w act (.v i te) new = .ok s' ∧ ∀ k < 512 / w, ((s'.me.readV i.toNat).extractLsb' (w * k) w).toNat =
       if act[k]? = some true then new[k]?.getD 0 % 2 ^ w else ((s.me.readV i.toNat).extractLsb' (w * k) w).toNat) ∧
     (∀ s', writeLanes s w act (.c c post inc) new = .ok s' → s.mySpec = none → s.me.choiceOpen = false →
       (true ∈ act → ∃ q, s'.me.storeq = s.me.storeq ++ [q] ∧ ∃ bs,
         q.w = .scratch (cursorAddr s c.toNat).core bs (cursorAddr s c.toNat).remote none ∧
         ∀ a x, (a, x) ∈ bs ↔ ∃ k < 64, act[k / (w / 8)]? = some true ∧ a = (cursorAddr s c.toNat).addr + k ∧
           x = BitVec.ofNat 8 (new[k / (w / 8)]?.getD 0 / 2 ^ (8 * (k % (w / 8))))) ∧
       (true ∉ act → s' = s))) ∧
  (∀ (f : Form) (s : State), formReady s f (some (laneCount (tyOf f))) .write = true →
     let u := begin s
     let w := laneBits (tyOf f)
     let act := activeLanes (guardMask s.me f.guard) (laneCount (tyOf f))
     let b := (s.me.value f.ob).toNat
     let a := cursorAddr u (regOf f.oa)
     let ends := fun (s' : State) => Host.Outcome.next (finished f.hints s')
     let typed := fun buf line (l : Line) => ends (markTyped u f buf line (loadLanes u f l))
     let local_ := fun (a : SAddr) (mark : Word) => ends (markLanes u f a (lineAddrs u f a) mark (loadLanes u f (seenLine u a.core (a.addr / 64))))
     let mine := fun line => (⟨u.curCore, false, 64 * line⟩ : SAddr)
     let c := u.me.readC (regOf f.oa)
     (∀ rem c off, f.oa = .b 0 rem c off → needPath u 0 = .ok () → off.toNat + b ≤ 4095 →
       anvilBefore u (AnvilCmd.landsOn false (off.toNat + b)) = false → exec (.vld f) s =
         if stagingBusy u.myCore (off.toNat + b) then ends (loadLanes u f 0) else typed 0 (off.toNat + b) (u.wLine u.curCore (off.toNat + b))) ∧
     (∀ rem c off, f.oa = .b 1 rem c off → needPath u 0 = .ok () → off.toNat + b ≤ 2047 →
       anvilBefore u (AnvilCmd.landsOn true (off.toNat + b)) = false →
       exec (.vld f) s = typed 1 (off.toNat + b) (u.aLine u.curCore (off.toNat + b))) ∧
     (∀ rem c off, f.oa = .b 2 rem c off → needPath u 0 = .ok () → b ≤ 63 → anvilBefore u (fun a => a.tile == off.toNat % 16) = false →
       exec (.vld f) s = typed 2 (off.toNat % 16 * 64 + b) (u.cLine u.curCore (off.toNat % 16) b)) ∧
     (∀ rem c off, f.oa = .b 3 rem c off → needPath u 0 = .ok () → 64 * (off.toNat + b) + 64 ≤ 0x2F000 →
       needScratch u (mine (off.toNat + b)) [off.toNat + b] = .ok () →
       exec (.vld f) s = local_ (mine (off.toNat + b)) (BitVec.ofNat 64 (64 * (off.toNat + b)))) ∧
     (∀ k post inc, f.oa = .c k post inc → cursorAligned u f.oa = .ok () → cursorInRange u f.oa = .ok () →
       needScratch u a [a.addr / 64] = .ok () →
       (a.remote = false → exec (.vld f) s = local_ a (c.setWidth 64)) ∧
       (a.remote = true → needCredit u = .ok () → exec (.vld f) s = ends ((pendV u (regOf f.od) true (c.setWidth 64)
         (.svload a.core (laneLoads w act (fun i => a.addr + i * (w / 8))))).modMe (bumpCursors f)))) ∧
     (∀ (out : Outcome) (off : Nat → Int), (out = exec (.vlds f) s ∧ off = (fun (i : Nat) => (i : Int) * (s.me.value f.ob).toInt)) ∨
         (out = exec (.vgth f) s ∧ off = (fun (i : Nat) => ((laneAt (lanesOf w (s.me.readV (regOf f.ob))) i : Nat) : Int))) →
       let addr := fun i => ((a.addr + off i) % 2 ^ 18).toNat
       let bytes := laneLoads w act addr
       let lines := (bytes.map (fun p => p.2 / 64)).foldr insertUniq []
       checkLanes c w act addr = .ok () → needScratch u a (bytes.map (fun p => p.2 / 64)) = .ok () →
       (a.remote = false → out = ends (markLanes u f a (bytes.map (·.2)) (c.setWidth 64)
         (lanesEnd f (3 + collisions lines) lines (u.modMe (fun t => t.writeV (regOf f.od)
           (setLineBytes (s.me.readV (regOf f.od)) (bytes.map (fun p => (p.1, seenByte u a.core p.2))))))))) ∧
       (a.remote = true → needCredit u = .ok () →
         out = ends ((pendV u (regOf f.od) true (c.setWidth 64) (.svload a.core bytes)).modMe (bumpCursors f))))) ∧
  (∀ (f : Form) (s : State), formReady s f (some (laneCount (tyOf f))) .read = true →
     let u := begin s
     let w := laneBits (tyOf f)
     let act := activeLanes (guardMask s.me f.guard) (laneCount (tyOf f))
     let b := (s.me.value f.ob).toNat
     let v := s.me.readV (regOf f.oa)
     let a := cursorAddr u (regOf f.od)
     (∀ rem c off s', f.od = .b 3 rem c off → 64 * (off.toNat + b) + 64 ≤ 0x2F000 →
       scratchStore u ⟨u.curCore, false, 64 * (off.toNat + b)⟩ (laneBytes w act (64 * (off.toNat + b)) v) none = .ok s' →
       exec (.vst f) s = .next (finished f.hints s')) ∧
     (∀ rem c off, f.od = .b 1 rem c off → off.toNat + b ≤ 2047 → u.mySpec = none → needPath u 0 = .ok () →
       anvilBefore u (fun c => c.op != .cclr) = false →
       let n := u.curCore * 2048 + (off.toNat + b)
       exec (.vst f) s = .next (finished f.hints { u with
         abuf := mmod 0 u.abuf n (fun l => setLineBytes l (laneBytes w act 0 v)),
         abufBad := if act.all id then mset false u.abufBad n false else u.abufBad })) ∧
     (∀ c post inc s', f.od = .c c post inc → checkCursors u f false = .ok () →
       scratchStore u a (laneBytes w act a.addr v) none = .ok s' →
       exec (.vst f) s = .next (finished f.hints (s'.modMe (bumpCursors f)))) ∧
     (∀ (out : Outcome) (off : Nat → Int), (out = exec (.vsts f) s ∧ off = (fun (i : Nat) => (i : Int) * (s.me.value f.ob).toInt)) ∨
         (out = exec (.vsct f) s ∧ off = (fun (i : Nat) => ((laneAt (lanesOf w (s.me.readV (regOf f.ob))) i : Nat) : Int))) →
       let addr := fun i => ((a.addr + off i) % 2 ^ 18).toNat
       checkLanes (u.me.readC (regOf f.od)) w act addr = .ok () →
       ∀ s', scratchStore u a ((laneLoads w act addr).map (fun p => (p.2, lineByte v p.1))) none = .ok s' →
       out = .next (finished f.hints (s'.modMe (bumpCursors f)))))

/-- R141 to R143: global loads mark their destination empty, and the value comes later; global stores enter the store queue at the
address computed, with the bytes of the value or of the active lanes; either makes the entries that let it pass the most recently used of
its lookups (R324, R332); a prefetch fills the lookups and never traps. -/
def Obligations.GlobalAccesses : Prop :=
  ∀ (f : Form) (s : State) (x : Xlat),
    let u := begin s
    let n := 2 ^ (f.md.toNat % 4)
    let load := s.me.value f.oa + s.me.value f.ob
    let store := s.me.value f.od + s.me.value f.ob
    let act := activeOf s f
    let w := laneBits (tyOf f)
    let line := load.toNat % 2 ^ 57 / 64 * 64
    let named := srcOf s.me 2 f.oa ++ srcOf s.me 3 f.ob
    let covers := missCovers u s.curCore s.me.owner (BitVec.ofNat 64 line) 64 0 true
    (formReady s f none .write = true → accessOk u load n rightR x → needCredit u = .ok () →
      exec (.ld f) s = .next (finished f.hints (pendG (u.used load n rightR false) (regOf f.od) true load
        (.load load x n (decide (f.md.toNat < 4)) (forwardedTo u (ptrAddr load) n))))) ∧
    (formReady s f none .read = true → accessOk u store n rightW x → u.mySpec = none → s.me.storeq.length < 16 →
      exec (.st f) s = .next (finished f.hints (queued (u.used store n rightW false) (.global store x
        ((List.range n).map (fun k => (k, BitVec.ofNat 8 ((s.me.value f.oa).toNat / 2 ^ (8 * k))))))))) ∧
    (formReady s f (some (laneCount (tyOf f))) .write = true → accessOk u load 64 rightR x → needCredit u = .ok () →
      exec (.vgld f) s = .next (finished f.hints (pendV (u.used load 64 rightR false) (regOf f.od) true load
        (.vload load x ((List.range 64).filter (fun k => act[k / (w / 8)]? == some true)) (forwardedTo u (ptrAddr load) 64))))) ∧
    (formReady s f (some (laneCount (tyOf f))) .read = true → accessOk u store 64 rightW x → u.mySpec = none → s.me.storeq.length < 16 →
      exec (.vgst f) s = .next (finished f.hints (queued (u.used store 64 rightW false) (.global store x
        (((List.range 64).filter (fun k => act[k / (w / 8)]? == some true)).map (fun k => (k, lineByte (s.me.readV (regOf f.oa)) k))))))) ∧
    (s.powered = true → predsReady s f = true → guardHolds s.me f.guard none = true →
        named.any (fun y => s.me.isBusy (s.cycle s.curCore) y.isV y.reg) = false →
      (named.any (fun y => (srcError s.me y).isSome) = true ∨ covers = [] ∨ missXlat u s.curCore line = none →
        exec (.pft f) s = .next (finished f.hints u)) ∧
      (∀ e, named.any (fun y => (srcError s.me y).isSome) = false → covers ≠ [] → missXlat u s.curCore line = some e →
        exec (.pft f) s = .next (finished f.hints (installXlat (fillRights u s.curCore covers) s.curCore e))))

/-- R28 to R30, R53 to R55, R57, R63, R98, R354: what keeps a word from its effect. A guard that does not hold makes it a `NOP`; an empty
source with TE traps `EMPTY_READ` naming its position; a source that is empty without TE, or not ready yet, stalls the word, which is
issued again at the same address, as does a predicate that is not ready; a source with an error mark or a parity fault traps `DATA_UC`, as does a
guard whose parity fails (the TVAL of that one is the model's choice, log 42); a destination that is empty, not ready or locked stalls.
It is so for every word of `formWords`, the guard of a lane word being its mask. R138, Table 8.1: an address that is not a multiple of the access's size traps `MISALIGN` with the address, for every global and
scratchpad access and every atomic. -/
def Obligations.NotReady : Prop :=
  (∀ (f : Form) (s : State), s.powered = true →
     let stalls := fun (i : Instr) => ∃ t, exec i s = .next t ∧ t.me.pc = s.me.pc ∧ t.me.stalled = true ∧ t.me.g = s.me.g ∧ t.home = s.home
     let busy := s.me.isBusy (s.cycle s.curCore)
     ∀ x ∈ formWords f,
       let i := x.1
       let lanes := x.2.1
       let srcs := formSrcs s.me x.2.2 f
       (predsLate s [f.guard.p.toNat] = true → stalls i) ∧
       (predsLate s [f.guard.p.toNat] = false → guardFails s.me f.guard = true → exec i s = traps s 0x14 (guardTval f.guard)) ∧
       (predsLate s [f.guard.p.toNat] = false → guardFails s.me f.guard = false → guardHolds s.me f.guard lanes = false →
         exec i s = .next (applyHints f.hints (begin s))) ∧
       (predsLate s [f.guard.p.toNat] = false → guardFails s.me f.guard = false → guardHolds s.me f.guard lanes = true → predsLate s (formPreds f) = true → stalls i) ∧
       (predsReady s f = true → guardHolds s.me f.guard lanes = true →
         (∀ x, srcs.find? (fun x => x.te && s.me.isEmpty x.isV x.reg) = some x → exec i s = traps s 0x04 (posTval x.pos x.field)) ∧
         ((∀ x ∈ srcs, x.te = true → s.me.isEmpty x.isV x.reg = false) → (∃ x ∈ srcs, busy x.isV x.reg = true) → stalls i) ∧
         ((∀ x ∈ srcs, busy x.isV x.reg = false) →
           (∀ a, srcs.findSome? (srcError s.me) = some a → exec i s = traps s 0x14 a) ∧
           (srcs.findSome? (srcError s.me) = none →
             (∃ d ∈ formDsts s.me x.2.2 f, (busy d.1 d.2 || s.me.isLocked d.1 d.2) = true) → stalls i)))) ∧
  (∀ (f : Form) (s : State),
     let n := 2 ^ (f.md.toNat % 4)
     let load := s.me.value f.oa + s.me.value f.ob
     let store := s.me.value f.od + s.me.value f.ob
     let a := s.me.value f.oa
     let an := if f.md.getLsbD 2 then 4 else 8
     (formReady s f none .write = true →
       (load.toNat % n ≠ 0 → exec (.ld f) s = traps s 0x05 load ∧ exec (.sld f) s = traps s 0x05 load) ∧
       (load.toNat % 8 ≠ 0 → exec (.ldl f) s = traps s 0x05 load) ∧
       (a.toNat % an ≠ 0 → ∀ i ∈ [Instr.aadd f, .afadd f, .amax f, .amaxu f, .afmax f, .amin f, .aand f, .aor f, .axor f, .axchg f],
         exec i s = traps s 0x05 a)) ∧
     (formReady s f none .both = true → a.toNat % an ≠ 0 → exec (.acas f) s = traps s 0x05 a) ∧
     (formReady s f none .read = true →
       (store.toNat % n ≠ 0 → exec (.st f) s = traps s 0x05 store ∧ exec (.sst f) s = traps s 0x05 store) ∧
       (store.toNat % 8 ≠ 0 → exec (.stu f) s = traps s 0x05 store)) ∧
     (formReady s f none .none = true → load.toNat % 8 ≠ 0 → exec (.ulk f) s = traps s 0x05 load) ∧
     (formReady s f (some (laneCount (tyOf f))) .write = true → load.toNat % 64 ≠ 0 → exec (.vgld f) s = traps s 0x05 load) ∧
     (formReady s f (some (laneCount (tyOf f))) .read = true → store.toNat % 64 ≠ 0 → exec (.vgst f) s = traps s 0x05 store))

/-- R147, R148: an atomic leaves its core as a request with the operation, the scope, the operand and, for `ACAS`, the comparand; with
g0 as destination it is posted, and no register waits for it. R147, Table 8.5: what an atomic writes, from the old value `m`, the operand `b` and the comparand, all of `n` bytes; the floating
ones work on FP32 words, a sum rounded once. R148: an atomic of device scope on an HBM page is performed at its home: the word there takes the new value, and the old one is its
result; every byte outside the word reads as before. A line of it that the issuing cluster holds clean is dropped. -/
def Obligations.Atomics : Prop :=
  (∀ (f : Form) (s : State) (x : Xlat),
     let n := if f.md.getLsbD 2 then 4 else 8
     let ea := s.me.value f.oa
     let u := (begin s).used ea n rightA false
     let kind := fun op => PendKind.atomic op (f.md.toNat % 4) n ea x (s.me.value f.ob) (s.me.value f.od) none
     let asks := fun op (out : Outcome) =>
       (regOf f.od ≠ 0 → needCredit u = .ok () → out = .next (finished f.hints (pendG u (regOf f.od) true ea (kind op)))) ∧
       (regOf f.od = 0 → out = .next (finished f.hints (State.modMe { u with uid := u.uid + 1 } (fun t => { t with
         pend := t.pend ++ [{ seq := u.uid, posted := true, addr := ea, owner := t.owner, kind := kind op }] }))))
     accessOk (begin s) ea n rightA x → x.wb = false → u.mySpec = none →
     (formReady s f none .write = true →
       asks 0 (exec (.aadd f) s) ∧ asks 1 (exec (.afadd f) s) ∧ asks 2 (exec (.amax f) s) ∧ asks 3 (exec (.amaxu f) s) ∧
       asks 4 (exec (.afmax f) s) ∧ asks 5 (exec (.amin f) s) ∧ asks 6 (exec (.aand f) s) ∧ asks 7 (exec (.aor f) s) ∧
       asks 8 (exec (.axor f) s) ∧ asks 9 (exec (.axchg f) s)) ∧
     (formReady s f none .both = true → asks 10 (exec (.acas f) s))) ∧
  (∀ (n m b cmp : Nat), (n = 4 ∨ n = 8) → m < 2 ^ (8 * n) → b < 2 ^ (8 * n) → cmp < 2 ^ (8 * n) →
     let sm := (BitVec.ofNat (8 * n) m).toInt
     let sb := (BitVec.ofNat (8 * n) b).toInt
     atomicNew 0 n m b cmp = (m + b) % 2 ^ (8 * n) ∧
     (n = 4 → atomicNew 1 n m b cmp = roundBits fp32 (fAdd (decodeF fp32 m) (decodeF fp32 b)) % 2 ^ 32) ∧
     (n = 4 → atomicNew 4 n m b cmp = roundBits fp32 (fMax (decodeF fp32 m) (decodeF fp32 b)) % 2 ^ 32) ∧
     atomicNew 2 n m b cmp = (if sm < sb then b else m) ∧
     atomicNew 3 n m b cmp = max m b ∧
     atomicNew 5 n m b cmp = (if sb < sm then b else m) ∧
     atomicNew 6 n m b cmp = m &&& b ∧
     atomicNew 7 n m b cmp = m ||| b ∧
     atomicNew 8 n m b cmp = m ^^^ b ∧
     atomicNew 9 n m b cmp = b ∧
     atomicNew 10 n m b cmp = if m = cmp then b else m) ∧
  (∀ (s : State) (c ts k : Nat) (p : Pend) (op n : Nat) (va : Word) (x : Xlat) (b cmp : Word),
     (s.tset c ts).pend[k]? = some p → p.kind = .atomic op 1 n va x b cmp none → p.posted = false → p.dropped = false → x.tier = 0 →
     (currentXlat s c (ptrAddr va) x).dirty = true → s.eccFails x.pa = false → owesNothing s c →
     earlierAtomic s (s.tset c ts) p = false → earlierStore (s.tset c ts) p.seq (ptrAddr va) = false →
     heldWord s c (ptrAddr va) [(0, 0)] = false → keyStands s x = true →
     (∀ l, (s.cluster (cacheOf c)).find (ptrAddr va) = some l → l.dw = 0 ∧ l.wrote = []) →
     ∃ t, exec (.atomicPerform c ts k) s = .next t ∧
       (∃ q, (t.tset c ts).pend[k]? = some q ∧ q.kind = .atomic op 1 n va x b cmp (some (BitVec.ofNat 64 (s.homeRead x.pa n)))) ∧
       t.homeRead x.pa n = atomicNew op n (s.homeRead x.pa n) (b.toNat % 2 ^ (8 * n)) (cmp.toNat % 2 ^ (8 * n)) ∧
       (∀ a, (a < x.pa ∨ x.pa + n ≤ a) → t.homeRead a 1 = s.homeRead a 1) ∧
       (t.cluster (cacheOf c)).find (ptrAddr va) = none)

/-- R137, R144, R145: scratchpad accesses. A local load delivers after 3 cycles, and marks
its register where it met an uncorrectable error (R353); a remote one delivers later; a store enters the store queue at the
address computed; `LDL` takes the lock bit of its address; `STU` and `ULK` queue its release behind their write. -/
def Obligations.ScratchAccesses : Prop :=
  ∀ (f : Form) (s : State),
    let u := begin s
    let load := s.me.value f.oa + s.me.value f.ob
    let store := s.me.value f.od + s.me.value f.ob
    let at_ := fun (ea : Word) => saddrOf s.curCore (ea.setWidth 25)
    let inRange := fun (ea : Word) (n : Nat) => ea.toNat % n = 0 ∧ scratchRefused (at_ ea).addr n = false
    let n := 2 ^ (f.md.toNat % 4)
    let bytes := fun (ea : Word) (n : Nat) => (List.range n).map (fun k => ((at_ ea).addr + k, BitVec.ofNat 8 ((s.me.value f.oa).toNat / 2 ^ (8 * k))))
    let roomy := s.me.storeq.length < 16 ∧ needPath u 0 = .ok () ∧ u.thefts = [] ∧ u.mySpec = none
    (formReady s f none .write = true → inRange load n → needScratch u (at_ load) [(at_ load).addr / 64] = .ok () →
      ((at_ load).remote = true → needCredit u = .ok () → exec (.sld f) s = .next (finished f.hints (pendG u (regOf f.od) true load
        (.sload (at_ load).core (at_ load).addr n (decide (f.md.toNat < 4)))))) ∧
      ((at_ load).remote = false →
        let x := extendTo n (decide (f.md.toNat < 4)) (seenRead u (at_ load).core (at_ load).addr n)
        let bad := u.scratchBad (at_ load).core ((List.range n).map ((at_ load).addr + ·))
        (bad = false → exec (.sld f) s = givesGIn 3 f s x) ∧
        (bad = true → exec (.sld f) s = .next (finished f.hints (readyIn 3 f.od
          (u.modMe (fun t => (t.writeG (regOf f.od) x).markG (regOf f.od) load))))))) ∧
    (formReady s f none .write = true → inRange load 8 → u.mySpec = none → needScratch u (at_ load) [(at_ load).addr / 64] = .ok () →
      s.me.storeq = [] → needCredit u = .ok () → s.lockWaits = [] → (∀ l ∈ s.locks, l.at_ ≠ lockBit (at_ load)) →
      u.scratchBad (at_ load).core [(at_ load).addr] = false →
      ∃ t, exec (.ldl f) s = .next t ∧ t.locks = s.locks ++ [LockBit.mk (lockBit (at_ load)) s.curCore s.curTs] ∧
        ((at_ load).remote = false → t.me.readG (regOf f.od) = if regOf f.od = 0 then 0 else
          BitVec.ofNat 64 (s.scratchRead (at_ load).core (at_ load).addr 8))) ∧
    (formReady s f none .read = true → inRange store n → roomy → s.me.choiceOpen = false →
      exec (.sst f) s = .next (finished f.hints (queued u (.scratch (at_ store).core (bytes store n) (at_ store).remote none)))) ∧
    (formReady s f none .read = true → inRange store 8 → roomy → s.me.choiceOpen = false →
      exec (.stu f) s = .next (finished f.hints (queued u
        (.scratch (at_ store).core (bytes store 8) (at_ store).remote (some (lockBit (at_ store))))))) ∧
    (formReady s f none .none = true → inRange load 8 → roomy → s.me.choiceOpen = false →
      exec (.ulk f) s = .next (finished f.hints (queued u (.scratch (at_ load).core [] (at_ load).remote (some (lockBit (at_ load)))))))

/-- R52, R111: a result in flight reaches its register: the register holds it and is full, and the result is in flight no more. In a g
register a known value, a floating value with its flags, a remote load from the scratchpad, an atomic's old value, and a global load that
nothing holds back, each byte from the thread set's own queued stores where they cover it and else from the cluster cache or the home; in
a v register the bytes of the active lanes of a global load, likewise, or of a remote load from the scratchpad, and the others as they were. -/
def Obligations.ResultArrives : Prop :=
  ∀ (s : State) (c ts k : Nat) (p : Pend), (s.tset c ts).pend[k]? = some p → p.posted = false → p.dropped = false → p.bad = false →
    let fills := fun (l : Line) => ∃ t, exec (.resultArrival c ts k) s = .next t ∧ (t.tset c ts).readV p.reg = l ∧
      (p.reg < 32 → (t.tset c ts).vEmpty.getLsbD p.reg = false) ∧ ∀ q ∈ (t.tset c ts).pend, q.seq ≠ p.seq
    let arrives := fun (v : Word) => p.isV = false → p.reg ≠ 0 → ∃ t, exec (.resultArrival c ts k) s = .next t ∧ (t.tset c ts).gRaw p.reg = v ∧
      (p.reg < 40 → (t.tset c ts).gEmpty.getLsbD p.reg = false) ∧ ∀ q ∈ (t.tset c ts).pend, q.seq ≠ p.seq
    (∀ w, p.kind = .value w → arrives w) ∧
    (∀ w fl, p.kind = .float w fl → p.isV = false → p.reg ≠ 0 → arrives w ∧ ∃ t, exec (.resultArrival c ts k) s = .next t ∧
      (t.tset c ts).fpctl = (s.tset c ts).fpctl ||| (fl.setWidth 64 <<< 8)) ∧
    (∀ a b n sx, p.kind = .sload a b n sx → s.scratchBad a ((List.range n).map (b + ·)) = false → arrives (extendTo n sx (seenReadOf s c ts a b n))) ∧
    (∀ op sc n va x b cm m, p.kind = .atomic op sc n va x b cm (some m) → arrives (extendTo n (n == 4) m.toNat)) ∧
    (∀ va x n sx fwd, p.kind = .load va x n sx fwd → loadBlocked (s.tset c ts) p = false → x.tier ≠ 3 →
      (loadLine s c (ptrAddr va) x true).2.1 = 0 →
      arrives (extendTo n sx (natOfBytes ((List.range n).map (fun j => ((fwd.find? (fun b => b.1 == j)).map (·.2)).getD
        (lineByte (loadLine s c (ptrAddr va) x true).1 (ptrAddr va % 64 + j))))))) ∧
    (∀ va x mask fwd, p.kind = .vload va x mask fwd → p.isV = true → loadBlocked (s.tset c ts) p = false → x.tier ≠ 3 →
      (loadLine s c (ptrAddr va) x true).2.1 = 0 → fills (setLineBytes ((s.tset c ts).readV p.reg) (mask.map (fun j =>
        (j, lineByte (setLineBytes (loadLine s c (ptrAddr va) x true).1 fwd) j))))) ∧
    (∀ a bytes, p.kind = .svload a bytes → p.isV = true → s.scratchBad a (bytes.map (·.2)) = false →
      fills (setLineBytes ((s.tset c ts).readV p.reg) (bytes.map (fun b => (b.1, seenByteOf s c ts a b.2)))))

/-- R60, R250, R251: the oldest entry of a store queue, when no earlier load is outstanding and no other's write has landed at its bank in the
cycle, leaves it. A scratchpad entry lands, and
frees the lock bit it may carry (R145): the bytes it names hold its values, and every other byte of every scratchpad and of global memory reads as before. R142, R236, R250: a global entry of a store queue enters the cluster cache: the cached line holds its bytes, its words are dirty and
its core is marked, while the home still reads as before when the line was cached already. -/
def Obligations.StoresLand : Prop :=
  (∀ (s : State) (c ts : Nat) (q : Queued) (rest : List Queued) (d : Nat) (bs : List (Nat × Byte)) (remote : Bool)
     (unlock : Option Nat),
     (s.tset c ts).storeq = q :: rest → q.w = .scratch d bs remote unlock → owesNothing s c → (∀ b ∈ bs, b.1 < 0x30000) → (bs.map (·.1)).Nodup →
     (∀ p ∈ (s.tset c ts).pend, p.holdsStores = false ∨ q.seq ≤ p.seq) → rreadPending s c ts q.seq = false →
     olderCoreWrite s c ts q = false → (s.tset c ts).unacked = [] → (remote = false → portTaken s d bs = false) →
     ∃ t, exec (.storeQueueDrain c ts) s = .next t ∧ (t.tset c ts).storeq = rest ∧
       (t.tset c ts).unacked = (if remote then [d] else []) ∧
       (∀ l, l ∈ t.locks ↔ l ∈ s.locks ∧ ¬(unlock = some l.at_ ∧ l.core = c ∧ l.ts = ts)) ∧
       (∀ b ∈ bs, t.scratchByte d b.1 = b.2) ∧
       (∀ d' a, a < 0x30000 → (d' ≠ d ∨ ∀ b ∈ bs, b.1 ≠ a) → t.scratchByte d' a = s.scratchByte d' a) ∧
       (∀ a, t.homeRead a 1 = s.homeRead a 1)) ∧
  (∀ (s : State) (c ts : Nat) (q : Queued) (rest : List Queued) (va : Word) (x : Xlat) (bs : List (Nat × Byte)) (l : CacheLine),
     (s.tset c ts).storeq = q :: rest → q.w = .global va x bs → (∀ b ∈ bs, ptrAddr va % 64 + b.1 < 64) →
     (∀ p ∈ (s.tset c ts).pend, (p.holdsStores = false ∧ (p.posted = false ∨ p.atomicLine ≠ some (ptrAddr va / 64))) ∨ q.seq ≤ p.seq) →
     rreadPending s c ts q.seq = false → owesNothing s c → x.wb = false → heldWord s c (ptrAddr va) bs = false →
     needsLine s c (ptrAddr va) x bs = false → (currentXlat s c (ptrAddr va) x).dirty = true →
     (s.cluster (cacheOf c)).find (ptrAddr va) = some l → l.hole = 0 →
     ∃ t l', exec (.storeQueueDrain c ts) s = .next t ∧ (t.tset c ts).storeq = rest ∧
       (t.cluster (cacheOf c)).find (ptrAddr va) = some l' ∧
       l'.data = setLineBytes l.data (bs.map (fun b => (ptrAddr va % 64 + b.1, b.2))) ∧
       l'.dc = l.dc ||| (1#16 <<< dcBit c) ∧ (∀ b ∈ bs, l'.dw.getLsbD ((ptrAddr va % 64 + b.1) / 8) = true) ∧
       (∀ a, t.homeRead a 1 = s.homeRead a 1))

/-- R145, R57, R251: the first waiter of a lock bit that has become free receives it; a capture clears a thread set's register locks; an
acknowledgement removes one remote write. R323, R324, R331, R332: the walks a thread set waits for. Every cover found is installed, or a translation, and the wait ends; where no
cover lets the access pass, or there is no translation, the retry will trap with the cause found. R142, R236, R237, R337: a full set evicts the line its pseudo-LRU tree points to, a clean one without changing any home byte; the oldest
held word of a cluster enters the cache once its page is no longer under write-block, dirty for every core that stored to it. -/
def Obligations.LocksWalksCaches : Prop :=
  ((∀ (s : State) (b : Nat) (w : LockWait) (r : List LockWait), s.lockWaits = w :: r → w.at_ = b → (∀ l ∈ s.locks, l.at_ ≠ b) →
     ∃ t, exec (.lockBitGrant b) s = .next t ∧ t.locks = s.locks ++ [LockBit.mk b w.core w.ts] ∧ w ∉ t.lockWaits ∧
       ∃ credit, (t.tset w.core w.ts).wait = .lock true credit) ∧
   (∀ (s : State) (c ts : Nat), ∃ t, exec (.lockCapture c ts) s = .next t ∧ (t.tset c ts).gLock = 0 ∧ (t.tset c ts).vLock = 0 ∧
     (t.tset c ts).g = (s.tset c ts).g ∧ (t.tset c ts).v = (s.tset c ts).v) ∧
   (∀ (s : State) (c ts k : Nat), ∃ t, exec (.remoteWriteAck c ts k) s = .next t ∧
     (t.tset c ts).unacked = (s.tset c ts).unacked.eraseIdx k)) ∧
  (∀ (s : State) (c ts : Nat),
     (∀ owner ea n need fetch, (s.tset c ts).walk = .rights owner ea n need fetch →
       let covers := missCovers s c owner ea n need fetch
       let filled := fun (t : State) => (s.core c).plb.Nodup → covers.length ≤ 64 → ∀ e ∈ covers, e ∈ (t.core c).plb
       (rightsDecision covers owner (ptrGen ea) (ptrAddr ea) n need fetch = none → ∃ t, exec (.rightsWalk c ts) s = .next t ∧
         (t.tset c ts).walk = .none ∧ filled t) ∧
       (∀ cause, rightsDecision covers owner (ptrGen ea) (ptrAddr ea) n need fetch = some cause → ∃ t, exec (.rightsWalk c ts) s = .next t ∧
         (t.tset c ts).walk = .failed cause ea ∧ filled t)) ∧
     (∀ ea, (s.tset c ts).walk = .page ea →
       (∀ e, missXlat s c (ptrAddr ea) = some e → ∃ t, exec (.pageWalk c ts) s = .next t ∧ (t.tset c ts).walk = .none ∧ e ∈ (t.core c).tlb) ∧
       (missXlat s c (ptrAddr ea) = none → ∃ t, exec (.pageWalk c ts) s = .next t ∧ (t.tset c ts).walk = .failed 0x10 ea ∧
         (t.core c).tlb = (s.core c).tlb))) ∧
  ((∀ (s : State) (c set : Nat) (l : CacheLine), let inSet := (s.cluster c).lines.filter (fun l => l.va / 64 % 2048 == set)
     16 ≤ inSet.length → inSet.find? (fun l => l.way == plruVictim (mget 0 (s.cluster c).plru set)) = some l →
     (s.cluster c).find l.va = some l → l.dw = 0 → l.wrote = [] →
     ∃ t, exec (.lineEviction c set) s = .next t ∧ (t.cluster c).find l.va = none ∧ ∀ a, t.homeRead a 1 = s.homeRead a 1) ∧
   (∀ (s : State) (c : Nat) (h : HeldWrite) (rest : List HeldWrite) (e : TlbEntry) (p : HeldStore) (ps : List HeldStore),
     (s.cluster c).hold = h :: rest → h.stores = p :: ps → translate s h.va = some e → e.x.wb = false → e.x.dirty = true →
     (∀ q ∈ h.stores, cacheOf q.core = c ∧ owesNothing s q.core) → (∀ b ∈ h.bytes, h.va % 64 + b.1 < 64) →
     needsLine s p.core h.va (e.at_ h.va) h.bytes = false →
     ∃ t l, exec (.heldWriteDrain c) s = .next t ∧ (t.cluster c).hold = rest ∧ (t.cluster c).find h.va = some l ∧
       (∀ b ∈ h.bytes, l.dw.getLsbD ((h.va % 64 + b.1) / 8) = true) ∧ (∀ q ∈ h.stores, l.dc.getLsbD (dcBit q.core) = true)))

/-- R153, R155, Table 8.9: a fence whose earlier accesses are all performed completes; at device and system scope its cache then holds no
dirty line that its core dirtied in a tier of the scope, and no clean line without a binding tag; `XFENCE` likewise, by its masks. R142, R153: a line that `FENCE.dev` writes back is published: each byte of its dirty words then stands at its home, where no other
line of the cache shares it. -/
def Obligations.FencesPublish : Prop :=
  (∀ (f : Form) (s : State),
     let c := cacheOf s.curCore
     let clean := fun (sys : Bool) (t : State) => ∀ l ∈ (t.cluster c).lines,
       l.dw ≠ 0 → l.dc.getLsbD (dcBit s.curCore) = false ∨ scopeTier sys l.x.tier = false
     let fresh := fun (t : State) => ∀ l ∈ (t.cluster c).lines, l.dw = 0 → l.tv = true
     let from_ : BitVec 6 := (s.me.value f.oa).setWidth 6
     let to_ : BitVec 6 := (s.me.value f.ob).setWidth 6
     formReady s f none .none = true → linesOk s c →
     (quiet s → f.md.toNat % 4 < 2 → exec (.fence f) s = .next (finished f.hints (begin s))) ∧
     (quiet s → f.md.toNat % 4 = 2 → s.mySpec = none → (s.cluster c).hold = [] →
       ∃ t, exec (.fence f) s = .next t ∧ t.me.pc = s.me.pc + 12 ∧ clean false t ∧ fresh t) ∧
     (quiet s → f.md.toNat % 4 = 3 → s.mySpec = none → (s.cluster c).hold = [] → (∀ p ∈ s.peerStores, p.1 ≠ c) →
       (∀ l ∈ (s.cluster c).lines, l.x.tier ≠ 3) → ∃ t, exec (.fence f) s = .next t ∧ t.me.pc = s.me.pc + 12 ∧ clean true t ∧ fresh t) ∧
     (s.mySpec = none → from_ = 0 ∨ to_ = 0 → exec (.xfence f) s = .next (finished f.hints (begin s))) ∧
     (s.mySpec = none → from_ ≠ 0 → to_ ≠ 0 → s.me.wait = .none → (∀ x ∈ s.myCore.xfences, x.seq < s.uid) →
       (∀ h ∈ (s.cluster c).hold, ∀ q ∈ h.stores, q.core ≠ s.curCore) →
       (∀ k < 4, (s.tset s.curCore k).storeq = [] ∧ (s.tset s.curCore k).pend = [] ∧ (s.tset s.curCore k).unacked = []) →
       s.myCore.anvil = [] → s.myCore.inject = [] → (s.cluster c).stream = [] → s.leases = [] → (∀ p ∈ s.peerStores, p.1 ≠ c) →
       ∃ t, exec (.xfence f) s = .next t ∧ t.me.pc = s.me.pc + 12 ∧ t.myCore.xfences = s.myCore.xfences ∧
         (from_.getLsbD 0 = true → clean false t) ∧ (to_.getLsbD 0 = true ∨ to_.getLsbD 2 = true → fresh t))) ∧
  (∀ (f : Form) (s : State) (l : CacheLine) (k : Nat),
     let c := cacheOf s.curCore
     formReady s f none .none = true → quiet s → f.md.toNat % 4 = 2 → s.mySpec = none → (s.cluster c).hold = [] → linesOk s c →
     l ∈ (s.cluster c).lines → l.dc.getLsbD (dcBit s.curCore) = true → l.x.tier = 0 → l.bad = 0 → l.hole = 0 →
     (∀ m ∈ (s.cluster c).lines, m.x.pa % 64 = 0 ∧ (m.va ≠ l.va → m.x.pa ≠ l.x.pa)) →
     k < 64 → l.dw.getLsbD (k / 8) = true →
     ∃ t, exec (.fence f) s = .next t ∧ t.homeRead (l.x.pa + k) 1 = (lineByte l.data k).toNat)

/-- R150 to R152, Tables 8.7, 8.8: sync objects. `ACQ` waits at the object's home unless it is granted or the thread set holds it exclusive
already; `REL` ends one hold and advances EPOCH; `BIND` and `UNBIND` answer a status, and write BV and BTAG when they succeed. The order of the
statuses where several apply (1 and 2 before 3, 4 before 5) is the model's choice (log 68). R151, R152: what `REL` and a grant do to an object that is bound to no range: `REL` advances EPOCH and ends one hold, the last of an
exclusive one clears EXC and one of a shared one counts SHR down; a grant sets EXC for an exclusive request at the head of a free
object's queue, or counts SHR up by the run of shared requests at the head, and the waiting `ACQ` completes. That requests are granted
strictly in their order is the model's choice (log 68). -/
def Obligations.SyncAndGrants : Prop :=
  (∀ (f : Form) (s : State) (x : Xlat),
     let obj := s.me.value f.oa
     let u := (begin s).used obj 16 rightA false
     let base := s.me.value f.ob
     let n := (s.me.value f.od).toNat
     let shared := f.md.getLsbD 0
     let held := s.me.holds.find? (fun h => h.pa == x.pa)
     let bs := ((s.context s.myCtx).map (·.bindings)).getD []
     let old := bs.find? (fun b => b.obj == x.pa)
     accessOk (begin s) obj 16 rightA x → s.mySpec = none →
     (formReady s f none .none = true →
       (∀ pa, s.me.wait = .acq pa true → exec (.acq f) s = .next (finished f.hints (begin s))) ∧
       (∀ h, held = some h → h.exclusive = true → s.me.wait = .none → s.me.holdCount < 8 →
         exec (.acq f) s = .next (finished f.hints (u.modMe (fun t => t.addHold x.pa (ptrAddr obj) true)))) ∧
       (held = none → s.me.wait = .none → s.me.holdCount < 8 →
         ∃ t, exec (.acq f) s = .next t ∧ t.me.pc = s.me.pc ∧ t.me.wait = .acq x.pa false ∧
           t.acqs = s.acqs ++ [AcqWait.mk x.pa (ptrAddr obj) s.curCore s.curTs shared]) ∧
       (8 ≤ s.me.holdCount → s.me.wait = .none → exec (.acq f) s = traps s 0x02 (posTval 2 (encodeField f.oa))) ∧
       (quiet s → s.me.wait = .none → x.wb = false → boundUnpublished (begin s) s.curCore s.myCtx x.pa = false →
         boundUnpublished (publishBound (begin s) s.curCore s.myCtx x.pa) s.curCore s.myCtx x.pa = false →
         exec (.rel f) s = .next (finished f.hints (relObject u s.curCore s.curTs (ptrAddr obj) x.pa)))) ∧
     (formReady s f none .both = true → base.toNat % 64 = 0 → 0 < n → n % 64 = 0 → n ≤ 2 ^ 32 → checkRights (begin s) base n rightR false = .ok () →
       (∃ y, checkXlat (begin s) base = .ok y) → x.wb = false → needCredit (begin s) = .ok () →
       (∀ b, old = some b → 4 ≤ b.ranges.length → ∃ t, answers (.bind f) f s t 1) ∧
       (old = none → freeTag bs = none → ∃ t, answers (.bind f) f s t 2) ∧
       (∀ tag, (∀ b, old = some b → b.ranges.length < 4 ∧ b.tag = tag) → (old = none → freeTag bs = some tag) →
         ((∃ b ∈ bs, ∃ r ∈ b.ranges, r.1 < ptrAddr base + n ∧ ptrAddr base < r.1 + r.2) → ∃ t, answers (.bind f) f s t 3) ∧
         ((∀ b ∈ bs, ∀ r ∈ b.ranges, r.1 + r.2 ≤ ptrAddr base ∨ ptrAddr base + n ≤ r.1) → (s.context s.myCtx).isSome = true →
           ∃ t b, answers (.bind f) f s t 0 ∧ t.binding s.myCtx x.pa = some b ∧ b.tag = tag ∧ (ptrAddr base, n) ∈ b.ranges ∧
             t.homeRead (x.pa + 14) 2 = tag.toNat + 2 ^ 15))) ∧
     (formReady s f none .write = true → x.wb = false → needCredit (begin s) = .ok () →
       (objExc s x.pa = true ∨ objShr s x.pa ≠ 0 → ∃ t, answers (.unbind f) f s t 4) ∧
       (objExc s x.pa = false → objShr s x.pa = 0 → s.binding s.myCtx x.pa = none → ∃ t, answers (.unbind f) f s t 5) ∧
       (∀ b, objExc s x.pa = false → objShr s x.pa = 0 → s.binding s.myCtx x.pa = some b →
         ∃ t, answers (.unbind f) f s t 0 ∧ t.binding s.myCtx x.pa = none ∧ t.homeRead (x.pa + 14) 2 = 0))) ∧
  ((∀ (s : State) (core ts va pa : Nat) (x : Xlat), s.binding (s.ctxOf core ts) pa = none → objectHere s core va pa x →
     let t := relObject s core ts va pa
     t.homeRead (pa + 8) 4 = (s.homeRead (pa + 8) 4 + 1) % 2 ^ 32 ∧
     (∀ h, (s.tset core ts).holds.find? (fun h => h.pa == pa) = some h →
       (h.exclusive = true → objShr t pa = objShr s pa ∧ objExc t pa = (objExc s pa && h.count != 1)) ∧
       (h.exclusive = false → objShr t pa = objShr s pa - 1 ∧ objExc t pa = objExc s pa) ∧
       (h.count = 1 → ∀ x ∈ (t.tset core ts).holds, x.pa ≠ pa)) ∧
     ((∀ h ∈ (s.tset core ts).holds, h.pa ≠ pa) → objShr t pa = objShr s pa ∧ objExc t pa = objExc s pa)) ∧
   (∀ (s : State) (pa : Nat) (x : Xlat) (a : AcqWait) (rest : List AcqWait), s.acqs.filter (fun a => a.pa == pa) = a :: rest →
     objExc s pa = false → (∀ b ∈ a :: rest, s.binding (s.ctxOf b.core b.ts) pa = none ∧ objectHere s b.core b.va pa x) →
     (a.shared = false → objShr s pa = 0 → ∃ t, exec (.syncGrant pa) s = .next t ∧ objExc t pa = true ∧ objShr t pa = 0 ∧
       (t.tset a.core a.ts).wait = .acq pa true ∧ (∃ h ∈ (t.tset a.core a.ts).holds, h.pa = pa)) ∧
     (a.shared = true → let run := (a :: rest).takeWhile (·.shared)
       objShr s pa + run.length < 2 ^ 32 → ∃ t, exec (.syncGrant pa) s = .next t ∧ objExc t pa = false ∧
         objShr t pa = objShr s pa + run.length ∧
         ∀ b ∈ run, (t.tset b.core b.ts).wait = .acq pa true ∧ (∃ h ∈ (t.tset b.core b.ts).holds, h.pa = pa))) ∧
   (∀ (s : State) (pa : Nat), objExc s pa = true → exec (.syncGrant pa) s = .next s))

/-- R154, R170: watches. `SPINW` sends its watch to the word's home and waits; arming takes the word as its cluster has published it and
fires at once when it differs; a fired `SPINW` delivers the word; the tier unit's poll fires a watch whose word differs. -/
def Obligations.Watches : Prop :=
  (∀ (f : Form) (s : State) (x : Xlat), let u := begin s
    let ea := s.me.value f.oa
    formReady s f none .write = true → accessOk u ea 8 rightR x → s.mySpec = none → needCredit u = .ok () → x.wb = false →
    (creditsUsed u s.curCore).2 < 16 →
    let p := pendG (u.used ea 8 rightR false) (regOf f.od) true ea (.spinw ea x (s.me.value f.ob) false)
    let w : HomeWatch := HomeWatch.mk x.pa x.tier ea (s.me.value f.ob) false none (.spin s.curCore s.curTs s.uid)
    exec (.spinw f) s = .next (finished f.hints { p with watches := s.watches ++ [w] })) ∧
  (∀ (s : State) (k : Nat) (w : HomeWatch), s.watches[k]? = some w → w.armed = false → w.fired = none → w.tier = 0 →
    filterRoom s w = true → watchBehind s w = false →
    let core := match w.who with | .spin c _ _ => c | .endw v => v.core
    (s.cluster (cacheOf core)).find (ptrAddr w.va) = none →
    ∃ t, exec (.watchArm k) s = .next t ∧ t.watches[k]? = some { w with armed := true, fired := if s.homeRead w.pa 8 = w.comparand.toNat then none else some (BitVec.ofNat 64 (s.homeRead w.pa 8)) }) ∧
  (∀ (s : State) (k c ts seq : Nat) (w : HomeWatch) (v : Word) (p : Pend), s.watches[k]? = some w → w.who = .spin c ts seq →
    w.fired = some v → (s.tset c ts).pend.find? (fun p => p.seq == seq) = some p → p.isV = false → p.posted = false → p.dropped = false →
    p.reg ≠ 0 → w.tier = 3 ∨ s.eccFails w.pa = false →
    ∃ t, exec (.spinwFire k) s = .next t ∧ t.watches = s.watches.eraseIdx k ∧ (t.tset c ts).gRaw p.reg = v ∧
      (p.reg < 40 → (t.tset c ts).gEmpty.getLsbD p.reg = false)) ∧
  (∀ (s : State) (k : Nat) (peer : Word) (w : HomeWatch), s.watches[k]? = some w → w.armed = true → w.fired = none → w.tier ≠ 0 →
    let x := if w.tier = 3 then peer else BitVec.ofNat 64 (s.homeRead w.pa 8)
    ∃ t, exec (.tierWatchPoll k peer) s = .next t ∧
      t.watches[k]? = some { w with fired := if x = w.comparand then none else some x })

/-- R156: barriers. A member that arrives first opens an episode and waits; one that arrives later joins it, and waits while an episode of
another context is open; a mask other than the episode's traps. When every core of the mask has arrived, the release gives all of
them the largest magnitude offered (that of `BARMAX`), 0x7FC0_0000 if a NaN was offered, and the barrier is free; the released instruction
completes. -/
def Obligations.Barriers : Prop :=
  (∀ (f : Form) (s : State) (m : Word),
    (formReady s f none .none = true → s.me.wait = .barrier (some m) → exec (.barsync f) s = .next (finished f.hints (begin s))) ∧
    (formReady s f none .write = true → s.me.wait = .barrier (some m) → exec (.barmax f) s = givesG f s m)) ∧
  (∀ (f : Form) (s : State) (out : Outcome) (pos : Nat) (o : Operand) (offer : Word),
    (formReady s f none .none = true ∧ out = exec (.barsync f) s ∧ pos = 2 ∧ o = f.oa ∧ offer = 0) ∨
      (formReady s f none .write = true ∧ out = exec (.barmax f) s ∧ pos = 3 ∧ o = f.ob ∧ offer = zextLow 32 (s.me.value f.oa)) →
    let w := s.me.value o
    let cl := cacheOf s.curCore
    let b := w.toNat % 16
    let mask : BitVec 16 := w.extractLsb' 16 16
    let me := (dcBit s.curCore, s.curTs, offer)
    let waits := fun (e : Barrier) => ∃ t, out = .next t ∧ t.me.pc = s.me.pc ∧ t.me.wait = .barrier none ∧ mget none (t.cluster cl).barriers b = some e
    s.me.wait = .none →
    (w &&& ~~~0xFFFF000F ≠ 0 ∨ w.getLsbD (16 + dcBit s.curCore) = false → out = traps s 0x02 (posTval pos (encodeField o))) ∧
    (quiet s → w &&& ~~~0xFFFF000F = 0 → w.getLsbD (16 + dcBit s.curCore) = true →
      (mget none (s.cluster cl).barriers b = none → waits (Barrier.mk (BitVec.ofNat 12 s.myCtx) mask [me])) ∧
      (∀ e, mget none (s.cluster cl).barriers b = some e →
        (e.ctx.toNat = s.myCtx → e.mask = mask → (∀ a ∈ e.arrived, a.1 ≠ dcBit s.curCore) → waits { e with arrived := e.arrived ++ [me] }) ∧
        (e.ctx.toNat = s.myCtx → e.mask ≠ mask → out = traps s 0x02 (posTval pos (encodeField o))) ∧
        (e.ctx.toNat ≠ s.myCtx → ∃ t, out = .next t ∧ t.me.pc = s.me.pc ∧ t.me.wait = .none ∧ t.clusters = s.clusters)))) ∧
  (∀ (s : State) (cl b : Nat) (e : Barrier), cl < 66 → mget none (s.cluster cl).barriers b = some e →
    let core := fun k => if cl < 64 then cl * 16 + k else 1024 + (cl - 64) * 4 + k
    let mag := fun (x : Word) => (x.extractLsb' 0 31).toNat
    ((∀ k < 16, e.mask.getLsbD k = true → ∃ a ∈ e.arrived, a.1 = k) → e.arrived ≠ [] →
      ∃ t m, exec (.barrierRelease cl b) s = .next t ∧ mget none (t.cluster cl).barriers b = none ∧
        (∀ a ∈ e.arrived, (t.tset (core a.1) a.2.1).wait = .barrier (some m)) ∧
        m = e.arrived.foldl (fun m a => magMax m a.2.2) 0 ∧
        ((∃ a ∈ e.arrived, 0x7F800000 < mag a.2.2) → m = 0x7FC00000) ∧
        ((∀ a ∈ e.arrived, mag a.2.2 ≤ 0x7F800000) →
          (∃ a ∈ e.arrived, m = BitVec.ofNat 64 (mag a.2.2)) ∧ ∀ a ∈ e.arrived, mag a.2.2 ≤ m.toNat)) ∧
    ((∃ k < 16, e.mask.getLsbD k = true ∧ ∀ a ∈ e.arrived, a.1 ≠ k) → exec (.barrierRelease cl b) s = .next s))

/-- R157, R325, Table 8.10: `GRANT` adds an entry to the target's table and answers 0, or changes nothing and answers why: 1 no cover with
the rights and G, 4 no cover of the pointer's generation that is not quarantined, 2 another partition without a consent record, 5 no such
owner, 3 a full table. `RCHK` reports and changes nothing. That a grant of the window of R330 to an owner that is no system owner finds no
cover is the model's choice (log 71). -/
def Obligations.RightsGranted : Prop :=
  ∀ (f : Form) (s : State),
    let u := begin s
    let ptr := s.me.value f.oa
    let w := s.me.value f.ob
    let q := rangeOf ptr w
    let owner := s.me.owner
    let to_ := rangeTo w
    let rt := rangeRt w
    let es := s.ownerEntries owner
    let covers := es.filter (fun e => e.holds q && (e.rights &&& (rt ||| rightG)) == (rt ||| rightG))
    let live := fun (e : REntry) => e.quar = false ∧ e.gen = ptrGen ptr ∧ ptrGen ptr ≠ 127
    let barred := inWindow q = true ∧ systemOwner s to_ = false
    let may := to_.extractLsb' 13 7 = owner.extractLsb' 13 7 ∨ consented s owner to_ q rt = true
    formReady s f none .write = true → ptr.toNat % 64 = 0 → fieldN w 0 32 ≠ 0 → fieldN w 37 7 = 0 → s.mySpec = none →
    needCredit u = .ok () → needPath u 0 = .ok () →
    (covers = [] ∨ barred → ∃ t, answers (.grant f) f s t 1 ∧ t.owners = s.owners) ∧
    (covers ≠ [] → ¬ barred → (∀ e ∈ covers, ¬ live e) → ∃ t, answers (.grant f) f s t 4 ∧ t.owners = s.owners) ∧
    ((∃ e ∈ covers, live e) → ¬ barred →
      (¬ may → ∃ t, answers (.grant f) f s t 2 ∧ t.owners = s.owners) ∧
      (may → mget none s.owners to_.toNat = none → ∃ t, answers (.grant f) f s t 5 ∧ t.owners = s.owners) ∧
      (∀ tab, may → mget none s.owners to_.toNat = some tab →
        (tab.capacity ≤ tab.entries.length → ∃ t, answers (.grant f) f s t 3 ∧ t.owners = s.owners) ∧
        (tab.entries.length < tab.capacity → ∃ t tab', answers (.grant f) f s t 0 ∧ mget none t.owners to_.toNat = some tab' ∧
          t.nextGid = nextIdentity s.takeGid ∧ (∀ x ∈ tab.entries, x ∈ tab'.entries) ∧
          ∃ c ∈ covers, live c ∧ ∃ n ∈ tab'.entries, n.base = q.1 ∧ n.len = fieldN w 0 32 ∧ n.gen = ptrGen ptr ∧ n.rights = rt ∧
            n.gid = s.takeGid ∧ n.pgid = c.gid ∧ n.granter = owner ∧ n.orig = false ∧ n.quar = false))) ∧
    (∃ t st, answers (.rchk f) f s t st ∧ t.owners = s.owners ∧
      (∀ k < 5, st.getLsbD k = (rt.getLsbD k && spansRange ((es.filter (fun e => e.meets q)).filter (fun e =>
        !e.quar && e.gen == ptrGen ptr && ptrGen ptr != 127) |>.filter (fun e => e.rights.getLsbD k)) q)) ∧
      st.getLsbD 7 = (es.any (fun e => e.meets q && (!e.quar && e.gen != ptrGen ptr))) ∧
      st.getLsbD 8 = (es.any (fun e => e.meets q && e.quar)))

/-- R158, R159, R326, R328, R329: `REVOKE` takes from every table, inside its range, the entries its owner granted and, along PGID, the
whole chain of those derived from them; every other entry stays, and so do the parts of the taken ones outside the range. `GENADV` by the
owner of the originals of a whole range takes the chain derived from those originals, and advances their generation inside the range, or
quarantines at 126. What a later part of an entry that was cut is called (its identity, and the PGID that names it) may change (R321).
Their status waits for the purge. -/
def Obligations.RightsRevoked : Prop :=
  ∀ (f : Form) (s : State),
    let u := begin s
    let ptr := s.me.value f.oa
    let w := s.me.value f.ob
    let q := rangeOf ptr w
    let owner := s.me.owner
    let to_ := rangeTo w
    let listed := fun (s : State) (o : Nat) (e : REntry) => ∃ tab, (o, some tab) ∈ s.owners ∧ e ∈ tab.entries
    let renamed := fun (e e' : REntry) => e' = { e with gid := e'.gid, pgid := e'.pgid }
    let hit := fun (o : Nat) (e : REntry) => e.orig = false ∧ e.granter = owner ∧ e.meets q = true ∧ (to_.toNat = 0xFFFFF ∨ o = to_.toNat)
    let mine := (s.ownerEntries owner).filter (fun e => e.orig && e.meets q)
    let closed := fun (ids : List Nat) => ∀ o e, listed s o e → e.meets q = true → e.pgid ≠ 0 → e.pgid ∈ ids → e.gid ∈ ids
    let takes := fun (ids : List Nat) (t : State) =>
      (∀ o e', listed t o e' → e'.orig = false → e'.meets q = true → ∃ e, listed s o e ∧ e.gid ∉ ids ∧ renamed e e') ∧
      (∀ o e, listed s o e → e.orig = false → (e.gid ∉ ids ∨ e.meets q = false) → ∃ e', listed t o e' ∧ renamed e e') ∧
      (∀ o e, listed s o e → e.orig = false → e.gid ∈ ids → e.meets q = true → ∀ x ∈ e.outside q, ∃ e', listed t o e' ∧ renamed x e')
    let waits := fun (t : State) (st : Word) => ∃ p ∈ t.me.pend, s.uid ≤ p.seq ∧ p.reg = gIndex s.me.tlvl (regOf f.od) ∧
      (p.kind = .value st ∨ ∃ id, p.kind = .purge id st ∧ ∃ x ∈ t.purges, x.id = id)
    formReady s f none .write = true → ptr.toNat % 64 = 0 → fieldN w 0 32 ≠ 0 → fieldN w 37 7 = 0 → s.mySpec = none →
    needCredit u = .ok () → needPath u 0 = .ok () →
    ((∀ o e, listed s o e → ¬ hit o e) → ∃ t, answers (.revoke f) f s t 1 ∧ t.owners = s.owners) ∧
    ((∃ o e, listed s o e ∧ hit o e) →
      let ids := revokedIds s owner to_ q
      (∀ o e, listed s o e → hit o e → e.gid ∈ ids) ∧ closed ids ∧
      ∃ t, exec (.revoke f) s = .next t ∧ waits t 0 ∧ takes ids t ∧
        (∀ o e, listed s o e → e.orig = true → ∃ e', listed t o e' ∧ renamed e e')) ∧
    (spansRange mine q = false → ∃ t, answers (.genadv f) f s t 0x100 ∧ t.owners = s.owners) ∧
    (spansRange mine q = true →
      let ids := derivedIds (allEntries s) q (allEntries s).length (mine.map (·.gid))
      (∀ e ∈ mine, e.gid ∈ ids) ∧ closed ids ∧
      ∃ t, exec (.genadv f) s = .next t ∧ takes ids t ∧
        waits t (advanceStatus ((t.ownerEntries owner).filter (fun e => e.orig && e.meets q)) q) ∧
        (∀ e ∈ mine, e.quar = false → e.gen.toNat < 126 → ∃ e' ∈ t.ownerEntries owner, renamed { e.inside q with gen := e.gen + 1 } e') ∧
        (∀ e ∈ mine, e.quar = false → 126 ≤ e.gen.toNat → ∃ e' ∈ t.ownerEntries owner, renamed { e.inside q with quar := true } e') ∧
        (∀ e ∈ mine, ∀ x ∈ e.outside q, ∃ e' ∈ t.ownerEntries owner, renamed x e'))

/-- R160, R172, R324, R326, R333: purges. `TLBINV` is privileged; it drops the page from every cluster's TLB and waits for the cores that
hold it or have stores to it; a purge that reaches a core drops what it names there, and the core acknowledges it; a lease slot acknowledges a rights purge once no unit of it past its check meets
the range. -/
def Obligations.Purges : Prop :=
  (∀ (f : Form) (s : State), let ptr := s.me.value f.oa
    let size := (s.me.value f.ob).toNat
    let q := invPage (ptrAddr ptr) size
    formReady s f none .none = true →
    (s.isSystem s.myCtx = false → exec (.tlbinv f) s = traps s 0x03 (highWord (.tlbinv f))) ∧
    (s.isSystem s.myCtx = true → ptr.toNat % 64 = 0 → size ≤ 3 → s.mySpec = none →
      (∀ id, s.me.wait = .purge id → purgeDone s id = true → exec (.tlbinv f) s = .next (finished f.hints (begin s))) ∧
      (s.me.wait = .none → (sendPagePurge (begin s) q).1 = none →
        ∃ t, exec (.tlbinv f) s = .next t ∧ t.me.pc = s.me.pc + 12 ∧ ∀ c, ∀ e ∈ (t.cluster c).tlb, e.within q.1 q.2 = false) ∧
      (∀ id, s.me.wait = .none → (sendPagePurge (begin s) q).1 = some id →
        ∃ t, exec (.tlbinv f) s = .next t ∧ t.me.pc = s.me.pc ∧ t.me.wait = .purge id ∧ ∃ p ∈ t.purges, p.id = id))) ∧
  (∀ (s : State) (k core : Nat) (p : Purge), s.purges[k]? = some p → p.pending.contains core = true →
    let acked := fun (t : State) => ∀ x ∈ t.purges, x.id = p.id → core ∉ x.pending
    (∀ owners base size, p.kind = .rights owners base size → 5000 ≤ core →
      (∀ l ∈ s.leases, l.1 + 5000 = core → ∀ c ∈ l.2.cmds, unitPast owners (base, size) c = false) →
      ∃ t, exec (.purgeArrival k core) s = .next t ∧ acked t) ∧
    (∀ owners base size, p.kind = .rights owners base size → core < 5000 → coreStoresIn s core (base, size) = false →
      ∃ t, exec (.purgeArrival k core) s = .next t ∧ acked t ∧ ∀ e ∈ (t.core core).plb, e.purged owners (base, size) = false) ∧
    (∀ base size, p.kind = .page base size → coreStoresIn s core (base, size) = false →
      ∃ t, exec (.purgeArrival k core) s = .next t ∧ acked t ∧ ∀ e ∈ (t.core core).tlb, e.within base size = false) ∧
    (∀ c tag, p.kind = .handler c tag → ∃ t, exec (.purgeArrival k core) s = .next t ∧ acked t))

/-- R32, R33, R163, R164: transfers. A taken one sets the pc to its target, a displacement counted in words from the instruction's own
address or the bits 56:0 of a register, and the thread set issues again two cycles later, after a wrong return prediction four; a
register whose bits 1:0 are not zero traps `MISALIGN`. That the TVAL of that trap is the whole register, and that a displacement keeps
the 64 bits of its sum, are the model's choices (log 62). -/
def Obligations.Transfers : Prop :=
  ∀ (f : Form) (s : State),
    let a := s.me.value f.oa
    let b := s.me.value f.ob
    let rel := s.me.pc + b <<< 2
    let inReg := fun (x : Word) => (x.setWidth 57).setWidth 64
    let next := s.me.pc + 12
    let goes := fun (out : Outcome) (target : Word) (late : Nat) (upd : TSet → TSet) =>
      out = .next (after f.hints s (fun t => { upd t with pc := target, readyAt := max t.readyAt (s.cycle s.curCore + 2 + late) }))
    (formReady s f none .none = true →
      goes (exec (.br f) s) rel 0 id ∧
      (a.extractLsb' 0 2 = 0 → goes (exec (.bri f) s) (inReg a) 0 id ∧
        goes (exec (.ret f) s) (inReg a) (if s.me.retStack.head? = some (inReg a) then 0 else 2) (fun t => { t with retStack := t.retStack.tail })) ∧
      (a.extractLsb' 0 2 ≠ 0 → exec (.bri f) s = traps s 0x05 a ∧ exec (.ret f) s = traps s 0x05 a)) ∧
    (formReady s f none .write = true →
      let links := fun (t : TSet) => { t.writeG (regOf f.od) next with retStack := next :: t.retStack.take 7 }
      ((∀ i te, f.ob ≠ .g i te) → goes (exec (.call f) s) rel 0 links) ∧
      (∀ i te, f.ob = .g i te → (b.extractLsb' 0 2 = 0 → goes (exec (.call f) s) (inReg b) 0 links) ∧
        (b.extractLsb' 0 2 ≠ 0 → exec (.call f) s = traps s 0x05 b))) ∧
    (formReady s f none .both = true →
      let n := s.me.value f.od - 1
      (n = 0 → exec (.loop f) s = givesG f s 0) ∧
      (n ≠ 0 → goes (exec (.loop f) s) rel 0 (fun t => t.writeG (regOf f.od) n)))

/-- R343, R349, Table 20.1: taking an exception at an ordinary activation. Below level 2 with a handler: the pc is `TVEC`, the next level's
TCAUSE, TEPC and TVAL hold the cause with the level it came from, the instruction's address and the value, the new level's bank of g28
to g31 is zero and full, and every other register is as it was. With `TVEC` zero the activation is aborted; at level 2 its context is
killed; a speculative activation only waits for `RESOLVE` (R279). -/
def Obligations.TrapEntry : Prop :=
  ∀ (s : State) (cause : Nat) (tval epc : Word) (a : Act), s.me.act = some a →
    (a.spec = none → s.me.tvec ≠ 0 → s.me.tlvl < 2 →
      let t := (takeTrap cause tval epc s).me
      let l := s.me.tlvl
      t.pc = s.me.tvec.setWidth 64 ∧ t.tlvl = l + 1 ∧ t.act = some a ∧ t.wait = .none ∧
      (l = 0 → t.tcause1 = BitVec.ofNat 64 cause ∧ t.tepc1 = epc ∧ t.tval1 = tval ∧
        t.tcause2 = s.me.tcause2 ∧ t.tepc2 = s.me.tepc2 ∧ t.tval2 = s.me.tval2) ∧
      (l = 1 → t.tcause2 = BitVec.ofNat 64 (256 + cause) ∧ t.tepc2 = epc ∧ t.tval2 = tval ∧
        t.tcause1 = s.me.tcause1 ∧ t.tepc1 = s.me.tepc1 ∧ t.tval1 = s.me.tval1) ∧
      (∀ i, 28 ≤ i → i < 32 → t.readG i = 0 ∧ t.gEmpty.getLsbD (gIndex t.tlvl i) = false) ∧
      (∀ i < 28, t.readG i = s.me.readG i) ∧
      (∀ k < 32 + 4 * l, t.gRaw k = s.me.gRaw k) ∧
      t.v = s.me.v ∧ t.p = s.me.p ∧ t.c = s.me.c ∧ t.fpctl = s.me.fpctl ∧ t.storeq = s.me.storeq ∧ t.pend = s.me.pend) ∧
    (a.spec = none → s.me.tvec = 0 → takeTrap cause tval epc s = abortActivation s.curCore s.curTs cause tval s ∧
      (takeTrap cause tval epc s).me.act = none) ∧
    (a.spec = none → s.me.tvec ≠ 0 → 2 ≤ s.me.tlvl →
      takeTrap cause tval epc s = killContext (s.ctxOf s.curCore s.curTs) 1 s.curCore s.curTs s) ∧
    (∀ x, a.spec = some x → (takeTrap cause tval epc s).me.act = some { a with specTrap := some cause } ∧
      (takeTrap cause tval epc s).me.pc = s.me.pc)

/-- R186, R344: `NOP` does nothing; `TRAP` and `BRK` complete and take their exceptions with the address after them as the saved pc, `BRK`
stopping its thread set instead when a stop is armed; `TRET` returns to the level's TEPC and lowers the level, at level 0 it is
`ILLEGAL_OP`; `TABORT` ends the activation. That `BRK` stops while a `STOP` of its partition is armed (log 15), and that the TVAL of a
misaligned TEPC is the whole of it (log 62), are the model's choices. R145, R146, R152, R169, R170, R187: the ends. `END`, `ENDW` and `YIELD` end the activation; what its send buffer holds enters the
injection queue in order while there is room, and behind it the end is finished: its holds are given up, its lock bits are free but for
those that a queued `STU` or `ULK` frees (that these stay until their write is the model's choice, log 60), the watch of `ENDW` is armed,
and `YIELD` puts the message last in the inbox. -/
def Obligations.SystemAndEnds : Prop :=
  (∀ (f : Form) (s : State), formReady s f none .none = true →
     let a := s.me.value f.oa
     let u := begin s
     let epc := if s.me.tlvl = 1 then s.me.tepc1 else s.me.tepc2
     exec (.nop f) s = .next (finished f.hints u) ∧
     exec (.trap f) s = .next (takeTrap 0x30 a (s.me.pc + 12) u) ∧
     (stopArmed s s.myPartition = false → exec (.brk f) s = .next (takeTrap 0x31 a (s.me.pc + 12) u)) ∧
     (stopArmed s s.myPartition = true → ∃ t, exec (.brk f) s = .next t ∧ t.me.act = none ∧ t.myCore.stopped = true) ∧
     (s.me.tlvl = 0 → exec (.tret f) s = traps s 0x01 (highWord (.tret f))) ∧
     (s.me.tlvl ≠ 0 → epc.extractLsb' 0 2 ≠ 0 → exec (.tret f) s = traps s 0x05 epc) ∧
     (s.me.tlvl ≠ 0 → epc.extractLsb' 0 2 = 0 → exec (.tret f) s = .next (after f.hints s (fun t => { t with
       pc := (epc.setWidth 57).setWidth 64, tlvl := t.tlvl - 1, readyAt := max t.readyAt (s.cycle s.curCore + 2) }))) ∧
     (∃ t, exec (.tabort f) s = .next t ∧ t.me.act = none ∧ (s.me.act.isSome = true → t.me.tlvl = 0 ∧ t.me.sendBuf = []))) ∧
  (∀ (f : Form) (s : State) (a : Act), s.me.act = some a → a.spec = none →
     let u := begin s
     let ended := fun (t : State) => t.me.act = none ∧ t.me.tlvl = 0 ∧ t.me.sendBuf = [] ∧ t.me.storeq = s.me.storeq
     let done := fun (t : State) => ended t ∧ t.me.releasing = [] ∧ t.me.ending = none ∧ t.me.holds = [] ∧
       ∀ l ∈ t.locks, l.core = s.curCore → l.ts = s.curTs → s.me.unlocks l.at_ = true
     let route := s.me.value f.ob
     let ea := s.me.value f.od
     (formReady s f none .none = true →
       (∃ t, exec (.endAct f) s = .next t ∧ ended t) ∧
       (∀ l : List (Dest × Msg), s.me.sendBuf = l.map (fun m => .send m.1 m.2) → s.myCore.inject.length + l.length ≤ 32 →
         ∃ t, exec (.endAct f) s = .next t ∧ done t ∧ t.myCore.inject = s.myCore.inject ++
           l.map (fun m => { dest := m.1, msg := { m.2 with stamp := BitVec.ofNat 64 s.now } })) ∧
       (∃ t, exec (.yieldAct f) s = .next t ∧ ended t) ∧
       (s.me.sendBuf = [] → ∃ t, exec (.yieldAct f) s = .next t ∧ done t ∧ ∀ k x, runningSlot s s.curCore s.curTs = some k → s.myCore.inbox[k]? = some x →
         t.myCore.inbox = s.myCore.inbox.eraseIdx k ++ [{ x with
           state := .eligible, age := 0, since := s.cycle s.curCore, aborts := 0, arrival := s.now }])) ∧
     (formReady s f none .read = true → s.me.sendBuf = [] → route &&& ~~~(0x80000 ||| 0x3FFF) = 0 →
       (∀ x, route.getLsbD 19 = false → accessOk u ea 8 rightR x → x.wb = false →
         ∃ t w v, exec (.endw f) s = .next t ∧ done t ∧ w ∈ t.watches ∧ w.pa = x.pa ∧ w.tier = x.tier ∧ w.va = ea ∧
           w.comparand = s.me.value f.oa ∧ w.who = .endw v ∧ v.tag = routeTag route ∧ v.prio = routePrio route ∧ v.core = s.curCore) ∧
       (∀ p : SAddr, route.getLsbD 19 = true → checkScratch u ea 8 = .ok p → bankCount s p.core (p.addr / 65536) < 16 →
         ∃ t b w, exec (.endw f) s = .next t ∧ done t ∧ b ∈ t.bankWatches ∧ b.core = p.core ∧ b.bank = p.addr / 65536 ∧
           b.watch = some w ∧ w.at_ = p.core * 2 ^ 18 + p.addr ∧ w.comparand = s.me.value f.oa ∧ w.tag = routeTag route)))

/-- R165 to R168, R211, Table 5.8: `SEND` holds a message in the send buffer and `SENDNOW` puts it into the injection queue: destination
and context of the descriptor, tag and priority of the route word, kind 0, the words of consecutive registers, and on a compute core its
core and next sequence number. A ninth held entry traps `SEND_OVF`; a descriptor of another context without system privilege traps
`PRIVILEGE`. That the counter of sequence numbers advances at issue is the model's choice (log 13). R171 to R173, R215, R239: `RREAD` reserves a reply slot and enters the stream queue; `HTSET` writes the handler entry, and no handler
cache keeps the old one (that all drop it in the same step is the model's choice, log 46); `TAGEN` sets the enable bit of one tag; `TAGPND` reads its pending bit. -/
def Obligations.MessageWords : Prop :=
  (∀ (f : Form) (s : State),
     let u := begin s
     let d := s.me.value f.od
     let route := s.me.value f.oa
     let n := f.md.toNat
     let ready := s.powered && predsReady s f && guardHolds s.me f.guard none && regsClear s (formSrcs s.me .read f ++ payloadSrcs s.me f) []
     let isMsg := fun (m : Msg) => m.tag = routeTag route ∧ m.prio = routePrio route ∧ m.len = n ∧ m.kind = 0 ∧ m.ctx = d.extractLsb' 48 12 ∧
       m.score = BitVec.ofNat 11 s.curCore ∧ m.words = (List.range n).map (fun k => s.me.readG (regOf f.ob + k)) ∧
       (isCompute s.curCore = true → m.seq = s.myCore.seq)
     ready = true →
     (checkSend u f = .ok () → s.mySpec = none →
       (s.me.sendBuf.length < 8 → ∃ t m, exec (.send f) s = .next t ∧ isMsg m ∧ t.me.sendBuf = s.me.sendBuf ++ [.send (destOf s d) m] ∧
         (isCompute s.curCore = true → t.myCore.seq = s.myCore.seq + 1)) ∧
       (8 ≤ s.me.sendBuf.length → exec (.send f) s = traps s 0x23 0) ∧
       (s.myCore.inject.length < 32 → ∃ t m, exec (.sendnow f) s = .next t ∧ isMsg m ∧ m.stamp = BitVec.ofNat 64 s.now ∧
         t.myCore.inject = s.myCore.inject ++ [{ dest := destOf s d, msg := m }] ∧ t.me.sendBuf = s.me.sendBuf)) ∧
     ([0, 1, 4].contains (descKind d) = true → descFits d = true → descAllowed s s.myCtx d = true → (descCtx d).toNat ≠ s.myCtx →
       s.isSystem s.myCtx = false → exec (.send f) s = traps s 0x03 d ∧ exec (.sendnow f) s = traps s 0x03 d) ∧
     ([0, 1, 4].contains (descKind d) = false ∨ descFits d = false →
       exec (.send f) s = traps s 0x02 (posTval 1 (encodeField f.od)) ∧ exec (.sendnow f) s = traps s 0x02 (posTval 1 (encodeField f.od)))) ∧
  (∀ (f : Form) (s : State),
     let u := begin s
     let a := s.me.value f.oa
     let b := s.me.value f.ob
     let c := cacheOf s.curCore
     (formReady s f none .none = true → s.mySpec = none →
       (∀ x, let nw := fieldN b 16 3
         b &&& ~~~(0x70000 ||| 0x3FFF) = 0 → nw ≠ 0 → nw ≠ 7 → checkWide u a (8 * nw) 8 rightR = .ok x → replyFree s s.curCore = true →
         streamRoom s c = true →
         ∃ t k, exec (.rread f) s = .next t ∧ (t.cluster c).stream = (s.cluster c).stream ++ [k] ∧ k.op = .rread nw ∧ k.gptr = a ∧ k.x = x.1 ∧ k.x2 = x.2 ∧
           k.route = b ∧ k.core = s.curCore ∧ k.owner = s.me.owner ∧ k.engine = none ∧ t.myCore.replyReserved = s.myCore.replyReserved + 1) ∧
       (let at_ := ptrAddr (regionAt s s.myCtx ((s.me.act.map (·.rcb)).getD 0) (s.me.act.bind (·.launch))).htab + 16 * a.toNat
         let holders := (s.cores.filter (fun c => c.2.handlers.any (fun h => h.1 == at_))).map (·.1)
         a.toNat ≤ 4095 → fieldN b 0 2 = 0 → fieldN b 61 3 = 0 →
         (s.me.wait = .none → ∃ t, exec (.htset f) s = .next t ∧ (∀ k, ∀ h ∈ (t.core k).handlers, h.1 ≠ at_) ∧
           (holders = [] → t.me.pc = s.me.pc + 12) ∧
           (holders ≠ [] → t.me.pc = s.me.pc ∧ ∃ id, t.me.wait = .purge id ∧ ∃ p ∈ t.purges, p.id = id ∧ p.pending = holders) ∧
           (2 ^ 56 ≤ at_ → at_ + 16 ≤ 2 ^ 57 → (∀ k, ∀ x ∈ (s.core k).inbox, x.msg.tag.toNat ≠ a.toNat) →
             t.homeRead (at_ - 2 ^ 56) 8 = b.toNat ∧ t.homeRead (at_ - 2 ^ 56 + 8) 8 = 0)) ∧
         (∀ id, s.me.wait = .purge id → purgeDone s id = true → exec (.htset f) s = .next (finished f.hints u))) ∧
       (a.toNat ≤ 4095 → ∃ t, exec (.tagen f) s = .next t ∧ tagEnabled t s.curCore (a.setWidth 12) = !f.md.getLsbD 0 ∧
         ∀ tag : BitVec 12, tag ≠ a.setWidth 12 → tagEnabled t s.curCore tag = tagEnabled s s.curCore tag)) ∧
     (formReady s f none .write = true →
       (a.toNat ≤ 4095 → exec (.tagpnd f) s = givesG f s (if tagPending s s.curCore (a.setWidth 12) then 1 else 0)) ∧
       (4095 < a.toNat → exec (.tagpnd f) s = traps s 0x02 (posTval 2 (encodeField f.oa)))))

/-- R168, R212 to R215: the arrival of a message at an accepting core that has its handler entry: a request takes a slot, last in order,
when one is free, and waits where it is when none is; a reply fills a reserved slot; the slot is ELIGIBLE when its tag is enabled and its
entry valid, else PARKED. An entry at the head of an injection queue leaves it. The entry of a waiting message is read into the cache. R170, R171, R175, R176, R229: what sends a message later. A fired watch sends kind 4 with the value seen and the address, and is gone; a
completed read sends kind 3 with its words; a `JOIN` lowers its record's COUNT and at 0 sends kind 5 to the issuing core with ARG and the
record's address; a queue with space sends kind 4 to the first armed core with a reply slot, and the arm is gone. -/
def Obligations.MessageSteps : Prop :=
  ((∀ (s : State) (k c core : Nat) (m : Msg) (e : Word), s.mail[k]? = some (.core c, m) → core = routedCore s m.ctx c →
     (s.context m.ctx.toNat).isSome = true → accepting s core m.ctx = true → cachedEntry s core (entryAddr s core m) = some e →
     let taken := fun (t : State) => ∃ x, (t.core core).inbox = (s.core core).inbox ++ [x] ∧ x.msg = m ∧ x.arrival = s.now ∧
       x.state = (if msgPasses s core m e then .eligible else .parked)
     (isReply m.kind = false → requestFree s core = true → ∃ t, exec (.messageArrival (.unit k)) s = .next t ∧ taken t ∧
       (msgPasses s core m e = true → t.mail = s.mail.eraseIdx k)) ∧
     (isReply m.kind = true → ∃ t, exec (.messageArrival (.unit k)) s = .next t ∧ taken t ∧
       (t.core core).replyReserved = (s.core core).replyReserved - 1) ∧
     (isReply m.kind = false → requestFree s core = false → exec (.messageArrival (.unit k)) s = .next s)) ∧
   (∀ (s : State) (n c core : Nat) (e : Inject) (rest : List Inject) (w : Word), (s.core n).inject = e :: rest → e.dest = .core c →
     core = routedCore s e.msg.ctx c → isCompute n = true → (∀ ts < 4, (s.tset n ts).releasing = []) →
     (s.context e.msg.ctx.toNat).isSome = true → accepting s core e.msg.ctx = true → isReply e.msg.kind = false →
     cachedEntry s core (entryAddr s core e.msg) = some w → requestFree s core = true →
     ∃ t x, exec (.messageArrival (.core n 0)) s = .next t ∧ (t.core n).inject = rest ∧
       (t.core core).inbox = (s.core core).inbox ++ [x] ∧ x.msg = e.msg) ∧
   (∀ (s : State) (core : Nat) (tag : BitVec 12) (m : Msg),
     (comingTo s core).find? (fun m => m.tag == tag && (cachedEntry s core (entryAddr s core m)).isNone) = some m →
     ∃ t, exec (.handlerCacheFill core tag) s = .next t ∧
       cachedEntry t core (entryAddr s core m) = some (unitWord s (entryAddr s core m)))) ∧
  ((∀ (s : State) (k : Nat) (w : Watch) (v : Word), replyRoom s (routedCore s w.ctx w.core) w.ctx = true →
     let sent := fun (t : State) => ∃ m, t.mail = s.mail ++ [(.core (routedCore s w.ctx w.core), m)] ∧ m.kind = 4 ∧ m.tag = w.tag ∧
       m.prio = w.prio ∧ m.ctx = w.ctx ∧ m.words = [v, w.va]
     (∀ b : BankWatch, s.bankWatches[k]? = some b → b.watch = some w → w.fired = some v →
       ∃ t, exec (.endwWatchFire true k) s = .next t ∧ sent t ∧ t.bankWatches = s.bankWatches.eraseIdx k) ∧
     (∀ h : HomeWatch, s.watches[k]? = some h → h.who = .endw w → h.fired = some v →
       ∃ t, exec (.endwWatchFire false k) s = .next t ∧ sent t ∧ t.watches = s.watches.eraseIdx k)) ∧
   (∀ (s : State) (cl e nw : Nat) (c : StreamCmd), (s.cluster cl).stream.find? (fun c => c.engine == some e) = some c → c.op = .rread nw →
     readBehind (s.tset c.core c.ts) c nw = false → c.x.tier ≠ 3 → c.x2.tier ≠ 3 →
     ∃ t m, exec (.readCompletion cl e) s = .next t ∧ t.mail = s.mail ++ [(.core c.core, m)] ∧ m.kind = 3 ∧
       m.tag = routeTag c.route ∧ m.prio = routePrio c.route ∧ m.ctx = c.ctx ∧
       m.words = (if (rreadWords s c nw).2.1 then [] else (rreadWords s c nw).1) ∧ ∀ d ∈ (t.cluster cl).stream, d.id ≠ c.id) ∧
   (∀ (s : State) (core ts : Nat) (va : Word) (x : Xlat), (s.tset core ts).releasing = [.join va x] → xlatOf s (ptrAddr va) = some x →
     x.wb = false → x.dirty = true → x.pa % 16 = 0 → keyStands s x = true → (s.tset core ts).holds = [] → rreadPending s core ts s.uid = false →
     (s.tset core ts).storeq = [] → (s.tset core ts).pend = [] → (s.tset core ts).unacked = [] →
     (s.cluster (cacheOf core)).hold = [] → (s.cluster (cacheOf core)).lines = [] →
     let n := s.homeRead x.pa 4
     ∃ t, exec (.joinStep core ts) s = .next t ∧ (t.tset core ts).releasing = [] ∧ t.homeRead x.pa 4 = n - 1 ∧ (n ≠ 1 → t.mail = s.mail) ∧
       (n = 1 → ∃ m, t.mail = s.mail ++ [(.core core, m)] ∧ m.kind = 5 ∧ m.words = [BitVec.ofNat 64 (s.homeRead (x.pa + 8) 8), va] ∧
         m.tag = BitVec.ofNat 12 (s.homeRead (x.pa + 4) 2) ∧ m.ctx = (s.tset core ts).relCtx)) ∧
   (∀ (s : State) (q core : Nat) (a : Nat × BitVec 12 × BitVec 12 × BitVec 2), queueValid s q = true → queueFull s q = false →
     (s.queue q).arms.find? (fun a => replyRoom s (routedCore s a.2.1 a.1) a.2.1) = some a → core = routedCore s a.2.1 a.1 →
     ∃ t m, exec (.queueSpaceTrigger q) s = .next t ∧ t.mail = s.mail ++ [(.core core, m)] ∧ m.kind = 4 ∧ m.tag = a.2.2.1 ∧
       m.prio = a.2.2.2 ∧ m.words = [BitVec.ofNat 64 q] ∧ ∀ b ∈ (t.queue q).arms, b.1 ≠ a.1))

/-- R174 to R177, R226, R295, Tables 9.4 and 9.6: `FORK` pushes a held record at the bottom of the deque; `JOIN` holds an entry of the send
buffer; `QPOST` answers a status and, when it is 0, advances the queue's TAIL; `EVSET` and `EVCLR` set and clear bits of one word of the
context's event vector. R226 to R228: the stealing of deque records. An idle core advances lf and lists its victims; a victim that is asked and has an unheld
record on top gives that record and its deque is one shorter; one that has none is passed over; a record that has nowhere to arrive
returns to the top of its victim's deque. -/
def Obligations.TasksAndStealing : Prop :=
  (∀ (f : Form) (s : State),
     let u := begin s
     let a := s.me.value f.oa
     let b := s.me.value f.ob
     (s.powered = true → predsReady s f = true → guardHolds s.me f.guard none = true →
       regsClear s (formSrcs s.me .none f ++ srcRange s.me 3 f.ob (min 6 (32 - regOf f.ob))) [] = true →
       a &&& ~~~(0 ||| 0x3FFF) = 0 → regOf f.ob ≤ 26 →
       (s.myCore.dqLen < 64 → ∃ t, exec (.fork f) s = .next t ∧ t.myCore.dqLen = s.myCore.dqLen + 1 ∧ t.myCore.dqTop = s.myCore.dqTop ∧
         let r := dequeRec t s.curCore s.myCore.dqLen
         recHeld r = true ∧ r.extractLsb' 0 12 = routeTag a ∧ r.extractLsb' 12 2 = routePrio a ∧ r.extractLsb' 20 12 = BitVec.ofNat 12 s.myCtx ∧
         (∀ k < 6, lineWord r (k + 1) = s.me.readG (regOf f.ob + k)) ∧
         lineWord r 7 = BitVec.ofNat 64 (s.curCore % 1024 + s.curTs * 1024)) ∧
       (64 ≤ s.myCore.dqLen → exec (.fork f) s = traps s 0x22 0)) ∧
     (∀ x, formReady s f none .none = true → accessOk u a 16 rightA x → x.wb = false → s.mySpec = none → s.me.sendBuf.length < 8 →
       exec (.join f) s = .next (finished f.hints ((u.used a 16 rightA false).modMe (fun t => { t with sendBuf := t.sendBuf ++ [.join a x] })))) ∧
     (∀ x : Xlat × Xlat, formReady s f none .write = true → fieldN a 14 2 = 0 → fieldN a 30 34 = 0 → checkWide u b 128 64 rightR = .ok x → s.mySpec = none → s.me.wait = .none →
       needCredit u = .ok () → storesIn s.me (ptrAddr b, 128) = false → x.1.tier ≠ 3 → x.2.tier ≠ 3 →
       let r := loadTwo (u.used b 128 rightR false) s.curCore s.asker (ptrAddr b) (wideXlat x.1 x.2 (ptrAddr b) 128)
       let q := fieldN a 0 14
       let st := postStatus r.2.2 s.myPartition s.myCtx q (s.isSystem s.myCtx) r.1
       let block := (s.queue q).block
       r.2.1 = false → ∃ t, answers (.qpost f) f s t (BitVec.ofNat 64 st) ∧
         (st = 0 → t.homeRead (block + 16) 4 = (r.2.2.homeRead (block + 16) 4 + 1) % 2 ^ 32) ∧
         (st = 1 → f.md.getLsbD 0 = true →
           (s.curCore, BitVec.ofNat 12 s.myCtx, a.extractLsb' 16 12, a.extractLsb' 28 2) ∈ (t.queue q).arms) ∧
         (st ≠ 0 → t.home = r.2.2.home)) ∧
     (∀ c, formReady s f none .none = true → a.toNat ≤ 3 → s.mySpec = none → quiet s → (s.cluster (cacheOf s.curCore)).hold = [] →
       s.context s.myCtx = some c →
       let sets := fun (i : Instr) (w : Word) => ∃ t c', exec i s = .next t ∧ t.context s.myCtx = some c' ∧ mget 0 c'.events a.toNat = w ∧
         ∀ k, k ≠ a.toNat → mget 0 c'.events k = mget 0 c.events k
       sets (.evset f) (mget 0 c.events a.toNat ||| b) ∧ sets (.evclr f) (mget 0 c.events a.toNat &&& ~~~b))) ∧
  ((∀ (s : State) (core : Nat), isCompute core = true → coreSelects s core = true → coreIdle s core = true → (s.core core).round = [] →
     (s.core core).asking = [] → (s.core core).nextSteal ≤ s.cycle core → s.cycle core < (s.core core).nextTheft →
     ∃ t, exec (.stealRound core) s = .next t ∧ (t.core core).lf = lfNext (s.core core).lf ∧
       (t.core core).round = stealVictims s core ((lfNext (s.core core).lf).toNat % 16)) ∧
   (∀ (s : State) (thief victim : Nat) (rest : List Nat), (s.core thief).round = victim :: rest →
     let l := dequeRec s victim 0
     ((s.core victim).dqLen ≠ 0 → recHeld l = false → (s.core victim).ctx = (s.core thief).ctx →
       ∃ t x, exec (.stealGrant thief victim) s = .next t ∧ t.stolen = s.stolen ++ [x] ∧ x.victim = victim ∧ x.thief = thief ∧ x.record = l ∧
         x.msg.kind = 5 ∧ x.msg.tag = l.extractLsb' 0 12 ∧ x.msg.words = (List.range 6).map (fun k => lineWord l (k + 1)) ∧
         (t.core thief).round = [] ∧ (t.core victim).dqLen = (s.core victim).dqLen - 1 ∧ (t.core victim).dqTop = (s.core victim).dqTop + 1) ∧
     ((s.core victim).dqLen = 0 ∨ recHeld l = true → ∃ t, exec (.stealGrant thief victim) s = .next t ∧ (t.core thief).round = rest ∧
       t.stolen = s.stolen)) ∧
   (∀ (s : State) (k : Nat) (x : Stolen), s.stolen[k]? = some x → stolenTo s x = none → contextMayRun s x.msg.ctx.toNat x.victim = true →
     s.isReady (readyOffset x.victim) = true → (s.core x.victim).ctx = some x.msg.ctx → (s.core x.victim).dqLen < 64 →
     ∃ t, exec (.taskRecordBounce k) s = .next t ∧ t.stolen = s.stolen.eraseIdx k ∧ (t.core x.victim).dqLen = (s.core x.victim).dqLen + 1 ∧
       dequeRec t x.victim 0 = x.record))

/-- R60, R178, R180, R183, R271, Tables 9.6 and 9.7: `TRYE` pushes a choice point of 384 bytes at `CSTOP`, a write of its store queue, and
reads entry 0 of its table; `CUT` keeps the oldest choice points; `TRAIL` pushes the address and the old value of a global word as two entries, writes of its store queue. R60, R181, R182: `FAIL` with an alternative left in the newest choice point restores its snapshot, resumes behind its `TRYE` with the next
entry on its way, and counts NEXT up; a local write made since the push gets its old value back; both are writes of its store queue; with
no choice point left the activation ends. -/
def Obligations.SearchWords : Prop :=
  (∀ (f : Form) (s : State) (x : Xlat) (a : Act),
     let u := begin s
     let ea := s.me.value f.oa
     let at_ := s.me.cstop.toNat
     let count := (s.me.value f.ob).toNat
     let c := s.curCore
     let ts := s.curTs
     s.me.act = some a →
     (s.powered = true → predsReady s f = true → guardHolds s.me f.guard none = true →
       regsClear s (formSrcs s.me .write f ++ snapshotSrcs) (formDsts s.me .write f) = true →
       s.me.tlvl = 0 → 0 < count → count ≤ 65535 → accessOk u ea 8 rightR x →
       (at_ + 384 ≤ a.choiceEnd → needCredit u = .ok () → s.mySpec = none → s.me.storeq.length < 16 →
         ∃ t p, exec (.trye f) s = .next t ∧ t.me.cstop = BitVec.ofNat 18 (at_ + 384) ∧ t.me.pushCount = s.me.pushCount + 1 ∧
           t.scratch = s.scratch ∧ t.me.storeq.length = s.me.storeq.length + 1 ∧
           (∀ k < 31, cpWord t c ts at_ (8 * k) = (s.me.gRaw (k + 1)).toNat) ∧
           (∀ k < 7, cpWord t c ts at_ (0xF8 + 8 * k) = (s.me.readP (k + 1)).toNat) ∧
           cpWord t c ts at_ 0x150 = ea.toNat ∧ cpNext t c ts at_ = 1 ∧ cpCount t c ts at_ = count ∧ cpTrail t c ts at_ = s.me.trtop.toNat ∧
           cpOd t c ts at_ = regOf f.od % 32 ∧ cpWord t c ts at_ 0x168 = (s.me.pc + 12).toNat ∧
           p ∈ t.me.pend ∧ s.uid ≤ p.seq ∧ p.reg = regOf f.od ∧ p.addr = ea) ∧
       (a.choiceEnd < at_ + 384 → exec (.trye f) s = traps s 0x21 (s.me.cstop.setWidth 64))) ∧
     (formReady s f none .none = true → s.me.tlvl = 0 → s.thefts = [] →
       ∃ t, exec (.cut f) s = .next t ∧ t.me.cstop = BitVec.ofNat 18 (min at_ (a.choiceBase + 384 * ea.toNat)) ∧ t.me.g = s.me.g ∧
         t.scratch = s.scratch) ∧
     (formReady s f none .none = true → s.me.tlvl = 0 → accessOk u ea 8 (rightR ||| rightW) x → s.mySpec = none → s.me.wait = .none →
       needCredit u = .ok () →
       let top := s.me.trtop.toNat
       (s.me.choiceOpen = false → exec (.trail f) s = .next (finished f.hints u)) ∧
       (s.me.choiceOpen = true → a.trailEnd < top + 32 → exec (.trail f) s = traps s 0x20 (s.me.trtop.setWidth 64)) ∧
       (∀ l, s.me.choiceOpen = true → top + 32 ≤ a.trailEnd → top + 32 < 2 ^ 18 → s.thefts = [] → s.me.storeq = [] → s.me.pend = [] →
         x.tier < 2 → askedLine s (cacheOf c) s.asker (ptrAddr ea) = none → (s.cluster (cacheOf c)).find (ptrAddr ea) = some l → l.bad = 0 → l.hole = 0 → (s.cluster (cacheOf c)).hold = [] →
         ∃ t, exec (.trail f) s = .next t ∧ t.me.trtop = BitVec.ofNat 18 (top + 32) ∧
           t.queuedRead t.me.storeq c top 16 = ea.toNat * 2 ^ 64 + 6 * 2 ^ 24 ∧
           t.queuedRead t.me.storeq c (top + 16) 16 =
             natOfBytes ((List.range 8).map (fun k => lineByte l.data (ptrAddr ea % 64 + k))) * 2 ^ 64 + 7 * 2 ^ 24))) ∧
  (∀ (f : Form) (s : State) (a : Act),
     let u := begin s
     let c := s.curCore
     let n := (s.me.cstop.toNat - a.choiceBase) / 384
     let ts := s.curTs
     let cp := s.me.cstop.toNat - 384
     let ea : Word := BitVec.ofNat 64 (cpWord s c ts cp 0x150) + BitVec.ofNat 64 (8 * cpNext s c ts cp)
     formReady s f none .none = true → s.me.act = some a → a.spec = none → s.me.tlvl = 0 → snapshotBusy s.me = false →
     queuedIn s.me c a.choiceBase s.me.cstop.toNat = false →
     (∀ x, n ≠ 0 → cpNext s c ts cp < cpCount s c ts cp → accessOk u ea 8 rightR x → needCredit u = .ok () → s.me.storeq.length < 16 →
       (s.me.trtop.toNat ≤ cpTrail s c ts cp → ∃ t, exec (.fail f) s = .next t ∧ t.me.pc = resumeAt s c ts cp ∧
         t.me.cstop = s.me.cstop ∧ t.me.trtop = s.me.trtop ∧ t.scratch = s.scratch ∧ cpNext t c ts cp = cpNext s c ts cp + 1 ∧
         (∀ k < 31, t.me.gRaw (k + 1) = BitVec.ofNat 64 (cpWord s c ts cp (8 * k))) ∧
         (∀ k < 7, t.me.readP (k + 1) = BitVec.ofNat 64 (cpWord s c ts cp (0xF8 + 8 * k))) ∧
         ∃ p ∈ t.me.pend, s.uid ≤ p.seq ∧ p.reg = cpOd s c ts cp ∧ p.addr = ea) ∧
       (let e := s.scratchRead c (cpTrail s c ts cp) 16
         let sz := e / 2 ^ 24 % 8
         let b := e % 2 ^ 18
         s.me.trtop.toNat = cpTrail s c ts cp + 16 → sz ≤ 3 → s.me.storeq = [] → s.me.pend = [] → s.thefts = [] →
         b + 2 ^ sz ≤ cp + 0x158 ∨ cp + 0x15C ≤ b →
         ∃ t, exec (.fail f) s = .next t ∧ ownRead t c ts b (2 ^ sz) = e / 2 ^ 64 % 2 ^ (8 * 2 ^ sz) ∧
           t.me.trtop = BitVec.ofNat 18 (cpTrail s c ts cp))) ∧
     (n = 0 → s.me.holds = [] → ∃ t, exec (.fail f) s = .next t ∧ t.me.act = none))

/-- R239, R271 to R274, R276, R287: search theft. A core with a free thread set lists the cores it will ask; a grant takes the next
alternative of the oldest open choice point of the victim and keeps the thief's thread set for it; the copy takes a free stream engine of the
victim's cluster, and when it has landed the thief holds the root record, and its message stands in the inbox; the thief starts from the
root record, its writes trailed from its first instruction; a prune notice ends the thieves of its choice point. R184, R185, R280: `SPEC` makes the two speculative messages of a decision and answers its ID, or 64 or 65 and makes none; `RESOLVE` of an
open decision ends the loser, leaves no message of it, and names the winner; its result is on its way until the winner is committed: of
a winner that has not started, the message becomes ordinary and the decision closes. Of no open decision `RESOLVE` answers 1. -/
def Obligations.TheftsAndSpeculation : Prop :=
  ((∀ (s : State) (core ts : Nat), freeTset s core = some ts → isCompute core = true → coreSelects s core = true →
     (∀ x ∈ (s.core core).inbox, x.state ≠ .eligible) → bottomUnheld s core = none → (s.core core).asking = [] →
     (s.core core).nextTheft ≤ s.cycle core →
     ∃ t, exec (.searchTheftRequest core) s = .next t ∧ (t.core core).lf = (s.core core).lf ∧ (t.core core).askFor = ts ∧
       (t.core core).asking = askOrder core (clusterOf core) ((s.core core).lf.toNat % 16)) ∧
   (∀ (s : State) (thief victim : Nat) (rest : List Nat), (s.core thief).asking = victim :: rest →
     freeTset s thief = some (s.core thief).askFor → failedNow s victim = false →
     (∀ ts cp, grantable s thief victim = some (ts, cp) → queuedIn (s.tset victim ts) victim cp (cp + 384) = false →
       (∀ a, (s.tset victim ts).act = some a → a.spec = none) →
       ∃ t x, exec (.theftGrant thief victim) s = .next t ∧ t.thefts = s.thefts ++ [x] ∧ x.victim = victim ∧ x.victimTs = ts ∧ x.cp = cp ∧
         x.thief = thief ∧ x.index = cpNext s victim ts cp ∧ cpNext t victim ts cp = (cpNext s victim ts cp + 1) % 2 ^ 32 ∧
         (t.tset thief (s.core thief).askFor).theftGrant = some x.id ∧ (t.core thief).asking = []) ∧
     (grantable s thief victim = none → ∃ t, exec (.theftGrant thief victim) s = .next t ∧ (t.core thief).asking = rest ∧
       t.thefts = s.thefts)) ∧
   (∀ (s : State) (k : Nat) (x : Theft), s.thefts[k]? = some x → x.copying = false →
     (enginesTaken s (clusterOf x.victim) < 2 → ∃ t, exec (.theftCopyComplete k) s = .next t ∧ t.scratch = s.scratch ∧
       { x with copying := true } ∈ t.thefts) ∧
     (2 ≤ enginesTaken s (clusterOf x.victim) → exec (.theftCopyComplete k) s = .next s)) ∧
   (∀ (s : State) (k : Nat) (x : Theft), s.thefts[k]? = some x → (∀ y ∈ s.thefts, y.id = x.id → y = x) → x.copying = true → x.copied = false → x.sent = false →
     (s.core x.thief).ctx = some x.ctx → requestFree s x.thief = true → x.cpBytes.length = 384 → x.index + 1 < 2 ^ 32 →
     let b := thiefBase s x
     (b + 384 ≤ x.sfbase.toNat ∨ x.sfbase.toNat + x.frame.length ≤ b) →
     ∃ t y m, exec (.theftCopyComplete k) s = .next t ∧ (t.core x.thief).inbox = (s.core x.thief).inbox ++ [m] ∧ m.theft = some x.id ∧
       m.state = .eligible ∧ m.msg.words = [x.cpId, BitVec.ofNat 64 x.index] ∧ y ∈ t.thefts ∧ y = { x with copied := true, sent := true } ∧
       t.scratchRead x.thief (b + 0x158) 4 = x.index + 1 ∧ t.scratchRead x.thief (b + 0x15C) 4 = x.index + 1 ∧
       ∀ j < x.frame.length, t.scratchByte x.thief (x.sfbase.toNat + j) = (x.frame[j]?).getD 0) ∧
   (∀ (s : State) (core k ts n : Nat) (slot : Machine.Slot) (x : Theft), coreSelects s core = true → selected s core = some (.slot k ts) →
     (s.core core).inbox[k]? = some slot → slot.theft = some n → s.thefts.find? (fun x => x.id == n) = some x → slot.msg.launch = none →
     slot.msg.spec = none → (s.tset core ts).act = none →
     let b := thiefBase s x
     let ea : Word := BitVec.ofNat 64 (cpWord s core ts b 0x150) + BitVec.ofNat 64 (8 * x.index)
     ea.toNat % 8 = 0 → 2 ^ 56 ≤ ptrAddr ea → tableDecision s x.owner (ptrGen ea) (ptrAddr ea) 8 rightR false = none →
     ∃ t a, exec (.theftStart core) s = .next t ∧ (t.tset core ts).act = some a ∧ a.stolen = some (x.victim, x.victimTs, x.cpId) ∧
       a.choiceBase = b + 384 ∧ (t.tset core ts).choiceOpen = true ∧ (t.tset core ts).pc = resumeAt s core ts b ∧ (t.tset core ts).owner = x.owner ∧
       (∀ i < 31, (t.tset core ts).gRaw (i + 1) = BitVec.ofNat 64 (cpWord s core ts b (8 * i))) ∧ t.curCore = s.curCore ∧ t.curTs = s.curTs) ∧
   (∀ (s : State) (cl k core : Nat) (id : Word) (cores : List Nat), (s.cluster cl).prunes[k]? = some (id, cores) → cores.contains core = true →
     s.thefts = [] → (∀ ts < 4, ∀ a, (s.tset core ts).act = some a → a.rootId = some id →
       (s.tset core ts).tlvl = 0 ∧ (s.tset core ts).holds = [] ∧ a.spec = none) →
     ∃ t, exec (.pruneNotice cl k core) s = .next t ∧
       ∀ ts < 4, ∀ a, (s.tset core ts).act = some a → a.rootId = some id → (t.tset core ts).act = none)) ∧
  ((∀ (f : Form) (s : State), s.powered = true → predsReady s f = true → guardHolds s.me f.guard none = true →
     regsClear s (formSrcs s.me .write f ++ srcRange s.me 3 f.ob (min 4 (32 - regOf f.ob))) (formDsts s.me .write f) = true →
     regOf f.ob ≤ 28 → s.mySpec = none → needCredit (begin s) = .ok () →
     let st := specStatus s
     let cl := clusterOf s.curCore
     let a := s.me.value f.oa
     (64 ≤ st → ∃ t, answers (.spec f) f s t (BitVec.ofNat 64 st) ∧ t.mail = s.mail ∧ t.clusters = s.clusters) ∧
     (st < 64 → ∃ t d0 m0 d1 m1, answers (.spec f) f s t (BitVec.ofNat 64 st) ∧ t.mail = s.mail ++ [(d0, m0), (d1, m1)] ∧
       m0.spec = some (cl, st, 0) ∧ m1.spec = some (cl, st, 1) ∧ m0.tag = a.extractLsb' 0 12 ∧ m1.tag = a.extractLsb' 16 12 ∧
       m0.words = (List.range 4).map (fun k => s.me.readG (regOf f.ob + k)) ++ [BitVec.ofNat 64 st, 0] ∧
       m1.words = (List.range 4).map (fun k => s.me.readG (regOf f.ob + k)) ++ [BitVec.ofNat 64 st, 1] ∧
       (decisionOf t cl st).isSome = true)) ∧
   (∀ (f : Form) (s : State), formReady s f none .write = true → needCredit (begin s) = .ok () → isCompute s.curCore = true →
     let id := (s.me.value f.oa).toNat
     let w := (s.me.value f.ob).toNat
     let cl := clusterOf s.curCore
     let onWay := fun (t : State) => ∃ q ∈ t.me.pend, s.uid ≤ q.seq ∧ q.reg = gIndex s.me.tlvl (regOf f.od) ∧ q.kind = .resolve cl id
     let named := fun (t : State) => ∃ e, decisionOf t cl id = some e ∧ e.winner = some w
     w ≤ 1 →
     (decisionOf s cl id = none → ∃ t, answers (.resolve f) f s t 1 ∧ t.mail = s.mail) ∧
     (∀ d x, decisionOf s cl id = some d → d.ctx.toNat = s.myCtx → d.winner = none → d.sides[1 - w]? = some x → x.act = none →
       (∀ c, (s.core c).returned = []) →
       ∃ t, exec (.resolve f) s = .next t ∧ onWay t ∧ named t ∧ (∀ m ∈ t.mail, m.2.spec ≠ some (cl, id, 1 - w)) ∧
         (∀ c, ∀ y ∈ (t.core c).inbox, y.msg.spec ≠ some (cl, id, 1 - w))) ∧
     (∀ d x uid c k, decisionOf s cl id = some d → d.ctx.toNat = s.myCtx → d.winner = none → d.sides[1 - w]? = some x → x.act = some uid →
       findAct s uid = some (c, k) → s.curTs < 4 → (c, k) ≠ (s.curCore, s.curTs) →
       ∃ t, exec (.resolve f) s = .next t ∧ onWay t ∧ named t ∧ (t.tset c k).act = none)) ∧
   (∀ (s : State) (core ts k cl id w : Nat) (p : Pend) (d : Decision) (x : Side), (s.tset core ts).pend[k]? = some p →
     p.kind = .resolve cl id → p.isV = false → p.dropped = false → p.posted = false → decisionOf s cl id = some d → d.winner = some w →
     d.sides[w]? = some x → x.act = none →
     ∃ t, exec (.resultArrival core ts k) s = .next t ∧ decisionOf t cl id = none ∧ (∀ m ∈ t.mail, m.2.spec ≠ some (cl, id, w)) ∧
       (p.reg < 40 → (t.tset core ts).gEmpty.getLsbD p.reg = false)))

/-- R190, R191, R195, R196, Table 10.1: an Anvil word with operands in its buffers enters the core's Anvil queue with what it captures; a
format pair outside Table 4.8 traps `ENGINE` with code 1. R200 to R205, R239: `TLD`, `TST` and `TCVT` enter the cluster's stream queue with what they capture; `TWAIT` reads the command status
once the commands it names have completed, and clears it unless its mask is 0, dropping the clean lines older than their writes; `ESEND` puts the 64 bytes into the injection queue. -/
def Obligations.EngineWords : Prop :=
  (∀ (f : Form) (s : State) (dc xc yc : BitVec 4) (xr yr : Bool) (dt xo yo : BitVec 14),
     let u := begin s
     let k := s.myCore
     let entered := fun (i : Instr) (op : AnvilOp) => ∃ t c, exec i s = .next t ∧ t.myCore.anvil = k.anvil ++ [c] ∧ c.op = op ∧
       c.tile = dt.toNat % 16 ∧ c.phase = .queued ∧ c.owner = s.me.owner ∧ c.act = s.me.act.map (·.uid) ∧
       (op ≠ .cclr → c.x.base = xo.toNat ∧ c.y.base = yo.toNat ∧ c.afmt = k.afmt ∧ c.wfmt = k.wfmt ∧ c.cfmt = k.cfmt ∧
         c.mrland = k.mrland ∧ c.tmpol = s.me.tmpol ∧ c.temper = f.md.getLsbD 0 ∧ c.ow = f.md.getLsbD 1)
     let pair := pairOk k.afmt.toNat k.wfmt.toNat k.cfmt.toNat
     let q := if f.md.getLsbD 2 then 4 else 2
     let plain := f.md.getLsbD 0 = false ∨ s.me.tmpol.getLsbD 42 = false
     formReady s f none .read = true → f.od = .b 2 false dc dt → s.mySpec = none → needPath u 1 = .ok () → k.anvil.length < 4 →
     entered (.cclr f) .cclr ∧
     (f.oa = .b 1 xr xc xo → f.ob = .b 0 yr yc yo → xo.toNat % 64 = 0 → yo.toNat % 64 = 0 →
       (xo.toNat + 256 ≤ 2048 → yo.toNat + 256 ≤ 4096 →
         (pair = false → exec (.mma f) s = traps s 0x38 1) ∧
         (pair = true → plain → entered (.mma f) .mma ∧ (xr = false → yr = false → landBad k.mrland = false →
           entered (.mrot f) .mrot ∧ entered (.mrot2 f) .mrot2))) ∧
       (xo.toNat + 512 ≤ 2048 → yo.toNat + 256 * q ≤ 4096 → pair = true →
         (k.afmt = 6 → exec (.mmas f) s = traps s 0x38 2) ∧
         (k.afmt ≠ 6 → plain → entered (.mmas f) .mmas)))) ∧
  (∀ (f : Form) (s : State),
     let u := begin s
     let cl := cacheOf s.curCore
     let fm := fmtsOf s.myCore
     let a := s.me.value f.oa
     let b := s.me.value f.ob
     let d := s.me.value f.od
     let entered := fun (i : Instr) (p : Plan) (op : StreamOp) => writesStaging u p = false → readsPending u p = false →
       ∃ t c, exec i s = .next t ∧ (t.cluster cl).stream = (s.cluster cl).stream ++ [c] ∧ c.op = op ∧ c.gptr = p.ptr ∧ c.shape = b ∧
         c.core = s.curCore ∧ c.owner = s.me.owner ∧ c.act = s.me.act.map (·.uid) ∧ c.fmts = fm ∧ c.engine = none ∧ c.msg = none
     (formReady s f none .read = true → s.mySpec = none →
       (needPath u 2 = .ok () → streamRoom s cl = true →
         (∀ x p, fieldOf s 1 f.od [0, 1, 3] = .ok x → planMove (.tld (f.md.getLsbD 0)) s.curCore fm x a b 1 2 = .ok p →
           entered (.tld f) p (.tld (f.md.getLsbD 0))) ∧
         (∀ x p, fieldOf s 2 f.oa [1, 2, 3] = .ok x → planMove .tst s.curCore fm x d b 2 1 = .ok p → entered (.tst f) p .tst) ∧
         (∀ x y p, fieldOf s 1 f.od [0, 1, 3] = .ok x → fieldOf s 2 f.oa [1, 2, 3] = .ok y → planConvert s.curCore fm x y b = .ok p →
           entered (.tcvt f) p .tcvt)) ∧
       (checkDesc s d [2] 1 f.od = .ok () → needPath u (if fieldN d 44 4 = 0 then 2 else 3) = .ok () → s.myCore.inject.length < 32 →
         (lineWord (s.me.readV (regOf f.oa)) 0).getLsbD 15 = false →
         ∃ t e c, exec (.esend f) s = .next t ∧ t.myCore.inject = s.myCore.inject ++ [e] ∧ e.dest = destOf s d ∧ e.cmd = some c ∧
           c.words = (List.range 8).map (lineWord (s.me.readV (regOf f.oa))) ∧ c.core = s.curCore ∧ c.owner = s.me.owner)) ∧
     (formReady s f none .write = true →
       (awaits s s.curCore (s.me.act.map (·.uid)) a = false →
         (a = 0 → exec (.twait f) s = givesG f s (s.me.cmdStatus.setWidth 64)) ∧
         (a ≠ 0 → a.toNat ≤ 3 → exec (.twait f) s = .next (finished f.hints ((crossPaths u s.curCore).modMe (fun t =>
           { t.writeG (regOf f.od) (t.cmdStatus.setWidth 64) with cmdStatus := 0 }))))) ∧
       (3 < a.toNat → exec (.twait f) s = traps s 0x02 (posTval 2 (encodeField f.oa)))))

/-- R87, R88, R191 to R195, R265 to R268: the steps of the Anvil. The first instruction starts and reads its local operands; `CCLR` clears its
tile; an evaluation ends by writing its tile all at once, or, tempered, over budget and below its ceiling, by a replay one rung wider
with the tile as it was; a floating output adds its group sums to the accumulator with one rounding each, and an INT8 output is the clamped chain of its
row and column; a remote block is fetched for all that wait; a replay row that is read is widened and joins its operand, and one without a wide
home fails it. -/
def Obligations.AnvilSteps : Prop :=
  ∀ (s : State) (core : Nat) (c : AnvilCmd) (rest : List AnvilCmd), (s.core core).anvil = c :: rest → core < 1024 →
    let gone := fun (t : State) => ∀ a ∈ (t.core core).anvil, a.id ≠ c.id
    let head := fun (t : State) (p : AnvilCmd → Prop) => ∃ a, (t.core core).anvil = a :: rest ∧ a.id = c.id ∧ p a
    (c.phase = .queued → c.op = .cclr → ∃ t, exec (.anvilStart core) s = .next t ∧ gone t ∧ (∀ l < 64, t.cLine core c.tile l = 0) ∧
      ∀ j < 16, j ≠ c.tile → ∀ l < 64, t.cLine core j l = s.cLine core j l) ∧
    (c.phase = .queued → c.op ≠ .cclr → c.x.remote = false → c.y.remote = false → ∃ t, exec (.anvilStart core) s = .next t ∧
      head t (fun a => a.phase = .evaluating ∧ a.xGot = true ∧ a.yGot = true ∧ a.xLines = bufLines s true c.x.core c.x.base 256 ∧
        a.yLines = bufLines s false c.y.core c.y.base (256 * yBlocks (c.op == .mmas) c.n8) ∧
        a.xSide = sidecarOf s true c.x.core c.x.base)) ∧
    (c.phase = .evaluating → c.xGot = true → c.yGot = true → c.bad = false → c.nrep = 0 →
      (∀ l < 64, s.lineBad 2 core (c.tile * 64 + l) = false) →
      (c.tempered = false → c.rotates = false → ∃ t, exec (.anvilEvaluationEnd core) s = .next t ∧ gone t ∧
        ∀ l < 64, t.cLine core c.tile l = packLanes 32 (((evalNarrow s core c).1.drop (16 * l)).take 16)) ∧
      (c.tempered = true → c.tmpol.getLsbD 43 = false →
        let e := { c with can := (evalNarrow s core c).2, sat := sideCounts c (fun x => x.satc.toNat), unf := sideCounts c (fun x => x.unfc.toNat) }
        withinBudget e = false → c.rung < (rungOf (fieldN c.tmpol 4 4)).getD 0 →
        ∃ t, exec (.anvilEvaluationEnd core) s = .next t ∧ t.cbuf = s.cbuf ∧ head t (fun a => a.phase = .fetching ∧ a.rung = c.rung + 1 ∧
          a.nrep = 1 ∧ a.fetched = 0))) ∧
    (c.afmt = 6 → ∀ m < 32, ∀ n < 32, ((evalNarrow s core c).1)[32 * m + n]? = some (toBits 32 (outputInt
      (signedOf 32 (((startTile s core c)[32 * m + n]?).getD 0)) ((rowElems 8 c.xLines 0 m).map (signedOf 8))
      ((rowElems 8 c.yLines 0 n).map (signedOf 8))))) ∧
    (c.afmt ≠ 6 → ∀ m < 32, ∀ n < 32,
      let x := xRow c m
      let y := yRow c n
      let gs := outputProducts x y
      ((evalNarrow s core c).1)[32 * m + n]? = some (gs.foldl (fun a g => roundBits fp32 (fAdd (decodeF fp32 a)
        (decodeF fp32 (roundBits fp32 (exactSum g))))) (((startTile s core c)[32 * m + n]?).getD 0)) ∧
      ∀ g k sx sy u v, k < 32 → x.scales[g]? = some sx → y.scales[g]? = some sy → x.vals[32 * g + k]? = some u → y.vals[32 * g + k]? = some v →
        ((gs[g]?).getD [])[k]? = some (match sx, sy with | some a, some b => fScale (a + b) (fMul u v) | _, _ => .nan)) ∧
    (c.phase = .evaluating → c.yGot = false → c.op ≠ .cclr →
      (∀ k < 16, ∀ v ∈ waitsOf s (clusterOf core * 16 + k), v.isY = true → v.since + 32 ≤ s.periods ∧
        ∀ b ∈ v.bases, blockLanding (s.core v.owner) false b 256 = false) →
      ∃ t, exec (.remoteBlockFetch core true) s = .next t ∧ head t (fun a => a.yGot = true ∧
        a.yLines = bufLines s false c.y.core c.y.base (256 * yBlocks (c.op == .mmas) c.n8))) ∧
    (c.phase = .fetching → c.fetched ≠ 0 ∨ enginesTaken s (clusterOf core) < 2 →
      let q := replayRow c c.fetched
      let st := if c.rung = 1 then Storage.e4m3 else Storage.bf16
      (q.side.hv = false → c.rotates = false → ∃ t, exec (.replayFetch core) s = .next t ∧ gone t ∧ t.cbuf = s.cbuf) ∧
      (∀ bytes ls s1, q.side.hv = true → homeBytes q.side.hfmt.toNat = some bytes →
        let at_ := q.side.home + BitVec.ofNat 64 (q.row * q.side.hpitch.toNat + q.first * bytes)
        let ptr := (at_ &&& 0x1FFFFFFFFFFFFFF#64) ||| (q.side.home &&& ~~~0x1FFFFFFFFFFFFFF#64)
        let src := (storageOf q.side.hfmt.toNat).getD .bf16
        engineCheck s (cacheOf core) c.owner ptr (perRow st * bytes) rightR = (.ok ls, s1) →
        missingLine s1 (cacheOf core) (.anvil core c.id) ls = none → (readLines s1 core (.anvil core c.id) ls).2.1 = false →
        let raw := ((elemsOf src.bits (readLines s1 core (.anvil core c.id) ls).1).drop (ptrAddr ptr % 64 * 8 / src.bits)).take (perRow st)
        let out := linesOf st.bits (raw.zipIdx.map (fun p => (widen c q src (q.pass * perRow st + p.2) p.1).elem)) 6
        ∃ t, exec (.replayFetch core) s = .next t ∧ t.cbuf = s.cbuf ∧ head t (fun a => a.fetched = c.fetched + 1 ∧
          a.phase = (if c.fetched + 1 = 64 * (c.kTotal / perRow st) then .evaluating else .fetching) ∧
          a.xWide = (if q.isX then c.xWide ++ out else c.xWide) ∧ a.yWide = (if q.isX then c.yWide else c.yWide ++ out))))

/-- R197 to R199, R385: rotation. A half arrives and is held; when the wait is satisfied both halves land, with their sidecars, and the
step completes; after 64 µs without it the tile is as before and PAIR is set; a half that nothing matches is discarded after 64 µs. -/
def Obligations.Rotations : Prop :=
  (∀ (s : State) (k : Nat) (x : HalfFlight), s.flights[k]? = some x → ∃ t, exec (.rotationHalfArrival k) s = .next t ∧
    t.flights = s.flights.eraseIdx k ∧ (t.core x.to_).halves = (s.core x.to_).halves ++ [{ x.half with arrived := s.now }]) ∧
  (∀ (s : State) (core : Nat) (c : AnvilCmd) (rest : List AnvilCmd), (s.core core).anvil = c :: rest → c.phase = .rotating →
    (∀ x y, waitMet s core c = true → heldHalves s core c = some (x, y) → ∃ t, exec (.rotationLanding core) s = .next t ∧
      (∀ k < x.lines.length, t.aLine core (landA c.mrland + k) = (x.lines[k]?).getD 0) ∧
      (∀ k < y.lines.length, t.wLine core (landW c.mrland + k) = (y.lines[k]?).getD 0) ∧
      sidecarOf t true core (landA c.mrland) = x.side ∧ sidecarOf t false core (landW c.mrland) = y.side ∧
      (∀ a ∈ (t.core core).anvil, a.id ≠ c.id) ∧ x ∉ (t.core core).halves ∧ y ∉ (t.core core).halves) ∧
    (waitMet s core c = false → c.commitTime + 64000 ≤ s.now → ∃ t, exec (.pairAbort core) s = .next t ∧
      (∀ k < c.before.length, t.cLine core c.tile k = (c.before[k]?).getD 0) ∧ (∀ a ∈ (t.core core).anvil, a.id ≠ c.id) ∧
      (∀ u, c.act = some u → (s.tset core c.ts).act.map (·.uid) = some u → (t.tset core c.ts).cmdStatus.getLsbD 0 = true))) ∧
  (∀ (s : State) (core k : Nat) (h : Half), (s.core core).halves[k]? = some h → (∀ a ∈ (s.core core).anvil, a.phase ≠ .rotating) →
    h.arrived + 64000 ≤ s.now → ∃ t, exec (.halfDiscard core k) s = .next t ∧ (t.core core).halves = (s.core core).halves.eraseIdx k)

/-- R201, R202, R205, R239, R240: the stream engines. The first waiting command starts on a free engine; a load, a store and a conversion
move row after row, to the scratchpad lines and the homes that the command names; a finished command leaves its engine, and with RQ its
completion then waits for a reply slot, and is sent when one is free. R240 to R243, R313, R379: the pool engines. An engine without a lease is bound to the next waiting slot; a copy and a fill write unit
after unit in ascending order; a reduction starts by sending its segments to the other ranks; a peer that does not answer in time ends it
with status 6; a finished command leaves its slot. -/
def Obligations.EngineSteps : Prop :=
  ((∀ (s : State) (cl e : Nat) (c : StreamCmd), e ≤ 1 → runningStream s cl e = none →
     enginesTaken s cl + engineClaims s cl < 2 → (s.cluster cl).stream.find? (fun c => c.engine.isNone) = some c → c.msg = none →
     ∃ t, exec (.streamCommandStart cl e) s = .next t ∧ ∃ k ∈ (t.cluster cl).stream, k = { c with engine := some e }) ∧
   (∀ (s : State) (cl e : Nat) (c : StreamCmd) (p : Plan), runningStream s cl e = some c → c.fin = false → planOf c = .ok p →
     rowMeetsDeque p c.rows = false →
     let moved := fun (t : State) => ∃ k, runningStream t cl e = some k ∧ k.rows = c.rows + 1 ∧ k.id = c.id
     let ptr := p.ptr + BitVec.ofNat 64 (c.rows * p.shape.pitch * 64)
     (∀ w x ls s1, c.op = .tld w → p.dst = some x → p.src = none → engineCheck s cl c.owner ptr p.bytes rightR = (.ok ls, s1) →
       missingLine s1 cl (.stream c.id) ls = none → (readLines s1 c.core (.stream c.id) ls).2.1 = false →
       ∃ t, exec (.streamLoad cl e 1) s = .next t ∧ moved t ∧
         (x.buf = 3 → let out := (convertRow c p p.gst x.st x.per (readLines s1 c.core (.stream c.id) ls).1).1
           ∀ k < out.length, t.scratchLine x.core (x.line c.rows + k) = (out[k]?).getD 0)) ∧
     (∀ y va xl s1, c.op = .tst → p.dst = none → p.src = some y → engineCheck s (cacheOf c.core) c.owner ptr p.bytes rightW = (.ok [(va, xl)], s1) →
       xl.wb = false → xl.dirty = true → xl.tier = 0 → sideBad s y c.rows = false →
       ∃ t, exec (.streamStore cl e 1) s = .next t ∧ moved t ∧ ∀ l, (convertRow c p y.st p.gst (p.bytes / 64) (sideLines s y c.rows)).1 = [l] →
         ∀ k < 64, t.homeRead (xl.pa + k) 1 = (lineByte l k).toNat) ∧
     (∀ x y, c.op = .tcvt → p.dst = some x → p.src = some y → sideBad s y c.rows = false → ∃ t, exec (.streamConvert cl e 1) s = .next t ∧ moved t ∧
       (x.buf = 3 → let out := (convertRow c p y.st x.st x.per (sideLines s y c.rows)).1
         ∀ k < out.length, t.scratchLine x.core (x.line c.rows + k) = (out[k]?).getD 0))) ∧
   (∀ (s : State) (cl e : Nat) (c : StreamCmd), runningStream s cl e = some c → c.fin = true → c.op ≠ .tst →
     (c.rq = false → ∃ t, exec (.streamCommandComplete cl e) s = .next t ∧ (∀ k ∈ (t.cluster cl).stream, k.id ≠ c.id) ∧
       t.mail = s.mail ∧ t.due = s.due) ∧
     (c.rq = true → c.msg = none →
       ∃ t d w, exec (.streamCommandComplete cl e) s = .next t ∧ (∀ k ∈ (t.cluster cl).stream, k.id ≠ c.id) ∧
         t.due = s.due ++ [d] ∧ d.core = c.core ∧ d.ctx = c.ctx ∧ d.tag = routeTag c.route ∧ d.words.head? = some w ∧
         fieldN w 0 8 = c.status % 256 ∧ fieldN w 32 32 = c.rows % 2 ^ 32)) ∧
   (∀ (s : State) (k : Nat) (d : Due), s.due[k]? = some d → replyRoom s (routedCore s d.ctx d.core) d.ctx = true →
     ∃ t m, exec (.messageArrival (.unit (s.mail.length + k))) s = .next t ∧ t.due = s.due.eraseIdx k ∧
       t.mail = s.mail ++ [(.core d.core, m)] ∧ m.kind = 2 ∧ m.tag = d.tag ∧ m.prio = d.prio ∧ m.ctx = d.ctx ∧ m.words = d.words)) ∧
  ((∀ (s : State) (die e k : Nat) (ks : List Nat), die ≤ 1 → e < 24 → (s.die die).session = none → (s.engine (engineKey die e)).slot = none →
     waitingSlots s die (engineClass e) (s.engine (engineKey die e)).last = k :: ks →
     ∃ t, exec (.leaseExpiry die e) s = .next t ∧ (t.engine (engineKey die e)).slot = some k ∧ (t.engine (engineKey die e)).plb = [] ∧
       (t.engine (engineKey die e)).until_ = s.now + (s.partition (leasePartition k)).leaseTime) ∧
   (∀ (s : State) (die e k core a : Nat) (c : PoolCmd) (p : PoolPlan), die ≤ 1 → e < 16 → headPool s (engineKey die e) = some (k, c) →
     c.fin = false → c.started = true ∨ leaseOver s die e = false → poolPlan s c.cmd = .ok p → p.dst = .loc core a →
     let moved := fun (t : State) (l : Line) => t.scratchLine core (a / 64 + c.units) = l ∧
       ∃ h, headPool t (engineKey die e) = some (k, h) ∧ h.units = c.units + 1 ∧ h.fin = decide (p.units ≤ c.units + 1)
     (∀ core' a', c.cmd.opcode = 0x10 → p.src = some (.loc core' a') →
       s.scratchBad core' ((List.range 64).map (a' + 64 * c.units + ·)) = false → ∃ t, exec (.copy die e 1) s = .next t ∧
       moved t (s.scratchLine core' (a' / 64 + c.units))) ∧
     (c.cmd.opcode = 0x11 → p.src = none → ∃ t, exec (.fill die e 1) s = .next t ∧ moved t (lineOfWords (List.replicate 8 p.pattern)))) ∧
   (∀ (s : State) (die e k : Nat) (c : PoolCmd) (p : ReducePlan) (s1 s2 s3 : State) (bs : List Byte), die ≤ 1 → 16 ≤ e → e < 24 →
     headPool s (engineKey die e) = some (k, c) → c.fin = false → c.started = false → leaseOver s die e = false →
     reducePlan s c.cmd = .ok p →
     reduceCheck s (engineKey die e) c.cmd.owner p.src p.bytes rightR p.offsets = .ok s1 →
     reduceCheck s1 (engineKey die e) c.cmd.owner p.dst p.bytes rightW p.offsets = .ok s2 →
     readRange (engineKey die e) c.cmd.owner (lineSpan (ptrAddr p.src) p.bytes) s2 [] = .ok (bs, s3) →
     ∃ t mine, exec (.reduce die e) s = .next t ∧ t.segments = s3.segments ++ mine ∧ mine.length = p.offsets.length ∧
       (∀ g ∈ mine, g.group = p.group ∧ g.rank = p.rank ∧ g.offset ∈ p.offsets) ∧
       ∃ h, headPool t (engineKey die e) = some (k, h) ∧ h.started = true ∧ h.fin = false) ∧
   (∀ (s : State) (die e k : Nat) (c : PoolCmd) (p : ReducePlan) (g : List Nat × Nat), 16 ≤ e → e < 24 → headPool s (engineKey die e) = some (k, c) →
     c.started = true → c.fin = false → reducePlan s c.cmd = .ok p → groupOf s (s.partitionOf c.cmd.ctx.toNat) p.group = some g →
     c.since + g.2 ≤ s.now → ∃ t h, exec (.reduceTimeout die e) s = .next t ∧ headPool t (engineKey die e) = some (k, h) ∧ h.status = 6 ∧
       h.fin = true ∧ t.home = s.home) ∧
   (∀ (s : State) (die e k : Nat) (c : PoolCmd), headPool s (engineKey die e) = some (k, c) → c.fin = true →
     storesAway s (engineCache (engineKey die e)) = false → ∃ t, exec (.engineCommandComplete die e) s = .next t ∧
       (t.lease k).cmds = (s.lease k).cmds.tail))

/-- R206, R207, R244 to R247: the task graph unit. `GNODE` answers a status and adds its record to the context's open batch when it is 0;
`GSEAL` of a batch of independent records seals it; a ready record is dispatched to an engine that accepts it; a record that has ended
leaves the unit and counts down its successors, and with RQ its completion waits for a reply slot of the sealing core. -/
def Obligations.TaskGraphs : Prop :=
  (∀ (f : Form) (s : State), let d := s.me.value f.ob
    let cl := fieldN d 0 6
    let l := s.me.readV (regOf f.oa)
    let ctx : BitVec 12 := BitVec.ofNat 12 s.myCtx
    let status := fun (t : State) (w : Word) => regOf f.od ≠ 0 → t.me.readG (regOf f.od) = w
    formReady s f none .write = true → checkDesc s d [3] 3 f.ob = .ok () → s.mySpec = none →
    (nodeStatus s cl l ≠ 0 → ∃ t, exec (.gnode f) s = .next t ∧ status t (BitVec.ofNat 64 (nodeStatus s cl l)) ∧
      (t.cluster cl).graph = (s.cluster cl).graph) ∧
    (nodeStatus s cl l = 0 → ∃ t r, exec (.gnode f) s = .next t ∧ status t 0 ∧ (t.cluster cl).graph = (s.cluster cl).graph ++ [r] ∧
      r.ctx = ctx ∧ r.node = fieldN (lineWord l 0) 32 9 ∧ r.cls = fieldN (lineWord l 0) 0 8 ∧ r.pred = fieldN (lineWord l 0) 8 8 ∧
      r.state = .open_ ∧ r.batch = (openBatch (s.cluster cl) ctx).getD (s.cluster cl).nextBatch) ∧
    (openBatch (s.cluster cl) ctx = none → ∃ t, exec (.gseal f) s = .next t ∧ status t 3 ∧ t.clusters = s.clusters) ∧
    (∀ b, openBatch (s.cluster cl) ctx = some b → (∀ r ∈ (s.cluster cl).graph, r.ctx = ctx → r.batch = b → r.succ = []) →
      ∃ t, exec (.gseal f) s = .next t ∧ status t 0 ∧ (t.cluster cl).graph.length = (s.cluster cl).graph.length ∧
        ∀ r ∈ (t.cluster cl).graph, r.ctx = ctx → r.batch = b → r.state = .sealed ∧ r.rank = min (2 ^ 24 - 1) r.cost)) ∧
  (∀ (s : State) (cl core : Nat) (r : GraphRec), r ∈ (s.cluster cl).graph →
    bestRecord s cl ((s.cluster cl).graph.filter (fun r => r.isReady && r.cls == 1 && graphLive s cl r.ctx && (1 != 0 || r.core == core))) = some r →
    streamRoom s cl = true →
    ∃ t c, exec (.graphDispatch cl 1 core) s = .next t ∧ (t.cluster cl).stream = (s.cluster cl).stream ++ [c] ∧
      c.graph = some (cl, r.batch, r.node) ∧ c.owner = r.cmd.owner ∧ ∃ x ∈ (t.cluster cl).graph, x.node = r.node ∧ x.state = .dispatched) ∧
  (∀ (s : State) (cl k : Nat) (r : GraphRec) (st n sat unf : Nat), (s.cluster cl).graph[k]? = some r → r.done = some (st, n, sat, unf) →
    r.state = .dispatched → ∃ t, exec (.graphRecordComplete cl k) s = .next t ∧ (r.rq = false → t.due = s.due) ∧
      (r.rq = true → ∃ d, t.due = s.due ++ [d] ∧ d.core = r.sealCore ∧ d.ctx = r.ctx ∧ d.tag = r.tag ∧ d.prio = r.prio) ∧
      (∀ x ∈ (t.cluster cl).graph, ¬ (x.ctx = r.ctx ∧ x.batch = r.batch ∧ x.node = r.node)) ∧
      (st = 0 → ∀ x ∈ (s.cluster cl).graph, x.ctx = r.ctx → x.batch = r.batch → x.node ≠ r.node → r.succ.contains x.node = true →
        ∃ y ∈ (t.cluster cl).graph, y.node = x.node ∧ y.ctx = x.ctx ∧ y.batch = x.batch ∧ y.pred = x.pred - 1))

/-- R45, R213, R217, R218, R226, R308: one selection of a core. The slot it starts has the lowest effective priority of those that can
start, the earliest of equals; its thread set holds a new activation at the entry's address, with the payload in g1 to g6, the message ID
in g7 and every other register zero; the slot is RUNNING. Where the entry of the RCB bound now does not pass, the slot is PARKED (R213, R215). A record of the deque starts as a kind-5 message, and the deque is one shorter. R220 to R223, R315, R317, R348: the handler watchdog at zero aborts its activation, unless an earlier source stands or a winner's commit is
under way, and no handler is entered; an abort with a reason of Table 20.4 ends the activation when it is the first whose source stands, and
does nothing else; the message returns to the front of the inbox, ELIGIBLE, its count raised when the reason counts. An overrun aborts every
activation of the context resident on the partition, and a forced one kills that context. -/
def Obligations.QueueRuns : Prop :=
  (∀ (s : State) (core : Nat),
     let started := fun (t : TSet) (o : Origin) (entry : Word) (p : Msg → Prop) => ∃ a, t.act = some a ∧ p a.msg ∧ a.origin = o ∧
       t.pc = (entry.setWidth 57).setWidth 64 ∧ t.tlvl = 0 ∧
       (∀ k < 6, t.gRaw (k + 1) = if k < a.msg.len then (a.msg.words[k]?).getD 0 else 0) ∧ t.gRaw 7 = a.msg.id ∧
       (∀ k < 40, 8 ≤ k → t.gRaw k = 0) ∧ t.v = [] ∧ t.p = [] ∧ t.c = [] ∧ t.sendBuf = []
     (∀ (j ts : Nat) (e : Int), selectBest s core = some (j, ts, e) →
       (∃ x, (s.core core).inbox[j]? = some x ∧ x.state = .eligible ∧ slotTset s core x = some ts ∧ e = effPrio s core x) ∧
       ∀ (k : Nat) (y : Machine.Slot), (s.core core).inbox[k]? = some y → y.state = .eligible → (slotTset s core y).isSome = true →
         e ≤ effPrio s core y ∧ (k < j → e < effPrio s core y)) ∧
     (∀ (j ts : Nat) (x : Machine.Slot), coreSelects s core = true → (s.core core).tagCycle ≠ some (s.cycle core) → selected s core = some (.slot j ts) → (s.core core).inbox[j]? = some x →
       x.theft = none →
       (msgPasses s core x.msg (entryOf s core x.msg) = true →
         ∃ t, exec (.messageSelection core) s = .next t ∧ started (t.tset core ts) .inbox (entryOf s core x.msg) (· = x.msg) ∧
           ∃ y, (t.core core).inbox[j]? = some y ∧ y.state = .running ts ∧ y.msg = x.msg) ∧
       (msgPasses s core x.msg (entryOf s core x.msg) = false →
         ∃ t, exec (.messageSelection core) s = .next t ∧ t.tset core ts = s.tset core ts ∧
           ∃ y, (t.core core).inbox[j]? = some y ∧ y.state = .parked ∧ y.msg = x.msg)) ∧
     (∀ (k ts : Nat), coreSelects s core = true → (s.core core).tagCycle ≠ some (s.cycle core) → selected s core = some (.record k ts) →
       let l := dequeRec s core k
       ∃ t e, exec (.messageSelection core) s = .next t ∧ (t.core core).dqLen = (s.core core).dqLen - 1 ∧
         started (t.tset core ts) .deque e (fun m => m.kind = 5 ∧ m.tag = l.extractLsb' 0 12 ∧ m.prio = l.extractLsb' 12 2 ∧ m.len = 6 ∧
           m.ctx = l.extractLsb' 20 12 ∧ m.score = BitVec.ofNat 11 core ∧ m.words = (List.range 6).map (fun j => lineWord l (j + 1)))) ∧
     (selected s core = none → exec (.messageSelection core) s = .next s)) ∧
  (∀ (s : State) (core ts : Nat) (a : Act), (s.tset core ts).act = some a →
     (a.stepping = false → (s.tset core ts).wdogEnd ≤ s.cycle core → (∀ r ∈ [0x43, 0x42, 0x41], abortSource s core ts r = false) →
       committing s core ts = false → ∃ t, exec (.watchdog core ts) s = .next t ∧ (t.tset core ts).act = none ∧ (t.tset core ts).pc = (s.tset core ts).pc) ∧
     (a.stepping = false → s.cycle core < (s.tset core ts).wdogEnd → exec (.watchdog core ts) s = .next s) ∧
     firstSource s core ts = (if committing s core ts then none else [0x43, 0x42, 0x41, 0x28].find? (abortSource s core ts)) ∧
     (∀ r, firstSource s core ts ≠ some r → exec (.activationAbort core ts r) s = .next s) ∧
     (∀ r, firstSource s core ts = some r → r ≠ 0x41 → (r = 0x43 → overrunDue s core true = false) →
       ∃ t, exec (.activationAbort core ts r) s = .next t ∧ (t.tset core ts).act = none ∧ (t.tset core ts).sendBuf = [] ∧ (t.tset core ts).holds = [] ∧ (a.stolen = none → (t.tset core ts).storeq = (s.tset core ts).storeq) ∧
       (∀ k x, r ≠ 0x43 → runningSlot s core ts = some k → (s.core core).inbox[k]? = some x → (r = 0x28 → x.aborts ≠ 2) → a.stolen = none →
         (∀ d ∈ (s.cluster (clusterOf core)).decisions, d.act ≠ a.uid) →
         ∃ y, (t.core core).inbox = y :: (s.core core).inbox.eraseIdx k ∧ y.msg = x.msg ∧ y.state = .eligible ∧
           y.aborts = x.aborts + (if r = 0x28 then 1 else 0))) ∧
     (∀ ctx, residentOf s (corePartition s core) = some ctx → a.msg.ctx = ctx → (∀ k ∈ activationsOf s ctx, committing s k.1 k.2 = false) →
       (∀ d l n, firstSource s core ts = some 0x41 → (s.partition (corePartition s core)).phase = .preempting d l false n →
         ∃ t, exec (.activationAbort core ts 0x41) s = .next t ∧ (∀ k ∈ activationsOf s ctx, (t.tset k.1 k.2).act = none) ∧
           (t.partition (corePartition s core)).phase = .preempting d l false true) ∧
       (∀ c, firstSource s core ts = some 0x43 → overrunDue s core true = true → s.context ctx.toNat = some c → c.killed = false →
         ∃ t, exec (.activationAbort core ts 0x43) s = .next t ∧ (∀ k ∈ activationsOf s ctx, (t.tset k.1 k.2).act = none) ∧
           ∃ c', t.context ctx.toNat = some c' ∧ c'.killed = true)))

/-- R293, R294, R296, Tables 17.1, 17.2 and 17.4: a record at the head of a queue that fails a check is taken and its launch has that
status; an accepted one is taken once every WAIT bit is set, and waits at the head until then, its checks made. The completion of a launch that has
ended and is published, the first of its queue to have ended, writes its record at the ring's TAIL and advances it, sets the SET bits of a launch that ended DONE, and the launch is gone. -/
def Obligations.LaunchQueues : Prop :=
  (∀ (s : State) (q : Nat), queueValid s q = true → queueLen s q ≠ 0 → (s.queue q).accepted = none →
    let head := queueField s q 20 4
    let r := recordWords (unitReadBytes s (queueEntry s q head) 128)
    let taken := fun (p : Launch → Prop) => ∃ t l, exec (.launchTake q) s = .next t ∧ t.launches = s.launches ++ [l] ∧
      queueField t q 20 4 = (head + 1) % 2 ^ 32 ∧ l.queue = some q ∧ l.slot = head % 65536 ∧ p l
    (fieldN (recWord r 0) 0 8 ≠ 1 → taken (fun l => l.status = some 2)) ∧
    (∀ st, judge s q r = .refused st → taken (fun l => l.status = some st)) ∧
    (∀ ch g, judge s q r = .accepted ch g →
      (waitMetBy s r = false → ∃ t a, exec (.launchTake q) s = .next t ∧ (t.queue q).accepted = some a ∧ a.record = r ∧ a.region = g ∧
        t.launches = s.launches ∧ queueField t q 20 4 = head) ∧
      (waitMetBy s r = true → taken (fun l => l.status = none ∧ l.region = g ∧ l.rcb = recWord r 1 ∧ l.ctx.toNat = recCtx r ∧
        l.tag = (recWord r 3).extractLsb' 0 12 ∧ l.prio = (recWord r 3).extractLsb' 12 2 ∧
        l.total = fieldN (recWord r 2) 0 16 * fieldN (recWord r 2) 16 16 * fieldN (recWord r 2) 32 16 ∧
        l.args = (List.range 4).map (fun k => recWord r (12 + k)) ∧ l.coresident = (recWord r 0).getLsbD 24)))) ∧
  (∀ (s : State) (q : Nat) (a : Accepted), queueValid s q = true → queueLen s q ≠ 0 → (s.queue q).accepted = some a →
    let taken := fun (p : Launch → Prop) => ∃ t l, exec (.launchTake q) s = .next t ∧ t.launches = s.launches ++ [l] ∧
      (t.queue q).accepted = none ∧ queueField t q 20 4 = (queueField s q 20 4 + 1) % 2 ^ 32 ∧ l.queue = some q ∧ p l
    (headDoomed s q a.record = true → taken (fun l => l.status = some 5)) ∧
    (headDoomed s q a.record = false → waitMetBy s a.record = true →
      taken (fun l => l.status = none ∧ l.id = a.id ∧ l.region = a.region ∧ l.rcb = recWord a.record 1)) ∧
    (headDoomed s q a.record = false → waitMetBy s a.record = false → exec (.launchTake q) s = .next s)) ∧
  (∀ (s : State) (id q st : Nat) (l : Launch), launchBy s id = some l → l.queue = some q → l.status = some st → queueValid s q = true → endedFirst s l = true →
    let tail := queueField s q 24 4
    let at_ := queueField s q 8 8 + 16 * (tail % 2 ^ queueField s q 33 1)
    let control := (s.queue q).block
    (completionLen s q = 2 ^ queueField s q 33 1 → l.published = true → exec (.completionWrite id) s = .next s) ∧
    (completionLen s q ≠ 2 ^ queueField s q 33 1 → l.published = true ∨ (l.left = [] ∧ l.region.cores = []) → regionAnswered s l = true → ∃ t, exec (.completionWrite id) s = .next t ∧ (∀ m ∈ t.launches, m.id ≠ id) ∧
      queueField t q 24 4 = (tail + 1) % 2 ^ 32 ∧
      (st < 2 ^ 16 → 2 ^ 56 ≤ at_ → at_ + 16 ≤ 2 ^ 57 → at_ - 2 ^ 56 + 16 ≤ control + 24 ∨ control + 28 ≤ at_ - 2 ^ 56 →
        t.homeRead (at_ - 2 ^ 56) 8 = l.slot % 65536 + st * 2 ^ 16 + l.dead % 2 ^ 32 * 2 ^ 32 ∧
        t.homeRead (at_ - 2 ^ 56 + 8) 8 = s.now % 2 ^ 64) ∧
      (∀ c, s.context l.ctx.toNat = some c → ∃ c', t.context l.ctx.toNat = some c' ∧
        ∀ k < 4, l.set.length = 4 → mget 0 c'.events k = if st = 0 then mget 0 c.events k ||| (l.set[k]?).getD 0 else mget 0 c.events k)))

/-- R46, R262, R306, R307, R309: a co-resident launch that is served takes a free thread set of a core of its list while it needs one, and
with the last its starts may be sent; an element start, the lowest index its cluster's dispatcher has to send, is a kind-1 message with the
launch's tag and priority, its arguments, the linear index and the RCB; when every element has ended or died, nothing it wrote is queued
and no peer is to answer, the launch completes with status 0. R298, R300, R318, R378: LAUNCHDONE returns the completion record to the sender; a DIRECT request of a link that is up is denied by its
tenant or queued, and at the core that has its share starts an activation on a free thread set, or is answered BUSY. That the reply of a DIRECT
is one status byte is the model's choice (logs 11 and 41). -/
def Obligations.Launches : Prop :=
  ((∀ (s : State) (id core ts p : Nat) (l : Launch), launchBy s id = some l → l.pos core = some p →
     ((servedLaunch s l.ctx).map (·.id) = some id → ts < 4 → (s.core core).ctx = some l.ctx → (s.tset core ts).isFree = true →
       atBudget s l.ctx.toNat l.rcb (some l.id) = false → reservedFor s core id < elementsAt l.region l.total p →
       ∃ t, exec (.coresidentReservation id core ts) s = .next t ∧ (t.tset core ts).reserved = some id ∧
         (allReserved t l = true → ∀ m ∈ t.launches, m.id = id → m.armed = true)) ∧
     (startWaits s core l = true → goesFirst s core l = true →
       ∃ t m l', exec (.elementStartDispatch id core) s = .next t ∧ t.mail = s.mail ++ [(.core core, m)] ∧ m.kind = 1 ∧ m.tag = l.tag ∧
         m.prio = l.prio ∧ m.ctx = l.ctx ∧ m.words = l.args ++ [BitVec.ofNat 64 (elementIndex l.region p (l.sentTo p)), l.rcb] ∧
         m.launch = some id ∧ launchBy t id = some l' ∧ l'.sentTo p = l.sentTo p + 1)) ∧
   (∀ (s : State) (id : Nat) (l : Launch), launchBy s id = some l → l.status = none →
     (l.armed = true → l.total ≤ l.ended → l.published = false → (∀ x ∈ l.left, writesOpen s x.1 x.2.1 x.2.2 = false) →
       regionAnswered s l = true → (∀ c ∈ l.region.cores, ∀ k ∈ (s.cluster (cacheOf c)).lines, k.x.tier ≠ 3) →
       ∃ t, exec (.launchComplete id) s = .next t ∧ ∃ m, launchBy t id = some m ∧ m.status = some 0) ∧
     (l.ended < l.total → exec (.launchComplete id) s = .next s))) ∧
  ((∀ (s : State) (id node st : Nat) (cookie : Word) (l : Launch), launchBy s id = some l → l.fabric = some (node, cookie) → l.status = some st →
     l.published = true ∨ (l.left = [] ∧ l.region.cores = []) → regionAnswered s l = true →
     ∃ t, exec (.launchDone id) s = .next t ∧ (∀ m ∈ t.launches, m.id ≠ id) ∧ t.out = s.out ++ [packetTo node 5
       (s.partitionOf l.ctx.toNat) cookie (wordBytes (completionWord l st) ++ wordBytes (BitVec.ofNat 64 s.now))]) ∧
   (∀ (s : State) (die src tenant core : Nat) (cookie entry : Word) (ctx : BitVec 12) (args : List Word),
     let k := s.tenant die tenant
     (portUp s (Config.portOf src) = false → exec (.directRequest die src tenant cookie ctx core entry args) s = .next s) ∧
     (portUp s (Config.portOf src) = true →
     let refused := !k.valid || k.ctx != ctx || (s.context ctx.toNat).isNone || (s.partition (s.partitionOf ctx.toNat)).resetting.isSome
     ∃ t, exec (.directRequest die src tenant cookie ctx core entry args) s = .next t ∧
       (refused = true → t.directs = s.directs ∧
         t.out = s.out ++ [packetTo src 3 (s.partitionOf ctx.toNat) cookie [3]]) ∧
       (refused = false → ∃ d, t.directs = s.directs ++ [d] ∧ d.ctx = ctx ∧ d.core = core ∧ d.entry = entry ∧ d.args = args.take 2))) ∧
   (∀ (s : State) (k : Nat) (d : Direct), s.directs[k]? = some d → d.fn = none →
     let u := { s with directs := s.directs.eraseIdx k }
     let core := routedCore s d.ctx d.core
     let reply := fun (st : Byte) => packetTo d.node 3 (s.partitionOf d.ctx.toNat) d.cookie [st]
     ∃ t, exec (.directMessage k) s = .next t ∧ t.directs = s.directs.eraseIdx k ∧
       (directTset u { d with core := core } = none → t.out = s.out ++ [reply 2]) ∧
       (∀ ts, directTset u { d with core := core } = some ts → t.out = s.out ++ [reply 4] ∧ ∃ a, (t.tset core ts).act = some a ∧ a.msg.kind = 7 ∧
         a.msg.words = d.args ∧ a.msg.ctx = d.ctx ∧ a.origin = .direct ∧ (t.tset core ts).pc = (d.entry.setWidth 57).setWidth 64)))

/-- R314 to R317: slices. At its end a list with one entry renews the slice, any other begins pre-emption; past the limit what still runs is
aborted, once no winner commits, or with a forced pre-emption the context is killed; once nothing is in progress every core's share is saved and the core holds
the context no more; the next entry with work, which is no system context, becomes resident on every core; a queue's progress watchdog at its interval
forces a pre-emption at once, also where the slice has just ended; where it counts for system contexts alone it gives the notice only, which is
the model's choice (log 75). -/
def Obligations.Slices : Prop :=
  ∀ (s : State) (p : Nat),
    let k := s.partition p
    let cores := partitionCores s p
    (∀ e, k.phase = .running → k.entry = some e →
      (s.now < k.sliceEnd → exec (.sliceEnd p) s = .next s) ∧
      (k.sliceEnd ≤ s.now →
        (k.nextList = none → k.list = [e] → ∃ t, exec (.sliceEnd p) s = .next t ∧ (t.partition p).phase = .running ∧
          (t.partition p).sliceEnd = k.sliceEnd + 1000 * e.slice) ∧
        (k.newList.list.length ≠ 1 → ∃ t, exec (.sliceEnd p) s = .next t ∧
          (t.partition p).phase = .preempting s.now (1000 * e.limit) false false))) ∧
    (∀ d l o ctx, k.phase = .preempting d l false o → residentOf s p = some ctx → activationsOf s ctx ≠ [] →
      (∀ a ∈ activationsOf s ctx, committing s a.1 a.2 = false) →
      (s.now < d + l → exec (.sliceOverrun p) s = .next s) ∧
      (d + l ≤ s.now → ∃ t, exec (.sliceOverrun p) s = .next t ∧ (t.partition p).phase = .preempting d l false true ∧
        ∀ core ts, (s.tset core ts).act.any (fun a => a.msg.ctx == ctx) = true → (t.tset core ts).act = none)) ∧
    (∀ d l o ctx c, k.phase = .preempting d l true o → residentOf s p = some ctx → activationsOf s ctx ≠ [] → d + l ≤ s.now →
      (∀ a ∈ activationsOf s ctx, committing s a.1 a.2 = false) → s.context ctx.toNat = some c → ∃ t c', exec (.sliceOverrun p) s = .next t ∧ t.context ctx.toNat = some c' ∧ c'.killed = true) ∧
    (∀ d l f o ctx c, k.phase = .preempting d l f o → residentOf s p = some ctx → s.context ctx.toNat = some c → k.clusters.Nodup →
      (cores.all (coreQuiet s ctx) = false → exec (.preemptionSave p) s = .next s) ∧
      (cores.all (coreQuiet s ctx) = true → ∃ t, exec (.preemptionSave p) s = .next t ∧ (t.partition p).phase = .idle ∧
        (t.partition p).pos = (k.pos + 1) % max 1 k.list.length ∧ ∀ n ∈ cores, (t.core n).ctx = none ∧ (t.core n).inbox = [] ∧
          (imageOf t ctx.toNat n).slots.map (·.msg) = (s.core n).inbox.map (·.msg) ∧ (imageOf t ctx.toNat n).rcb = some (s.core n).rcb ∧
          (imageOf t ctx.toNat n).deque = (List.range (s.core n).dqLen).map (dequeRec s n))) ∧
    (k.phase = .idle →
      let order := (List.range k.list.length).map (fun j => (k.pos + j) % k.list.length)
      let ready := fun j => (k.list[j]?).any (fun e => hasWork s p e.ctx && !s.isSystem e.ctx.toNat)
      (order.find? ready = none → exec (.contextResume p) s = .next s) ∧
      (∀ j e, order.find? ready = some j → k.list[j]? = some e → ∃ t, exec (.contextResume p) s = .next t ∧
        (t.partition p).phase = .running ∧ (t.partition p).pos = j ∧ (t.partition p).sliceEnd = s.now + 1000 * e.slice ∧
        ∀ n ∈ cores, (t.core n).ctx = some e.ctx)) ∧
    (∀ q ctx e, queueOwner s q = some p → residentOf s p = some ctx → k.entry = some e → k.phase = .running → ctx.toNat ∈ countingCtxs s q →
      (queueCounted s q < queueWdog s q → exec (.queueStall q) s = .next s) ∧
      (queueWdog s q ≤ queueCounted s q → ∃ t, exec (.queueStall q) s = .next t ∧ (t.queue q).counted = 0 ∧
        (t.partition p).phase = .preempting s.now (1000 * e.limit) true false)) ∧
    (∀ q ctx e l o, queueOwner s q = some p → residentOf s p = some ctx → k.entry = some e → k.phase = .preempting s.now l false o →
      ctx.toNat ∈ countingCtxs s q → queueWdog s q ≤ queueCounted s q → ∃ t, exec (.queueStall q) s = .next t ∧
        (t.partition p).phase = .preempting s.now l true o) ∧
    (∀ q ctx, queueOwner s q = some p → residentOf s p = some ctx → countingCtxs s q ≠ [] → ctx.toNat ∉ countingCtxs s q →
      queueWdog s q ≤ queueCounted s q → ∃ t, exec (.queueStall q) s = .next t ∧ (t.queue q).counted = 0 ∧ (t.partition p).phase = k.phase)

/-- R318, R349, R350: a context's share of a core moves to a free core, messages for the old core then go to the new one, and the
forwarding entry goes after 100 µs; a killed context has no activation, no saved state and no open launch; a reset, asked for at a host port that answers, begins by killing every
context of its VF, drops after 100 µs what is still in flight, and ends, the TDI CONFIG_UNLOCKED, once nothing is. -/
def Obligations.KillsAndResets : Prop :=
  (∀ (s : State) (ctx old new : Nat) (k : Context), s.context ctx = some k → ctx < 4096 → k.killed = false → k.sys = false → old ≠ new →
    isCompute old = true → isCompute new = true → contextMayRun s ctx old = true → freeFor s ctx new = true → mayLeave s ctx old = true →
    (s.cluster (clusterOf old)).forwards.length < Config.forwardEntries → migrationHeld s old = false → migrationHeld s new = false →
    (s.core old).ctx ≠ some (BitVec.ofNat 12 ctx) → (s.core new).ctx ≠ some (BitVec.ofNat 12 ctx) →
    ∃ t, exec (.coreMigration ctx old new) s = .next t ∧ routedCore t (BitVec.ofNat 12 ctx) old = new ∧
      imageOf t ctx new = imageOf s ctx old ∧ imageOf t ctx old = {}) ∧
  (∀ (s : State) (cl j : Nat) (f : Forward), (s.cluster cl).forwards[j]? = some f →
    (s.now < f.made + 100000 → exec (.forwardingExpiry cl j) s = .next s) ∧
    (f.made + 100000 ≤ s.now → ∃ t, exec (.forwardingExpiry cl j) s = .next t ∧
      (t.cluster cl).forwards = (s.cluster cl).forwards.eraseIdx j)) ∧
  (∀ (s : State) (ctx : Nat) (k : Context), s.context ctx = some k → k.killed = false → ∃ t c, exec (.contextKill ctx) s = .next t ∧
    t.context ctx = some c ∧ c.killed = true ∧ c.saved = [] ∧
    (∀ core ts, (s.tset core ts).act.any (fun a => a.msg.ctx.toNat == ctx) = true → (t.tset core ts).act = none) ∧
    ∀ l ∈ t.launches, l.ctx.toNat = ctx → l.status.isSome = true) ∧
  (∀ (s : State) (p : Nat), 1 ≤ p → p ≤ 64 →
    (∀ rotate, (s.partition p).resetting = none → hostUp s = false → exec (.vfReset p rotate) s = .next s) ∧
    (∀ rotate, (s.partition p).resetting = none → hostUp s = true → ∃ t, exec (.vfReset p rotate) s = .next t ∧
      (t.partition p).resetting = some (s.now, rotate) ∧
      ∀ c k, s.context c = some k → k.partition = p → ∃ k', t.context c = some k' ∧ k'.killed = true) ∧
    (∀ d r rotate, (s.partition p).resetting = some (d, r) →
      (inFlight s p ≠ 0 → exec (.vfReset p rotate) s = .next s) ∧
      (inFlight s p = 0 → ∃ t, exec (.vfReset p rotate) s = .next t ∧ (t.partition p).resetting = none ∧ (t.partition p).tdi = .unlocked ∧
        ∀ n ∈ partitionCores s p, (t.core n).ctx = none ∧ ∀ ts < 4, (t.tset n ts).act = none) ∧
      (s.now < d + 100000 → exec (.requestVoid p) s = .next s) ∧
      (d + 100000 ≤ s.now → inFlight s p ≠ 0 → ∃ t, exec (.requestVoid p) s = .next t ∧ inFlight t p = 0 ∧
        (t.partition p).voided = (s.partition p).voided + inFlight s p)))

/-- R334, R352 to R354, R359, R366 to R368, R381: a counted request adds to its page's counter, up to 65,535; a corrected error is counted and changes no memory; an uncorrectable one is counted and left
for its consumer; a failed die bridge makes the other die's functions not READY; a record at a trace port is stamped and written into the
open frame; an expired policy is gone; a session starts and ends. -/
def Obligations.Upkeep : Prop :=
  (∀ (s : State) (unit tier : Nat) (rest : List (Nat × Nat)), s.countQ = (unit, tier) :: rest →
    ∃ t, exec .accessCount s = .next t ∧ t.countQ = rest ∧ mget 0 t.counts unit = min 65535 (mget 0 s.counts unit + 1)) ∧
  (∀ (s : State) (p at_ : Nat),
    (∀ place, place = 2 ∨ place = 1 → alreadyBad s place at_ = false → (s.partition (placeOwner s p place at_)).supBlock = 0 →
      ∃ t, exec (.patrolScrub p place at_ false) s = .next t ∧ t.home = s.home ∧ t.scratch = s.scratch ∧
        (t.partition (placeOwner s p place at_)).corrected = (s.partition (placeOwner s p place at_)).corrected + 1) ∧
    (∃ t, exec (.uncorrectable p 1 at_) s = .next t ∧ t.eccFails at_ = true ∧
      (t.partition (placeOwner s p 1 at_)).uncorrected = (s.partition (placeOwner s p 1 at_)).uncorrected + 1) ∧
    (∀ w, at_ = 16 * w → ∃ t, exec (.uncorrectable p 2 at_) s = .next t ∧ mget false t.sramBad w = true) ∧
    (∃ t, exec (.uncorrectable p 6 at_) s = .next t ∧ (t.port at_).down = true)) ∧
  (∀ (s : State) (die : Nat), die ≤ 1 → (s.die die).bridgeDown = false → ∃ t, exec (.dieBridgeFailure die) s = .next t ∧
    (t.die die).bridgeDown = true ∧ ∀ o ∈ dieOffsets (1 - die), (mget 0 t.ready o).getLsbD 0 = false) ∧
  (∀ (s : State) (cl k : Nat) (e : TraceEvent) (rest : List TraceEvent), (s.cluster cl).traceQ = e :: rest →
    let f := (s.cluster cl).trace
    let at_ := frameAt (s.die (cl / 32)) k + f.fill
    f.frame = some k → s.now - f.last < 256 → f.fill + e.payload.length + 2 ≤ 4096 → 2 ^ 56 ≤ at_ → at_ + 4096 ≤ 2 ^ 57 →
    ∃ t, exec (.traceRecord cl) s = .next t ∧ (t.cluster cl).traceQ = rest ∧ (t.cluster cl).trace.fill = f.fill + e.payload.length + 2 ∧
      (t.cluster cl).trace.last = s.now ∧ t.homeRead (at_ - 2 ^ 56) 1 = 64 + e.kind % 64 ∧
      t.homeRead (at_ - 2 ^ 56 + 1) 1 = s.now - f.last ∧
      ∀ j < e.payload.length, t.homeRead (at_ - 2 ^ 56 + 2 + j) 1 = ((e.payload[j]?).getD 0).toNat) ∧
  (∀ (s : State) (p expiry : Nat) (b : BitVec 6), (s.partition p).policy = some (b, expiry) →
    (s.now < expiry → exec (.policyExpiry p) s = .next s) ∧
    (expiry ≤ s.now → ∃ t, exec (.policyExpiry p) s = .next t ∧ (t.partition p).policy = none)) ∧
  (∀ (s : State) (die vf : Nat) (clocks : Bool), die < 2 →
    ((s.die die).session = none → 0 < vf → featureOpen s vf 5 = true → ∃ t, exec (.clockLockSession die vf clocks true) s = .next t ∧
      (t.die die).session = some (vf, clocks) ∧ (clocks = true → ∀ c < 32, (t.cluster (32 * die + c)).stretched = false)) ∧
    ((s.die die).session = some (vf, clocks) → ∃ t, exec (.clockLockSession die vf clocks false) s = .next t ∧ (t.die die).session = none))

/-- R295, R300, R360, R365, R369, R371, R372, Tables 23.2 and 23.3: mailbox commands, once the host port answers. A doorbell moves the tail; a
malformed command completes `BAD`, one of a VF under reset `DENIED`; a finished `WRITE` or `READ` completes with the bytes moved, and one without the right
`RIGHTS`; `ENQUEUE` completes `DENIED`, `BAD`, `QFULL`, or puts its record into the queue; `DIRECT` and `DEBUG` go to their core; `POLICY`
replaces the policy when its signature and fields hold; a unit is acquired when free, after the PF that asks for it too, `BUSY` when held, and released by its holder. That a release by another completes
`DENIED` is the model's choice (log 23), and so is the form of a policy's signature (log 40). -/
def Obligations.Mailboxes : Prop :=
  (∀ (s : State) (fn tail : Nat), fn ≤ 64 →
    (hostUp s = true → ∃ t, exec (.mailboxDoorbell fn tail) s = .next t ∧ (t.mailbox fn).tail = tail) ∧
    (hostUp s = false → exec (.mailboxDoorbell fn tail) s = .next s)) ∧
  (∀ (s : State) (fn : Nat) (c : MailCmd), nextCommand s fn = some c →
    let b := s.mailbox fn
    let at_ := b.cq + 16 * (b.done % b.cqLen)
    let completes := fun (i : Instr) (status result : Nat) (p : State → Prop) => ∃ t, exec i s = .next t ∧ (t.mailbox fn).head = b.head + 1 ∧
      (t.mailbox fn).done = b.done + 1 ∧ t.out = s.out ++ [.msix fn b.vector] ∧
      natOfBytes (hostRead t at_ 8) = c.cid + status * 2 ^ 16 + result % 2 ^ 32 * 2 ^ 32 ∧ p t
    let all : List (Nat × Instr) := [(1, .mailboxWrite fn), (2, .mailboxRead fn), (3, .enqueue fn), (4, .direct fn), (5, .debugCommand fn),
      (6, .policy fn), (7, .observeAcquire fn), (7, .observeRelease fn)]
    (∀ i ∈ all, hostUp s = false → exec i.2 s = .next s) ∧
    (hostUp s = true →
    (∀ i ∈ all, c.bad = true → (s.partition fn).resetting = none → completes i.2 5 0 (fun t => t.home = s.home)) ∧
    (∀ i ∈ all, c.bad = true ∨ c.op = i.1 → (s.partition fn).resetting ≠ none → completes i.2 3 b.moved (fun t => t.home = s.home)) ∧
    (∀ i ∈ all, c.bad = false → c.op ≠ i.1 → exec i.2 s = .next s) ∧
    (c.bad = false → (s.partition fn).resetting = none →
      (c.op = 1 → lengthOk c true = true →
        (c.len ≤ b.moved → s.peerStores = [] → completes (.mailboxWrite fn) 0 b.moved (fun t => t.home = s.home)) ∧
        (∀ p n, mailPiece s fn c = some (p, n) →
          (mailRights s fn p n rightW = some 7 → completes (.mailboxWrite fn) 7 b.moved (fun t => t.home = s.home)) ∧
          (mailRights s fn p n rightW = none → s.choices = [] → 2 ^ 56 ≤ ptrAddr p → ∃ t, exec (.mailboxWrite fn) s = .next t ∧
            (t.mailbox fn).moved = b.moved + n ∧ ∀ k < n, t.homeRead (ptrAddr p - 2 ^ 56 + k) 1 =
              (((writeSource s fn c n)[k]?).getD 0).toNat))) ∧
      (c.op = 2 → lengthOk c false = true →
        (c.len ≤ b.moved → completes (.mailboxRead fn) 0 b.moved (fun t => t.home = s.home)) ∧
        (∀ p n, mailPiece s fn c = some (p, n) →
          (mailRights s fn p n rightR = some 7 → completes (.mailboxRead fn) 7 b.moved (fun t => t.home = s.home)) ∧
          (mailRights s fn p n rightR = none → s.choices = [] → 2 ^ 56 ≤ ptrAddr p → s.eccBad = [] → ∃ t,
            exec (.mailboxRead fn) s = .next t ∧ (t.mailbox fn).moved = b.moved + n ∧
            ∀ k < n, mget unwritten t.hostMem (c.b + b.moved + k) = s.homeByte (ptrAddr p - 2 ^ 56 + k)))) ∧
      (c.op = 3 → let q := c.a.toNat
        (queueOf s fn q = false → completes (.enqueue fn) 3 0 (fun t => t.home = s.home)) ∧
        (queueOf s fn q = true → queueValid s q = false → completes (.enqueue fn) 5 0 (fun t => t.home = s.home)) ∧
        (queueOf s fn q = true → queueValid s q = true → queueFull s q = true → completes (.enqueue fn) 1 0 (fun t => t.home = s.home)) ∧
        (queueOf s fn q = true → queueValid s q = true → queueFull s q = false →
          completes (.enqueue fn) 0 0 (fun t =>
            t.homeRead ((s.queue q).block + 16) 4 = (queueField s q 16 4 + 1) % 2 ^ 32))) ∧
      (c.op = 4 → fieldN c.a 10 38 = 0 → fieldN c.a 60 4 = 0 → let ctx : BitVec 12 := c.a.extractLsb' 48 12
        ((s.context ctx.toNat).isNone = true ∨ s.partitionOf ctx.toNat ≠ fn → completes (.direct fn) 3 0 (fun t => t.directs = s.directs)) ∧
        ((s.context ctx.toNat).isSome = true → s.partitionOf ctx.toNat = fn → ∃ t d, exec (.direct fn) s = .next t ∧
          t.directs = s.directs ++ [d] ∧ d.ctx = ctx ∧ d.core = fieldN c.a 0 10 ∧ d.entry.toNat = c.b % 2 ^ 64 ∧ d.args = c.data.take 2)) ∧
      (c.op = 5 → let code := fieldN (c.word 0) 0 8
        let core := fieldN (c.word 0) 8 10
        1 ≤ code → code ≤ 7 → fieldN (c.word 0) 22 42 = 0 →
        (featureOpen s fn 3 = false ∨ core ∉ partitionCores s fn → completes (.debugCommand fn) 3 0 (fun t => t.cores = s.cores)) ∧
        (featureOpen s fn 3 = true → core ∈ partitionCores s fn → ∃ t d, exec (.debugCommand fn) s = .next t ∧
          (t.core core).debugIn = (s.core core).debugIn ++ [d] ∧ d.code = code ∧ d.sel = fieldN (c.word 0) 18 4 ∧ d.fn = fn ∧ d.cid = c.cid)) ∧
      (c.op = 6 → let body := hostRead s c.b 64
        let ok := policyOk s fn body (hostRead s (c.b + 64) 3309)
        (ok = true → (∃ t, exec (.policy fn) s = .next t ∧ (t.partition fn).policy =
          some (BitVec.ofNat 6 (natOfBytes ((body.drop 8).take 8)), natOfBytes ((body.drop 48).take 8)))) ∧
        (ok = false → completes (.policy fn) 0 1 (fun t => (t.partition fn).policy = (s.partition fn).policy))) ∧
      (c.op = 7 → ∀ u, observeUnit c.b = some u →
        (c.a = 0 → mayHold s fn u = false → completes (.observeAcquire fn) 3 0 (fun t => unitHolder t u = unitHolder s u)) ∧
        (c.a = 0 → mayHold s fn u = true → unitHolder s u = none → fn = 0 ∨ pfAsks s u = false →
          completes (.observeAcquire fn) 0 0 (fun t => unitHolder t u = some fn)) ∧
        (c.a = 0 → mayHold s fn u = true → unitHolder s u = none → fn ≠ 0 → pfAsks s u = true → exec (.observeAcquire fn) s = .next s) ∧
        (∀ h, c.a = 0 → mayHold s fn u = true → unitHolder s u = some h →
          completes (.observeAcquire fn) 2 0 (fun t => unitHolder t u = some h)) ∧
        (c.a = 1 → unitHolder s u = some fn → ∃ t, exec (.observeRelease fn) s = .next t ∧ unitHolder t u = none) ∧
        (c.a = 1 → unitHolder s u ≠ some fn → completes (.observeRelease fn) 3 0 (fun t => unitHolder t u = unitHolder s u))))))

/-- R320, R322, R329, R349, R359, R371, R373, R375, Tables 23.2 and 23.4: requests to the Device Security Manager by the command at the head
of the PF's ring, which it answers none of before a die's image has verified (R373). An owner entry and its first original rights are created,
but none that reaches the memory of a rights table; a killed context is restarted; a queue gets its control block; features open; a tenant entry starts with a
full bucket; a request that is refused changes none of these; the window of physical addresses is for system owners only (R330), and a
consent record holds whose supervisor has asked for it (R325). A command that waits for a sweep's purge completes once it is acknowledged.
How a request is written in the command's body and the form of a consent are the model's choices (logs 11 and 40). R373 to R375, R359, Table 23.4: the TDISP states follow their requests; SPDM answers only on a die 0 that has booted, and challenges,
measurements and sessions need the extended algorithms; a die boots an image that verifies and is not older than its fuses. No
TDISP request acts before the host port answers. The bytes of SPDM's responses and the packing of an extended entry are the model's (log 11). -/
def Obligations.TrustAndRequests : Prop :=
  ((∀ (s : State) (req : DsmRequest), s.dsmWait = none → (hostUp s = false ∨ ∀ c, nextCommand s 0 = some c → c.op ≠ 8 ∧ c.bad = false) →
     exec (.dsm req) s = .next s) ∧
   (∀ (s : State) (req : DsmRequest) (id cid : Nat), s.dsmWait = some (id, cid) →
     (purgeDone s id = false → exec (.dsm req) s = .next s) ∧
     (purgeDone s id = true → ∃ t, exec (.dsm req) s = .next t ∧ t.dsmWait = none ∧ (t.mailbox 0).head = (s.mailbox 0).head + 1 ∧ t.owners = s.owners)) ∧
   ∀ (s : State) (c : MailCmd), s.dsmWait = none → hostUp s = true → nextCommand s 0 = some c → c.bad = false → c.op = 8 →
     (s.partition 0).resetting = none →
     (∀ (o : BitVec 20) (n : Nat), mget none s.owners o.toNat = none → 1 ≤ n → n ≤ 2 ^ 20 → ownerPartition o ≤ 64 →
       let u := (s.choose (2 ^ 51 - n)).2
       let k : OwnerTable := { base := 32 * (s.choose (2 ^ 51 - n)).1, capacity := n }
       let meets := (allEntries u).any (fun e => reachesTable u (e.base, e.len * 64) k)
       (meets = false → ∃ t, exec (.dsm (.owner o n)) s = .next t ∧ mget none t.owners o.toNat = some k) ∧
       (meets = true → (isVf (ownerPartition o) = true → (s.partition (ownerPartition o)).tdi = .unlocked) →
         ∃ t, exec (.dsm (.owner o n)) s = .next t ∧ t.owners = s.owners)) ∧
     (∀ (o : BitVec 20) (base len : Nat) (r : BitVec 5) (k : OwnerTable), mget none s.owners o.toNat = some k → k.entries.length < k.capacity →
       base % 64 = 0 → 0 < len → len < 2 ^ 32 → base + len * 64 ≤ 2 ^ 57 → base + len * 64 ≤ 2 ^ 56 ∨ systemOwner s o = true →
       s.owners.any (fun u => u.2.any (reachesTable s (base, len * 64))) = false →
       ∃ t k', exec (.dsm (.original o base len r)) s = .next t ∧ mget none t.owners o.toNat = some k' ∧ t.nextGid = nextIdentity s.takeGid ∧ ∃ e ∈ k'.entries, e.base = base ∧ e.len = len ∧ e.rights = r ∧ e.gen = 0 ∧ e.orig = true ∧
           e.gid = s.takeGid) ∧
     (∀ (o : BitVec 20) (base len : Nat) (r : BitVec 5), (2 ^ 56 < base + len * 64 ∧ systemOwner s o = false) ∨
         s.owners.any (fun u => u.2.any (reachesTable s (base, len * 64))) = true →
       (isVf (ownerPartition o) = true → (s.partition (ownerPartition o)).tdi = .unlocked) →
       ∃ t, exec (.dsm (.original o base len r)) s = .next t ∧ t.owners = s.owners) ∧
     (∀ (g h : BitVec 20) (base len : Nat) (r : BitVec 5), ∃ t, exec (.dsm (.consent g h base len r)) s = .next t ∧
       ∃ c ∈ (t.partition (ownerPartition g)).consents, c.granter = g ∧ c.target = h ∧ c.base = base ∧ c.len = len ∧ c.rights = r ∧
         (ownerPartition g ∈ c.asked ∨ ownerPartition h ∈ c.asked)) ∧
     (∀ (ctx : Nat) (k : Context), s.context ctx = some k →
       (k.killed = true → ∃ t k', exec (.dsm (.restart ctx)) s = .next t ∧ t.context ctx = some k' ∧ k'.killed = false) ∧
       (k.killed = false → ∃ t k', exec (.dsm (.kill ctx)) s = .next t ∧ t.context ctx = some k' ∧ k'.killed = true)) ∧
     (∀ (q block : Nat), (queueOwner s q).isSome = true → ∃ t, exec (.dsm (.queue q block)) s = .next t ∧ (t.queue q).block = block) ∧
     (∀ (p : Nat) (bits : BitVec 6), ∃ t, exec (.dsm (.features p bits)) s = .next t ∧ (t.partition p).opened = bits) ∧
     (∀ (die k rate burst ctx : Nat) (lo hi : Word), die < 2 → k < 4096 → 1 ≤ burst → burst ≤ 65535 → rate < 65536 →
       ∃ t, exec (.dsm (.tenant die k true rate burst ctx lo hi)) s = .next t ∧ (t.tenant die k).valid = true ∧
         (t.tenant die k).tokens = burst ∧ (t.tenant die k).rate = rate ∧ (t.tenant die k).lo = lo ∧ (t.tenant die k).hi = hi) ∧
     (∀ (o : BitVec 20) (base len : Nat), base % 64 ≠ 0 ∨ len % 64 ≠ 0 →
       (isVf (ownerPartition o) = true → (s.partition (ownerPartition o)).tdi = .unlocked) →
       ∃ t, exec (.dsm (.sweep o base len)) s = .next t ∧ t.owners = s.owners) ∧
     (∀ (o : BitVec 20) (n : Nat), n = 0 ∨ 2 ^ 20 < n → (isVf (ownerPartition o) = true → (s.partition (ownerPartition o)).tdi = .unlocked) →
       ∃ t, exec (.dsm (.owner o n)) s = .next t ∧ t.owners = s.owners)) ∧
  ((∀ (s : State) (vf : Nat), isVf vf = true →
     let k := s.partition vf
     (hostUp s = false → (∀ hash, exec (.lockInterfaceRequest vf hash) s = .next s) ∧ exec (.startInterfaceRequest vf) s = .next s ∧
       exec (.stopInterfaceRequest vf) s = .next s) ∧
     (∀ hash, hostUp s = true → k.tdi = .unlocked → k.resetting = none → ∃ t, exec (.lockInterfaceRequest vf hash) s = .next t ∧ (t.partition vf).tdi = .locked ∧
       (t.partition vf).keyHash = hash ∧ ∀ b < 6, featureOpen t vf b = false) ∧
     (hostUp s = true → k.tdi = .locked → ∃ t, exec (.startInterfaceRequest vf) s = .next t ∧ (t.partition vf).tdi = .running) ∧
     (k.tdi ≠ .locked → exec (.startInterfaceRequest vf) s = .next s) ∧
     (hostUp s = true → k.resetting = none → ∃ t, exec (.stopInterfaceRequest vf) s = .next t ∧ (t.partition vf).resetting = some (s.now, false)) ∧
     (k.tdi = .locked ∨ k.tdi = .running → ∃ t, exec (.tdiError vf) s = .next t ∧ (t.partition vf).tdi = .error ∧
       ∀ c x, s.context c = some x → x.partition = vf → ∃ y, t.context c = some y ∧ y.killed = true)) ∧
   (∀ (s : State), (s.die 0).verified = true →
     let answers := fun (i : Instr) (bs : List Byte) => ∃ t, exec i s = .next t ∧ t.out = s.out ++ [.spdm bs]
     (∀ a h d x, extEntry 1 ∈ a → extEntry 2 ∈ h → extEntry 3 ∈ d → ∃ t, exec (.negotiateAlgorithms a h d x) s = .next t ∧
       t.spdm.agreed = true ∧ t.out = s.out ++ [.spdm (algorithms x)]) ∧
     (∀ a h d x, extEntry 1 ∉ a ∨ extEntry 2 ∉ h ∨ extEntry 3 ∉ d → ∃ t, exec (.negotiateAlgorithms a h d x) s = .next t ∧ t.spdm.agreed = false) ∧
     (∀ slot off len, slot < 2 → answers (.getCertificate slot off len) (0x02 :: ((Config.certificate slot (slotFirmware s slot)).drop off).take len)) ∧
     (∀ slot nonce, slot < 2 → s.spdm.agreed = true →
       answers (.challenge slot nonce) (0x03 :: Config.sign slot (slotFirmware s slot) (s.spdm.transcript ++ nonce))) ∧
     (∀ block vf nonce, 1 ≤ block → block ≤ 6 → s.spdm.agreed = true → let m := measure s block vf
       answers (.getMeasurements block vf nonce) (0x60 :: (m ++ Config.sign 0 (slotFirmware s 0) (s.spdm.transcript ++ nonce ++ m)))) ∧
     (∀ key, s.spdm.agreed = true → key.length = 1184 → ∃ t x bs, exec (.keyExchange key) s = .next t ∧
       t.spdm.sessions = s.spdm.sessions ++ [x] ∧ t.out = s.out ++ [.spdm (0x64 :: bs)] ∧ bs.length = 1088) ∧
     (s.spdm.agreed = false → (∀ slot nonce, answers (.challenge slot nonce) [0x7F]) ∧ (∀ key, answers (.keyExchange key) [0x7F]))) ∧
   (∀ (s : State) (die version : Nat) (image : List Byte), die ≤ 1 → ∃ t, exec (.bootVerify die image version) s = .next t ∧
     (t.die die).image = image ∧ ((t.die die).verified = true ↔ Config.imageVerifies die image = true ∧ (s.die die).fuse ≤ version)))

/-- R368, R369, Table 22.7: debug commands at their core while STOP is open. `STOP` aborts the activations it names and arms `BRK`; `RESUME`
lets the core dispatch; `STEP` starts the next message or deque record of R217 in step mode
with one instruction to issue, `STEPN` gives more; registers are read
and written; a breakpoint is armed, and hit before its instruction issues; `ENDSTEP` ends the activation. With STOP closed a command
completes `DENIED`. How a register command names its register and its direction is the model's choice (log 22), and so is the arming of `BRK` by
`STOP` (log 15). -/
def Obligations.DebugCommands : Prop :=
  (∀ (s : State) (core code : Nat) (d : DebugCmd), debugHead s core code = some d →
    let ts := d.sel % 4
    let b := s.mailbox d.fn
    let at_ := b.cq + 16 * (b.done % b.cqLen)
    let done := fun (t : State) (status : Nat) (value : Word) => (t.core core).debugIn = (s.core core).debugIn.drop 1 ∧
      natOfBytes (hostRead t at_ 8) = d.cid % 65536 + status % 2 ^ 16 * 2 ^ 16 ∧ natOfBytes (hostRead t (at_ + 8) 8) = value.toNat
    (featureOpen s d.fn 3 = false → ∀ i ∈ [(1, Instr.stop core), (2, .resume core), (3, .stepOne core), (4, .stepN core),
      (5, .debugRead core), (5, .debugWrite core), (6, .bkpt core), (7, .endStep core)], i.1 = code →
        ∃ t, exec i.2 s = .next t ∧ done t 3 0 ∧ t.tsets = s.tsets) ∧
    (featureOpen s d.fn 3 = true →
      (code = 1 → ∃ t, exec (.stop core) s = .next t ∧ done t 0 0 ∧ (t.core core).stopped = true ∧ (t.core core).brkStop = true ∧
        ∀ k < 4, d.sel = 0 ∨ d.sel.testBit k = true → (t.tset core k).act = none) ∧
      (code = 2 → ∃ t, exec (.resume core) s = .next t ∧ done t 0 0 ∧ (t.core core).stopped = false ∧
        ∀ k < 4, isStepping t core k = false) ∧
      (code = 3 → ∀ k, stepChoice s core ts = some (.record k ts) → ∃ t a, exec (.stepOne core) s = .next t ∧ done t 0 0 ∧
        (t.tset core ts).act = some a ∧ a.msg.kind = 5 ∧ a.origin = .deque ∧ a.stepping = true ∧ (t.tset core ts).steps = 1) ∧
      (code = 3 → ∀ (k : Nat) (x : Machine.Slot), stepChoice s core ts = some (.slot k ts) → (s.core core).inbox[k]? = some x →
        msgPasses s core x.msg (entryOf s core x.msg) = true → ∃ t a, exec (.stepOne core) s = .next t ∧ done t 0 0 ∧
        (t.tset core ts).act = some a ∧ a.msg = x.msg ∧ a.stepping = true ∧ (t.tset core ts).steps = 1) ∧
      (code = 4 → isStepping s core ts = true → 1 ≤ d.value.toNat → d.value.toNat ≤ 65535 → ∃ t, exec (.stepN core) s = .next t ∧ done t 0 0 ∧
        (t.tset core ts).steps = (s.tset core ts).steps + d.value.toNat) ∧
      (code = 5 → d.write = false → isStepping s core ts = true → fieldN d.reg 12 4 = 0 → fieldN d.reg 0 12 < 32 →
        ∃ t, exec (.debugRead core) s = .next t ∧ done t 0 ((s.tset core ts).readG (fieldN d.reg 0 12)) ∧ t.tsets = s.tsets) ∧
      (code = 5 → d.write = true → isStepping s core ts = true → fieldN d.reg 12 4 = 0 → 0 < fieldN d.reg 0 12 → fieldN d.reg 0 12 < 28 →
        ∃ t, exec (.debugWrite core) s = .next t ∧ done t 0 0 ∧ (t.tset core ts).readG (fieldN d.reg 0 12) = d.value) ∧
      (code = 6 → ∃ t, exec (.bkpt core) s = .next t ∧ done t 0 0 ∧ mget 0 (t.core core).breaks ts = d.value) ∧
      (code = 7 → isStepping s core ts = true → ∃ t, exec (.endStep core) s = .next t ∧ done t 0 0 ∧ (t.tset core ts).act = none))) ∧
  (∀ (s : State) (core ts : Nat), atBreakpoint s core ts = true → ∃ t, exec (.breakpointHit core ts) s = .next t ∧
    (t.tset core ts).act = none ∧ (t.tset core ts).pc = (s.tset core ts).pc ∧ (t.core core).stopped = true)

/-- R255, R352, R378, R379: the Prakeric Link. A failed flit is retried, and the ninth failure in a row takes its port down; time packets
carry the port's times; a kind that is reserved is dropped and counted; a peer with the rights reads, writes and operates on published
memory and gets its answer, one without them the status `RIGHTS`; a message of the request class goes to its core, and a collective segment is
kept; an answer reaches the request of its cookie. Of a link that is down or not READY no packet comes. (The bytes of a reply and the adjustment
of OFFS, which the lowest node of its group does not make, are the model's, log 11.) -/
def Obligations.Fabric : Prop :=
  (∀ (s : State) (port : Nat), portUp s port = false → exec (.flitRetry port) s = .next s ∧ (∀ a b x, exec (.timesync port a b x) s = .next s) ∧
    exec (.timesyncSend port) s = .next s ∧ (∀ kind, exec (.packetReservedKind port kind) s = .next s) ∧
    ∀ core words, exec (.packetMessage port core words) s = .next s) ∧
  (∀ (s : State) (port : Nat), portUp s port = true →
    (s.choices = [] → (s.port port).retries < 8 → ∃ t, exec (.flitRetry port) s = .next t ∧
      (t.port port).retries = (s.port port).retries + 1 ∧ (t.port port).down = false ∧ (t.partition 0).corrected = (s.partition 0).corrected + 1) ∧
    (8 ≤ (s.port port).retries → ∃ t, exec (.flitRetry port) s = .next t ∧ (t.port port).down = true) ∧
    (∀ a b x, ∃ t, exec (.timesync port a b x) s = .next t ∧ (t.port port).lastReceived = s.now ∧
      t.offs = if isReference s then s.offs else x.toInt) ∧
    (s.now < (s.port port).lastSent + 1000000 → exec (.timesyncSend port) s = .next s) ∧
    ((s.port port).lastSent + 1000000 ≤ s.now → ∃ t, exec (.timesyncSend port) s = .next t ∧ (t.port port).lastSent = s.now ∧
      t.out = s.out ++ [.packet port ⟨0, 16, 0, 0, Config.ownNode, 9⟩ (bytesOf 8 s.now ++ bytesOf 8 (s.port port).lastReceived)]) ∧
    (∀ kind, 10 ≤ kind → kind ≤ 15 → ∃ t, exec (.packetReservedKind port kind) s = .next t ∧
      (t.port port).dropped = (s.port port).dropped + 1)) ∧
  (∀ (s : State) (port src : Nat) (cookie ptr : Word) (owner : BitVec 20), portUp s port = true →
    let reply := fun (status : Byte) (bs : List Byte) => s.out ++ [Output.packet port
      ⟨cookie, (bs.length + 1) % 4096, ownerPartition owner, src, Config.ownNode, 3⟩ (status :: bs)]
    let pa := ptrAddr ptr - 2 ^ 56
    (∀ n, n ≤ 4095 → peerRights s owner ptr n rightR = false →
      ∃ t, exec (.packetLoad port src cookie owner ptr n) s = .next t ∧ t.out = reply 7 [] ∧ t.home = s.home) ∧
    (∀ bs, bs.length ≤ 4095 → peerRights s owner ptr bs.length rightW = false →
      ∃ t, exec (.packetStore port src cookie owner ptr bs) s = .next t ∧ t.out = reply 7 [] ∧ t.home = s.home) ∧
    (s.eccBad = [] → 2 ^ 56 ≤ ptrAddr ptr →
      (∀ n, ptrAddr ptr % 64 + n ≤ 64 → peerRights s owner ptr n rightR = true →
        ∃ t, exec (.packetLoad port src cookie owner ptr n) s = .next t ∧ t.home = s.home ∧
          t.out = reply 0 ((List.range n).map (fun k => s.homeByte (pa + k)))) ∧
      (∀ bs, ptrAddr ptr % 64 + bs.length ≤ 64 → peerRights s owner ptr bs.length rightW = true →
        ∃ t, exec (.packetStore port src cookie owner ptr bs) s = .next t ∧ t.out = reply 0 [] ∧
          ∀ a, t.homeByte a = if pa ≤ a ∧ a < pa + bs.length then (bs[a - pa]?).getD 0 else s.homeByte a) ∧
      (∀ op w b c, op ≤ 10 → w = 4 ∨ w = 8 → ptrAddr ptr % w = 0 → peerRights s owner ptr w rightA = true →
        ∃ t, exec (.packetAtomic port src cookie owner ptr op w b c) s = .next t ∧ t.out = reply 0 (bytesOf w (s.homeRead pa w)) ∧
          t.homeRead pa w = atomicNew op w (s.homeRead pa w) (b.toNat % 2 ^ (8 * w)) (c.toNat % 2 ^ (8 * w))))) ∧
  (∀ (s : State) (port core : Nat) (words : List Word), portUp s port = true →
    let m := msgOfWords words
    isReply m.kind = false → (s.context m.ctx.toNat).isSome = true → contextMayRun s m.ctx.toNat core = true → m.len ≤ 6 →
    ∃ t, exec (.packetMessage port core words) s = .next t ∧ t.mail = s.mail ++ [(.core core, m)]) ∧
  (∀ (s : State) (p g rank offset timeout : Nat) (nodes : List Nat) (bytes : List Byte), groupOf s p g = some (nodes, timeout) →
    rank < nodes.length → bytes.length ≤ 4096 → portUp s (Config.portOf ((nodes[rank]?).getD 0)) = true →
    ∃ t, exec (.packetReduce p g rank offset bytes) s = .next t ∧ t.segments = s.segments ++ [⟨p, g, rank, offset, bytes, s.now⟩]) ∧
  (∀ (s : State) (cookie status : Nat) (bytes : List Byte),
    (pendOf s cookie = none → (∀ x ∈ s.peerLoads, x.cookie = cookie → x.reply ≠ none) → s.owed = [] → ∃ t, exec (.packetReply cookie status bytes) s = .next t ∧
      t.peerStores = s.peerStores.filter (fun x => x.cookie != cookie ||
        !(portUp s x.port || (status != 0 && (s.port x.port).down)))) ∧
    (∀ core ts k p op scope n va x b c, pendOf s cookie = some (core, ts, k, p) → (s.tset core ts).pend[k]? = some p → status = 0 →
      p.posted = false → p.dropped = false → p.kind = .atomic op scope n va x b c none → effScope scope 3 ≠ 0 →
      portUp s (peerPort x.pa) = true → ∃ t q, exec (.packetReply cookie status bytes) s = .next t ∧ (t.tset core ts).pend[k]? = some q ∧
        q.kind = .atomic op scope n va x b c (some (BitVec.ofNat 64 (natOfBytes (bytes.take n))))))

/-- R373, R377, R381, R382: a function of a die whose firmware has verified sets READY or FAIL, in the bring-up page too, and a CXL port that is
READY maps a range; a supply sag halves its cluster's clock, ends a
session that locks clocks, and lasts at least 256 of its cycles; above the package limit every clock is lowered by one step of sixteen,
below it one step is restored, 1 ms or more after the one before; a reset leaves nothing but what is fused or outside; without power nothing is
left. That the millisecond runs from the last step of either direction, and what a reset keeps, are the model's choices (log 39). -/
def Obligations.Power : Prop :=
  (∀ (s : State) (offset d : Nat) (ok : Bool), d ≤ 1 → offset ∈ dieOffsets d → (s.die d).verified = true → (s.die (1 - d)).bridgeDown = false →
    ∃ t, exec (.ready offset ok) s = .next t ∧ mget 0 t.ready offset = mget 0 s.ready offset ||| (if ok then 1 else 2) ∧
      t.homeRead (ptrAddr s.bupage + offset) 1 = (mget 0 t.ready offset).toNat ∧
      (ok = true → 0x48 ≤ offset → offset < 0x4C → ∃ m ∈ t.cxl, m.1 = offset - 0x48 ∧ 0 < m.2.2 ∧ m.2.2 ≤ 2 ^ 40)) ∧
  (∀ (s : State) (c : Nat), c < 64 →
    (∃ t, exec (.supplySag c) s = .next t ∧ (t.cluster c).stretched = true ∧ (t.cluster c).sagSince = clusterCycle s c ∧
      (clocksLocked s c = true → (t.die (c / 32)).session = none)) ∧
    ((s.cluster c).stretched = true → clusterCycle s c < (s.cluster c).sagSince + 256 → exec (.sagStretchEnd c) s = .next s) ∧
    ((s.cluster c).stretched = true → (s.cluster c).sagSince + 256 ≤ clusterCycle s c → ∃ t, exec (.sagStretchEnd c) s = .next t ∧
      (t.cluster c).stretched = false)) ∧
  (∀ (s : State) (w : Nat), ∃ t, exec (.powerCapAdjust w) s = .next t ∧
    t.capSteps = (if s.pwrcap.toNat < w then min 15 (s.capSteps + 1) else if w = s.pwrcap.toNat ∨ s.now < s.capAt + 1000000 then s.capSteps
      else s.capSteps - 1) ∧
    t.capAt = (if s.pwrcap.toNat < w ∨ (w < s.pwrcap.toNat ∧ s.capAt + 1000000 ≤ s.now) then s.now else s.capAt)) ∧
  (∀ (s : State),
    let clear := fun (t : State) => t.tsets = [] ∧ t.cores = [] ∧ t.clusters = [] ∧ t.scratch = [] ∧ t.home = [] ∧ t.ready = [] ∧
      t.contexts = [] ∧ t.partitions = [] ∧ t.owners = [] ∧ t.pgroot = 0 ∧ (∀ d, (t.die d).fuse = (s.die d).fuse) ∧ t.hostMem = s.hostMem
    (s.dies.map (·.1)).Nodup → (∃ t, exec .deviceReset s = .next t ∧ clear t ∧ t.powered = true) ∧ (∃ t, exec .powerLoss s = .next t ∧ clear t ∧ t.powered = false))

/-- R22 to R25, R36, R37, Tables 2.1 to 2.4 and 5.3 to 5.6: words written out in the layout of the manual decode to the instruction they
stand for, and the altered words of Table 2.4 are refused as it says. -/
def Obligations.DecodeWords : Prop :=
  let plain : Guard := ⟨false, 0⟩
  let none_ : Hints := ⟨false, false, 0⟩
  let g := fun (k : BitVec 5) => Operand.g k false
  decode 0x8CC2_6000_0015_0000_0400_0012 = .ok (.spinw ⟨⟨true, 1⟩, ⟨true, false, 0⟩, 0, g 21, g 4, g 18⟩) ∧
  decode 0x8CC2_6100_0015_0000_0400_0012 = .error (.illegalOp .reservedBit) ∧
  decode 0x8CC2_2000_0015_0000_0400_0012 = .error (.illegalOp .guardNeverTrue) ∧
  decode 0x9CC2_6000_0015_0000_0400_0012 = .error (.illegalOp .reservedCell) ∧
  decode 0x8CC2_6000_0015_0000_04E0_0012 = .error (.illegalOperand 3 0xE00012) ∧
  decode 0x8CC2_6000_0015_0000_0400_1012 = .error (.illegalOp .reservedBit) ∧
  decode 0x8CC2_6080_0001_0000_0400_0012 = .error (.illegalOperand 1 0x800001) ∧
  decode 0 = .error (.illegalOp .zeroWord) ∧
  decode 0x400000_200001_200002_200003 = .ok (.vfadd ⟨plain, none_, 0, .v 1 false, .v 2 false, .v 3 false⟩) ∧
  decode 0x880400_000001_000002_000003 = .ok (.aadd ⟨plain, none_, 1, g 1, g 2, g 3⟩) ∧
  decode 0x800C00_000004_000005_800008 = .ok (.ld ⟨plain, none_, 3, g 4, g 5, .i 8⟩) ∧
  decode 0x111400_400001_000002_000003 = .ok (.fcmp ⟨plain, none_, 5, .p 1, g 2, g 3⟩) ∧
  decode 0xC40C00_000001_000002_000003 = .ok (.send ⟨plain, none_, 3, g 1, g 2, g 3⟩)

/-- R22 to R28, R36, R91, Tables 2.1, 2.2 and 5.3 to 5.6: the word of every well-formed instruction decodes to it, whatever its operands,
modifier, guard and hints. -/
def Obligations.DecodeEncode : Prop :=
  ∀ (i : Instr) (w : IWord), i.wellFormed = true → encode i = some w → decode w = .ok i

/-- R22 to R28, R36, R91: a word that decodes is the word of the instruction it decodes to, which is well formed: no two words mean the
same instruction, and no bit of a word is dropped. -/
def Obligations.EncodeDecode : Prop :=
  ∀ (w : IWord) (i : Instr), decode w = .ok i → encode i = some w ∧ i.wellFormed = true

/-- R23, R33 to R36, R63, R64, R223, R348, R382: a step runs the decoded instruction. When the next turn is a core's issue slot, the aborts
that are due are made first; when the core has not issued in this cycle and the first of its thread sets that may issue stands at no
breakpoint, the step is the instruction its word decodes to, and what follows an issue; a word that is refused, or cannot be fetched, traps
with its cause. The word is the one fetched at the pc, or that of the instruction that waits. When the next turn is a step of the device, the step is that. Without power only a reset runs. (The turns
are the model's, log 3.) -/
def Obligations.StepRuns : Prop :=
  (∀ (s : State) (n core ts : Nat) (rest : List Turn) (before others : List Nat) (w : IWord) (v : State),
    let u := dueAborts (advance n { s with agenda := rest }) core
    let x := (u.modCore core (fun c => { c with pass := false })).modTset core ts (fun t => { t with stalled := false })
    let at_ := { x with curCore := core, curTs := ts }
    s.powered = true → s.agenda = .issue n core :: rest → (u.core core).nextIssue ≤ u.cycle core →
    issueOrder (u.core core) = before ++ ts :: others →
    (∀ k ∈ before, mayIssue u core k = false) → mayIssue u core ts = true →
    featureOpen u (u.partitionOf (u.ctxOf core ts)) 3 = false ∨ atBreakpoint u core ts = false → nextWord at_ = .ok (w, v) →
    (∀ i, decode w = .ok i →
      (∀ t, exec i v = .next t → (t.tset core ts).stalled = false → step s = .next (afterIssue t core ts)) ∧
      (∀ t, exec i v = .next t → (t.tset core ts).stalled = true → others = [] →
        step s = .next (t.modCore core (fun c => { c with pass := true }))) ∧
      (∀ r, exec i v = .fault r → step s = .fault r) ∧ (∀ r, exec i v = .refused r → step s = .refused r)) ∧
    (∀ e, decode w = .error e → let t := takeTrap (decodeTrap w e).1 (decodeTrap w e).2 at_.me.pc { v with ia := at_.me.pc }
      (t.tset core ts).stalled = false → step s = .next (afterIssue t core ts))) ∧
  (∀ (s : State) (n core : Nat) (rest : List Turn), let u := dueAborts (advance n { s with agenda := rest }) core
    s.powered = true → s.agenda = .issue n core :: rest → u.cycle core < (u.core core).nextIssue → step s = .next u) ∧
  (∀ (s : State), (s.me.wait ≠ .none → nextWord s = .ok (s.me.word, s)) ∧
    (∀ w v, s.me.wait = .none → fetch s = .ok (w, v) → nextWord s = .ok (w, v.modMe (fun t => { t with word := w }))) ∧
    ∀ ex core ts cause tval, s.curCore = core → s.curTs = ts → nextWord s = .error (.trap cause tval) →
      issueOne ex core ts s = .next (takeTrap cause tval s.me.pc { s with ia := s.me.pc })) ∧
  (∀ (s : State) (n : Nat) (i : Instr) (rest : List Turn), s.agenda = .event n i :: rest →
    (s.powered = true → step s = exec i (advance n { s with agenda := rest })) ∧
    (s.powered = false → i ≠ .deviceReset → step s = .fault .noPower)) ∧
  (∀ (s : State) (n core : Nat) (rest : List Turn), s.powered = false → s.agenda = .issue n core :: rest ∨ s.agenda = [] →
    step s = .fault .noPower)

/-- R45, R52, R66, R227, R381, and log 1 and 2 for the values that no rule gives: right after reset every core's lf is its number plus 1
and its formats are CB4, no thread set holds an activation, every register is full and zero but for p0, no function is READY, nothing is
cached, and every byte of memory reads 0. -/
def Obligations.ResetValues : Prop :=
  let s := State.reset
  (∀ n, (s.core n).lf = BitVec.ofNat 16 (n + 1) ∧ (s.core n).bfmt0 = 0 ∧ (s.core n).bfmt1 = 0 ∧ (s.core n).bfmt2 = 0 ∧ (s.core n).afmt = 0 ∧
    (s.core n).wfmt = 0 ∧ (s.core n).cfmt = 0 ∧ (s.core n).ctx = none ∧ (s.core n).inbox = [] ∧ (s.core n).dqLen = 0 ∧
    (s.core n).icache = [] ∧ (s.core n).plb = [] ∧ (s.core n).tlb = []) ∧
  (∀ c ts, (s.tset c ts).act = none ∧ (s.tset c ts).gEmpty = 0 ∧ (s.tset c ts).vEmpty = 0 ∧ (s.tset c ts).tlvl = 0 ∧
    (s.tset c ts).pushCount = 0 ∧ (∀ k, (s.tset c ts).gRaw k = 0 ∧ (s.tset c ts).readV k = 0 ∧ (s.tset c ts).readC k = 0) ∧
    (s.tset c ts).readP 0 = BitVec.allOnes 64 ∧ ∀ k, k ≠ 0 → (s.tset c ts).readP k = 0) ∧
  (∀ o, mget 0 s.ready o = 0) ∧ (∀ c, (s.cluster c).lines = [] ∧ (s.cluster c).tlb = [] ∧ (s.cluster c).rights = []) ∧
  (∀ a, s.homeByte a = 0) ∧ (∀ c a, s.scratchByte c a = 0) ∧ s.memoryWf

/-- The canonical form of home and host memory (log 2, the model's): every step keeps it, from every state that has it, whatever turn it is. -/
def Obligations.MemoryStaysCanonical : Prop :=
  ∀ (s t : State), s.memoryWf → step s = .next t → t.memoryWf

/-- R23, R30, R47, R55, R98, R99 to R105, R112, R354: the frame of the scalar instructions that write a register at once. Their own effect
changes one register of their kind with its error mark, parity and the time from which it can be read (none where it is g0 or p0), the pc,
with a hint the time of the next issue, and of `FCMP` the exception flags; no other register, mark, parity, flag or special register, no
other thread set, no memory. -/
def Obligations.ScalarFrame : Prop :=
  ∀ (f : Form) (s t : State),
    let r := gIndex s.me.tlvl (regOf f.od)
    let own := fun (u : TSet) => OnlyMe s t ∧ SameMemory s t ∧
      t.me = { u with pc := s.me.pc + 12, stalled := false, wait := .none, walk := .none, arrived := [], tried := none,
                       readyAt := t.me.readyAt, late := t.me.late } ∧ s.me.readyAt ≤ t.me.readyAt
    let parity := fun (reg : Nat) => ∀ k, k ≠ reg → t.me.gPar.getLsbD k = s.me.gPar.getLsbD k
    let times := fun (keys : List Nat) => ∀ j, j ∉ keys → mget 0 t.me.late j = mget 0 s.me.late j
    let gOnly := own { s.me with g := t.me.g, gMark := t.me.gMark, gPar := t.me.gPar } ∧ (∀ k, k ≠ r → t.me.gRaw k = s.me.gRaw k) ∧
      t.me.gRaw 0 = 0 ∧ (∀ k, k ≠ r → mget none t.me.gMark k = mget none s.me.gMark k) ∧ parity r ∧ times [r]
    let pOf := fun (u : TSet) => own { u with p := t.me.p, gPar := t.me.gPar } ∧ (∀ k, k ≠ regOf f.od → t.me.readP k = s.me.readP k) ∧
      t.me.readP 0 = BitVec.allOnes 64 ∧ parity (predNum (regOf f.od))
    (formReady s f none .write = true → ∀ i ∈ [Instr.add f, .sub f, .mul f, .mulh f, .neg f, .abs f, .min f, .max f, .minu f, .maxu f, .and f,
      .or f, .xor f, .andn f, .shl f, .shr f, .sar f, .ror f, .clz f, .ctz f, .popc f, .extr f, .ptog f, .mov f, .lea f, .ptrg f, .ptrs f,
      .curg f], exec i s = .next t → gOnly) ∧
    (formReady s f none .both = true → ∀ i ∈ [Instr.ins f, .sel f], exec i s = .next t → gOnly) ∧
    (∀ (x : BitVec 48) (y : BitVec 16), let w := { f with oa := .unused, ob := .unused }
      (formReady s w none .write = true → exec (.limm f.guard f.hints f.od x) s = .next t → gOnly) ∧
      (formReady s w none .both = true → exec (.limmHi f.guard f.hints f.od y) s = .next t → gOnly)) ∧
    (formReady s f none .write = true → srOf f.oa ≤ 0x802 → srOf f.oa < 0x800 ∨ s.isSystem s.myCtx = true →
      (isTbg (srOf f.oa) = true → s.me.tlvl ≠ 0 ∧ regsClear s (tbgSrc s.me f.oa) [] = true) → exec (.mfs f) s = .next t →
      if isCodebook (srOf f.oa) then
        own { s.me with v := t.me.v, vMark := t.me.vMark, vPar := t.me.vPar } ∧ times [] ∧ ∀ k, k ≠ regOf f.od →
          t.me.readV k = s.me.readV k ∧ mget none t.me.vMark k = mget none s.me.vMark k ∧ t.me.vPar.getLsbD k = s.me.vPar.getLsbD k
      else gOnly) ∧
    (formReady s f none .none = true →
      (∀ i ∈ [Instr.cmp f, .pand f, .por f, .pxor f, .pnot f, .gtop f], exec i s = .next t → pOf s.me ∧ times []) ∧
      (fpEnables s.me.fpctl = 0 → exec (.fcmp f) s = .next t → pOf { s.me with fpctl := t.me.fpctl } ∧
        (∃ e : BitVec 5, t.me.fpctl = fpMerge s.me.fpctl e) ∧ times [128 + regOf f.od, 192]) ∧
      (exec (.curs f) s = .next t → own { s.me with c := t.me.c, gPar := t.me.gPar } ∧ (∀ k, k ≠ regOf f.od → t.me.readC k = s.me.readC k) ∧
        parity (cursorNum (regOf f.od)) ∧ times []))

/-- R26, R55, R115 to R121, R354: the frame of the lane instructions whose destination is a v register: that register with its error mark,
its parity and the time from which it can be read, the cursors that are post-increment operands, which move by their increments, the pc, the time of the next issue,
and the counters of events (R364); no other register, cursor, mark or parity, nothing else of the thread set, no other thread set, no
memory. -/
def Obligations.LaneFrame : Prop :=
  ∀ (f : Form) (s t : State) (d : BitVec 5) (te : Bool), f.od = .v d te →
    let own := OnlyMe { s with clusters := t.clusters } t ∧ SameMemory s t ∧
      (∀ c, t.cluster c = { s.cluster c with counters := (t.cluster c).counters, issued := (t.cluster c).issued }) ∧
      t.me = { s.me with v := t.me.v, vMark := t.me.vMark, vPar := t.me.vPar, c := (bumpCursors f s.me).c, gPar := (bumpCursors f s.me).gPar,
                         pc := s.me.pc + 12, stalled := false, wait := .none, walk := .none, arrived := [], tried := none,
                         readyAt := t.me.readyAt, late := t.me.late } ∧
      (∀ k, k ≠ d.toNat → t.me.readV k = s.me.readV k ∧ mget none t.me.vMark k = mget none s.me.vMark k ∧
        t.me.vPar.getLsbD k = s.me.vPar.getLsbD k) ∧
      (∀ k, (∀ o ∈ [f.oa, f.ob], ∀ i inc, o = .c i true inc → i.toNat ≠ k) →
        t.me.readC k = s.me.readC k ∧ t.me.gPar.getLsbD (cursorNum k) = s.me.gPar.getLsbD (cursorNum k)) ∧
      (∀ k, k < 48 → t.me.gPar.getLsbD k = s.me.gPar.getLsbD k) ∧
      (∀ j, j ≠ 64 + d.toNat → mget 0 t.me.late j = mget 0 s.me.late j) ∧ s.me.readyAt ≤ t.me.readyAt
    (lanesReady f s false → ∀ i ∈ [Instr.vfadd f, .vfsub f, .vfmul f, .vfmin f, .vfmax f, .vfabs f, .vfneg f, .vfrcp f, .vfrsq f, .vfexp2 f,
      .vadd f, .vsub f, .vmul f, .vmulh f, .vmin f, .vmax f, .vand f, .vor f, .vxor f, .vshl f, .vshr f, .vsar f, .vabs f, .vadds f],
      exec i s = .next t → own) ∧
    (lanesReady f s true → exec (.vffma f) s = .next t → own)

/-- R132 to R134, R137, R141, R142, R144, R145, R250: the frame of the stores. A store that enters the queue under no open choice point
changes no register but a post-increment cursor, and no byte of any memory, cache or buffer: its bytes reach memory only when its entry
leaves the queue, and the entry holds the address computed, the bytes of the source there, and for `STU` and `ULK` the lock bit to free.
Only the order of last use of the core's rights and translations may follow (R324, R332). -/
def Obligations.StoreFrame : Prop :=
  ∀ (f : Form) (s t : State), s.me.choiceOpen = false → t.me.storeq.length = s.me.storeq.length + 1 → t.me.act.isSome = s.me.act.isSome →
    let entry := fun (w : QWrite) => t.me.storeq = s.me.storeq ++ [⟨s.uid, w, s.me.owner⟩]
    let frame := fun (u : TSet) => t = { s with tsets := t.tsets, cores := t.cores, ia := t.ia, uid := s.uid + 1 } ∧ SameMemory s t ∧
      (∀ c k, c * 4 + k ≠ s.curCore * 4 + s.curTs → t.tset c k = s.tset c k) ∧
      (∀ n, t.core n = { s.core n with pass := (t.core n).pass, plb := (t.core n).plb, tlb := (t.core n).tlb } ∧
        (t.core n).plb.Perm (s.core n).plb ∧ (t.core n).tlb.Perm (s.core n).tlb) ∧
      s.me.readyAt ≤ t.me.readyAt ∧
      t.me = { u with storeq := t.me.storeq, pc := s.me.pc + 12, stalled := false, wait := .none, walk := .none, arrived := [], tried := none,
                      readyAt := t.me.readyAt }
    let act := activeLanes (guardMask s.me f.guard) (laneCount (tyOf f))
    let w := laneBits (tyOf f)
    let x := s.me.value f.oa
    let v := s.me.readV (regOf f.oa)
    let n := Machine.sizeOf f.md
    let ea := effAddr s f.od f.ob
    let a := scratchOf s ea
    let free := scratchOf s (effAddr s f.oa f.ob)
    let cur := cursorAddr s (regOf f.od)
    let scattered := fun (off : State → Nat → Int) => entry (.scratch cur.core
      ((laneLoads w act (fun i => laneAddr cur (off s i))).map (fun p => (p.2, lineByte v p.1))) cur.remote none)
    (exec (.st f) s = .next t → frame s.me ∧ ∃ at_, checkAccess (begin s) ea n n rightW = .ok at_ ∧
      entry (.global ea at_ ((List.range n).zip (bytesOf n x.toNat)))) ∧
    (exec (.vgst f) s = .next t → frame s.me ∧ ∃ at_, checkAccess (begin s) ea 64 64 rightW = .ok at_ ∧
      entry (.global ea at_ (laneBytes w act 0 v))) ∧
    (exec (.sst f) s = .next t → frame s.me ∧ entry (.scratch a.core (storeBytes a n x) a.remote none)) ∧
    (exec (.stu f) s = .next t → frame s.me ∧ entry (.scratch a.core (storeBytes a 8 x) a.remote (some (lockBit a)))) ∧
    (exec (.ulk f) s = .next t → frame s.me ∧ entry (.scratch free.core [] free.remote (some (lockBit free)))) ∧
    (exec (.vst f) s = .next t →
      match f.od with
      | .b _ _ _ off => frame s.me ∧ entry (.scratch s.curCore (laneBytes w act (64 * (off.toNat + (s.me.value f.ob).toNat)) v) false none)
      | _ => frame (bumpCursors f s.me) ∧ entry (.scratch cur.core (laneBytes w act cur.addr v) cur.remote none)) ∧
    (exec (.vsts f) s = .next t → frame (bumpCursors f s.me) ∧ scattered (strideOff f)) ∧
    (exec (.vsct f) s = .next t → frame (bumpCursors f s.me) ∧ scattered (gatherOff f))

/-- R48, R109: a cursor holds bits 17:0 as the address, bit 24 as the remote flag and bits 23:20 as the core, in the form of R26; bits
19:18 read 0. -/
def Obligations.Cursors : Prop :=
  ∀ (f : Form) (s : State), formReady s f none .none = true →
    ∃ t, exec (.curs f) s = .next t ∧
      let x := s.me.value f.oa
      let c := t.me.readC (regOf f.od)
      let a := saddrOf s.curCore c
      c.extractLsb' 18 2 = 0 ∧ c.extractLsb' 0 18 = x.extractLsb' 0 18 ∧ c.getLsbD 24 = x.getLsbD 24 ∧ c.extractLsb' 20 4 = x.extractLsb' 20 4 ∧
      a.addr = (x.extractLsb' 0 18).toNat ∧ a.remote = x.getLsbD 24 ∧
      (isCompute s.curCore = true → x.getLsbD 24 = true → a.core = clusterOf s.curCore * 16 + (x.extractLsb' 20 4).toNat) ∧
      (x.getLsbD 24 = false → a.core = s.curCore)

/-- R299: the token bucket of a tenant entry: filled when the entry is written, never raised above BURST, a token more for each that is due at RATE per
ms, those due while it was full apart; a LAUNCH that passes checks 1 and 2 takes one, without one it is refused RATE, and one refused before takes none, and one whose fabric port is down does not arrive. -/
def Obligations.TokenBuckets : Prop :=
  (∀ (s : State) (c : MailCmd) (die k rate burst ctx : Nat) (lo hi : Word), s.dsmWait = none → hostUp s = true → nextCommand s 0 = some c →
    c.bad = false → c.op = 8 → (s.partition 0).resetting = none →
    die < 2 → k < 4096 → 1 ≤ burst → burst ≤ 65535 → rate < 65536 → ∃ t, exec (.dsm (.tenant die k true rate burst ctx lo hi)) s = .next t ∧ (t.tenant die k).tokens = burst ∧
      (t.tenant die k).burst = burst ∧ (t.tenant die k).rate = rate ∧ (t.tenant die k).since = s.now ∧ (t.tenant die k).gained = 0) ∧
  (∀ (s : State) (die k : Nat), let e := s.tenant die k
    let due := (s.now - e.since) * e.rate / 1000000
    ∃ t, exec (.tokenRefill die k) s = .next t ∧
      (e.valid = true → e.tokens ≤ e.burst → e.gained ≤ due → (t.tenant die k).tokens = min e.burst (e.tokens + (due - e.gained)) ∧
        (t.tenant die k).gained = due) ∧
      (e.valid = false ∨ due ≤ e.gained → t.tenant die k = e)) ∧
  (∀ (s : State) (die src tenant : Nat) (cookie : Word) (record : List Word),
    let k := s.tenant die tenant
    let e := if k.valid then k.settled s.now else k
    let outside := !k.valid || k.ctx.toNat != recCtx record || (s.context (recCtx record)).isNone ||
      (s.partition (s.partitionOf k.ctx.toNat)).resetting.isSome || decide (ptrAddr (recWord record 1) < ptrAddr k.lo) ||
      decide (ptrAddr k.hi ≤ ptrAddr (recWord record 1))
    (portUp s (Config.portOf src) = false → exec (.fabricLaunch die src tenant cookie record) s = .next s) ∧
    (portUp s (Config.portOf src) = true →
    ∃ t l, exec (.fabricLaunch die src tenant cookie record) s = .next t ∧ t.launches = s.launches ++ [l] ∧
      (recordOk record true = false → l.status = some 2 ∧ t.tenant die tenant = e) ∧
      (recordOk record true = true → outside = true → l.status = some 4 ∧ t.tenant die tenant = e) ∧
      (recordOk record true = true → outside = false → e.tokens = 0 → l.status = some 6 ∧ t.tenant die tenant = e) ∧
      (recordOk record true = true → outside = false → e.tokens ≠ 0 → l.status ≠ some 6 ∧ (t.tenant die tenant).tokens = e.tokens - 1)))

/-- R32: the target of a displacement is the instruction's own address plus four times the sign-extended immediate, from 4,194,304 bytes
before it to 4,194,300 bytes behind it. -/
def Obligations.Displacements : Prop :=
  ∀ (f : Form) (s : State) (d : BitVec 21), f.ob = .i d →
    (-4194304 ≤ 4 * d.toInt ∧ 4 * d.toInt ≤ 4194300) ∧
    let target : Word := s.me.pc + 4 * d.signExtend 64
    (formReady s f none .none = true → ∃ t, exec (.br f) s = .next t ∧ t.me.pc = target) ∧
    (formReady s f none .write = true → ∃ t, exec (.call f) s = .next t ∧ t.me.pc = target) ∧
    (formReady s f none .both = true → s.me.value f.od ≠ 1 → ∃ t, exec (.loop f) s = .next t ∧ t.me.pc = target)
end

