-- ==== Sys2Proof/Laws/Exec.lean ====
section
/-! SUPPORT. The dispatch, constructor by constructor: what each arm of `exec` calls. -/

namespace Sys2Proof.Machine

theorem exec_add (f : Form) (s : State) : exec (.add f) s = execAdd f s := rfl
theorem exec_sub (f : Form) (s : State) : exec (.sub f) s = execSub f s := rfl
theorem exec_mul (f : Form) (s : State) : exec (.mul f) s = execMul f s := rfl
theorem exec_mulh (f : Form) (s : State) : exec (.mulh f) s = execMulh f s := rfl
theorem exec_div (f : Form) (s : State) : exec (.div f) s = execDiv f s := rfl
theorem exec_divu (f : Form) (s : State) : exec (.divu f) s = execDivu f s := rfl
theorem exec_rem (f : Form) (s : State) : exec (.rem f) s = execRem f s := rfl
theorem exec_remu (f : Form) (s : State) : exec (.remu f) s = execRemu f s := rfl
theorem exec_neg (f : Form) (s : State) : exec (.neg f) s = execNeg f s := rfl
theorem exec_abs (f : Form) (s : State) : exec (.abs f) s = execAbs f s := rfl
theorem exec_min (f : Form) (s : State) : exec (.min f) s = execMin f s := rfl
theorem exec_max (f : Form) (s : State) : exec (.max f) s = execMax f s := rfl
theorem exec_minu (f : Form) (s : State) : exec (.minu f) s = execMinu f s := rfl
theorem exec_maxu (f : Form) (s : State) : exec (.maxu f) s = execMaxu f s := rfl
theorem exec_and (f : Form) (s : State) : exec (.and f) s = execAnd f s := rfl
theorem exec_or (f : Form) (s : State) : exec (.or f) s = execOr f s := rfl
theorem exec_xor (f : Form) (s : State) : exec (.xor f) s = execXor f s := rfl
theorem exec_andn (f : Form) (s : State) : exec (.andn f) s = execAndn f s := rfl
theorem exec_shl (f : Form) (s : State) : exec (.shl f) s = execShl f s := rfl
theorem exec_shr (f : Form) (s : State) : exec (.shr f) s = execShr f s := rfl
theorem exec_sar (f : Form) (s : State) : exec (.sar f) s = execSar f s := rfl
theorem exec_ror (f : Form) (s : State) : exec (.ror f) s = execRor f s := rfl
theorem exec_clz (f : Form) (s : State) : exec (.clz f) s = execClz f s := rfl
theorem exec_ctz (f : Form) (s : State) : exec (.ctz f) s = execCtz f s := rfl
theorem exec_popc (f : Form) (s : State) : exec (.popc f) s = execPopc f s := rfl
theorem exec_extr (f : Form) (s : State) : exec (.extr f) s = execExtr f s := rfl
theorem exec_ins (f : Form) (s : State) : exec (.ins f) s = execIns f s := rfl
theorem exec_cmp (f : Form) (s : State) : exec (.cmp f) s = execCmp f s := rfl
theorem exec_sel (f : Form) (s : State) : exec (.sel f) s = execSel f s := rfl
theorem exec_pand (f : Form) (s : State) : exec (.pand f) s = execPand f s := rfl
theorem exec_por (f : Form) (s : State) : exec (.por f) s = execPor f s := rfl
theorem exec_pxor (f : Form) (s : State) : exec (.pxor f) s = execPxor f s := rfl
theorem exec_pnot (f : Form) (s : State) : exec (.pnot f) s = execPnot f s := rfl
theorem exec_ptog (f : Form) (s : State) : exec (.ptog f) s = execPtog f s := rfl
theorem exec_gtop (f : Form) (s : State) : exec (.gtop f) s = execGtop f s := rfl
theorem exec_mov (f : Form) (s : State) : exec (.mov f) s = execMov f s := rfl
theorem exec_limm (guard : Guard) (hints : Hints) (od : Operand) (value : BitVec 48) (s : State) : exec (.limm guard hints od value) s = execLimm guard hints od value s := rfl
theorem exec_limmHi (guard : Guard) (hints : Hints) (od : Operand) (value : BitVec 16) (s : State) : exec (.limmHi guard hints od value) s = execLimmHi guard hints od value s := rfl
theorem exec_lea (f : Form) (s : State) : exec (.lea f) s = execLea f s := rfl
theorem exec_ptrg (f : Form) (s : State) : exec (.ptrg f) s = execPtrg f s := rfl
theorem exec_ptrs (f : Form) (s : State) : exec (.ptrs f) s = execPtrs f s := rfl
theorem exec_mfs (f : Form) (s : State) : exec (.mfs f) s = execMfs f s := rfl
theorem exec_mts (f : Form) (s : State) : exec (.mts f) s = execMts f s := rfl
theorem exec_mtsOwner (f : Form) (s : State) : exec (.mtsOwner f) s = execMtsOwner f s := rfl
theorem exec_fpctlAccess (f : Form) (s : State) : exec (.fpctlAccess f) s = execFpctlAccess f s := rfl
theorem exec_mfsTmstat (f : Form) (s : State) : exec (.mfsTmstat f) s = execMfsTmstat f s := rfl
theorem exec_mfsCounter (f : Form) (s : State) : exec (.mfsCounter f) s = execMfsCounter f s := rfl
theorem exec_mtsCsel (f : Form) (s : State) : exec (.mtsCsel f) s = execMtsCsel f s := rfl
theorem exec_curs (f : Form) (s : State) : exec (.curs f) s = execCurs f s := rfl
theorem exec_curg (f : Form) (s : State) : exec (.curg f) s = execCurg f s := rfl
theorem exec_fadd (f : Form) (s : State) : exec (.fadd f) s = execFadd f s := rfl
theorem exec_fsub (f : Form) (s : State) : exec (.fsub f) s = execFsub f s := rfl
theorem exec_fmul (f : Form) (s : State) : exec (.fmul f) s = execFmul f s := rfl
theorem exec_ffma (f : Form) (s : State) : exec (.ffma f) s = execFfma f s := rfl
theorem exec_fdiv (f : Form) (s : State) : exec (.fdiv f) s = execFdiv f s := rfl
theorem exec_fsqrt (f : Form) (s : State) : exec (.fsqrt f) s = execFsqrt f s := rfl
theorem exec_fmin (f : Form) (s : State) : exec (.fmin f) s = execFmin f s := rfl
theorem exec_fmax (f : Form) (s : State) : exec (.fmax f) s = execFmax f s := rfl
theorem exec_fcmp (f : Form) (s : State) : exec (.fcmp f) s = execFcmp f s := rfl
theorem exec_fcvt (f : Form) (s : State) : exec (.fcvt f) s = execFcvt f s := rfl
theorem exec_vfadd (f : Form) (s : State) : exec (.vfadd f) s = execVfadd f s := rfl
theorem exec_vfsub (f : Form) (s : State) : exec (.vfsub f) s = execVfsub f s := rfl
theorem exec_vfmul (f : Form) (s : State) : exec (.vfmul f) s = execVfmul f s := rfl
theorem exec_vffma (f : Form) (s : State) : exec (.vffma f) s = execVffma f s := rfl
theorem exec_vfmin (f : Form) (s : State) : exec (.vfmin f) s = execVfmin f s := rfl
theorem exec_vfmax (f : Form) (s : State) : exec (.vfmax f) s = execVfmax f s := rfl
theorem exec_vfabs (f : Form) (s : State) : exec (.vfabs f) s = execVfabs f s := rfl
theorem exec_vfneg (f : Form) (s : State) : exec (.vfneg f) s = execVfneg f s := rfl
theorem exec_vfrcp (f : Form) (s : State) : exec (.vfrcp f) s = execVfrcp f s := rfl
theorem exec_vfrsq (f : Form) (s : State) : exec (.vfrsq f) s = execVfrsq f s := rfl
theorem exec_vfexp2 (f : Form) (s : State) : exec (.vfexp2 f) s = execVfexp2 f s := rfl
theorem exec_vfcmpeq (f : Form) (s : State) : exec (.vfcmpeq f) s = execVfcmpeq f s := rfl
theorem exec_vfcmplt (f : Form) (s : State) : exec (.vfcmplt f) s = execVfcmplt f s := rfl
theorem exec_vfcmple (f : Form) (s : State) : exec (.vfcmple f) s = execVfcmple f s := rfl
theorem exec_vadd (f : Form) (s : State) : exec (.vadd f) s = execVadd f s := rfl
theorem exec_vsub (f : Form) (s : State) : exec (.vsub f) s = execVsub f s := rfl
theorem exec_vmul (f : Form) (s : State) : exec (.vmul f) s = execVmul f s := rfl
theorem exec_vmulh (f : Form) (s : State) : exec (.vmulh f) s = execVmulh f s := rfl
theorem exec_vmin (f : Form) (s : State) : exec (.vmin f) s = execVmin f s := rfl
theorem exec_vmax (f : Form) (s : State) : exec (.vmax f) s = execVmax f s := rfl
theorem exec_vand (f : Form) (s : State) : exec (.vand f) s = execVand f s := rfl
theorem exec_vor (f : Form) (s : State) : exec (.vor f) s = execVor f s := rfl
theorem exec_vxor (f : Form) (s : State) : exec (.vxor f) s = execVxor f s := rfl
theorem exec_vshl (f : Form) (s : State) : exec (.vshl f) s = execVshl f s := rfl
theorem exec_vshr (f : Form) (s : State) : exec (.vshr f) s = execVshr f s := rfl
theorem exec_vsar (f : Form) (s : State) : exec (.vsar f) s = execVsar f s := rfl
theorem exec_vabs (f : Form) (s : State) : exec (.vabs f) s = execVabs f s := rfl
theorem exec_vcmpeq (f : Form) (s : State) : exec (.vcmpeq f) s = execVcmpeq f s := rfl
theorem exec_vcmplt (f : Form) (s : State) : exec (.vcmplt f) s = execVcmplt f s := rfl
theorem exec_vsel (f : Form) (s : State) : exec (.vsel f) s = execVsel f s := rfl
theorem exec_vadds (f : Form) (s : State) : exec (.vadds f) s = execVadds f s := rfl
theorem exec_vcvt (f : Form) (s : State) : exec (.vcvt f) s = execVcvt f s := rfl
theorem exec_vqnt (f : Form) (s : State) : exec (.vqnt f) s = execVqnt f s := rfl
theorem exec_vdqnt (f : Form) (s : State) : exec (.vdqnt f) s = execVdqnt f s := rfl
theorem exec_vscl (f : Form) (s : State) : exec (.vscl f) s = execVscl f s := rfl
theorem exec_vamax (f : Form) (s : State) : exec (.vamax f) s = execVamax f s := rfl
theorem exec_vrsum (f : Form) (s : State) : exec (.vrsum f) s = execVrsum f s := rfl
theorem exec_vrmax (f : Form) (s : State) : exec (.vrmax f) s = execVrmax f s := rfl
theorem exec_vrmin (f : Form) (s : State) : exec (.vrmin f) s = execVrmin f s := rfl
theorem exec_vperm (f : Form) (s : State) : exec (.vperm f) s = execVperm f s := rfl
theorem exec_vbcast (f : Form) (s : State) : exec (.vbcast f) s = execVbcast f s := rfl
theorem exec_vext (f : Form) (s : State) : exec (.vext f) s = execVext f s := rfl
theorem exec_vins (f : Form) (s : State) : exec (.vins f) s = execVins f s := rfl
theorem exec_vrot (f : Form) (s : State) : exec (.vrot f) s = execVrot f s := rfl
theorem exec_vcomp (f : Form) (s : State) : exec (.vcomp f) s = execVcomp f s := rfl
theorem exec_vexpd (f : Form) (s : State) : exec (.vexpd f) s = execVexpd f s := rfl
theorem exec_vld (f : Form) (s : State) : exec (.vld f) s = execVld f s := rfl
theorem exec_vst (f : Form) (s : State) : exec (.vst f) s = execVst f s := rfl
theorem exec_vlds (f : Form) (s : State) : exec (.vlds f) s = execVlds f s := rfl
theorem exec_vsts (f : Form) (s : State) : exec (.vsts f) s = execVsts f s := rfl
theorem exec_vgth (f : Form) (s : State) : exec (.vgth f) s = execVgth f s := rfl
theorem exec_vsct (f : Form) (s : State) : exec (.vsct f) s = execVsct f s := rfl
theorem exec_ld (f : Form) (s : State) : exec (.ld f) s = execLd f s := rfl
theorem exec_st (f : Form) (s : State) : exec (.st f) s = execSt f s := rfl
theorem exec_vgld (f : Form) (s : State) : exec (.vgld f) s = execVgld f s := rfl
theorem exec_vgst (f : Form) (s : State) : exec (.vgst f) s = execVgst f s := rfl
theorem exec_pft (f : Form) (s : State) : exec (.pft f) s = execPft f s := rfl
theorem exec_sld (f : Form) (s : State) : exec (.sld f) s = execSld f s := rfl
theorem exec_sst (f : Form) (s : State) : exec (.sst f) s = execSst f s := rfl
theorem exec_ldl (f : Form) (s : State) : exec (.ldl f) s = execLdl f s := rfl
theorem exec_stu (f : Form) (s : State) : exec (.stu f) s = execStu f s := rfl
theorem exec_ulk (f : Form) (s : State) : exec (.ulk f) s = execUlk f s := rfl
theorem exec_aadd (f : Form) (s : State) : exec (.aadd f) s = execAadd f s := rfl
theorem exec_afadd (f : Form) (s : State) : exec (.afadd f) s = execAfadd f s := rfl
theorem exec_amax (f : Form) (s : State) : exec (.amax f) s = execAmax f s := rfl
theorem exec_amaxu (f : Form) (s : State) : exec (.amaxu f) s = execAmaxu f s := rfl
theorem exec_afmax (f : Form) (s : State) : exec (.afmax f) s = execAfmax f s := rfl
theorem exec_amin (f : Form) (s : State) : exec (.amin f) s = execAmin f s := rfl
theorem exec_aand (f : Form) (s : State) : exec (.aand f) s = execAand f s := rfl
theorem exec_aor (f : Form) (s : State) : exec (.aor f) s = execAor f s := rfl
theorem exec_axor (f : Form) (s : State) : exec (.axor f) s = execAxor f s := rfl
theorem exec_axchg (f : Form) (s : State) : exec (.axchg f) s = execAxchg f s := rfl
theorem exec_acas (f : Form) (s : State) : exec (.acas f) s = execAcas f s := rfl
theorem exec_acq (f : Form) (s : State) : exec (.acq f) s = execAcq f s := rfl
theorem exec_rel (f : Form) (s : State) : exec (.rel f) s = execRel f s := rfl
theorem exec_bind (f : Form) (s : State) : exec (.bind f) s = execBind f s := rfl
theorem exec_unbind (f : Form) (s : State) : exec (.unbind f) s = execUnbind f s := rfl
theorem exec_fence (f : Form) (s : State) : exec (.fence f) s = execFence f s := rfl
theorem exec_xfence (f : Form) (s : State) : exec (.xfence f) s = execXfence f s := rfl
theorem exec_spinw (f : Form) (s : State) : exec (.spinw f) s = execSpinw f s := rfl
theorem exec_barsync (f : Form) (s : State) : exec (.barsync f) s = execBarsync f s := rfl
theorem exec_barmax (f : Form) (s : State) : exec (.barmax f) s = execBarmax f s := rfl
theorem exec_grant (f : Form) (s : State) : exec (.grant f) s = execGrant f s := rfl
theorem exec_revoke (f : Form) (s : State) : exec (.revoke f) s = execRevoke f s := rfl
theorem exec_rchk (f : Form) (s : State) : exec (.rchk f) s = execRchk f s := rfl
theorem exec_genadv (f : Form) (s : State) : exec (.genadv f) s = execGenadv f s := rfl
theorem exec_tlbinv (f : Form) (s : State) : exec (.tlbinv f) s = execTlbinv f s := rfl
theorem exec_mma (f : Form) (s : State) : exec (.mma f) s = execMma f s := rfl
theorem exec_mmas (f : Form) (s : State) : exec (.mmas f) s = execMmas f s := rfl
theorem exec_mrot (f : Form) (s : State) : exec (.mrot f) s = execMrot f s := rfl
theorem exec_mrot2 (f : Form) (s : State) : exec (.mrot2 f) s = execMrot2 f s := rfl
theorem exec_cclr (f : Form) (s : State) : exec (.cclr f) s = execCclr f s := rfl
theorem exec_tld (f : Form) (s : State) : exec (.tld f) s = execTld f s := rfl
theorem exec_tst (f : Form) (s : State) : exec (.tst f) s = execTst f s := rfl
theorem exec_tcvt (f : Form) (s : State) : exec (.tcvt f) s = execTcvt f s := rfl
theorem exec_twait (f : Form) (s : State) : exec (.twait f) s = execTwait f s := rfl
theorem exec_esend (f : Form) (s : State) : exec (.esend f) s = execEsend f s := rfl
theorem exec_gnode (f : Form) (s : State) : exec (.gnode f) s = execGnode f s := rfl
theorem exec_gseal (f : Form) (s : State) : exec (.gseal f) s = execGseal f s := rfl
theorem exec_br (f : Form) (s : State) : exec (.br f) s = execBr f s := rfl
theorem exec_bri (f : Form) (s : State) : exec (.bri f) s = execBri f s := rfl
theorem exec_call (f : Form) (s : State) : exec (.call f) s = execCall f s := rfl
theorem exec_ret (f : Form) (s : State) : exec (.ret f) s = execRet f s := rfl
theorem exec_loop (f : Form) (s : State) : exec (.loop f) s = execLoop f s := rfl
theorem exec_send (f : Form) (s : State) : exec (.send f) s = execSend f s := rfl
theorem exec_sendnow (f : Form) (s : State) : exec (.sendnow f) s = execSendnow f s := rfl
theorem exec_endAct (f : Form) (s : State) : exec (.endAct f) s = execEnd f s := rfl
theorem exec_endw (f : Form) (s : State) : exec (.endw f) s = execEndw f s := rfl
theorem exec_rread (f : Form) (s : State) : exec (.rread f) s = execRread f s := rfl
theorem exec_htset (f : Form) (s : State) : exec (.htset f) s = execHtset f s := rfl
theorem exec_tagen (f : Form) (s : State) : exec (.tagen f) s = execTagen f s := rfl
theorem exec_tagpnd (f : Form) (s : State) : exec (.tagpnd f) s = execTagpnd f s := rfl
theorem exec_fork (f : Form) (s : State) : exec (.fork f) s = execFork f s := rfl
theorem exec_join (f : Form) (s : State) : exec (.join f) s = execJoin f s := rfl
theorem exec_qpost (f : Form) (s : State) : exec (.qpost f) s = execQpost f s := rfl
theorem exec_evset (f : Form) (s : State) : exec (.evset f) s = execEvset f s := rfl
theorem exec_evclr (f : Form) (s : State) : exec (.evclr f) s = execEvclr f s := rfl
theorem exec_trye (f : Form) (s : State) : exec (.trye f) s = execTrye f s := rfl
theorem exec_fail (f : Form) (s : State) : exec (.fail f) s = execFail f s := rfl
theorem exec_cut (f : Form) (s : State) : exec (.cut f) s = execCut f s := rfl
theorem exec_trail (f : Form) (s : State) : exec (.trail f) s = execTrail f s := rfl
theorem exec_spec (f : Form) (s : State) : exec (.spec f) s = execSpec f s := rfl
theorem exec_resolve (f : Form) (s : State) : exec (.resolve f) s = execResolve f s := rfl
theorem exec_nop (f : Form) (s : State) : exec (.nop f) s = execNop f s := rfl
theorem exec_trap (f : Form) (s : State) : exec (.trap f) s = execTrap f s := rfl
theorem exec_tret (f : Form) (s : State) : exec (.tret f) s = execTret f s := rfl
theorem exec_tabort (f : Form) (s : State) : exec (.tabort f) s = execTabort f s := rfl
theorem exec_yieldAct (f : Form) (s : State) : exec (.yieldAct f) s = execYield f s := rfl
theorem exec_brk (f : Form) (s : State) : exec (.brk f) s = execBrk f s := rfl
theorem exec_specialRegisterWrite (f : Form) (s : State) : exec (.specialRegisterWrite f) s = execSpecialRegisterWrite f s := rfl
theorem exec_atomicPerform (core : Nat) (ts : Nat) (k : Nat) (s : State) : exec (.atomicPerform core ts k) s = execAtomicPerform core ts k s := rfl
theorem exec_syncGrant (pa : Nat) (s : State) : exec (.syncGrant pa) s = execSyncGrant pa s := rfl
theorem exec_watchArm (k : Nat) (s : State) : exec (.watchArm k) s = execWatchArm k s := rfl
theorem exec_spinwFire (k : Nat) (s : State) : exec (.spinwFire k) s = execSpinwFire k s := rfl
theorem exec_tierWatchPoll (k : Nat) (peer : Word) (s : State) : exec (.tierWatchPoll k peer) s = execTierWatchPoll k peer s := rfl
theorem exec_barrierRelease (cluster : Nat) (b : Nat) (s : State) : exec (.barrierRelease cluster b) s = execBarrierRelease cluster b s := rfl
theorem exec_purgeArrival (k : Nat) (core : Nat) (s : State) : exec (.purgeArrival k core) s = execPurgeArrival k core s := rfl
theorem exec_rightsWalk (core : Nat) (ts : Nat) (s : State) : exec (.rightsWalk core ts) s = execRightsWalk core ts s := rfl
theorem exec_pageWalk (core : Nat) (ts : Nat) (s : State) : exec (.pageWalk core ts) s = execPageWalk core ts s := rfl
theorem exec_anvilStart (core : Nat) (s : State) : exec (.anvilStart core) s = execAnvilStart core s := rfl
theorem exec_anvilEvaluationEnd (core : Nat) (s : State) : exec (.anvilEvaluationEnd core) s = execAnvilEvaluationEnd core s := rfl
theorem exec_replayFetch (core : Nat) (s : State) : exec (.replayFetch core) s = execReplayFetch core s := rfl
theorem exec_remoteBlockFetch (core : Nat) (y : Bool) (s : State) : exec (.remoteBlockFetch core y) s = execRemoteBlockFetch core y s := rfl
theorem exec_rotationHalfArrival (k : Nat) (s : State) : exec (.rotationHalfArrival k) s = execRotationHalfArrival k s := rfl
theorem exec_rotationLanding (core : Nat) (s : State) : exec (.rotationLanding core) s = execRotationLanding core s := rfl
theorem exec_pairAbort (core : Nat) (s : State) : exec (.pairAbort core) s = execPairAbort core s := rfl
theorem exec_halfDiscard (core : Nat) (k : Nat) (s : State) : exec (.halfDiscard core k) s = execHalfDiscard core k s := rfl
theorem exec_streamCommandStart (cluster : Nat) (engine : Nat) (s : State) : exec (.streamCommandStart cluster engine) s = execStreamCommandStart cluster engine s := rfl
theorem exec_streamCommandComplete (cluster : Nat) (engine : Nat) (s : State) : exec (.streamCommandComplete cluster engine) s = execStreamCommandComplete cluster engine s := rfl
theorem exec_streamLoad (cluster : Nat) (engine : Nat) (rows : Nat) (s : State) : exec (.streamLoad cluster engine rows) s = execStreamLoad cluster engine rows s := rfl
theorem exec_streamStore (cluster : Nat) (engine : Nat) (rows : Nat) (s : State) : exec (.streamStore cluster engine rows) s = execStreamStore cluster engine rows s := rfl
theorem exec_streamConvert (cluster : Nat) (engine : Nat) (rows : Nat) (s : State) : exec (.streamConvert cluster engine rows) s = execStreamConvert cluster engine rows s := rfl
theorem exec_copy (die : Nat) (engine : Nat) (units : Nat) (s : State) : exec (.copy die engine units) s = execCopy die engine units s := rfl
theorem exec_fill (die : Nat) (engine : Nat) (units : Nat) (s : State) : exec (.fill die engine units) s = execFill die engine units s := rfl
theorem exec_reduce (die : Nat) (engine : Nat) (s : State) : exec (.reduce die engine) s = execReduce die engine s := rfl
theorem exec_engineCommandComplete (die : Nat) (engine : Nat) (s : State) : exec (.engineCommandComplete die engine) s = execEngineCommandComplete die engine s := rfl
theorem exec_leaseExpiry (die : Nat) (engine : Nat) (s : State) : exec (.leaseExpiry die engine) s = execLeaseExpiry die engine s := rfl
theorem exec_graphDispatch (cluster : Nat) (cls : Nat) (core : Nat) (s : State) : exec (.graphDispatch cluster cls core) s = execGraphDispatch cluster cls core s := rfl
theorem exec_graphRecordComplete (cluster : Nat) (k : Nat) (s : State) : exec (.graphRecordComplete cluster k) s = execGraphRecordComplete cluster k s := rfl
theorem exec_messageArrival (src : MsgFrom) (s : State) : exec (.messageArrival src) s = execMessageArrival src s := rfl
theorem exec_handlerCacheFill (core : Nat) (tag : BitVec 12) (s : State) : exec (.handlerCacheFill core tag) s = execHandlerCacheFill core tag s := rfl
theorem exec_directMessage (k : Nat) (s : State) : exec (.directMessage k) s = execDirectMessage k s := rfl
theorem exec_endwWatchFire (bank : Bool) (k : Nat) (s : State) : exec (.endwWatchFire bank k) s = execEndwWatchFire bank k s := rfl
theorem exec_readCompletion (cluster : Nat) (engine : Nat) (s : State) : exec (.readCompletion cluster engine) s = execReadCompletion cluster engine s := rfl
theorem exec_joinStep (core : Nat) (ts : Nat) (s : State) : exec (.joinStep core ts) s = execJoinStep core ts s := rfl
theorem exec_queueSpaceTrigger (q : Nat) (s : State) : exec (.queueSpaceTrigger q) s = execQueueSpaceTrigger q s := rfl
theorem exec_searchTheftRequest (core : Nat) (s : State) : exec (.searchTheftRequest core) s = execSearchTheftRequest core s := rfl
theorem exec_theftGrant (thief : Nat) (victim : Nat) (s : State) : exec (.theftGrant thief victim) s = execTheftGrant thief victim s := rfl
theorem exec_theftCopyComplete (k : Nat) (s : State) : exec (.theftCopyComplete k) s = execTheftCopyComplete k s := rfl
theorem exec_theftStart (core : Nat) (s : State) : exec (.theftStart core) s = execTheftStart core s := rfl
theorem exec_pruneNotice (cluster : Nat) (k : Nat) (core : Nat) (s : State) : exec (.pruneNotice cluster k core) s = execPruneNotice cluster k core s := rfl
theorem exec_resultArrival (core : Nat) (ts : Nat) (k : Nat) (s : State) : exec (.resultArrival core ts k) s = execResultArrival core ts k s := rfl
theorem exec_lockCapture (core : Nat) (ts : Nat) (s : State) : exec (.lockCapture core ts) s = execLockCapture core ts s := rfl
theorem exec_lockBitGrant (at_ : Nat) (s : State) : exec (.lockBitGrant at_) s = execLockBitGrant at_ s := rfl
theorem exec_storeQueueDrain (core : Nat) (ts : Nat) (s : State) : exec (.storeQueueDrain core ts) s = execStoreQueueDrain core ts s := rfl
theorem exec_remoteWriteAck (core : Nat) (ts : Nat) (k : Nat) (s : State) : exec (.remoteWriteAck core ts k) s = execRemoteWriteAck core ts k s := rfl
theorem exec_lineEviction (cluster : Nat) (set : Nat) (s : State) : exec (.lineEviction cluster set) s = execLineEviction cluster set s := rfl
theorem exec_messageSelection (core : Nat) (s : State) : exec (.messageSelection core) s = execMessageSelection core s := rfl
theorem exec_stealRound (core : Nat) (s : State) : exec (.stealRound core) s = execStealRound core s := rfl
theorem exec_stealGrant (thief : Nat) (victim : Nat) (s : State) : exec (.stealGrant thief victim) s = execStealGrant thief victim s := rfl
theorem exec_taskRecordBounce (k : Nat) (s : State) : exec (.taskRecordBounce k) s = execTaskRecordBounce k s := rfl
theorem exec_activationAbort (core : Nat) (ts : Nat) (reason : Nat) (s : State) : exec (.activationAbort core ts reason) s = execActivationAbort core ts reason s := rfl
theorem exec_watchdog (core : Nat) (ts : Nat) (s : State) : exec (.watchdog core ts) s = execWatchdog core ts s := rfl
theorem exec_launchTake (q : Nat) (s : State) : exec (.launchTake q) s = execLaunchTake q s := rfl
theorem exec_coresidentReservation (launch : Nat) (core : Nat) (ts : Nat) (s : State) : exec (.coresidentReservation launch core ts) s = execCoresidentReservation launch core ts s := rfl
theorem exec_elementStartDispatch (launch : Nat) (core : Nat) (s : State) : exec (.elementStartDispatch launch core) s = execElementStartDispatch launch core s := rfl
theorem exec_launchComplete (launch : Nat) (s : State) : exec (.launchComplete launch) s = execLaunchComplete launch s := rfl
theorem exec_completionWrite (launch : Nat) (s : State) : exec (.completionWrite launch) s = execCompletionWrite launch s := rfl
theorem exec_fabricLaunch (die : Nat) (src : Nat) (tenant : Nat) (cookie : Word) (record : List Word) (s : State) : exec (.fabricLaunch die src tenant cookie record) s = execFabricLaunch die src tenant cookie record s := rfl
theorem exec_tokenRefill (die : Nat) (tenant : Nat) (s : State) : exec (.tokenRefill die tenant) s = execTokenRefill die tenant s := rfl
theorem exec_directRequest (die : Nat) (src : Nat) (tenant : Nat) (cookie : Word) (ctx : BitVec 12) (core : Nat) (entry : Word) (args : List Word) (s : State) : exec (.directRequest die src tenant cookie ctx core entry args) s = execDirectRequest die src tenant cookie ctx core entry args s := rfl
theorem exec_sliceEnd (p : Nat) (s : State) : exec (.sliceEnd p) s = execSliceEnd p s := rfl
theorem exec_sliceOverrun (p : Nat) (s : State) : exec (.sliceOverrun p) s = execSliceOverrun p s := rfl
theorem exec_preemptionSave (p : Nat) (s : State) : exec (.preemptionSave p) s = execPreemptionSave p s := rfl
theorem exec_contextResume (p : Nat) (s : State) : exec (.contextResume p) s = execContextResume p s := rfl
theorem exec_queueStall (q : Nat) (s : State) : exec (.queueStall q) s = execQueueStall q s := rfl
theorem exec_coreMigration (ctx : Nat) (old : Nat) (new : Nat) (s : State) : exec (.coreMigration ctx old new) s = execCoreMigration ctx old new s := rfl
theorem exec_forwardingExpiry (cluster : Nat) (k : Nat) (s : State) : exec (.forwardingExpiry cluster k) s = execForwardingExpiry cluster k s := rfl
theorem exec_contextKill (ctx : Nat) (s : State) : exec (.contextKill ctx) s = execContextKill ctx s := rfl
theorem exec_vfReset (p : Nat) (rotate : Bool) (s : State) : exec (.vfReset p rotate) s = execVfReset p rotate s := rfl
theorem exec_requestVoid (p : Nat) (s : State) : exec (.requestVoid p) s = execRequestVoid p s := rfl
theorem exec_accessCount (s : State) : exec (.accessCount) s = execAccessCount s := rfl
theorem exec_heldWriteDrain (cluster : Nat) (s : State) : exec (.heldWriteDrain cluster) s = execHeldWriteDrain cluster s := rfl
theorem exec_patrolScrub (p : Nat) (place : Nat) (at_ : Nat) (bad : Bool) (s : State) : exec (.patrolScrub p place at_ bad) s = execPatrolScrub p place at_ bad s := rfl
theorem exec_uncorrectable (p : Nat) (place : Nat) (at_ : Nat) (s : State) : exec (.uncorrectable p place at_) s = execUncorrectable p place at_ s := rfl
theorem exec_dieBridgeFailure (die : Nat) (s : State) : exec (.dieBridgeFailure die) s = execDieBridgeFailure die s := rfl
theorem exec_traceRecord (cluster : Nat) (s : State) : exec (.traceRecord cluster) s = execTraceRecord cluster s := rfl
theorem exec_policyExpiry (p : Nat) (s : State) : exec (.policyExpiry p) s = execPolicyExpiry p s := rfl
theorem exec_mailboxDoorbell (fn : Nat) (tail : Nat) (s : State) : exec (.mailboxDoorbell fn tail) s = execMailboxDoorbell fn tail s := rfl
theorem exec_mailboxWrite (fn : Nat) (s : State) : exec (.mailboxWrite fn) s = execMailboxWrite fn s := rfl
theorem exec_mailboxRead (fn : Nat) (s : State) : exec (.mailboxRead fn) s = execMailboxRead fn s := rfl
theorem exec_enqueue (fn : Nat) (s : State) : exec (.enqueue fn) s = execEnqueue fn s := rfl
theorem exec_direct (fn : Nat) (s : State) : exec (.direct fn) s = execDirect fn s := rfl
theorem exec_debugCommand (fn : Nat) (s : State) : exec (.debugCommand fn) s = execDebug fn s := rfl
theorem exec_policy (fn : Nat) (s : State) : exec (.policy fn) s = execPolicy fn s := rfl
theorem exec_observeAcquire (fn : Nat) (s : State) : exec (.observeAcquire fn) s = execObserveAcquire fn s := rfl
theorem exec_observeRelease (fn : Nat) (s : State) : exec (.observeRelease fn) s = execObserveRelease fn s := rfl
theorem exec_dsm (req : DsmRequest) (s : State) : exec (.dsm req) s = execDsm req s := rfl
theorem exec_stop (core : Nat) (s : State) : exec (.stop core) s = execStop core s := rfl
theorem exec_resume (core : Nat) (s : State) : exec (.resume core) s = execResume core s := rfl
theorem exec_stepOne (core : Nat) (s : State) : exec (.stepOne core) s = execStep core s := rfl
theorem exec_stepN (core : Nat) (s : State) : exec (.stepN core) s = execStepn core s := rfl
theorem exec_debugRead (core : Nat) (s : State) : exec (.debugRead core) s = execDebugRead core s := rfl
theorem exec_debugWrite (core : Nat) (s : State) : exec (.debugWrite core) s = execDebugWrite core s := rfl
theorem exec_bkpt (core : Nat) (s : State) : exec (.bkpt core) s = execBkpt core s := rfl
theorem exec_breakpointHit (core : Nat) (ts : Nat) (s : State) : exec (.breakpointHit core ts) s = execBreakpointHit core ts s := rfl
theorem exec_endStep (core : Nat) (s : State) : exec (.endStep core) s = execEndstep core s := rfl
theorem exec_clockLockSession (die : Nat) (vf : Nat) (clocks : Bool) (start : Bool) (s : State) : exec (.clockLockSession die vf clocks start) s = execClockLockSession die vf clocks start s := rfl
theorem exec_lockInterfaceRequest (vf : Nat) (keyHash : BitVec 256) (s : State) : exec (.lockInterfaceRequest vf keyHash) s = execLockInterfaceRequest vf keyHash s := rfl
theorem exec_startInterfaceRequest (vf : Nat) (s : State) : exec (.startInterfaceRequest vf) s = execStartInterfaceRequest vf s := rfl
theorem exec_stopInterfaceRequest (vf : Nat) (s : State) : exec (.stopInterfaceRequest vf) s = execStopInterfaceRequest vf s := rfl
theorem exec_tdiError (vf : Nat) (s : State) : exec (.tdiError vf) s = execTdiError vf s := rfl
theorem exec_negotiateAlgorithms (asym : List Word) (hash : List Word) (dhe : List Word) (aead : Bool) (s : State) : exec (.negotiateAlgorithms asym hash dhe aead) s = execNegotiateAlgorithms asym hash dhe aead s := rfl
theorem exec_getCertificate (slot : Nat) (offset : Nat) (length : Nat) (s : State) : exec (.getCertificate slot offset length) s = execGetCertificate slot offset length s := rfl
theorem exec_challenge (slot : Nat) (nonce : List Byte) (s : State) : exec (.challenge slot nonce) s = execChallenge slot nonce s := rfl
theorem exec_getMeasurements (block : Nat) (vf : Nat) (nonce : List Byte) (s : State) : exec (.getMeasurements block vf nonce) s = execGetMeasurements block vf nonce s := rfl
theorem exec_keyExchange (key : List Byte) (s : State) : exec (.keyExchange key) s = execKeyExchange key s := rfl
theorem exec_bootVerify (die : Nat) (image : List Byte) (version : Nat) (s : State) : exec (.bootVerify die image version) s = execBootVerify die image version s := rfl
theorem exec_ready (offset : Nat) (ok : Bool) (s : State) : exec (.ready offset ok) s = execReady offset ok s := rfl
theorem exec_supplySag (cluster : Nat) (s : State) : exec (.supplySag cluster) s = execSupplySag cluster s := rfl
theorem exec_powerCapAdjust (watts : Nat) (s : State) : exec (.powerCapAdjust watts) s = execPowerCapAdjust watts s := rfl
theorem exec_flitRetry (port : Nat) (s : State) : exec (.flitRetry port) s = execFlitRetry port s := rfl
theorem exec_timesync (port : Nat) (sent : Word) (received : Word) (offset : BitVec 32) (s : State) : exec (.timesync port sent received offset) s = execTimesync port sent received offset s := rfl
theorem exec_timesyncSend (port : Nat) (s : State) : exec (.timesyncSend port) s = execTimesyncSend port s := rfl
theorem exec_packetLoad (port : Nat) (src : Nat) (cookie : Word) (owner : BitVec 20) (ptr : Word) (len : Nat) (s : State) : exec (.packetLoad port src cookie owner ptr len) s = execPacketLoad port src cookie owner ptr len s := rfl
theorem exec_packetStore (port : Nat) (src : Nat) (cookie : Word) (owner : BitVec 20) (ptr : Word) (bytes : List Byte) (s : State) : exec (.packetStore port src cookie owner ptr bytes) s = execPacketStore port src cookie owner ptr bytes s := rfl
theorem exec_packetAtomic (port : Nat) (src : Nat) (cookie : Word) (owner : BitVec 20) (ptr : Word) (op : Nat) (width : Nat) (b : Word) (cmp : Word) (s : State) : exec (.packetAtomic port src cookie owner ptr op width b cmp) s = execPacketAtomic port src cookie owner ptr op width b cmp s := rfl
theorem exec_packetReply (cookie : Nat) (status : Nat) (bytes : List Byte) (s : State) : exec (.packetReply cookie status bytes) s = execPacketReply cookie status bytes s := rfl
theorem exec_launchDone (launch : Nat) (s : State) : exec (.launchDone launch) s = execLaunchDone launch s := rfl
theorem exec_packetMessage (port : Nat) (core : Nat) (words : List Word) (s : State) : exec (.packetMessage port core words) s = execPacketMessage port core words s := rfl
theorem exec_packetReduce (p : Nat) (group : Nat) (rank : Nat) (offset : Nat) (bytes : List Byte) (s : State) : exec (.packetReduce p group rank offset bytes) s = execPacketReduce p group rank offset bytes s := rfl
theorem exec_packetReservedKind (port : Nat) (kind : Nat) (s : State) : exec (.packetReservedKind port kind) s = execPacketReservedKind port kind s := rfl
theorem exec_reduceTimeout (die : Nat) (engine : Nat) (s : State) : exec (.reduceTimeout die engine) s = execReduceTimeout die engine s := rfl
theorem exec_deviceReset (s : State) : exec (.deviceReset) s = execDeviceReset s := rfl
theorem exec_powerLoss (s : State) : exec (.powerLoss) s = execPowerLoss s := rfl
theorem exec_sagStretchEnd (cluster : Nat) (s : State) : exec (.sagStretchEnd cluster) s = execSagStretchEnd cluster s := rfl

end Sys2Proof.Machine
end

