-- ==== Sys2Proof/Laws/Maps.lean ====
section
/-! SUPPORT. The laws of sparse maps: what a read gives after a write, for every list, and that a write keeps the canonical form. -/

namespace Sys2Proof.Machine

variable {α : Type}

theorem mget_mdel_self (d : α) (m : List (Nat × α)) (k : Nat) : mget d (mdel m k) k = d := by
  induction m with
  | nil => rfl
  | cons e r ih =>
    obtain ⟨j, y⟩ := e
    by_cases h : j = k <;> simp [mdel, mget, h, ih]

theorem mget_mdel_ne (d : α) (m : List (Nat × α)) {k j : Nat} (h : j ≠ k) : mget d (mdel m k) j = mget d m j := by
  induction m with
  | nil => rfl
  | cons e r ih =>
    obtain ⟨i, y⟩ := e
    by_cases hk : i = k
    · have hj : ¬ k = j := fun e => h e.symm
      simp [mdel, mget, hk, ih, hj]
    · simp [mdel, mget, hk, ih]

theorem mget_mput_self (d : α) (m : List (Nat × α)) (k : Nat) (x : α) (h : ∀ y, (k, y) ∉ m) : mget d (mput m k x) k = x := by
  induction m with
  | nil => simp [mput, mget]
  | cons e r ih =>
    obtain ⟨i, y⟩ := e
    have hi : i ≠ k := fun he => h y (by simp [he])
    by_cases hk : k < i
    · simp [mput, mget, hk]
    · simp [mput, mget, hk, hi]
      exact ih (fun z hz => h z (List.mem_cons_of_mem _ hz))

theorem mget_mput_ne (d : α) (m : List (Nat × α)) {k j : Nat} (x : α) (h : j ≠ k) : mget d (mput m k x) j = mget d m j := by
  induction m with
  | nil => simp [mput, mget, h.symm]
  | cons e r ih =>
    obtain ⟨i, y⟩ := e
    by_cases hk : k < i
    · simp [mput, mget, hk, h.symm]
    · simp [mput, mget, hk, ih]

theorem notMem_mdel (m : List (Nat × α)) (k : Nat) (y : α) : (k, y) ∉ mdel m k := by
  induction m with
  | nil => simp [mdel]
  | cons e r ih =>
    obtain ⟨i, z⟩ := e
    by_cases h : i = k <;> simp [mdel, h, ih]
    exact fun he => absurd he.symm h

variable [DecidableEq α]

/-- A read after a write to the same number gives the value written. -/
@[simp] theorem mget_mset_self (d : α) (m : List (Nat × α)) (k : Nat) (x : α) : mget d (mset d m k x) k = x := by
  unfold mset
  split
  · rename_i h; rw [mget_mdel_self, h]
  · exact mget_mput_self d _ k x (notMem_mdel m k)

/-- A write leaves every other number alone. -/
theorem mget_mset_ne (d : α) (m : List (Nat × α)) {k j : Nat} (x : α) (h : j ≠ k) : mget d (mset d m k x) j = mget d m j := by
  unfold mset
  split
  · exact mget_mdel_ne d m h
  · rw [mget_mput_ne d _ x h, mget_mdel_ne d m h]

/-- The same where the two numbers read different values when unlisted. -/
theorem mget_mset_other (d d' : α) (m : List (Nat × α)) {k j : Nat} (x : α) (h : j ≠ k) :
    mget d' (mset d m k x) j = mget d' m j := by
  unfold mset
  split
  · exact mget_mdel_ne d' m h
  · rw [mget_mput_ne d' _ x h, mget_mdel_ne d' m h]

theorem mget_mset (d : α) (m : List (Nat × α)) (k j : Nat) (x : α) :
    mget d (mset d m k x) j = if j = k then x else mget d m j := by
  by_cases h : j = k
  · simp [h]
  · simp [h, mget_mset_ne d m x h]

@[simp] theorem mget_mmod_self (d : α) (m : List (Nat × α)) (k : Nat) (f : α → α) : mget d (mmod d m k f) k = f (mget d m k) :=
  mget_mset_self d m k _

theorem mget_mmod_ne (d : α) (m : List (Nat × α)) {k j : Nat} (f : α → α) (h : j ≠ k) : mget d (mmod d m k f) j = mget d m j :=
  mget_mset_ne d m _ h

/-! ## The canonical form -/

theorem mwfFrom_mono (d : α) {lo lo' : Option Nat} (m : List (Nat × α)) (h : mwfFrom d lo m = true)
    (hl : ∀ l ∈ lo', ∃ l' ∈ lo, l ≤ l') : mwfFrom d lo' m = true := by
  cases m with
  | nil => rfl
  | cons e r =>
    obtain ⟨k, x⟩ := e
    simp only [mwfFrom, Bool.and_eq_true] at h ⊢
    refine ⟨⟨?_, h.1.2⟩, h.2⟩
    cases lo' with
    | none => rfl
    | some l =>
      obtain ⟨l', hl', hle⟩ := hl l rfl
      cases lo with
      | none => simp at hl'
      | some q =>
        obtain rfl : q = l' := by simpa using hl'
        have := h.1.1
        simp only [decide_eq_true_eq] at this ⊢
        omega

theorem mwfFrom_mdel (d : α) {lo : Option Nat} (m : List (Nat × α)) (k : Nat) (h : mwfFrom d lo m = true) :
    mwfFrom d lo (mdel m k) = true := by
  induction m generalizing lo with
  | nil => rfl
  | cons e r ih =>
    obtain ⟨i, y⟩ := e
    have h' := h
    simp only [mwfFrom, Bool.and_eq_true] at h
    by_cases hk : i = k
    · simp only [mdel, hk, if_true]
      have := ih (lo := some i) h.2
      apply mwfFrom_mono d _ this
      intro l hl
      cases lo with
      | none => simp at hl
      | some q =>
        obtain rfl : q = l := by simpa using hl
        have := h.1.1
        simp only [decide_eq_true_eq] at this
        exact ⟨i, rfl, by omega⟩
    · simp only [mdel, hk, if_false, mwfFrom, Bool.and_eq_true]
      exact ⟨h.1, ih h.2⟩

theorem mwfFrom_mput (d : α) {lo : Option Nat} (m : List (Nat × α)) (k : Nat) (x : α) (hx : x ≠ d) (h : mwfFrom d lo m = true)
    (hlo : ∀ l ∈ lo, l < k) (hk : ∀ y, (k, y) ∉ m) : mwfFrom d lo (mput m k x) = true := by
  induction m generalizing lo with
  | nil =>
    cases lo with
    | none => simp [mput, mwfFrom, hx]
    | some l => simp [mput, mwfFrom, hx, hlo l rfl]
  | cons e r ih =>
    obtain ⟨i, y⟩ := e
    simp only [mwfFrom, Bool.and_eq_true] at h
    by_cases hi : k < i
    · simp only [mput, hi, if_true, mwfFrom, Bool.and_eq_true, decide_eq_true_eq]
      refine ⟨⟨?_, by simpa using hx⟩, ⟨trivial, by simpa using h.1.2⟩, h.2⟩
      cases lo with
      | none => rfl
      | some l => simpa using hlo l rfl
    · have hne : i ≠ k := fun he => hk y (by simp [he])
      simp only [mput, hi, if_false, mwfFrom, Bool.and_eq_true]
      refine ⟨h.1, ih h.2 ?_ (fun z hz => hk z (List.mem_cons_of_mem _ hz))⟩
      intro l hl
      obtain rfl : i = l := by simpa using hl
      omega

/-- A write keeps the canonical form. -/
theorem mwf_mset (d : α) (m : List (Nat × α)) (k : Nat) (x : α) (h : mwf d m = true) : mwf d (mset d m k x) = true := by
  unfold mset
  split
  · exact mwfFrom_mdel d m k h
  · rename_i hx
    exact mwfFrom_mput d _ k x hx (mwfFrom_mdel d m k h) (by simp) (notMem_mdel m k)

theorem mwf_mmod (d : α) (m : List (Nat × α)) (k : Nat) (f : α → α) (h : mwf d m = true) : mwf d (mmod d m k f) = true :=
  mwf_mset d m k _ h

@[simp] theorem mwf_nil (d : α) : mwf d ([] : List (Nat × α)) = true := rfl

end Sys2Proof.Machine
end

