-- ==== Sys2Proof/Laws/State.lean ====
section
/-! SUPPORT. One lemma for each field and each update of the state: what an update leaves of the other fields. -/

namespace Sys2Proof.Machine

/-! ## Parts of the state after an update of a part -/

theorem tsetKey_ne {c k c' k' : Nat} (hk : k < 4) (hk' : k' < 4) (h : ¬(c = c' ∧ k = k')) : c * 4 + k ≠ c' * 4 + k' := by omega

@[simp] theorem State.tset_modTset_self (s : State) (c k : Nat) (f : TSet → TSet) :
    (s.modTset c k f).tset c k = f (s.tset c k) := by simp [State.tset, State.modTset]

theorem State.tset_modTset_ne (s : State) (f : TSet → TSet) {c k c' k' : Nat} (h : c' * 4 + k' ≠ c * 4 + k) :
    (s.modTset c k f).tset c' k' = s.tset c' k' := by
  exact mget_mmod_ne TSet.reset s.tsets f h

@[simp] theorem State.core_modCore_self (s : State) (n : Nat) (f : Core → Core) : (s.modCore n f).core n = f (s.core n) := by
  simp [State.core, State.modCore]

theorem State.core_modCore_ne (s : State) (f : Core → Core) {n m : Nat} (h : m ≠ n) : (s.modCore n f).core m = s.core m := by
  exact mget_mset_other (Core.reset n) (Core.reset m) s.cores _ h

@[simp] theorem State.cluster_modCluster_self (s : State) (n : Nat) (f : Cluster → Cluster) :
    (s.modCluster n f).cluster n = f (s.cluster n) := by simp [State.cluster, State.modCluster]

theorem State.cluster_modCluster_ne (s : State) (f : Cluster → Cluster) {n m : Nat} (h : m ≠ n) :
    (s.modCluster n f).cluster m = s.cluster m := by
  exact mget_mmod_ne _ s.clusters f h

@[simp] theorem State.me_modMe (s : State) (f : TSet → TSet) : (s.modMe f).me = f s.me := by
  simp only [State.me, State.modMe]; exact State.tset_modTset_self s _ _ f

@[simp] theorem State.core_modTset (s : State) (c k : Nat) (f : TSet → TSet) (n : Nat) : (s.modTset c k f).core n = s.core n := rfl
@[simp] theorem State.core_modMe (s : State) (f : TSet → TSet) (n : Nat) : (s.modMe f).core n = s.core n := rfl
@[simp] theorem State.cluster_modTset (s : State) (c k : Nat) (f : TSet → TSet) (n : Nat) :
    (s.modTset c k f).cluster n = s.cluster n := rfl
@[simp] theorem State.cluster_modMe (s : State) (f : TSet → TSet) (n : Nat) : (s.modMe f).cluster n = s.cluster n := rfl
@[simp] theorem State.tset_modCore (s : State) (n : Nat) (f : Core → Core) (c k : Nat) : (s.modCore n f).tset c k = s.tset c k := rfl
@[simp] theorem State.me_modCore (s : State) (n : Nat) (f : Core → Core) : (s.modCore n f).me = s.me := rfl
@[simp] theorem State.me_modMyCore (s : State) (f : Core → Core) : (s.modMyCore f).me = s.me := rfl
@[simp] theorem State.cluster_modCore (s : State) (n : Nat) (f : Core → Core) (c : Nat) :
    (s.modCore n f).cluster c = s.cluster c := rfl
@[simp] theorem State.tset_modCluster (s : State) (n : Nat) (f : Cluster → Cluster) (c k : Nat) :
    (s.modCluster n f).tset c k = s.tset c k := rfl
@[simp] theorem State.me_modCluster (s : State) (n : Nat) (f : Cluster → Cluster) : (s.modCluster n f).me = s.me := rfl
@[simp] theorem State.core_modCluster (s : State) (n : Nat) (f : Cluster → Cluster) (c : Nat) :
    (s.modCluster n f).core c = s.core c := rfl
@[simp] theorem State.myCore_modMe (s : State) (f : TSet → TSet) : (s.modMe f).myCore = s.myCore := rfl
@[simp] theorem State.myCore_modMyCore (s : State) (f : Core → Core) : (s.modMyCore f).myCore = f s.myCore := by
  simp only [State.myCore, State.modMyCore]; exact State.core_modCore_self s _ f

/-! ## The other fields -/

@[simp] theorem State.modTset_periods (s : State) (c k : Nat) (f : TSet → TSet) : (s.modTset c k f).periods = s.periods := rfl
@[simp] theorem State.modTset_cores (s : State) (c k : Nat) (f : TSet → TSet) : (s.modTset c k f).cores = s.cores := rfl
@[simp] theorem State.modTset_clusters (s : State) (c k : Nat) (f : TSet → TSet) : (s.modTset c k f).clusters = s.clusters := rfl
@[simp] theorem State.modTset_scratch (s : State) (c k : Nat) (f : TSet → TSet) : (s.modTset c k f).scratch = s.scratch := rfl
@[simp] theorem State.modTset_abuf (s : State) (c k : Nat) (f : TSet → TSet) : (s.modTset c k f).abuf = s.abuf := rfl
@[simp] theorem State.modTset_wbuf (s : State) (c k : Nat) (f : TSet → TSet) : (s.modTset c k f).wbuf = s.wbuf := rfl
@[simp] theorem State.modTset_cbuf (s : State) (c k : Nat) (f : TSet → TSet) : (s.modTset c k f).cbuf = s.cbuf := rfl
@[simp] theorem State.modTset_aside (s : State) (c k : Nat) (f : TSet → TSet) : (s.modTset c k f).aside = s.aside := rfl
@[simp] theorem State.modTset_wside (s : State) (c k : Nat) (f : TSet → TSet) : (s.modTset c k f).wside = s.wside := rfl
@[simp] theorem State.modTset_home (s : State) (c k : Nat) (f : TSet → TSet) : (s.modTset c k f).home = s.home := rfl
@[simp] theorem State.modTset_under (s : State) (c k : Nat) (f : TSet → TSet) : (s.modTset c k f).under = s.under := rfl
@[simp] theorem State.modTset_locks (s : State) (c k : Nat) (f : TSet → TSet) : (s.modTset c k f).locks = s.locks := rfl
@[simp] theorem State.modTset_lockWaits (s : State) (c k : Nat) (f : TSet → TSet) : (s.modTset c k f).lockWaits = s.lockWaits := rfl
@[simp] theorem State.modTset_bankWatches (s : State) (c k : Nat) (f : TSet → TSet) : (s.modTset c k f).bankWatches = s.bankWatches := rfl
@[simp] theorem State.modTset_eccBad (s : State) (c k : Nat) (f : TSet → TSet) : (s.modTset c k f).eccBad = s.eccBad := rfl
@[simp] theorem State.modTset_bankPort (s : State) (c k : Nat) (f : TSet → TSet) : (s.modTset c k f).bankPort = s.bankPort := rfl
@[simp] theorem State.modTset_sramBad (s : State) (c k : Nat) (f : TSet → TSet) : (s.modTset c k f).sramBad = s.sramBad := rfl
@[simp] theorem State.modTset_abufBad (s : State) (c k : Nat) (f : TSet → TSet) : (s.modTset c k f).abufBad = s.abufBad := rfl
@[simp] theorem State.modTset_wbufBad (s : State) (c k : Nat) (f : TSet → TSet) : (s.modTset c k f).wbufBad = s.wbufBad := rfl
@[simp] theorem State.modTset_cbufBad (s : State) (c k : Nat) (f : TSet → TSet) : (s.modTset c k f).cbufBad = s.cbufBad := rfl
@[simp] theorem State.modTset_asideBad (s : State) (c k : Nat) (f : TSet → TSet) : (s.modTset c k f).asideBad = s.asideBad := rfl
@[simp] theorem State.modTset_wsideBad (s : State) (c k : Nat) (f : TSet → TSet) : (s.modTset c k f).wsideBad = s.wsideBad := rfl
@[simp] theorem State.modTset_pgroot (s : State) (c k : Nat) (f : TSet → TSet) : (s.modTset c k f).pgroot = s.pgroot := rfl
@[simp] theorem State.modTset_bupage (s : State) (c k : Nat) (f : TSet → TSet) : (s.modTset c k f).bupage = s.bupage := rfl
@[simp] theorem State.modTset_pwrcap (s : State) (c k : Nat) (f : TSet → TSet) : (s.modTset c k f).pwrcap = s.pwrcap := rfl
@[simp] theorem State.modTset_owners (s : State) (c k : Nat) (f : TSet → TSet) : (s.modTset c k f).owners = s.owners := rfl
@[simp] theorem State.modTset_nextGid (s : State) (c k : Nat) (f : TSet → TSet) : (s.modTset c k f).nextGid = s.nextGid := rfl
@[simp] theorem State.modTset_presence (s : State) (c k : Nat) (f : TSet → TSet) : (s.modTset c k f).presence = s.presence := rfl
@[simp] theorem State.modTset_purges (s : State) (c k : Nat) (f : TSet → TSet) : (s.modTset c k f).purges = s.purges := rfl
@[simp] theorem State.modTset_watches (s : State) (c k : Nat) (f : TSet → TSet) : (s.modTset c k f).watches = s.watches := rfl
@[simp] theorem State.modTset_acqs (s : State) (c k : Nat) (f : TSet → TSet) : (s.modTset c k f).acqs = s.acqs := rfl
@[simp] theorem State.modTset_countQ (s : State) (c k : Nat) (f : TSet → TSet) : (s.modTset c k f).countQ = s.countQ := rfl
@[simp] theorem State.modTset_counts (s : State) (c k : Nat) (f : TSet → TSet) : (s.modTset c k f).counts = s.counts := rfl
@[simp] theorem State.modTset_acOff (s : State) (c k : Nat) (f : TSet → TSet) : (s.modTset c k f).acOff = s.acOff := rfl
@[simp] theorem State.modTset_contexts (s : State) (c k : Nat) (f : TSet → TSet) : (s.modTset c k f).contexts = s.contexts := rfl
@[simp] theorem State.modTset_partitions (s : State) (c k : Nat) (f : TSet → TSet) : (s.modTset c k f).partitions = s.partitions := rfl
@[simp] theorem State.modTset_queues (s : State) (c k : Nat) (f : TSet → TSet) : (s.modTset c k f).queues = s.queues := rfl
@[simp] theorem State.modTset_launches (s : State) (c k : Nat) (f : TSet → TSet) : (s.modTset c k f).launches = s.launches := rfl
@[simp] theorem State.modTset_mail (s : State) (c k : Nat) (f : TSet → TSet) : (s.modTset c k f).mail = s.mail := rfl
@[simp] theorem State.modTset_due (s : State) (c k : Nat) (f : TSet → TSet) : (s.modTset c k f).due = s.due := rfl
@[simp] theorem State.modTset_directs (s : State) (c k : Nat) (f : TSet → TSet) : (s.modTset c k f).directs = s.directs := rfl
@[simp] theorem State.modTset_thefts (s : State) (c k : Nat) (f : TSet → TSet) : (s.modTset c k f).thefts = s.thefts := rfl
@[simp] theorem State.modTset_stolen (s : State) (c k : Nat) (f : TSet → TSet) : (s.modTset c k f).stolen = s.stolen := rfl
@[simp] theorem State.modTset_flights (s : State) (c k : Nat) (f : TSet → TSet) : (s.modTset c k f).flights = s.flights := rfl
@[simp] theorem State.modTset_leases (s : State) (c k : Nat) (f : TSet → TSet) : (s.modTset c k f).leases = s.leases := rfl
@[simp] theorem State.modTset_engines (s : State) (c k : Nat) (f : TSet → TSet) : (s.modTset c k f).engines = s.engines := rfl
@[simp] theorem State.modTset_tenants (s : State) (c k : Nat) (f : TSet → TSet) : (s.modTset c k f).tenants = s.tenants := rfl
@[simp] theorem State.modTset_dies (s : State) (c k : Nat) (f : TSet → TSet) : (s.modTset c k f).dies = s.dies := rfl
@[simp] theorem State.modTset_hostMem (s : State) (c k : Nat) (f : TSet → TSet) : (s.modTset c k f).hostMem = s.hostMem := rfl
@[simp] theorem State.modTset_ready (s : State) (c k : Nat) (f : TSet → TSet) : (s.modTset c k f).ready = s.ready := rfl
@[simp] theorem State.modTset_cxl (s : State) (c k : Nat) (f : TSet → TSet) : (s.modTset c k f).cxl = s.cxl := rfl
@[simp] theorem State.modTset_dsmWait (s : State) (c k : Nat) (f : TSet → TSet) : (s.modTset c k f).dsmWait = s.dsmWait := rfl
@[simp] theorem State.modTset_capSteps (s : State) (c k : Nat) (f : TSet → TSet) : (s.modTset c k f).capSteps = s.capSteps := rfl
@[simp] theorem State.modTset_capAt (s : State) (c k : Nat) (f : TSet → TSet) : (s.modTset c k f).capAt = s.capAt := rfl
@[simp] theorem State.modTset_rotations (s : State) (c k : Nat) (f : TSet → TSet) : (s.modTset c k f).rotations = s.rotations := rfl
@[simp] theorem State.modTset_out (s : State) (c k : Nat) (f : TSet → TSet) : (s.modTset c k f).out = s.out := rfl
@[simp] theorem State.modTset_segments (s : State) (c k : Nat) (f : TSet → TSet) : (s.modTset c k f).segments = s.segments := rfl
@[simp] theorem State.modTset_peerStores (s : State) (c k : Nat) (f : TSet → TSet) : (s.modTset c k f).peerStores = s.peerStores := rfl
@[simp] theorem State.modTset_peerLoads (s : State) (c k : Nat) (f : TSet → TSet) : (s.modTset c k f).peerLoads = s.peerLoads := rfl
@[simp] theorem State.modTset_owed (s : State) (c k : Nat) (f : TSet → TSet) : (s.modTset c k f).owed = s.owed := rfl
@[simp] theorem State.modTset_ports (s : State) (c k : Nat) (f : TSet → TSet) : (s.modTset c k f).ports = s.ports := rfl
@[simp] theorem State.modTset_offs (s : State) (c k : Nat) (f : TSet → TSet) : (s.modTset c k f).offs = s.offs := rfl
@[simp] theorem State.modTset_spdm (s : State) (c k : Nat) (f : TSet → TSet) : (s.modTset c k f).spdm = s.spdm := rfl
@[simp] theorem State.modTset_curCore (s : State) (c k : Nat) (f : TSet → TSet) : (s.modTset c k f).curCore = s.curCore := rfl
@[simp] theorem State.modTset_curTs (s : State) (c k : Nat) (f : TSet → TSet) : (s.modTset c k f).curTs = s.curTs := rfl
@[simp] theorem State.modTset_ia (s : State) (c k : Nat) (f : TSet → TSet) : (s.modTset c k f).ia = s.ia := rfl
@[simp] theorem State.modTset_uid (s : State) (c k : Nat) (f : TSet → TSet) : (s.modTset c k f).uid = s.uid := rfl
@[simp] theorem State.modTset_drawn (s : State) (c k : Nat) (f : TSet → TSet) : (s.modTset c k f).drawn = s.drawn := rfl
@[simp] theorem State.modTset_agenda (s : State) (c k : Nat) (f : TSet → TSet) : (s.modTset c k f).agenda = s.agenda := rfl
@[simp] theorem State.modTset_choices (s : State) (c k : Nat) (f : TSet → TSet) : (s.modTset c k f).choices = s.choices := rfl
@[simp] theorem State.modTset_powered (s : State) (c k : Nat) (f : TSet → TSet) : (s.modTset c k f).powered = s.powered := rfl
@[simp] theorem State.modCore_periods (s : State) (n : Nat) (f : Core → Core) : (s.modCore n f).periods = s.periods := rfl
@[simp] theorem State.modCore_tsets (s : State) (n : Nat) (f : Core → Core) : (s.modCore n f).tsets = s.tsets := rfl
@[simp] theorem State.modCore_clusters (s : State) (n : Nat) (f : Core → Core) : (s.modCore n f).clusters = s.clusters := rfl
@[simp] theorem State.modCore_scratch (s : State) (n : Nat) (f : Core → Core) : (s.modCore n f).scratch = s.scratch := rfl
@[simp] theorem State.modCore_abuf (s : State) (n : Nat) (f : Core → Core) : (s.modCore n f).abuf = s.abuf := rfl
@[simp] theorem State.modCore_wbuf (s : State) (n : Nat) (f : Core → Core) : (s.modCore n f).wbuf = s.wbuf := rfl
@[simp] theorem State.modCore_cbuf (s : State) (n : Nat) (f : Core → Core) : (s.modCore n f).cbuf = s.cbuf := rfl
@[simp] theorem State.modCore_aside (s : State) (n : Nat) (f : Core → Core) : (s.modCore n f).aside = s.aside := rfl
@[simp] theorem State.modCore_wside (s : State) (n : Nat) (f : Core → Core) : (s.modCore n f).wside = s.wside := rfl
@[simp] theorem State.modCore_home (s : State) (n : Nat) (f : Core → Core) : (s.modCore n f).home = s.home := rfl
@[simp] theorem State.modCore_under (s : State) (n : Nat) (f : Core → Core) : (s.modCore n f).under = s.under := rfl
@[simp] theorem State.modCore_locks (s : State) (n : Nat) (f : Core → Core) : (s.modCore n f).locks = s.locks := rfl
@[simp] theorem State.modCore_lockWaits (s : State) (n : Nat) (f : Core → Core) : (s.modCore n f).lockWaits = s.lockWaits := rfl
@[simp] theorem State.modCore_bankWatches (s : State) (n : Nat) (f : Core → Core) : (s.modCore n f).bankWatches = s.bankWatches := rfl
@[simp] theorem State.modCore_eccBad (s : State) (n : Nat) (f : Core → Core) : (s.modCore n f).eccBad = s.eccBad := rfl
@[simp] theorem State.modCore_bankPort (s : State) (n : Nat) (f : Core → Core) : (s.modCore n f).bankPort = s.bankPort := rfl
@[simp] theorem State.modCore_sramBad (s : State) (n : Nat) (f : Core → Core) : (s.modCore n f).sramBad = s.sramBad := rfl
@[simp] theorem State.modCore_abufBad (s : State) (n : Nat) (f : Core → Core) : (s.modCore n f).abufBad = s.abufBad := rfl
@[simp] theorem State.modCore_wbufBad (s : State) (n : Nat) (f : Core → Core) : (s.modCore n f).wbufBad = s.wbufBad := rfl
@[simp] theorem State.modCore_cbufBad (s : State) (n : Nat) (f : Core → Core) : (s.modCore n f).cbufBad = s.cbufBad := rfl
@[simp] theorem State.modCore_asideBad (s : State) (n : Nat) (f : Core → Core) : (s.modCore n f).asideBad = s.asideBad := rfl
@[simp] theorem State.modCore_wsideBad (s : State) (n : Nat) (f : Core → Core) : (s.modCore n f).wsideBad = s.wsideBad := rfl
@[simp] theorem State.modCore_pgroot (s : State) (n : Nat) (f : Core → Core) : (s.modCore n f).pgroot = s.pgroot := rfl
@[simp] theorem State.modCore_bupage (s : State) (n : Nat) (f : Core → Core) : (s.modCore n f).bupage = s.bupage := rfl
@[simp] theorem State.modCore_pwrcap (s : State) (n : Nat) (f : Core → Core) : (s.modCore n f).pwrcap = s.pwrcap := rfl
@[simp] theorem State.modCore_owners (s : State) (n : Nat) (f : Core → Core) : (s.modCore n f).owners = s.owners := rfl
@[simp] theorem State.modCore_nextGid (s : State) (n : Nat) (f : Core → Core) : (s.modCore n f).nextGid = s.nextGid := rfl
@[simp] theorem State.modCore_presence (s : State) (n : Nat) (f : Core → Core) : (s.modCore n f).presence = s.presence := rfl
@[simp] theorem State.modCore_purges (s : State) (n : Nat) (f : Core → Core) : (s.modCore n f).purges = s.purges := rfl
@[simp] theorem State.modCore_watches (s : State) (n : Nat) (f : Core → Core) : (s.modCore n f).watches = s.watches := rfl
@[simp] theorem State.modCore_acqs (s : State) (n : Nat) (f : Core → Core) : (s.modCore n f).acqs = s.acqs := rfl
@[simp] theorem State.modCore_countQ (s : State) (n : Nat) (f : Core → Core) : (s.modCore n f).countQ = s.countQ := rfl
@[simp] theorem State.modCore_counts (s : State) (n : Nat) (f : Core → Core) : (s.modCore n f).counts = s.counts := rfl
@[simp] theorem State.modCore_acOff (s : State) (n : Nat) (f : Core → Core) : (s.modCore n f).acOff = s.acOff := rfl
@[simp] theorem State.modCore_contexts (s : State) (n : Nat) (f : Core → Core) : (s.modCore n f).contexts = s.contexts := rfl
@[simp] theorem State.modCore_partitions (s : State) (n : Nat) (f : Core → Core) : (s.modCore n f).partitions = s.partitions := rfl
@[simp] theorem State.modCore_queues (s : State) (n : Nat) (f : Core → Core) : (s.modCore n f).queues = s.queues := rfl
@[simp] theorem State.modCore_launches (s : State) (n : Nat) (f : Core → Core) : (s.modCore n f).launches = s.launches := rfl
@[simp] theorem State.modCore_mail (s : State) (n : Nat) (f : Core → Core) : (s.modCore n f).mail = s.mail := rfl
@[simp] theorem State.modCore_due (s : State) (n : Nat) (f : Core → Core) : (s.modCore n f).due = s.due := rfl
@[simp] theorem State.modCore_directs (s : State) (n : Nat) (f : Core → Core) : (s.modCore n f).directs = s.directs := rfl
@[simp] theorem State.modCore_thefts (s : State) (n : Nat) (f : Core → Core) : (s.modCore n f).thefts = s.thefts := rfl
@[simp] theorem State.modCore_stolen (s : State) (n : Nat) (f : Core → Core) : (s.modCore n f).stolen = s.stolen := rfl
@[simp] theorem State.modCore_flights (s : State) (n : Nat) (f : Core → Core) : (s.modCore n f).flights = s.flights := rfl
@[simp] theorem State.modCore_leases (s : State) (n : Nat) (f : Core → Core) : (s.modCore n f).leases = s.leases := rfl
@[simp] theorem State.modCore_engines (s : State) (n : Nat) (f : Core → Core) : (s.modCore n f).engines = s.engines := rfl
@[simp] theorem State.modCore_tenants (s : State) (n : Nat) (f : Core → Core) : (s.modCore n f).tenants = s.tenants := rfl
@[simp] theorem State.modCore_dies (s : State) (n : Nat) (f : Core → Core) : (s.modCore n f).dies = s.dies := rfl
@[simp] theorem State.modCore_hostMem (s : State) (n : Nat) (f : Core → Core) : (s.modCore n f).hostMem = s.hostMem := rfl
@[simp] theorem State.modCore_ready (s : State) (n : Nat) (f : Core → Core) : (s.modCore n f).ready = s.ready := rfl
@[simp] theorem State.modCore_cxl (s : State) (n : Nat) (f : Core → Core) : (s.modCore n f).cxl = s.cxl := rfl
@[simp] theorem State.modCore_dsmWait (s : State) (n : Nat) (f : Core → Core) : (s.modCore n f).dsmWait = s.dsmWait := rfl
@[simp] theorem State.modCore_capSteps (s : State) (n : Nat) (f : Core → Core) : (s.modCore n f).capSteps = s.capSteps := rfl
@[simp] theorem State.modCore_capAt (s : State) (n : Nat) (f : Core → Core) : (s.modCore n f).capAt = s.capAt := rfl
@[simp] theorem State.modCore_rotations (s : State) (n : Nat) (f : Core → Core) : (s.modCore n f).rotations = s.rotations := rfl
@[simp] theorem State.modCore_out (s : State) (n : Nat) (f : Core → Core) : (s.modCore n f).out = s.out := rfl
@[simp] theorem State.modCore_segments (s : State) (n : Nat) (f : Core → Core) : (s.modCore n f).segments = s.segments := rfl
@[simp] theorem State.modCore_peerStores (s : State) (n : Nat) (f : Core → Core) : (s.modCore n f).peerStores = s.peerStores := rfl
@[simp] theorem State.modCore_peerLoads (s : State) (n : Nat) (f : Core → Core) : (s.modCore n f).peerLoads = s.peerLoads := rfl
@[simp] theorem State.modCore_owed (s : State) (n : Nat) (f : Core → Core) : (s.modCore n f).owed = s.owed := rfl
@[simp] theorem State.modCore_ports (s : State) (n : Nat) (f : Core → Core) : (s.modCore n f).ports = s.ports := rfl
@[simp] theorem State.modCore_offs (s : State) (n : Nat) (f : Core → Core) : (s.modCore n f).offs = s.offs := rfl
@[simp] theorem State.modCore_spdm (s : State) (n : Nat) (f : Core → Core) : (s.modCore n f).spdm = s.spdm := rfl
@[simp] theorem State.modCore_curCore (s : State) (n : Nat) (f : Core → Core) : (s.modCore n f).curCore = s.curCore := rfl
@[simp] theorem State.modCore_curTs (s : State) (n : Nat) (f : Core → Core) : (s.modCore n f).curTs = s.curTs := rfl
@[simp] theorem State.modCore_ia (s : State) (n : Nat) (f : Core → Core) : (s.modCore n f).ia = s.ia := rfl
@[simp] theorem State.modCore_uid (s : State) (n : Nat) (f : Core → Core) : (s.modCore n f).uid = s.uid := rfl
@[simp] theorem State.modCore_drawn (s : State) (n : Nat) (f : Core → Core) : (s.modCore n f).drawn = s.drawn := rfl
@[simp] theorem State.modCore_agenda (s : State) (n : Nat) (f : Core → Core) : (s.modCore n f).agenda = s.agenda := rfl
@[simp] theorem State.modCore_choices (s : State) (n : Nat) (f : Core → Core) : (s.modCore n f).choices = s.choices := rfl
@[simp] theorem State.modCore_powered (s : State) (n : Nat) (f : Core → Core) : (s.modCore n f).powered = s.powered := rfl
@[simp] theorem State.modCluster_periods (s : State) (n : Nat) (f : Cluster → Cluster) : (s.modCluster n f).periods = s.periods := rfl
@[simp] theorem State.modCluster_tsets (s : State) (n : Nat) (f : Cluster → Cluster) : (s.modCluster n f).tsets = s.tsets := rfl
@[simp] theorem State.modCluster_cores (s : State) (n : Nat) (f : Cluster → Cluster) : (s.modCluster n f).cores = s.cores := rfl
@[simp] theorem State.modCluster_scratch (s : State) (n : Nat) (f : Cluster → Cluster) : (s.modCluster n f).scratch = s.scratch := rfl
@[simp] theorem State.modCluster_abuf (s : State) (n : Nat) (f : Cluster → Cluster) : (s.modCluster n f).abuf = s.abuf := rfl
@[simp] theorem State.modCluster_wbuf (s : State) (n : Nat) (f : Cluster → Cluster) : (s.modCluster n f).wbuf = s.wbuf := rfl
@[simp] theorem State.modCluster_cbuf (s : State) (n : Nat) (f : Cluster → Cluster) : (s.modCluster n f).cbuf = s.cbuf := rfl
@[simp] theorem State.modCluster_aside (s : State) (n : Nat) (f : Cluster → Cluster) : (s.modCluster n f).aside = s.aside := rfl
@[simp] theorem State.modCluster_wside (s : State) (n : Nat) (f : Cluster → Cluster) : (s.modCluster n f).wside = s.wside := rfl
@[simp] theorem State.modCluster_home (s : State) (n : Nat) (f : Cluster → Cluster) : (s.modCluster n f).home = s.home := rfl
@[simp] theorem State.modCluster_under (s : State) (n : Nat) (f : Cluster → Cluster) : (s.modCluster n f).under = s.under := rfl
@[simp] theorem State.modCluster_locks (s : State) (n : Nat) (f : Cluster → Cluster) : (s.modCluster n f).locks = s.locks := rfl
@[simp] theorem State.modCluster_lockWaits (s : State) (n : Nat) (f : Cluster → Cluster) : (s.modCluster n f).lockWaits = s.lockWaits := rfl
@[simp] theorem State.modCluster_bankWatches (s : State) (n : Nat) (f : Cluster → Cluster) : (s.modCluster n f).bankWatches = s.bankWatches := rfl
@[simp] theorem State.modCluster_eccBad (s : State) (n : Nat) (f : Cluster → Cluster) : (s.modCluster n f).eccBad = s.eccBad := rfl
@[simp] theorem State.modCluster_bankPort (s : State) (n : Nat) (f : Cluster → Cluster) : (s.modCluster n f).bankPort = s.bankPort := rfl
@[simp] theorem State.modCluster_sramBad (s : State) (n : Nat) (f : Cluster → Cluster) : (s.modCluster n f).sramBad = s.sramBad := rfl
@[simp] theorem State.modCluster_abufBad (s : State) (n : Nat) (f : Cluster → Cluster) : (s.modCluster n f).abufBad = s.abufBad := rfl
@[simp] theorem State.modCluster_wbufBad (s : State) (n : Nat) (f : Cluster → Cluster) : (s.modCluster n f).wbufBad = s.wbufBad := rfl
@[simp] theorem State.modCluster_cbufBad (s : State) (n : Nat) (f : Cluster → Cluster) : (s.modCluster n f).cbufBad = s.cbufBad := rfl
@[simp] theorem State.modCluster_asideBad (s : State) (n : Nat) (f : Cluster → Cluster) : (s.modCluster n f).asideBad = s.asideBad := rfl
@[simp] theorem State.modCluster_wsideBad (s : State) (n : Nat) (f : Cluster → Cluster) : (s.modCluster n f).wsideBad = s.wsideBad := rfl
@[simp] theorem State.modCluster_pgroot (s : State) (n : Nat) (f : Cluster → Cluster) : (s.modCluster n f).pgroot = s.pgroot := rfl
@[simp] theorem State.modCluster_bupage (s : State) (n : Nat) (f : Cluster → Cluster) : (s.modCluster n f).bupage = s.bupage := rfl
@[simp] theorem State.modCluster_pwrcap (s : State) (n : Nat) (f : Cluster → Cluster) : (s.modCluster n f).pwrcap = s.pwrcap := rfl
@[simp] theorem State.modCluster_owners (s : State) (n : Nat) (f : Cluster → Cluster) : (s.modCluster n f).owners = s.owners := rfl
@[simp] theorem State.modCluster_nextGid (s : State) (n : Nat) (f : Cluster → Cluster) : (s.modCluster n f).nextGid = s.nextGid := rfl
@[simp] theorem State.modCluster_presence (s : State) (n : Nat) (f : Cluster → Cluster) : (s.modCluster n f).presence = s.presence := rfl
@[simp] theorem State.modCluster_purges (s : State) (n : Nat) (f : Cluster → Cluster) : (s.modCluster n f).purges = s.purges := rfl
@[simp] theorem State.modCluster_watches (s : State) (n : Nat) (f : Cluster → Cluster) : (s.modCluster n f).watches = s.watches := rfl
@[simp] theorem State.modCluster_acqs (s : State) (n : Nat) (f : Cluster → Cluster) : (s.modCluster n f).acqs = s.acqs := rfl
@[simp] theorem State.modCluster_countQ (s : State) (n : Nat) (f : Cluster → Cluster) : (s.modCluster n f).countQ = s.countQ := rfl
@[simp] theorem State.modCluster_counts (s : State) (n : Nat) (f : Cluster → Cluster) : (s.modCluster n f).counts = s.counts := rfl
@[simp] theorem State.modCluster_acOff (s : State) (n : Nat) (f : Cluster → Cluster) : (s.modCluster n f).acOff = s.acOff := rfl
@[simp] theorem State.modCluster_contexts (s : State) (n : Nat) (f : Cluster → Cluster) : (s.modCluster n f).contexts = s.contexts := rfl
@[simp] theorem State.modCluster_partitions (s : State) (n : Nat) (f : Cluster → Cluster) : (s.modCluster n f).partitions = s.partitions := rfl
@[simp] theorem State.modCluster_queues (s : State) (n : Nat) (f : Cluster → Cluster) : (s.modCluster n f).queues = s.queues := rfl
@[simp] theorem State.modCluster_launches (s : State) (n : Nat) (f : Cluster → Cluster) : (s.modCluster n f).launches = s.launches := rfl
@[simp] theorem State.modCluster_mail (s : State) (n : Nat) (f : Cluster → Cluster) : (s.modCluster n f).mail = s.mail := rfl
@[simp] theorem State.modCluster_due (s : State) (n : Nat) (f : Cluster → Cluster) : (s.modCluster n f).due = s.due := rfl
@[simp] theorem State.modCluster_directs (s : State) (n : Nat) (f : Cluster → Cluster) : (s.modCluster n f).directs = s.directs := rfl
@[simp] theorem State.modCluster_thefts (s : State) (n : Nat) (f : Cluster → Cluster) : (s.modCluster n f).thefts = s.thefts := rfl
@[simp] theorem State.modCluster_stolen (s : State) (n : Nat) (f : Cluster → Cluster) : (s.modCluster n f).stolen = s.stolen := rfl
@[simp] theorem State.modCluster_flights (s : State) (n : Nat) (f : Cluster → Cluster) : (s.modCluster n f).flights = s.flights := rfl
@[simp] theorem State.modCluster_leases (s : State) (n : Nat) (f : Cluster → Cluster) : (s.modCluster n f).leases = s.leases := rfl
@[simp] theorem State.modCluster_engines (s : State) (n : Nat) (f : Cluster → Cluster) : (s.modCluster n f).engines = s.engines := rfl
@[simp] theorem State.modCluster_tenants (s : State) (n : Nat) (f : Cluster → Cluster) : (s.modCluster n f).tenants = s.tenants := rfl
@[simp] theorem State.modCluster_dies (s : State) (n : Nat) (f : Cluster → Cluster) : (s.modCluster n f).dies = s.dies := rfl
@[simp] theorem State.modCluster_hostMem (s : State) (n : Nat) (f : Cluster → Cluster) : (s.modCluster n f).hostMem = s.hostMem := rfl
@[simp] theorem State.modCluster_ready (s : State) (n : Nat) (f : Cluster → Cluster) : (s.modCluster n f).ready = s.ready := rfl
@[simp] theorem State.modCluster_cxl (s : State) (n : Nat) (f : Cluster → Cluster) : (s.modCluster n f).cxl = s.cxl := rfl
@[simp] theorem State.modCluster_dsmWait (s : State) (n : Nat) (f : Cluster → Cluster) : (s.modCluster n f).dsmWait = s.dsmWait := rfl
@[simp] theorem State.modCluster_capSteps (s : State) (n : Nat) (f : Cluster → Cluster) : (s.modCluster n f).capSteps = s.capSteps := rfl
@[simp] theorem State.modCluster_capAt (s : State) (n : Nat) (f : Cluster → Cluster) : (s.modCluster n f).capAt = s.capAt := rfl
@[simp] theorem State.modCluster_rotations (s : State) (n : Nat) (f : Cluster → Cluster) : (s.modCluster n f).rotations = s.rotations := rfl
@[simp] theorem State.modCluster_out (s : State) (n : Nat) (f : Cluster → Cluster) : (s.modCluster n f).out = s.out := rfl
@[simp] theorem State.modCluster_segments (s : State) (n : Nat) (f : Cluster → Cluster) : (s.modCluster n f).segments = s.segments := rfl
@[simp] theorem State.modCluster_peerStores (s : State) (n : Nat) (f : Cluster → Cluster) : (s.modCluster n f).peerStores = s.peerStores := rfl
@[simp] theorem State.modCluster_peerLoads (s : State) (n : Nat) (f : Cluster → Cluster) : (s.modCluster n f).peerLoads = s.peerLoads := rfl
@[simp] theorem State.modCluster_owed (s : State) (n : Nat) (f : Cluster → Cluster) : (s.modCluster n f).owed = s.owed := rfl
@[simp] theorem State.modCluster_ports (s : State) (n : Nat) (f : Cluster → Cluster) : (s.modCluster n f).ports = s.ports := rfl
@[simp] theorem State.modCluster_offs (s : State) (n : Nat) (f : Cluster → Cluster) : (s.modCluster n f).offs = s.offs := rfl
@[simp] theorem State.modCluster_spdm (s : State) (n : Nat) (f : Cluster → Cluster) : (s.modCluster n f).spdm = s.spdm := rfl
@[simp] theorem State.modCluster_curCore (s : State) (n : Nat) (f : Cluster → Cluster) : (s.modCluster n f).curCore = s.curCore := rfl
@[simp] theorem State.modCluster_curTs (s : State) (n : Nat) (f : Cluster → Cluster) : (s.modCluster n f).curTs = s.curTs := rfl
@[simp] theorem State.modCluster_ia (s : State) (n : Nat) (f : Cluster → Cluster) : (s.modCluster n f).ia = s.ia := rfl
@[simp] theorem State.modCluster_uid (s : State) (n : Nat) (f : Cluster → Cluster) : (s.modCluster n f).uid = s.uid := rfl
@[simp] theorem State.modCluster_drawn (s : State) (n : Nat) (f : Cluster → Cluster) : (s.modCluster n f).drawn = s.drawn := rfl
@[simp] theorem State.modCluster_agenda (s : State) (n : Nat) (f : Cluster → Cluster) : (s.modCluster n f).agenda = s.agenda := rfl
@[simp] theorem State.modCluster_choices (s : State) (n : Nat) (f : Cluster → Cluster) : (s.modCluster n f).choices = s.choices := rfl
@[simp] theorem State.modCluster_powered (s : State) (n : Nat) (f : Cluster → Cluster) : (s.modCluster n f).powered = s.powered := rfl
@[simp] theorem State.modMe_periods (s : State) (f : TSet → TSet) : (s.modMe f).periods = s.periods := rfl
@[simp] theorem State.modMe_cores (s : State) (f : TSet → TSet) : (s.modMe f).cores = s.cores := rfl
@[simp] theorem State.modMe_clusters (s : State) (f : TSet → TSet) : (s.modMe f).clusters = s.clusters := rfl
@[simp] theorem State.modMe_scratch (s : State) (f : TSet → TSet) : (s.modMe f).scratch = s.scratch := rfl
@[simp] theorem State.modMe_abuf (s : State) (f : TSet → TSet) : (s.modMe f).abuf = s.abuf := rfl
@[simp] theorem State.modMe_wbuf (s : State) (f : TSet → TSet) : (s.modMe f).wbuf = s.wbuf := rfl
@[simp] theorem State.modMe_cbuf (s : State) (f : TSet → TSet) : (s.modMe f).cbuf = s.cbuf := rfl
@[simp] theorem State.modMe_aside (s : State) (f : TSet → TSet) : (s.modMe f).aside = s.aside := rfl
@[simp] theorem State.modMe_wside (s : State) (f : TSet → TSet) : (s.modMe f).wside = s.wside := rfl
@[simp] theorem State.modMe_home (s : State) (f : TSet → TSet) : (s.modMe f).home = s.home := rfl
@[simp] theorem State.modMe_under (s : State) (f : TSet → TSet) : (s.modMe f).under = s.under := rfl
@[simp] theorem State.modMe_locks (s : State) (f : TSet → TSet) : (s.modMe f).locks = s.locks := rfl
@[simp] theorem State.modMe_lockWaits (s : State) (f : TSet → TSet) : (s.modMe f).lockWaits = s.lockWaits := rfl
@[simp] theorem State.modMe_bankWatches (s : State) (f : TSet → TSet) : (s.modMe f).bankWatches = s.bankWatches := rfl
@[simp] theorem State.modMe_eccBad (s : State) (f : TSet → TSet) : (s.modMe f).eccBad = s.eccBad := rfl
@[simp] theorem State.modMe_bankPort (s : State) (f : TSet → TSet) : (s.modMe f).bankPort = s.bankPort := rfl
@[simp] theorem State.modMe_sramBad (s : State) (f : TSet → TSet) : (s.modMe f).sramBad = s.sramBad := rfl
@[simp] theorem State.modMe_abufBad (s : State) (f : TSet → TSet) : (s.modMe f).abufBad = s.abufBad := rfl
@[simp] theorem State.modMe_wbufBad (s : State) (f : TSet → TSet) : (s.modMe f).wbufBad = s.wbufBad := rfl
@[simp] theorem State.modMe_cbufBad (s : State) (f : TSet → TSet) : (s.modMe f).cbufBad = s.cbufBad := rfl
@[simp] theorem State.modMe_asideBad (s : State) (f : TSet → TSet) : (s.modMe f).asideBad = s.asideBad := rfl
@[simp] theorem State.modMe_wsideBad (s : State) (f : TSet → TSet) : (s.modMe f).wsideBad = s.wsideBad := rfl
@[simp] theorem State.modMe_pgroot (s : State) (f : TSet → TSet) : (s.modMe f).pgroot = s.pgroot := rfl
@[simp] theorem State.modMe_bupage (s : State) (f : TSet → TSet) : (s.modMe f).bupage = s.bupage := rfl
@[simp] theorem State.modMe_pwrcap (s : State) (f : TSet → TSet) : (s.modMe f).pwrcap = s.pwrcap := rfl
@[simp] theorem State.modMe_owners (s : State) (f : TSet → TSet) : (s.modMe f).owners = s.owners := rfl
@[simp] theorem State.modMe_nextGid (s : State) (f : TSet → TSet) : (s.modMe f).nextGid = s.nextGid := rfl
@[simp] theorem State.modMe_presence (s : State) (f : TSet → TSet) : (s.modMe f).presence = s.presence := rfl
@[simp] theorem State.modMe_purges (s : State) (f : TSet → TSet) : (s.modMe f).purges = s.purges := rfl
@[simp] theorem State.modMe_watches (s : State) (f : TSet → TSet) : (s.modMe f).watches = s.watches := rfl
@[simp] theorem State.modMe_acqs (s : State) (f : TSet → TSet) : (s.modMe f).acqs = s.acqs := rfl
@[simp] theorem State.modMe_countQ (s : State) (f : TSet → TSet) : (s.modMe f).countQ = s.countQ := rfl
@[simp] theorem State.modMe_counts (s : State) (f : TSet → TSet) : (s.modMe f).counts = s.counts := rfl
@[simp] theorem State.modMe_acOff (s : State) (f : TSet → TSet) : (s.modMe f).acOff = s.acOff := rfl
@[simp] theorem State.modMe_contexts (s : State) (f : TSet → TSet) : (s.modMe f).contexts = s.contexts := rfl
@[simp] theorem State.modMe_partitions (s : State) (f : TSet → TSet) : (s.modMe f).partitions = s.partitions := rfl
@[simp] theorem State.modMe_queues (s : State) (f : TSet → TSet) : (s.modMe f).queues = s.queues := rfl
@[simp] theorem State.modMe_launches (s : State) (f : TSet → TSet) : (s.modMe f).launches = s.launches := rfl
@[simp] theorem State.modMe_mail (s : State) (f : TSet → TSet) : (s.modMe f).mail = s.mail := rfl
@[simp] theorem State.modMe_due (s : State) (f : TSet → TSet) : (s.modMe f).due = s.due := rfl
@[simp] theorem State.modMe_directs (s : State) (f : TSet → TSet) : (s.modMe f).directs = s.directs := rfl
@[simp] theorem State.modMe_thefts (s : State) (f : TSet → TSet) : (s.modMe f).thefts = s.thefts := rfl
@[simp] theorem State.modMe_stolen (s : State) (f : TSet → TSet) : (s.modMe f).stolen = s.stolen := rfl
@[simp] theorem State.modMe_flights (s : State) (f : TSet → TSet) : (s.modMe f).flights = s.flights := rfl
@[simp] theorem State.modMe_leases (s : State) (f : TSet → TSet) : (s.modMe f).leases = s.leases := rfl
@[simp] theorem State.modMe_engines (s : State) (f : TSet → TSet) : (s.modMe f).engines = s.engines := rfl
@[simp] theorem State.modMe_tenants (s : State) (f : TSet → TSet) : (s.modMe f).tenants = s.tenants := rfl
@[simp] theorem State.modMe_dies (s : State) (f : TSet → TSet) : (s.modMe f).dies = s.dies := rfl
@[simp] theorem State.modMe_hostMem (s : State) (f : TSet → TSet) : (s.modMe f).hostMem = s.hostMem := rfl
@[simp] theorem State.modMe_ready (s : State) (f : TSet → TSet) : (s.modMe f).ready = s.ready := rfl
@[simp] theorem State.modMe_cxl (s : State) (f : TSet → TSet) : (s.modMe f).cxl = s.cxl := rfl
@[simp] theorem State.modMe_dsmWait (s : State) (f : TSet → TSet) : (s.modMe f).dsmWait = s.dsmWait := rfl
@[simp] theorem State.modMe_capSteps (s : State) (f : TSet → TSet) : (s.modMe f).capSteps = s.capSteps := rfl
@[simp] theorem State.modMe_capAt (s : State) (f : TSet → TSet) : (s.modMe f).capAt = s.capAt := rfl
@[simp] theorem State.modMe_rotations (s : State) (f : TSet → TSet) : (s.modMe f).rotations = s.rotations := rfl
@[simp] theorem State.modMe_out (s : State) (f : TSet → TSet) : (s.modMe f).out = s.out := rfl
@[simp] theorem State.modMe_segments (s : State) (f : TSet → TSet) : (s.modMe f).segments = s.segments := rfl
@[simp] theorem State.modMe_peerStores (s : State) (f : TSet → TSet) : (s.modMe f).peerStores = s.peerStores := rfl
@[simp] theorem State.modMe_peerLoads (s : State) (f : TSet → TSet) : (s.modMe f).peerLoads = s.peerLoads := rfl
@[simp] theorem State.modMe_owed (s : State) (f : TSet → TSet) : (s.modMe f).owed = s.owed := rfl
@[simp] theorem State.modMe_ports (s : State) (f : TSet → TSet) : (s.modMe f).ports = s.ports := rfl
@[simp] theorem State.modMe_offs (s : State) (f : TSet → TSet) : (s.modMe f).offs = s.offs := rfl
@[simp] theorem State.modMe_spdm (s : State) (f : TSet → TSet) : (s.modMe f).spdm = s.spdm := rfl
@[simp] theorem State.modMe_curCore (s : State) (f : TSet → TSet) : (s.modMe f).curCore = s.curCore := rfl
@[simp] theorem State.modMe_curTs (s : State) (f : TSet → TSet) : (s.modMe f).curTs = s.curTs := rfl
@[simp] theorem State.modMe_ia (s : State) (f : TSet → TSet) : (s.modMe f).ia = s.ia := rfl
@[simp] theorem State.modMe_uid (s : State) (f : TSet → TSet) : (s.modMe f).uid = s.uid := rfl
@[simp] theorem State.modMe_drawn (s : State) (f : TSet → TSet) : (s.modMe f).drawn = s.drawn := rfl
@[simp] theorem State.modMe_agenda (s : State) (f : TSet → TSet) : (s.modMe f).agenda = s.agenda := rfl
@[simp] theorem State.modMe_choices (s : State) (f : TSet → TSet) : (s.modMe f).choices = s.choices := rfl
@[simp] theorem State.modMe_powered (s : State) (f : TSet → TSet) : (s.modMe f).powered = s.powered := rfl
@[simp] theorem State.modMyCore_periods (s : State) (f : Core → Core) : (s.modMyCore f).periods = s.periods := rfl
@[simp] theorem State.modMyCore_tsets (s : State) (f : Core → Core) : (s.modMyCore f).tsets = s.tsets := rfl
@[simp] theorem State.modMyCore_clusters (s : State) (f : Core → Core) : (s.modMyCore f).clusters = s.clusters := rfl
@[simp] theorem State.modMyCore_scratch (s : State) (f : Core → Core) : (s.modMyCore f).scratch = s.scratch := rfl
@[simp] theorem State.modMyCore_abuf (s : State) (f : Core → Core) : (s.modMyCore f).abuf = s.abuf := rfl
@[simp] theorem State.modMyCore_wbuf (s : State) (f : Core → Core) : (s.modMyCore f).wbuf = s.wbuf := rfl
@[simp] theorem State.modMyCore_cbuf (s : State) (f : Core → Core) : (s.modMyCore f).cbuf = s.cbuf := rfl
@[simp] theorem State.modMyCore_aside (s : State) (f : Core → Core) : (s.modMyCore f).aside = s.aside := rfl
@[simp] theorem State.modMyCore_wside (s : State) (f : Core → Core) : (s.modMyCore f).wside = s.wside := rfl
@[simp] theorem State.modMyCore_home (s : State) (f : Core → Core) : (s.modMyCore f).home = s.home := rfl
@[simp] theorem State.modMyCore_under (s : State) (f : Core → Core) : (s.modMyCore f).under = s.under := rfl
@[simp] theorem State.modMyCore_locks (s : State) (f : Core → Core) : (s.modMyCore f).locks = s.locks := rfl
@[simp] theorem State.modMyCore_lockWaits (s : State) (f : Core → Core) : (s.modMyCore f).lockWaits = s.lockWaits := rfl
@[simp] theorem State.modMyCore_bankWatches (s : State) (f : Core → Core) : (s.modMyCore f).bankWatches = s.bankWatches := rfl
@[simp] theorem State.modMyCore_eccBad (s : State) (f : Core → Core) : (s.modMyCore f).eccBad = s.eccBad := rfl
@[simp] theorem State.modMyCore_bankPort (s : State) (f : Core → Core) : (s.modMyCore f).bankPort = s.bankPort := rfl
@[simp] theorem State.modMyCore_sramBad (s : State) (f : Core → Core) : (s.modMyCore f).sramBad = s.sramBad := rfl
@[simp] theorem State.modMyCore_abufBad (s : State) (f : Core → Core) : (s.modMyCore f).abufBad = s.abufBad := rfl
@[simp] theorem State.modMyCore_wbufBad (s : State) (f : Core → Core) : (s.modMyCore f).wbufBad = s.wbufBad := rfl
@[simp] theorem State.modMyCore_cbufBad (s : State) (f : Core → Core) : (s.modMyCore f).cbufBad = s.cbufBad := rfl
@[simp] theorem State.modMyCore_asideBad (s : State) (f : Core → Core) : (s.modMyCore f).asideBad = s.asideBad := rfl
@[simp] theorem State.modMyCore_wsideBad (s : State) (f : Core → Core) : (s.modMyCore f).wsideBad = s.wsideBad := rfl
@[simp] theorem State.modMyCore_pgroot (s : State) (f : Core → Core) : (s.modMyCore f).pgroot = s.pgroot := rfl
@[simp] theorem State.modMyCore_bupage (s : State) (f : Core → Core) : (s.modMyCore f).bupage = s.bupage := rfl
@[simp] theorem State.modMyCore_pwrcap (s : State) (f : Core → Core) : (s.modMyCore f).pwrcap = s.pwrcap := rfl
@[simp] theorem State.modMyCore_owners (s : State) (f : Core → Core) : (s.modMyCore f).owners = s.owners := rfl
@[simp] theorem State.modMyCore_nextGid (s : State) (f : Core → Core) : (s.modMyCore f).nextGid = s.nextGid := rfl
@[simp] theorem State.modMyCore_presence (s : State) (f : Core → Core) : (s.modMyCore f).presence = s.presence := rfl
@[simp] theorem State.modMyCore_purges (s : State) (f : Core → Core) : (s.modMyCore f).purges = s.purges := rfl
@[simp] theorem State.modMyCore_watches (s : State) (f : Core → Core) : (s.modMyCore f).watches = s.watches := rfl
@[simp] theorem State.modMyCore_acqs (s : State) (f : Core → Core) : (s.modMyCore f).acqs = s.acqs := rfl
@[simp] theorem State.modMyCore_countQ (s : State) (f : Core → Core) : (s.modMyCore f).countQ = s.countQ := rfl
@[simp] theorem State.modMyCore_counts (s : State) (f : Core → Core) : (s.modMyCore f).counts = s.counts := rfl
@[simp] theorem State.modMyCore_acOff (s : State) (f : Core → Core) : (s.modMyCore f).acOff = s.acOff := rfl
@[simp] theorem State.modMyCore_contexts (s : State) (f : Core → Core) : (s.modMyCore f).contexts = s.contexts := rfl
@[simp] theorem State.modMyCore_partitions (s : State) (f : Core → Core) : (s.modMyCore f).partitions = s.partitions := rfl
@[simp] theorem State.modMyCore_queues (s : State) (f : Core → Core) : (s.modMyCore f).queues = s.queues := rfl
@[simp] theorem State.modMyCore_launches (s : State) (f : Core → Core) : (s.modMyCore f).launches = s.launches := rfl
@[simp] theorem State.modMyCore_mail (s : State) (f : Core → Core) : (s.modMyCore f).mail = s.mail := rfl
@[simp] theorem State.modMyCore_due (s : State) (f : Core → Core) : (s.modMyCore f).due = s.due := rfl
@[simp] theorem State.modMyCore_directs (s : State) (f : Core → Core) : (s.modMyCore f).directs = s.directs := rfl
@[simp] theorem State.modMyCore_thefts (s : State) (f : Core → Core) : (s.modMyCore f).thefts = s.thefts := rfl
@[simp] theorem State.modMyCore_stolen (s : State) (f : Core → Core) : (s.modMyCore f).stolen = s.stolen := rfl
@[simp] theorem State.modMyCore_flights (s : State) (f : Core → Core) : (s.modMyCore f).flights = s.flights := rfl
@[simp] theorem State.modMyCore_leases (s : State) (f : Core → Core) : (s.modMyCore f).leases = s.leases := rfl
@[simp] theorem State.modMyCore_engines (s : State) (f : Core → Core) : (s.modMyCore f).engines = s.engines := rfl
@[simp] theorem State.modMyCore_tenants (s : State) (f : Core → Core) : (s.modMyCore f).tenants = s.tenants := rfl
@[simp] theorem State.modMyCore_dies (s : State) (f : Core → Core) : (s.modMyCore f).dies = s.dies := rfl
@[simp] theorem State.modMyCore_hostMem (s : State) (f : Core → Core) : (s.modMyCore f).hostMem = s.hostMem := rfl
@[simp] theorem State.modMyCore_ready (s : State) (f : Core → Core) : (s.modMyCore f).ready = s.ready := rfl
@[simp] theorem State.modMyCore_cxl (s : State) (f : Core → Core) : (s.modMyCore f).cxl = s.cxl := rfl
@[simp] theorem State.modMyCore_dsmWait (s : State) (f : Core → Core) : (s.modMyCore f).dsmWait = s.dsmWait := rfl
@[simp] theorem State.modMyCore_capSteps (s : State) (f : Core → Core) : (s.modMyCore f).capSteps = s.capSteps := rfl
@[simp] theorem State.modMyCore_capAt (s : State) (f : Core → Core) : (s.modMyCore f).capAt = s.capAt := rfl
@[simp] theorem State.modMyCore_rotations (s : State) (f : Core → Core) : (s.modMyCore f).rotations = s.rotations := rfl
@[simp] theorem State.modMyCore_out (s : State) (f : Core → Core) : (s.modMyCore f).out = s.out := rfl
@[simp] theorem State.modMyCore_segments (s : State) (f : Core → Core) : (s.modMyCore f).segments = s.segments := rfl
@[simp] theorem State.modMyCore_peerStores (s : State) (f : Core → Core) : (s.modMyCore f).peerStores = s.peerStores := rfl
@[simp] theorem State.modMyCore_peerLoads (s : State) (f : Core → Core) : (s.modMyCore f).peerLoads = s.peerLoads := rfl
@[simp] theorem State.modMyCore_owed (s : State) (f : Core → Core) : (s.modMyCore f).owed = s.owed := rfl
@[simp] theorem State.modMyCore_ports (s : State) (f : Core → Core) : (s.modMyCore f).ports = s.ports := rfl
@[simp] theorem State.modMyCore_offs (s : State) (f : Core → Core) : (s.modMyCore f).offs = s.offs := rfl
@[simp] theorem State.modMyCore_spdm (s : State) (f : Core → Core) : (s.modMyCore f).spdm = s.spdm := rfl
@[simp] theorem State.modMyCore_curCore (s : State) (f : Core → Core) : (s.modMyCore f).curCore = s.curCore := rfl
@[simp] theorem State.modMyCore_curTs (s : State) (f : Core → Core) : (s.modMyCore f).curTs = s.curTs := rfl
@[simp] theorem State.modMyCore_ia (s : State) (f : Core → Core) : (s.modMyCore f).ia = s.ia := rfl
@[simp] theorem State.modMyCore_uid (s : State) (f : Core → Core) : (s.modMyCore f).uid = s.uid := rfl
@[simp] theorem State.modMyCore_drawn (s : State) (f : Core → Core) : (s.modMyCore f).drawn = s.drawn := rfl
@[simp] theorem State.modMyCore_agenda (s : State) (f : Core → Core) : (s.modMyCore f).agenda = s.agenda := rfl
@[simp] theorem State.modMyCore_choices (s : State) (f : Core → Core) : (s.modMyCore f).choices = s.choices := rfl
@[simp] theorem State.modMyCore_powered (s : State) (f : Core → Core) : (s.modMyCore f).powered = s.powered := rfl

/-! ## The thread set after a register write -/

@[simp] theorem TSet.writeGRaw_v (t : TSet) (k : Nat) (x : Word) : (t.writeGRaw k x).v = t.v := by unfold TSet.writeGRaw; split <;> rfl
@[simp] theorem TSet.writeGRaw_p (t : TSet) (k : Nat) (x : Word) : (t.writeGRaw k x).p = t.p := by unfold TSet.writeGRaw; split <;> rfl
@[simp] theorem TSet.writeGRaw_c (t : TSet) (k : Nat) (x : Word) : (t.writeGRaw k x).c = t.c := by unfold TSet.writeGRaw; split <;> rfl
@[simp] theorem TSet.writeGRaw_gEmpty (t : TSet) (k : Nat) (x : Word) : (t.writeGRaw k x).gEmpty = t.gEmpty := by unfold TSet.writeGRaw; split <;> rfl
@[simp] theorem TSet.writeGRaw_gLock (t : TSet) (k : Nat) (x : Word) : (t.writeGRaw k x).gLock = t.gLock := by unfold TSet.writeGRaw; split <;> rfl
@[simp] theorem TSet.writeGRaw_vEmpty (t : TSet) (k : Nat) (x : Word) : (t.writeGRaw k x).vEmpty = t.vEmpty := by unfold TSet.writeGRaw; split <;> rfl
@[simp] theorem TSet.writeGRaw_vLock (t : TSet) (k : Nat) (x : Word) : (t.writeGRaw k x).vLock = t.vLock := by unfold TSet.writeGRaw; split <;> rfl
@[simp] theorem TSet.writeGRaw_vPar (t : TSet) (k : Nat) (x : Word) : (t.writeGRaw k x).vPar = t.vPar := by unfold TSet.writeGRaw; split <;> rfl
@[simp] theorem TSet.writeGRaw_vMark (t : TSet) (k : Nat) (x : Word) : (t.writeGRaw k x).vMark = t.vMark := by unfold TSet.writeGRaw; split <;> rfl
@[simp] theorem TSet.writeGRaw_pc (t : TSet) (k : Nat) (x : Word) : (t.writeGRaw k x).pc = t.pc := by unfold TSet.writeGRaw; split <;> rfl
@[simp] theorem TSet.writeGRaw_retStack (t : TSet) (k : Nat) (x : Word) : (t.writeGRaw k x).retStack = t.retStack := by unfold TSet.writeGRaw; split <;> rfl
@[simp] theorem TSet.writeGRaw_owner (t : TSet) (k : Nat) (x : Word) : (t.writeGRaw k x).owner = t.owner := by unfold TSet.writeGRaw; split <;> rfl
@[simp] theorem TSet.writeGRaw_tmpol (t : TSet) (k : Nat) (x : Word) : (t.writeGRaw k x).tmpol = t.tmpol := by unfold TSet.writeGRaw; split <;> rfl
@[simp] theorem TSet.writeGRaw_tmstat (t : TSet) (k : Nat) (x : Word) : (t.writeGRaw k x).tmstat = t.tmstat := by unfold TSet.writeGRaw; split <;> rfl
@[simp] theorem TSet.writeGRaw_tmrc (t : TSet) (k : Nat) (x : Word) : (t.writeGRaw k x).tmrc = t.tmrc := by unfold TSet.writeGRaw; split <;> rfl
@[simp] theorem TSet.writeGRaw_fpctl (t : TSet) (k : Nat) (x : Word) : (t.writeGRaw k x).fpctl = t.fpctl := by unfold TSet.writeGRaw; split <;> rfl
@[simp] theorem TSet.writeGRaw_sfbase (t : TSet) (k : Nat) (x : Word) : (t.writeGRaw k x).sfbase = t.sfbase := by unfold TSet.writeGRaw; split <;> rfl
@[simp] theorem TSet.writeGRaw_sflen (t : TSet) (k : Nat) (x : Word) : (t.writeGRaw k x).sflen = t.sflen := by unfold TSet.writeGRaw; split <;> rfl
@[simp] theorem TSet.writeGRaw_cstop (t : TSet) (k : Nat) (x : Word) : (t.writeGRaw k x).cstop = t.cstop := by unfold TSet.writeGRaw; split <;> rfl
@[simp] theorem TSet.writeGRaw_trtop (t : TSet) (k : Nat) (x : Word) : (t.writeGRaw k x).trtop = t.trtop := by unfold TSet.writeGRaw; split <;> rfl
@[simp] theorem TSet.writeGRaw_stealpol (t : TSet) (k : Nat) (x : Word) : (t.writeGRaw k x).stealpol = t.stealpol := by unfold TSet.writeGRaw; split <;> rfl
@[simp] theorem TSet.writeGRaw_srchdone (t : TSet) (k : Nat) (x : Word) : (t.writeGRaw k x).srchdone = t.srchdone := by unfold TSet.writeGRaw; split <;> rfl
@[simp] theorem TSet.writeGRaw_tlvl (t : TSet) (k : Nat) (x : Word) : (t.writeGRaw k x).tlvl = t.tlvl := by unfold TSet.writeGRaw; split <;> rfl
@[simp] theorem TSet.writeGRaw_tvec (t : TSet) (k : Nat) (x : Word) : (t.writeGRaw k x).tvec = t.tvec := by unfold TSet.writeGRaw; split <;> rfl
@[simp] theorem TSet.writeGRaw_tsave1 (t : TSet) (k : Nat) (x : Word) : (t.writeGRaw k x).tsave1 = t.tsave1 := by unfold TSet.writeGRaw; split <;> rfl
@[simp] theorem TSet.writeGRaw_tsave2 (t : TSet) (k : Nat) (x : Word) : (t.writeGRaw k x).tsave2 = t.tsave2 := by unfold TSet.writeGRaw; split <;> rfl
@[simp] theorem TSet.writeGRaw_tcause1 (t : TSet) (k : Nat) (x : Word) : (t.writeGRaw k x).tcause1 = t.tcause1 := by unfold TSet.writeGRaw; split <;> rfl
@[simp] theorem TSet.writeGRaw_tepc1 (t : TSet) (k : Nat) (x : Word) : (t.writeGRaw k x).tepc1 = t.tepc1 := by unfold TSet.writeGRaw; split <;> rfl
@[simp] theorem TSet.writeGRaw_tval1 (t : TSet) (k : Nat) (x : Word) : (t.writeGRaw k x).tval1 = t.tval1 := by unfold TSet.writeGRaw; split <;> rfl
@[simp] theorem TSet.writeGRaw_tcause2 (t : TSet) (k : Nat) (x : Word) : (t.writeGRaw k x).tcause2 = t.tcause2 := by unfold TSet.writeGRaw; split <;> rfl
@[simp] theorem TSet.writeGRaw_tepc2 (t : TSet) (k : Nat) (x : Word) : (t.writeGRaw k x).tepc2 = t.tepc2 := by unfold TSet.writeGRaw; split <;> rfl
@[simp] theorem TSet.writeGRaw_tval2 (t : TSet) (k : Nat) (x : Word) : (t.writeGRaw k x).tval2 = t.tval2 := by unfold TSet.writeGRaw; split <;> rfl
@[simp] theorem TSet.writeGRaw_dlysel (t : TSet) (k : Nat) (x : Word) : (t.writeGRaw k x).dlysel = t.dlysel := by unfold TSet.writeGRaw; split <;> rfl
@[simp] theorem TSet.writeGRaw_wdogEnd (t : TSet) (k : Nat) (x : Word) : (t.writeGRaw k x).wdogEnd = t.wdogEnd := by unfold TSet.writeGRaw; split <;> rfl
@[simp] theorem TSet.writeGRaw_cmdStatus (t : TSet) (k : Nat) (x : Word) : (t.writeGRaw k x).cmdStatus = t.cmdStatus := by unfold TSet.writeGRaw; split <;> rfl
@[simp] theorem TSet.writeGRaw_act (t : TSet) (k : Nat) (x : Word) : (t.writeGRaw k x).act = t.act := by unfold TSet.writeGRaw; split <;> rfl
@[simp] theorem TSet.writeGRaw_pushCount (t : TSet) (k : Nat) (x : Word) : (t.writeGRaw k x).pushCount = t.pushCount := by unfold TSet.writeGRaw; split <;> rfl
@[simp] theorem TSet.writeGRaw_pend (t : TSet) (k : Nat) (x : Word) : (t.writeGRaw k x).pend = t.pend := by unfold TSet.writeGRaw; split <;> rfl
@[simp] theorem TSet.writeGRaw_storeq (t : TSet) (k : Nat) (x : Word) : (t.writeGRaw k x).storeq = t.storeq := by unfold TSet.writeGRaw; split <;> rfl
@[simp] theorem TSet.writeGRaw_unacked (t : TSet) (k : Nat) (x : Word) : (t.writeGRaw k x).unacked = t.unacked := by unfold TSet.writeGRaw; split <;> rfl
@[simp] theorem TSet.writeGRaw_sendBuf (t : TSet) (k : Nat) (x : Word) : (t.writeGRaw k x).sendBuf = t.sendBuf := by unfold TSet.writeGRaw; split <;> rfl
@[simp] theorem TSet.writeGRaw_releasing (t : TSet) (k : Nat) (x : Word) : (t.writeGRaw k x).releasing = t.releasing := by unfold TSet.writeGRaw; split <;> rfl
@[simp] theorem TSet.writeGRaw_relCtx (t : TSet) (k : Nat) (x : Word) : (t.writeGRaw k x).relCtx = t.relCtx := by unfold TSet.writeGRaw; split <;> rfl
@[simp] theorem TSet.writeGRaw_armAfter (t : TSet) (k : Nat) (x : Word) : (t.writeGRaw k x).armAfter = t.armAfter := by unfold TSet.writeGRaw; split <;> rfl
@[simp] theorem TSet.writeGRaw_ending (t : TSet) (k : Nat) (x : Word) : (t.writeGRaw k x).ending = t.ending := by unfold TSet.writeGRaw; split <;> rfl
@[simp] theorem TSet.writeGRaw_holds (t : TSet) (k : Nat) (x : Word) : (t.writeGRaw k x).holds = t.holds := by unfold TSet.writeGRaw; split <;> rfl
@[simp] theorem TSet.writeGRaw_readyAt (t : TSet) (k : Nat) (x : Word) : (t.writeGRaw k x).readyAt = t.readyAt := by unfold TSet.writeGRaw; split <;> rfl
@[simp] theorem TSet.writeGRaw_wait (t : TSet) (k : Nat) (x : Word) : (t.writeGRaw k x).wait = t.wait := by unfold TSet.writeGRaw; split <;> rfl
@[simp] theorem TSet.writeGRaw_walk (t : TSet) (k : Nat) (x : Word) : (t.writeGRaw k x).walk = t.walk := by unfold TSet.writeGRaw; split <;> rfl
@[simp] theorem TSet.writeGRaw_word (t : TSet) (k : Nat) (x : Word) : (t.writeGRaw k x).word = t.word := by unfold TSet.writeGRaw; split <;> rfl
@[simp] theorem TSet.writeGRaw_late (t : TSet) (k : Nat) (x : Word) : (t.writeGRaw k x).late = t.late := by unfold TSet.writeGRaw; split <;> rfl
@[simp] theorem TSet.writeGRaw_arrived (t : TSet) (k : Nat) (x : Word) : (t.writeGRaw k x).arrived = t.arrived := by unfold TSet.writeGRaw; split <;> rfl
@[simp] theorem TSet.writeGRaw_tried (t : TSet) (k : Nat) (x : Word) : (t.writeGRaw k x).tried = t.tried := by unfold TSet.writeGRaw; split <;> rfl
@[simp] theorem TSet.writeGRaw_failedAt (t : TSet) (k : Nat) (x : Word) : (t.writeGRaw k x).failedAt = t.failedAt := by unfold TSet.writeGRaw; split <;> rfl
@[simp] theorem TSet.writeGRaw_stalled (t : TSet) (k : Nat) (x : Word) : (t.writeGRaw k x).stalled = t.stalled := by unfold TSet.writeGRaw; split <;> rfl
@[simp] theorem TSet.writeGRaw_steps (t : TSet) (k : Nat) (x : Word) : (t.writeGRaw k x).steps = t.steps := by unfold TSet.writeGRaw; split <;> rfl
@[simp] theorem TSet.writeGRaw_theftGrant (t : TSet) (k : Nat) (x : Word) : (t.writeGRaw k x).theftGrant = t.theftGrant := by unfold TSet.writeGRaw; split <;> rfl
@[simp] theorem TSet.writeGRaw_reserved (t : TSet) (k : Nat) (x : Word) : (t.writeGRaw k x).reserved = t.reserved := by unfold TSet.writeGRaw; split <;> rfl
@[simp] theorem TSet.writeG_v (t : TSet) (i : Nat) (x : Word) : (t.writeG i x).v = t.v := TSet.writeGRaw_v t _ x
@[simp] theorem TSet.writeG_p (t : TSet) (i : Nat) (x : Word) : (t.writeG i x).p = t.p := TSet.writeGRaw_p t _ x
@[simp] theorem TSet.writeG_c (t : TSet) (i : Nat) (x : Word) : (t.writeG i x).c = t.c := TSet.writeGRaw_c t _ x
@[simp] theorem TSet.writeG_gEmpty (t : TSet) (i : Nat) (x : Word) : (t.writeG i x).gEmpty = t.gEmpty := TSet.writeGRaw_gEmpty t _ x
@[simp] theorem TSet.writeG_gLock (t : TSet) (i : Nat) (x : Word) : (t.writeG i x).gLock = t.gLock := TSet.writeGRaw_gLock t _ x
@[simp] theorem TSet.writeG_vEmpty (t : TSet) (i : Nat) (x : Word) : (t.writeG i x).vEmpty = t.vEmpty := TSet.writeGRaw_vEmpty t _ x
@[simp] theorem TSet.writeG_vLock (t : TSet) (i : Nat) (x : Word) : (t.writeG i x).vLock = t.vLock := TSet.writeGRaw_vLock t _ x
@[simp] theorem TSet.writeG_vPar (t : TSet) (i : Nat) (x : Word) : (t.writeG i x).vPar = t.vPar := TSet.writeGRaw_vPar t _ x
@[simp] theorem TSet.writeG_vMark (t : TSet) (i : Nat) (x : Word) : (t.writeG i x).vMark = t.vMark := TSet.writeGRaw_vMark t _ x
@[simp] theorem TSet.writeG_pc (t : TSet) (i : Nat) (x : Word) : (t.writeG i x).pc = t.pc := TSet.writeGRaw_pc t _ x
@[simp] theorem TSet.writeG_retStack (t : TSet) (i : Nat) (x : Word) : (t.writeG i x).retStack = t.retStack := TSet.writeGRaw_retStack t _ x
@[simp] theorem TSet.writeG_owner (t : TSet) (i : Nat) (x : Word) : (t.writeG i x).owner = t.owner := TSet.writeGRaw_owner t _ x
@[simp] theorem TSet.writeG_tmpol (t : TSet) (i : Nat) (x : Word) : (t.writeG i x).tmpol = t.tmpol := TSet.writeGRaw_tmpol t _ x
@[simp] theorem TSet.writeG_tmstat (t : TSet) (i : Nat) (x : Word) : (t.writeG i x).tmstat = t.tmstat := TSet.writeGRaw_tmstat t _ x
@[simp] theorem TSet.writeG_tmrc (t : TSet) (i : Nat) (x : Word) : (t.writeG i x).tmrc = t.tmrc := TSet.writeGRaw_tmrc t _ x
@[simp] theorem TSet.writeG_fpctl (t : TSet) (i : Nat) (x : Word) : (t.writeG i x).fpctl = t.fpctl := TSet.writeGRaw_fpctl t _ x
@[simp] theorem TSet.writeG_sfbase (t : TSet) (i : Nat) (x : Word) : (t.writeG i x).sfbase = t.sfbase := TSet.writeGRaw_sfbase t _ x
@[simp] theorem TSet.writeG_sflen (t : TSet) (i : Nat) (x : Word) : (t.writeG i x).sflen = t.sflen := TSet.writeGRaw_sflen t _ x
@[simp] theorem TSet.writeG_cstop (t : TSet) (i : Nat) (x : Word) : (t.writeG i x).cstop = t.cstop := TSet.writeGRaw_cstop t _ x
@[simp] theorem TSet.writeG_trtop (t : TSet) (i : Nat) (x : Word) : (t.writeG i x).trtop = t.trtop := TSet.writeGRaw_trtop t _ x
@[simp] theorem TSet.writeG_stealpol (t : TSet) (i : Nat) (x : Word) : (t.writeG i x).stealpol = t.stealpol := TSet.writeGRaw_stealpol t _ x
@[simp] theorem TSet.writeG_srchdone (t : TSet) (i : Nat) (x : Word) : (t.writeG i x).srchdone = t.srchdone := TSet.writeGRaw_srchdone t _ x
@[simp] theorem TSet.writeG_tlvl (t : TSet) (i : Nat) (x : Word) : (t.writeG i x).tlvl = t.tlvl := TSet.writeGRaw_tlvl t _ x
@[simp] theorem TSet.writeG_tvec (t : TSet) (i : Nat) (x : Word) : (t.writeG i x).tvec = t.tvec := TSet.writeGRaw_tvec t _ x
@[simp] theorem TSet.writeG_tsave1 (t : TSet) (i : Nat) (x : Word) : (t.writeG i x).tsave1 = t.tsave1 := TSet.writeGRaw_tsave1 t _ x
@[simp] theorem TSet.writeG_tsave2 (t : TSet) (i : Nat) (x : Word) : (t.writeG i x).tsave2 = t.tsave2 := TSet.writeGRaw_tsave2 t _ x
@[simp] theorem TSet.writeG_tcause1 (t : TSet) (i : Nat) (x : Word) : (t.writeG i x).tcause1 = t.tcause1 := TSet.writeGRaw_tcause1 t _ x
@[simp] theorem TSet.writeG_tepc1 (t : TSet) (i : Nat) (x : Word) : (t.writeG i x).tepc1 = t.tepc1 := TSet.writeGRaw_tepc1 t _ x
@[simp] theorem TSet.writeG_tval1 (t : TSet) (i : Nat) (x : Word) : (t.writeG i x).tval1 = t.tval1 := TSet.writeGRaw_tval1 t _ x
@[simp] theorem TSet.writeG_tcause2 (t : TSet) (i : Nat) (x : Word) : (t.writeG i x).tcause2 = t.tcause2 := TSet.writeGRaw_tcause2 t _ x
@[simp] theorem TSet.writeG_tepc2 (t : TSet) (i : Nat) (x : Word) : (t.writeG i x).tepc2 = t.tepc2 := TSet.writeGRaw_tepc2 t _ x
@[simp] theorem TSet.writeG_tval2 (t : TSet) (i : Nat) (x : Word) : (t.writeG i x).tval2 = t.tval2 := TSet.writeGRaw_tval2 t _ x
@[simp] theorem TSet.writeG_dlysel (t : TSet) (i : Nat) (x : Word) : (t.writeG i x).dlysel = t.dlysel := TSet.writeGRaw_dlysel t _ x
@[simp] theorem TSet.writeG_wdogEnd (t : TSet) (i : Nat) (x : Word) : (t.writeG i x).wdogEnd = t.wdogEnd := TSet.writeGRaw_wdogEnd t _ x
@[simp] theorem TSet.writeG_cmdStatus (t : TSet) (i : Nat) (x : Word) : (t.writeG i x).cmdStatus = t.cmdStatus := TSet.writeGRaw_cmdStatus t _ x
@[simp] theorem TSet.writeG_act (t : TSet) (i : Nat) (x : Word) : (t.writeG i x).act = t.act := TSet.writeGRaw_act t _ x
@[simp] theorem TSet.writeG_pushCount (t : TSet) (i : Nat) (x : Word) : (t.writeG i x).pushCount = t.pushCount := TSet.writeGRaw_pushCount t _ x
@[simp] theorem TSet.writeG_pend (t : TSet) (i : Nat) (x : Word) : (t.writeG i x).pend = t.pend := TSet.writeGRaw_pend t _ x
@[simp] theorem TSet.writeG_storeq (t : TSet) (i : Nat) (x : Word) : (t.writeG i x).storeq = t.storeq := TSet.writeGRaw_storeq t _ x
@[simp] theorem TSet.writeG_unacked (t : TSet) (i : Nat) (x : Word) : (t.writeG i x).unacked = t.unacked := TSet.writeGRaw_unacked t _ x
@[simp] theorem TSet.writeG_sendBuf (t : TSet) (i : Nat) (x : Word) : (t.writeG i x).sendBuf = t.sendBuf := TSet.writeGRaw_sendBuf t _ x
@[simp] theorem TSet.writeG_releasing (t : TSet) (i : Nat) (x : Word) : (t.writeG i x).releasing = t.releasing := TSet.writeGRaw_releasing t _ x
@[simp] theorem TSet.writeG_relCtx (t : TSet) (i : Nat) (x : Word) : (t.writeG i x).relCtx = t.relCtx := TSet.writeGRaw_relCtx t _ x
@[simp] theorem TSet.writeG_armAfter (t : TSet) (i : Nat) (x : Word) : (t.writeG i x).armAfter = t.armAfter := TSet.writeGRaw_armAfter t _ x
@[simp] theorem TSet.writeG_ending (t : TSet) (i : Nat) (x : Word) : (t.writeG i x).ending = t.ending := TSet.writeGRaw_ending t _ x
@[simp] theorem TSet.writeG_holds (t : TSet) (i : Nat) (x : Word) : (t.writeG i x).holds = t.holds := TSet.writeGRaw_holds t _ x
@[simp] theorem TSet.writeG_readyAt (t : TSet) (i : Nat) (x : Word) : (t.writeG i x).readyAt = t.readyAt := TSet.writeGRaw_readyAt t _ x
@[simp] theorem TSet.writeG_wait (t : TSet) (i : Nat) (x : Word) : (t.writeG i x).wait = t.wait := TSet.writeGRaw_wait t _ x
@[simp] theorem TSet.writeG_walk (t : TSet) (i : Nat) (x : Word) : (t.writeG i x).walk = t.walk := TSet.writeGRaw_walk t _ x
@[simp] theorem TSet.writeG_word (t : TSet) (i : Nat) (x : Word) : (t.writeG i x).word = t.word := TSet.writeGRaw_word t _ x
@[simp] theorem TSet.writeG_late (t : TSet) (i : Nat) (x : Word) : (t.writeG i x).late = t.late := TSet.writeGRaw_late t _ x
@[simp] theorem TSet.writeG_arrived (t : TSet) (i : Nat) (x : Word) : (t.writeG i x).arrived = t.arrived := TSet.writeGRaw_arrived t _ x
@[simp] theorem TSet.writeG_tried (t : TSet) (i : Nat) (x : Word) : (t.writeG i x).tried = t.tried := TSet.writeGRaw_tried t _ x
@[simp] theorem TSet.writeG_failedAt (t : TSet) (i : Nat) (x : Word) : (t.writeG i x).failedAt = t.failedAt := TSet.writeGRaw_failedAt t _ x
@[simp] theorem TSet.writeG_stalled (t : TSet) (i : Nat) (x : Word) : (t.writeG i x).stalled = t.stalled := TSet.writeGRaw_stalled t _ x
@[simp] theorem TSet.writeG_steps (t : TSet) (i : Nat) (x : Word) : (t.writeG i x).steps = t.steps := TSet.writeGRaw_steps t _ x
@[simp] theorem TSet.writeG_theftGrant (t : TSet) (i : Nat) (x : Word) : (t.writeG i x).theftGrant = t.theftGrant := TSet.writeGRaw_theftGrant t _ x
@[simp] theorem TSet.writeG_reserved (t : TSet) (i : Nat) (x : Word) : (t.writeG i x).reserved = t.reserved := TSet.writeGRaw_reserved t _ x
@[simp] theorem TSet.writeV_g (t : TSet) (i : Nat) (x : Line) : (t.writeV i x).g = t.g := rfl
@[simp] theorem TSet.writeV_p (t : TSet) (i : Nat) (x : Line) : (t.writeV i x).p = t.p := rfl
@[simp] theorem TSet.writeV_c (t : TSet) (i : Nat) (x : Line) : (t.writeV i x).c = t.c := rfl
@[simp] theorem TSet.writeV_gEmpty (t : TSet) (i : Nat) (x : Line) : (t.writeV i x).gEmpty = t.gEmpty := rfl
@[simp] theorem TSet.writeV_gLock (t : TSet) (i : Nat) (x : Line) : (t.writeV i x).gLock = t.gLock := rfl
@[simp] theorem TSet.writeV_vEmpty (t : TSet) (i : Nat) (x : Line) : (t.writeV i x).vEmpty = t.vEmpty := rfl
@[simp] theorem TSet.writeV_vLock (t : TSet) (i : Nat) (x : Line) : (t.writeV i x).vLock = t.vLock := rfl
@[simp] theorem TSet.writeV_gPar (t : TSet) (i : Nat) (x : Line) : (t.writeV i x).gPar = t.gPar := rfl
@[simp] theorem TSet.writeV_gMark (t : TSet) (i : Nat) (x : Line) : (t.writeV i x).gMark = t.gMark := rfl
@[simp] theorem TSet.writeV_pc (t : TSet) (i : Nat) (x : Line) : (t.writeV i x).pc = t.pc := rfl
@[simp] theorem TSet.writeV_retStack (t : TSet) (i : Nat) (x : Line) : (t.writeV i x).retStack = t.retStack := rfl
@[simp] theorem TSet.writeV_owner (t : TSet) (i : Nat) (x : Line) : (t.writeV i x).owner = t.owner := rfl
@[simp] theorem TSet.writeV_tmpol (t : TSet) (i : Nat) (x : Line) : (t.writeV i x).tmpol = t.tmpol := rfl
@[simp] theorem TSet.writeV_tmstat (t : TSet) (i : Nat) (x : Line) : (t.writeV i x).tmstat = t.tmstat := rfl
@[simp] theorem TSet.writeV_tmrc (t : TSet) (i : Nat) (x : Line) : (t.writeV i x).tmrc = t.tmrc := rfl
@[simp] theorem TSet.writeV_fpctl (t : TSet) (i : Nat) (x : Line) : (t.writeV i x).fpctl = t.fpctl := rfl
@[simp] theorem TSet.writeV_sfbase (t : TSet) (i : Nat) (x : Line) : (t.writeV i x).sfbase = t.sfbase := rfl
@[simp] theorem TSet.writeV_sflen (t : TSet) (i : Nat) (x : Line) : (t.writeV i x).sflen = t.sflen := rfl
@[simp] theorem TSet.writeV_cstop (t : TSet) (i : Nat) (x : Line) : (t.writeV i x).cstop = t.cstop := rfl
@[simp] theorem TSet.writeV_trtop (t : TSet) (i : Nat) (x : Line) : (t.writeV i x).trtop = t.trtop := rfl
@[simp] theorem TSet.writeV_stealpol (t : TSet) (i : Nat) (x : Line) : (t.writeV i x).stealpol = t.stealpol := rfl
@[simp] theorem TSet.writeV_srchdone (t : TSet) (i : Nat) (x : Line) : (t.writeV i x).srchdone = t.srchdone := rfl
@[simp] theorem TSet.writeV_tlvl (t : TSet) (i : Nat) (x : Line) : (t.writeV i x).tlvl = t.tlvl := rfl
@[simp] theorem TSet.writeV_tvec (t : TSet) (i : Nat) (x : Line) : (t.writeV i x).tvec = t.tvec := rfl
@[simp] theorem TSet.writeV_tsave1 (t : TSet) (i : Nat) (x : Line) : (t.writeV i x).tsave1 = t.tsave1 := rfl
@[simp] theorem TSet.writeV_tsave2 (t : TSet) (i : Nat) (x : Line) : (t.writeV i x).tsave2 = t.tsave2 := rfl
@[simp] theorem TSet.writeV_tcause1 (t : TSet) (i : Nat) (x : Line) : (t.writeV i x).tcause1 = t.tcause1 := rfl
@[simp] theorem TSet.writeV_tepc1 (t : TSet) (i : Nat) (x : Line) : (t.writeV i x).tepc1 = t.tepc1 := rfl
@[simp] theorem TSet.writeV_tval1 (t : TSet) (i : Nat) (x : Line) : (t.writeV i x).tval1 = t.tval1 := rfl
@[simp] theorem TSet.writeV_tcause2 (t : TSet) (i : Nat) (x : Line) : (t.writeV i x).tcause2 = t.tcause2 := rfl
@[simp] theorem TSet.writeV_tepc2 (t : TSet) (i : Nat) (x : Line) : (t.writeV i x).tepc2 = t.tepc2 := rfl
@[simp] theorem TSet.writeV_tval2 (t : TSet) (i : Nat) (x : Line) : (t.writeV i x).tval2 = t.tval2 := rfl
@[simp] theorem TSet.writeV_dlysel (t : TSet) (i : Nat) (x : Line) : (t.writeV i x).dlysel = t.dlysel := rfl
@[simp] theorem TSet.writeV_wdogEnd (t : TSet) (i : Nat) (x : Line) : (t.writeV i x).wdogEnd = t.wdogEnd := rfl
@[simp] theorem TSet.writeV_cmdStatus (t : TSet) (i : Nat) (x : Line) : (t.writeV i x).cmdStatus = t.cmdStatus := rfl
@[simp] theorem TSet.writeV_act (t : TSet) (i : Nat) (x : Line) : (t.writeV i x).act = t.act := rfl
@[simp] theorem TSet.writeV_pushCount (t : TSet) (i : Nat) (x : Line) : (t.writeV i x).pushCount = t.pushCount := rfl
@[simp] theorem TSet.writeV_pend (t : TSet) (i : Nat) (x : Line) : (t.writeV i x).pend = t.pend := rfl
@[simp] theorem TSet.writeV_storeq (t : TSet) (i : Nat) (x : Line) : (t.writeV i x).storeq = t.storeq := rfl
@[simp] theorem TSet.writeV_unacked (t : TSet) (i : Nat) (x : Line) : (t.writeV i x).unacked = t.unacked := rfl
@[simp] theorem TSet.writeV_sendBuf (t : TSet) (i : Nat) (x : Line) : (t.writeV i x).sendBuf = t.sendBuf := rfl
@[simp] theorem TSet.writeV_releasing (t : TSet) (i : Nat) (x : Line) : (t.writeV i x).releasing = t.releasing := rfl
@[simp] theorem TSet.writeV_relCtx (t : TSet) (i : Nat) (x : Line) : (t.writeV i x).relCtx = t.relCtx := rfl
@[simp] theorem TSet.writeV_armAfter (t : TSet) (i : Nat) (x : Line) : (t.writeV i x).armAfter = t.armAfter := rfl
@[simp] theorem TSet.writeV_ending (t : TSet) (i : Nat) (x : Line) : (t.writeV i x).ending = t.ending := rfl
@[simp] theorem TSet.writeV_holds (t : TSet) (i : Nat) (x : Line) : (t.writeV i x).holds = t.holds := rfl
@[simp] theorem TSet.writeV_readyAt (t : TSet) (i : Nat) (x : Line) : (t.writeV i x).readyAt = t.readyAt := rfl
@[simp] theorem TSet.writeV_wait (t : TSet) (i : Nat) (x : Line) : (t.writeV i x).wait = t.wait := rfl
@[simp] theorem TSet.writeV_walk (t : TSet) (i : Nat) (x : Line) : (t.writeV i x).walk = t.walk := rfl
@[simp] theorem TSet.writeV_word (t : TSet) (i : Nat) (x : Line) : (t.writeV i x).word = t.word := rfl
@[simp] theorem TSet.writeV_late (t : TSet) (i : Nat) (x : Line) : (t.writeV i x).late = t.late := rfl
@[simp] theorem TSet.writeV_arrived (t : TSet) (i : Nat) (x : Line) : (t.writeV i x).arrived = t.arrived := rfl
@[simp] theorem TSet.writeV_tried (t : TSet) (i : Nat) (x : Line) : (t.writeV i x).tried = t.tried := rfl
@[simp] theorem TSet.writeV_failedAt (t : TSet) (i : Nat) (x : Line) : (t.writeV i x).failedAt = t.failedAt := rfl
@[simp] theorem TSet.writeV_stalled (t : TSet) (i : Nat) (x : Line) : (t.writeV i x).stalled = t.stalled := rfl
@[simp] theorem TSet.writeV_steps (t : TSet) (i : Nat) (x : Line) : (t.writeV i x).steps = t.steps := rfl
@[simp] theorem TSet.writeV_theftGrant (t : TSet) (i : Nat) (x : Line) : (t.writeV i x).theftGrant = t.theftGrant := rfl
@[simp] theorem TSet.writeV_reserved (t : TSet) (i : Nat) (x : Line) : (t.writeV i x).reserved = t.reserved := rfl
@[simp] theorem TSet.writeP_g (t : TSet) (i : Nat) (x : Word) : (t.writeP i x).g = t.g := by unfold TSet.writeP; split <;> rfl
@[simp] theorem TSet.writeP_v (t : TSet) (i : Nat) (x : Word) : (t.writeP i x).v = t.v := by unfold TSet.writeP; split <;> rfl
@[simp] theorem TSet.writeP_c (t : TSet) (i : Nat) (x : Word) : (t.writeP i x).c = t.c := by unfold TSet.writeP; split <;> rfl
@[simp] theorem TSet.writeP_gEmpty (t : TSet) (i : Nat) (x : Word) : (t.writeP i x).gEmpty = t.gEmpty := by unfold TSet.writeP; split <;> rfl
@[simp] theorem TSet.writeP_gLock (t : TSet) (i : Nat) (x : Word) : (t.writeP i x).gLock = t.gLock := by unfold TSet.writeP; split <;> rfl
@[simp] theorem TSet.writeP_vEmpty (t : TSet) (i : Nat) (x : Word) : (t.writeP i x).vEmpty = t.vEmpty := by unfold TSet.writeP; split <;> rfl
@[simp] theorem TSet.writeP_vLock (t : TSet) (i : Nat) (x : Word) : (t.writeP i x).vLock = t.vLock := by unfold TSet.writeP; split <;> rfl
@[simp] theorem TSet.writeP_vPar (t : TSet) (i : Nat) (x : Word) : (t.writeP i x).vPar = t.vPar := by unfold TSet.writeP; split <;> rfl
@[simp] theorem TSet.writeP_gMark (t : TSet) (i : Nat) (x : Word) : (t.writeP i x).gMark = t.gMark := by unfold TSet.writeP; split <;> rfl
@[simp] theorem TSet.writeP_vMark (t : TSet) (i : Nat) (x : Word) : (t.writeP i x).vMark = t.vMark := by unfold TSet.writeP; split <;> rfl
@[simp] theorem TSet.writeP_pc (t : TSet) (i : Nat) (x : Word) : (t.writeP i x).pc = t.pc := by unfold TSet.writeP; split <;> rfl
@[simp] theorem TSet.writeP_retStack (t : TSet) (i : Nat) (x : Word) : (t.writeP i x).retStack = t.retStack := by unfold TSet.writeP; split <;> rfl
@[simp] theorem TSet.writeP_owner (t : TSet) (i : Nat) (x : Word) : (t.writeP i x).owner = t.owner := by unfold TSet.writeP; split <;> rfl
@[simp] theorem TSet.writeP_tmpol (t : TSet) (i : Nat) (x : Word) : (t.writeP i x).tmpol = t.tmpol := by unfold TSet.writeP; split <;> rfl
@[simp] theorem TSet.writeP_tmstat (t : TSet) (i : Nat) (x : Word) : (t.writeP i x).tmstat = t.tmstat := by unfold TSet.writeP; split <;> rfl
@[simp] theorem TSet.writeP_tmrc (t : TSet) (i : Nat) (x : Word) : (t.writeP i x).tmrc = t.tmrc := by unfold TSet.writeP; split <;> rfl
@[simp] theorem TSet.writeP_fpctl (t : TSet) (i : Nat) (x : Word) : (t.writeP i x).fpctl = t.fpctl := by unfold TSet.writeP; split <;> rfl
@[simp] theorem TSet.writeP_sfbase (t : TSet) (i : Nat) (x : Word) : (t.writeP i x).sfbase = t.sfbase := by unfold TSet.writeP; split <;> rfl
@[simp] theorem TSet.writeP_sflen (t : TSet) (i : Nat) (x : Word) : (t.writeP i x).sflen = t.sflen := by unfold TSet.writeP; split <;> rfl
@[simp] theorem TSet.writeP_cstop (t : TSet) (i : Nat) (x : Word) : (t.writeP i x).cstop = t.cstop := by unfold TSet.writeP; split <;> rfl
@[simp] theorem TSet.writeP_trtop (t : TSet) (i : Nat) (x : Word) : (t.writeP i x).trtop = t.trtop := by unfold TSet.writeP; split <;> rfl
@[simp] theorem TSet.writeP_stealpol (t : TSet) (i : Nat) (x : Word) : (t.writeP i x).stealpol = t.stealpol := by unfold TSet.writeP; split <;> rfl
@[simp] theorem TSet.writeP_srchdone (t : TSet) (i : Nat) (x : Word) : (t.writeP i x).srchdone = t.srchdone := by unfold TSet.writeP; split <;> rfl
@[simp] theorem TSet.writeP_tlvl (t : TSet) (i : Nat) (x : Word) : (t.writeP i x).tlvl = t.tlvl := by unfold TSet.writeP; split <;> rfl
@[simp] theorem TSet.writeP_tvec (t : TSet) (i : Nat) (x : Word) : (t.writeP i x).tvec = t.tvec := by unfold TSet.writeP; split <;> rfl
@[simp] theorem TSet.writeP_tsave1 (t : TSet) (i : Nat) (x : Word) : (t.writeP i x).tsave1 = t.tsave1 := by unfold TSet.writeP; split <;> rfl
@[simp] theorem TSet.writeP_tsave2 (t : TSet) (i : Nat) (x : Word) : (t.writeP i x).tsave2 = t.tsave2 := by unfold TSet.writeP; split <;> rfl
@[simp] theorem TSet.writeP_tcause1 (t : TSet) (i : Nat) (x : Word) : (t.writeP i x).tcause1 = t.tcause1 := by unfold TSet.writeP; split <;> rfl
@[simp] theorem TSet.writeP_tepc1 (t : TSet) (i : Nat) (x : Word) : (t.writeP i x).tepc1 = t.tepc1 := by unfold TSet.writeP; split <;> rfl
@[simp] theorem TSet.writeP_tval1 (t : TSet) (i : Nat) (x : Word) : (t.writeP i x).tval1 = t.tval1 := by unfold TSet.writeP; split <;> rfl
@[simp] theorem TSet.writeP_tcause2 (t : TSet) (i : Nat) (x : Word) : (t.writeP i x).tcause2 = t.tcause2 := by unfold TSet.writeP; split <;> rfl
@[simp] theorem TSet.writeP_tepc2 (t : TSet) (i : Nat) (x : Word) : (t.writeP i x).tepc2 = t.tepc2 := by unfold TSet.writeP; split <;> rfl
@[simp] theorem TSet.writeP_tval2 (t : TSet) (i : Nat) (x : Word) : (t.writeP i x).tval2 = t.tval2 := by unfold TSet.writeP; split <;> rfl
@[simp] theorem TSet.writeP_dlysel (t : TSet) (i : Nat) (x : Word) : (t.writeP i x).dlysel = t.dlysel := by unfold TSet.writeP; split <;> rfl
@[simp] theorem TSet.writeP_wdogEnd (t : TSet) (i : Nat) (x : Word) : (t.writeP i x).wdogEnd = t.wdogEnd := by unfold TSet.writeP; split <;> rfl
@[simp] theorem TSet.writeP_cmdStatus (t : TSet) (i : Nat) (x : Word) : (t.writeP i x).cmdStatus = t.cmdStatus := by unfold TSet.writeP; split <;> rfl
@[simp] theorem TSet.writeP_act (t : TSet) (i : Nat) (x : Word) : (t.writeP i x).act = t.act := by unfold TSet.writeP; split <;> rfl
@[simp] theorem TSet.writeP_pushCount (t : TSet) (i : Nat) (x : Word) : (t.writeP i x).pushCount = t.pushCount := by unfold TSet.writeP; split <;> rfl
@[simp] theorem TSet.writeP_pend (t : TSet) (i : Nat) (x : Word) : (t.writeP i x).pend = t.pend := by unfold TSet.writeP; split <;> rfl
@[simp] theorem TSet.writeP_storeq (t : TSet) (i : Nat) (x : Word) : (t.writeP i x).storeq = t.storeq := by unfold TSet.writeP; split <;> rfl
@[simp] theorem TSet.writeP_unacked (t : TSet) (i : Nat) (x : Word) : (t.writeP i x).unacked = t.unacked := by unfold TSet.writeP; split <;> rfl
@[simp] theorem TSet.writeP_sendBuf (t : TSet) (i : Nat) (x : Word) : (t.writeP i x).sendBuf = t.sendBuf := by unfold TSet.writeP; split <;> rfl
@[simp] theorem TSet.writeP_releasing (t : TSet) (i : Nat) (x : Word) : (t.writeP i x).releasing = t.releasing := by unfold TSet.writeP; split <;> rfl
@[simp] theorem TSet.writeP_relCtx (t : TSet) (i : Nat) (x : Word) : (t.writeP i x).relCtx = t.relCtx := by unfold TSet.writeP; split <;> rfl
@[simp] theorem TSet.writeP_armAfter (t : TSet) (i : Nat) (x : Word) : (t.writeP i x).armAfter = t.armAfter := by unfold TSet.writeP; split <;> rfl
@[simp] theorem TSet.writeP_ending (t : TSet) (i : Nat) (x : Word) : (t.writeP i x).ending = t.ending := by unfold TSet.writeP; split <;> rfl
@[simp] theorem TSet.writeP_holds (t : TSet) (i : Nat) (x : Word) : (t.writeP i x).holds = t.holds := by unfold TSet.writeP; split <;> rfl
@[simp] theorem TSet.writeP_readyAt (t : TSet) (i : Nat) (x : Word) : (t.writeP i x).readyAt = t.readyAt := by unfold TSet.writeP; split <;> rfl
@[simp] theorem TSet.writeP_wait (t : TSet) (i : Nat) (x : Word) : (t.writeP i x).wait = t.wait := by unfold TSet.writeP; split <;> rfl
@[simp] theorem TSet.writeP_walk (t : TSet) (i : Nat) (x : Word) : (t.writeP i x).walk = t.walk := by unfold TSet.writeP; split <;> rfl
@[simp] theorem TSet.writeP_word (t : TSet) (i : Nat) (x : Word) : (t.writeP i x).word = t.word := by unfold TSet.writeP; split <;> rfl
@[simp] theorem TSet.writeP_late (t : TSet) (i : Nat) (x : Word) : (t.writeP i x).late = t.late := by unfold TSet.writeP; split <;> rfl
@[simp] theorem TSet.writeP_arrived (t : TSet) (i : Nat) (x : Word) : (t.writeP i x).arrived = t.arrived := by unfold TSet.writeP; split <;> rfl
@[simp] theorem TSet.writeP_tried (t : TSet) (i : Nat) (x : Word) : (t.writeP i x).tried = t.tried := by unfold TSet.writeP; split <;> rfl
@[simp] theorem TSet.writeP_failedAt (t : TSet) (i : Nat) (x : Word) : (t.writeP i x).failedAt = t.failedAt := by unfold TSet.writeP; split <;> rfl
@[simp] theorem TSet.writeP_stalled (t : TSet) (i : Nat) (x : Word) : (t.writeP i x).stalled = t.stalled := by unfold TSet.writeP; split <;> rfl
@[simp] theorem TSet.writeP_steps (t : TSet) (i : Nat) (x : Word) : (t.writeP i x).steps = t.steps := by unfold TSet.writeP; split <;> rfl
@[simp] theorem TSet.writeP_theftGrant (t : TSet) (i : Nat) (x : Word) : (t.writeP i x).theftGrant = t.theftGrant := by unfold TSet.writeP; split <;> rfl
@[simp] theorem TSet.writeP_reserved (t : TSet) (i : Nat) (x : Word) : (t.writeP i x).reserved = t.reserved := by unfold TSet.writeP; split <;> rfl
@[simp] theorem TSet.writeC_g (t : TSet) (i : Nat) (x : BitVec 25) : (t.writeC i x).g = t.g := rfl
@[simp] theorem TSet.writeC_v (t : TSet) (i : Nat) (x : BitVec 25) : (t.writeC i x).v = t.v := rfl
@[simp] theorem TSet.writeC_p (t : TSet) (i : Nat) (x : BitVec 25) : (t.writeC i x).p = t.p := rfl
@[simp] theorem TSet.writeC_gEmpty (t : TSet) (i : Nat) (x : BitVec 25) : (t.writeC i x).gEmpty = t.gEmpty := rfl
@[simp] theorem TSet.writeC_gLock (t : TSet) (i : Nat) (x : BitVec 25) : (t.writeC i x).gLock = t.gLock := rfl
@[simp] theorem TSet.writeC_vEmpty (t : TSet) (i : Nat) (x : BitVec 25) : (t.writeC i x).vEmpty = t.vEmpty := rfl
@[simp] theorem TSet.writeC_vLock (t : TSet) (i : Nat) (x : BitVec 25) : (t.writeC i x).vLock = t.vLock := rfl
@[simp] theorem TSet.writeC_vPar (t : TSet) (i : Nat) (x : BitVec 25) : (t.writeC i x).vPar = t.vPar := rfl
@[simp] theorem TSet.writeC_gMark (t : TSet) (i : Nat) (x : BitVec 25) : (t.writeC i x).gMark = t.gMark := rfl
@[simp] theorem TSet.writeC_vMark (t : TSet) (i : Nat) (x : BitVec 25) : (t.writeC i x).vMark = t.vMark := rfl
@[simp] theorem TSet.writeC_pc (t : TSet) (i : Nat) (x : BitVec 25) : (t.writeC i x).pc = t.pc := rfl
@[simp] theorem TSet.writeC_retStack (t : TSet) (i : Nat) (x : BitVec 25) : (t.writeC i x).retStack = t.retStack := rfl
@[simp] theorem TSet.writeC_owner (t : TSet) (i : Nat) (x : BitVec 25) : (t.writeC i x).owner = t.owner := rfl
@[simp] theorem TSet.writeC_tmpol (t : TSet) (i : Nat) (x : BitVec 25) : (t.writeC i x).tmpol = t.tmpol := rfl
@[simp] theorem TSet.writeC_tmstat (t : TSet) (i : Nat) (x : BitVec 25) : (t.writeC i x).tmstat = t.tmstat := rfl
@[simp] theorem TSet.writeC_tmrc (t : TSet) (i : Nat) (x : BitVec 25) : (t.writeC i x).tmrc = t.tmrc := rfl
@[simp] theorem TSet.writeC_fpctl (t : TSet) (i : Nat) (x : BitVec 25) : (t.writeC i x).fpctl = t.fpctl := rfl
@[simp] theorem TSet.writeC_sfbase (t : TSet) (i : Nat) (x : BitVec 25) : (t.writeC i x).sfbase = t.sfbase := rfl
@[simp] theorem TSet.writeC_sflen (t : TSet) (i : Nat) (x : BitVec 25) : (t.writeC i x).sflen = t.sflen := rfl
@[simp] theorem TSet.writeC_cstop (t : TSet) (i : Nat) (x : BitVec 25) : (t.writeC i x).cstop = t.cstop := rfl
@[simp] theorem TSet.writeC_trtop (t : TSet) (i : Nat) (x : BitVec 25) : (t.writeC i x).trtop = t.trtop := rfl
@[simp] theorem TSet.writeC_stealpol (t : TSet) (i : Nat) (x : BitVec 25) : (t.writeC i x).stealpol = t.stealpol := rfl
@[simp] theorem TSet.writeC_srchdone (t : TSet) (i : Nat) (x : BitVec 25) : (t.writeC i x).srchdone = t.srchdone := rfl
@[simp] theorem TSet.writeC_tlvl (t : TSet) (i : Nat) (x : BitVec 25) : (t.writeC i x).tlvl = t.tlvl := rfl
@[simp] theorem TSet.writeC_tvec (t : TSet) (i : Nat) (x : BitVec 25) : (t.writeC i x).tvec = t.tvec := rfl
@[simp] theorem TSet.writeC_tsave1 (t : TSet) (i : Nat) (x : BitVec 25) : (t.writeC i x).tsave1 = t.tsave1 := rfl
@[simp] theorem TSet.writeC_tsave2 (t : TSet) (i : Nat) (x : BitVec 25) : (t.writeC i x).tsave2 = t.tsave2 := rfl
@[simp] theorem TSet.writeC_tcause1 (t : TSet) (i : Nat) (x : BitVec 25) : (t.writeC i x).tcause1 = t.tcause1 := rfl
@[simp] theorem TSet.writeC_tepc1 (t : TSet) (i : Nat) (x : BitVec 25) : (t.writeC i x).tepc1 = t.tepc1 := rfl
@[simp] theorem TSet.writeC_tval1 (t : TSet) (i : Nat) (x : BitVec 25) : (t.writeC i x).tval1 = t.tval1 := rfl
@[simp] theorem TSet.writeC_tcause2 (t : TSet) (i : Nat) (x : BitVec 25) : (t.writeC i x).tcause2 = t.tcause2 := rfl
@[simp] theorem TSet.writeC_tepc2 (t : TSet) (i : Nat) (x : BitVec 25) : (t.writeC i x).tepc2 = t.tepc2 := rfl
@[simp] theorem TSet.writeC_tval2 (t : TSet) (i : Nat) (x : BitVec 25) : (t.writeC i x).tval2 = t.tval2 := rfl
@[simp] theorem TSet.writeC_dlysel (t : TSet) (i : Nat) (x : BitVec 25) : (t.writeC i x).dlysel = t.dlysel := rfl
@[simp] theorem TSet.writeC_wdogEnd (t : TSet) (i : Nat) (x : BitVec 25) : (t.writeC i x).wdogEnd = t.wdogEnd := rfl
@[simp] theorem TSet.writeC_cmdStatus (t : TSet) (i : Nat) (x : BitVec 25) : (t.writeC i x).cmdStatus = t.cmdStatus := rfl
@[simp] theorem TSet.writeC_act (t : TSet) (i : Nat) (x : BitVec 25) : (t.writeC i x).act = t.act := rfl
@[simp] theorem TSet.writeC_pushCount (t : TSet) (i : Nat) (x : BitVec 25) : (t.writeC i x).pushCount = t.pushCount := rfl
@[simp] theorem TSet.writeC_pend (t : TSet) (i : Nat) (x : BitVec 25) : (t.writeC i x).pend = t.pend := rfl
@[simp] theorem TSet.writeC_storeq (t : TSet) (i : Nat) (x : BitVec 25) : (t.writeC i x).storeq = t.storeq := rfl
@[simp] theorem TSet.writeC_unacked (t : TSet) (i : Nat) (x : BitVec 25) : (t.writeC i x).unacked = t.unacked := rfl
@[simp] theorem TSet.writeC_sendBuf (t : TSet) (i : Nat) (x : BitVec 25) : (t.writeC i x).sendBuf = t.sendBuf := rfl
@[simp] theorem TSet.writeC_releasing (t : TSet) (i : Nat) (x : BitVec 25) : (t.writeC i x).releasing = t.releasing := rfl
@[simp] theorem TSet.writeC_relCtx (t : TSet) (i : Nat) (x : BitVec 25) : (t.writeC i x).relCtx = t.relCtx := rfl
@[simp] theorem TSet.writeC_armAfter (t : TSet) (i : Nat) (x : BitVec 25) : (t.writeC i x).armAfter = t.armAfter := rfl
@[simp] theorem TSet.writeC_ending (t : TSet) (i : Nat) (x : BitVec 25) : (t.writeC i x).ending = t.ending := rfl
@[simp] theorem TSet.writeC_holds (t : TSet) (i : Nat) (x : BitVec 25) : (t.writeC i x).holds = t.holds := rfl
@[simp] theorem TSet.writeC_readyAt (t : TSet) (i : Nat) (x : BitVec 25) : (t.writeC i x).readyAt = t.readyAt := rfl
@[simp] theorem TSet.writeC_wait (t : TSet) (i : Nat) (x : BitVec 25) : (t.writeC i x).wait = t.wait := rfl
@[simp] theorem TSet.writeC_walk (t : TSet) (i : Nat) (x : BitVec 25) : (t.writeC i x).walk = t.walk := rfl
@[simp] theorem TSet.writeC_word (t : TSet) (i : Nat) (x : BitVec 25) : (t.writeC i x).word = t.word := rfl
@[simp] theorem TSet.writeC_late (t : TSet) (i : Nat) (x : BitVec 25) : (t.writeC i x).late = t.late := rfl
@[simp] theorem TSet.writeC_arrived (t : TSet) (i : Nat) (x : BitVec 25) : (t.writeC i x).arrived = t.arrived := rfl
@[simp] theorem TSet.writeC_tried (t : TSet) (i : Nat) (x : BitVec 25) : (t.writeC i x).tried = t.tried := rfl
@[simp] theorem TSet.writeC_failedAt (t : TSet) (i : Nat) (x : BitVec 25) : (t.writeC i x).failedAt = t.failedAt := rfl
@[simp] theorem TSet.writeC_stalled (t : TSet) (i : Nat) (x : BitVec 25) : (t.writeC i x).stalled = t.stalled := rfl
@[simp] theorem TSet.writeC_steps (t : TSet) (i : Nat) (x : BitVec 25) : (t.writeC i x).steps = t.steps := rfl
@[simp] theorem TSet.writeC_theftGrant (t : TSet) (i : Nat) (x : BitVec 25) : (t.writeC i x).theftGrant = t.theftGrant := rfl
@[simp] theorem TSet.writeC_reserved (t : TSet) (i : Nat) (x : BitVec 25) : (t.writeC i x).reserved = t.reserved := rfl

/-! ## Registers read after a write -/

theorem gIndex_zero (lvl : Nat) : gIndex lvl 0 = 0 := rfl

@[simp] theorem TSet.gRaw_writeGRaw (t : TSet) (k j : Nat) (x : Word) :
    (t.writeGRaw k x).gRaw j = if j = k ∧ k ≠ 0 then x else t.gRaw j := by
  unfold TSet.writeGRaw TSet.gRaw
  by_cases hk : k = 0
  · simp [hk]
  · by_cases hj : j = 0
    · have hk' : ¬ 0 = k := fun h => hk h.symm
      simp [hj, hk']
    · simp [hk, hj, mget_mset]

/-- A g register read after a write of it: g0 stays 0 (R45, R47). -/
theorem TSet.readG_writeG_self (t : TSet) (i : Nat) (x : Word) : (t.writeG i x).readG i = if gIndex t.tlvl i = 0 then 0 else x := by
  unfold TSet.readG TSet.writeG
  rw [TSet.writeGRaw_tlvl, TSet.gRaw_writeGRaw]
  by_cases h : gIndex t.tlvl i = 0 <;> simp [h, TSet.gRaw]

theorem TSet.gRaw_writeG_ne (t : TSet) (i j : Nat) (x : Word) (h : j ≠ gIndex t.tlvl i) : (t.writeG i x).gRaw j = t.gRaw j := by
  simp [TSet.writeG, h]

theorem TSet.readV_writeV (t : TSet) (i j : Nat) (x : Line) : (t.writeV i x).readV j = if j = i then x else t.readV j := by
  simp [TSet.readV, TSet.writeV, mget_mset]

theorem TSet.readP_writeP (t : TSet) (i j : Nat) (x : Word) : (t.writeP i x).readP j = if j = i ∧ i ≠ 0 then x else t.readP j := by
  unfold TSet.readP TSet.writeP
  by_cases hi : i = 0
  · simp [hi]
  · by_cases hj : j = 0
    · have hi' : ¬ 0 = i := fun h => hi h.symm
      simp [hj, hi']
    · simp [hi, hj, mget_mset]

theorem TSet.readC_writeC (t : TSet) (i j : Nat) (x : BitVec 25) :
    (t.writeC i x).readC j = if j = i then x &&& 0x1F3FFFF#25 else t.readC j := by
  simp [TSet.readC, TSet.writeC, mget_mset]

end Sys2Proof.Machine
end

