-- ==== Sys2Proof/Laws/Ready.lean ====
section
/-! SUPPORT. A word that is ready runs its own effect: what the shared frame of every instruction word comes to. -/

namespace Sys2Proof.Machine

theorem begin_me (s : State) : (begin s).me = { s.me with pc := s.me.pc + 12, stalled := false } := by
  exact State.me_modMe s (fun t => { t with pc := t.pc + 12, stalled := false })

@[simp] theorem begin_me_g (s : State) : (begin s).me.g = s.me.g := by rw [begin_me]
@[simp] theorem begin_me_v (s : State) : (begin s).me.v = s.me.v := by rw [begin_me]
@[simp] theorem begin_me_p (s : State) : (begin s).me.p = s.me.p := by rw [begin_me]
@[simp] theorem begin_me_c (s : State) : (begin s).me.c = s.me.c := by rw [begin_me]
@[simp] theorem begin_me_gEmpty (s : State) : (begin s).me.gEmpty = s.me.gEmpty := by rw [begin_me]
@[simp] theorem begin_me_gLock (s : State) : (begin s).me.gLock = s.me.gLock := by rw [begin_me]
@[simp] theorem begin_me_vEmpty (s : State) : (begin s).me.vEmpty = s.me.vEmpty := by rw [begin_me]
@[simp] theorem begin_me_vLock (s : State) : (begin s).me.vLock = s.me.vLock := by rw [begin_me]
@[simp] theorem begin_me_gPar (s : State) : (begin s).me.gPar = s.me.gPar := by rw [begin_me]
@[simp] theorem begin_me_vPar (s : State) : (begin s).me.vPar = s.me.vPar := by rw [begin_me]
@[simp] theorem begin_me_gMark (s : State) : (begin s).me.gMark = s.me.gMark := by rw [begin_me]
@[simp] theorem begin_me_vMark (s : State) : (begin s).me.vMark = s.me.vMark := by rw [begin_me]
@[simp] theorem begin_me_retStack (s : State) : (begin s).me.retStack = s.me.retStack := by rw [begin_me]
@[simp] theorem begin_me_owner (s : State) : (begin s).me.owner = s.me.owner := by rw [begin_me]
@[simp] theorem begin_me_tmpol (s : State) : (begin s).me.tmpol = s.me.tmpol := by rw [begin_me]
@[simp] theorem begin_me_tmstat (s : State) : (begin s).me.tmstat = s.me.tmstat := by rw [begin_me]
@[simp] theorem begin_me_tmrc (s : State) : (begin s).me.tmrc = s.me.tmrc := by rw [begin_me]
@[simp] theorem begin_me_fpctl (s : State) : (begin s).me.fpctl = s.me.fpctl := by rw [begin_me]
@[simp] theorem begin_me_sfbase (s : State) : (begin s).me.sfbase = s.me.sfbase := by rw [begin_me]
@[simp] theorem begin_me_sflen (s : State) : (begin s).me.sflen = s.me.sflen := by rw [begin_me]
@[simp] theorem begin_me_cstop (s : State) : (begin s).me.cstop = s.me.cstop := by rw [begin_me]
@[simp] theorem begin_me_trtop (s : State) : (begin s).me.trtop = s.me.trtop := by rw [begin_me]
@[simp] theorem begin_me_stealpol (s : State) : (begin s).me.stealpol = s.me.stealpol := by rw [begin_me]
@[simp] theorem begin_me_srchdone (s : State) : (begin s).me.srchdone = s.me.srchdone := by rw [begin_me]
@[simp] theorem begin_me_tlvl (s : State) : (begin s).me.tlvl = s.me.tlvl := by rw [begin_me]
@[simp] theorem begin_me_tvec (s : State) : (begin s).me.tvec = s.me.tvec := by rw [begin_me]
@[simp] theorem begin_me_tsave1 (s : State) : (begin s).me.tsave1 = s.me.tsave1 := by rw [begin_me]
@[simp] theorem begin_me_tsave2 (s : State) : (begin s).me.tsave2 = s.me.tsave2 := by rw [begin_me]
@[simp] theorem begin_me_tcause1 (s : State) : (begin s).me.tcause1 = s.me.tcause1 := by rw [begin_me]
@[simp] theorem begin_me_tepc1 (s : State) : (begin s).me.tepc1 = s.me.tepc1 := by rw [begin_me]
@[simp] theorem begin_me_tval1 (s : State) : (begin s).me.tval1 = s.me.tval1 := by rw [begin_me]
@[simp] theorem begin_me_tcause2 (s : State) : (begin s).me.tcause2 = s.me.tcause2 := by rw [begin_me]
@[simp] theorem begin_me_tepc2 (s : State) : (begin s).me.tepc2 = s.me.tepc2 := by rw [begin_me]
@[simp] theorem begin_me_tval2 (s : State) : (begin s).me.tval2 = s.me.tval2 := by rw [begin_me]
@[simp] theorem begin_me_dlysel (s : State) : (begin s).me.dlysel = s.me.dlysel := by rw [begin_me]
@[simp] theorem begin_me_wdogEnd (s : State) : (begin s).me.wdogEnd = s.me.wdogEnd := by rw [begin_me]
@[simp] theorem begin_me_cmdStatus (s : State) : (begin s).me.cmdStatus = s.me.cmdStatus := by rw [begin_me]
@[simp] theorem begin_me_act (s : State) : (begin s).me.act = s.me.act := by rw [begin_me]
@[simp] theorem begin_me_pushCount (s : State) : (begin s).me.pushCount = s.me.pushCount := by rw [begin_me]
@[simp] theorem begin_me_pend (s : State) : (begin s).me.pend = s.me.pend := by rw [begin_me]
@[simp] theorem begin_me_storeq (s : State) : (begin s).me.storeq = s.me.storeq := by rw [begin_me]
@[simp] theorem begin_me_unacked (s : State) : (begin s).me.unacked = s.me.unacked := by rw [begin_me]
@[simp] theorem begin_me_sendBuf (s : State) : (begin s).me.sendBuf = s.me.sendBuf := by rw [begin_me]
@[simp] theorem begin_me_releasing (s : State) : (begin s).me.releasing = s.me.releasing := by rw [begin_me]
@[simp] theorem begin_me_relCtx (s : State) : (begin s).me.relCtx = s.me.relCtx := by rw [begin_me]
@[simp] theorem begin_me_armAfter (s : State) : (begin s).me.armAfter = s.me.armAfter := by rw [begin_me]
@[simp] theorem begin_me_holds (s : State) : (begin s).me.holds = s.me.holds := by rw [begin_me]
@[simp] theorem begin_me_readyAt (s : State) : (begin s).me.readyAt = s.me.readyAt := by rw [begin_me]
@[simp] theorem begin_me_wait (s : State) : (begin s).me.wait = s.me.wait := by rw [begin_me]
@[simp] theorem begin_me_steps (s : State) : (begin s).me.steps = s.me.steps := by rw [begin_me]
@[simp] theorem begin_me_theftGrant (s : State) : (begin s).me.theftGrant = s.me.theftGrant := by rw [begin_me]
@[simp] theorem begin_me_reserved (s : State) : (begin s).me.reserved = s.me.reserved := by rw [begin_me]
@[simp] theorem begin_me_pc (s : State) : (begin s).me.pc = s.me.pc + 12 := by rw [begin_me]
@[simp] theorem begin_powered (s : State) : (begin s).powered = s.powered := rfl
@[simp] theorem begin_curCore (s : State) : (begin s).curCore = s.curCore := rfl
@[simp] theorem begin_curTs (s : State) : (begin s).curTs = s.curTs := rfl
@[simp] theorem begin_core (s : State) (n : Nat) : (begin s).core n = s.core n := rfl
@[simp] theorem begin_cluster (s : State) (n : Nat) : (begin s).cluster n = s.cluster n := rfl
@[simp] theorem begin_home (s : State) : (begin s).home = s.home := rfl
@[simp] theorem begin_uid (s : State) : (begin s).uid = s.uid := rfl

@[simp] theorem begin_cycle (s : State) (n : Nat) : (begin s).cycle n = s.cycle n := rfl

/-- A register that is not busy is not empty (R52). -/
theorem not_busy_not_empty {t : TSet} {now : Nat} {v : Bool} {k : Nat} (h : t.isBusy now v k = false) : t.isEmpty v k = false := by
  simp only [TSet.isBusy, Bool.or_eq_false_iff] at h; exact h.1

theorem regsClear_checkRegs (s : State) (srcs : List Src) (dsts : List (Bool × Nat)) (h : regsClear s srcs dsts = true) :
    checkRegs (begin s) s.me srcs dsts = .ok () := by
  simp only [regsClear, Bool.and_eq_true, List.all_eq_true, Bool.not_eq_true', Option.isNone_iff_eq_none] at h
  obtain ⟨hs, hd⟩ := h
  have h1 : srcs.find? (fun x => x.te && s.me.isEmpty x.isV x.reg) = none := by
    rw [List.find?_eq_none]; intro x hx; simp [not_busy_not_empty (hs x hx).1]
  have h2 : srcs.any (fun x => s.me.isBusy (s.cycle s.curCore) x.isV x.reg) = false := by
    rw [List.any_eq_false]; intro x hx; simp [(hs x hx).1]
  have h3 : srcs.findSome? (srcError s.me) = none := by
    rw [List.findSome?_eq_none_iff]; intro x hx; exact (hs x hx).2
  have h4 : dsts.any (fun d => s.me.isBusy (s.cycle s.curCore) d.1 d.2 || s.me.isLocked d.1 d.2) = false := by
    rw [List.any_eq_false]; intro x hx; simp [(hd x hx).1, (hd x hx).2]
  simp only [checkRegs, begin_cycle, begin_curCore, h1, h2, h3, h4, Bool.false_eq_true, if_false]

/-- A ready word concludes with its own effect on the state whose pc is past it. -/
theorem runWith_ready (g : Guard) (h : Hints) (lanes : Option Nat) (ps : List Nat) (srcs : List Src) (dsts : List (Bool × Nat))
    (body : State → Except Stop State) (s : State) (hp : s.powered = true) (hl : predsLate s [g.p.toNat] = false)
    (hf : guardFails s.me g = false) (hg : guardHolds s.me g lanes = true) (hq : predsLate s ps = false) (hr : regsClear s srcs dsts = true) :
    runWith g h lanes (.ok ()) ps srcs dsts body s = conclude h s (body (begin s)) := by
  simp [runWith, hp, hl, hf, hg, hq, regsClear_checkRegs _ _ _ hr]

theorem run_ready (f : Form) (lanes : Option Nat) (use : OdUse) (body : State → Except Stop State) (s : State)
    (h : formReady s f lanes use = true) : run f lanes use body s = conclude f.hints s (body (begin s)) := by
  simp only [formReady, predsReady, Bool.and_eq_true, Bool.not_eq_true'] at h
  exact runWith_ready _ _ _ _ _ _ _ _ h.1.1.1 h.1.1.2.1.1 h.1.1.2.1.2 h.1.2 h.1.1.2.2 h.2

/-- A word whose own effect leaves `s'` completes in the state `finished` gives. -/
theorem conclude_ok (h : Hints) (s s' : State) : conclude h s (.ok s') = .next (finished h s') := rfl

theorem run_ready_ok (f : Form) (lanes : Option Nat) (use : OdUse) (body : State → Except Stop State) (s s' : State)
    (h : formReady s f lanes use = true) (hb : body (begin s) = .ok s') :
    run f lanes use body s = .next (finished f.hints s') := by
  rw [run_ready _ _ _ _ _ h, hb]; rfl

theorem runToG_ready (f : Form) (use : OdUse) (result : TSet → Word) (s : State) (h : formReady s f none use = true) :
    runToG f use result s = .next (after f.hints s (fun t => t.writeG (regOf f.od) (result t))) :=
  run_ready_ok _ _ _ _ _ _ h rfl

theorem runToP_ready (f : Form) (result : TSet → Word) (s : State) (h : formReady s f none .none = true) :
    runToP f result s = .next (after f.hints s (fun t => t.writeP (regOf f.od) (result t))) :=
  run_ready_ok _ _ _ _ _ _ h rfl

/-! ## Equal changes -/

/-- Two changes of a thread set that agree on its value are one change of the state. -/
theorem State.modMe_congr (s : State) (f g : TSet → TSet) (h : f s.me = g s.me) : s.modMe f = s.modMe g := by
  have : f (mget TSet.reset s.tsets (s.curCore * 4 + s.curTs)) = g (mget TSet.reset s.tsets (s.curCore * 4 + s.curTs)) := h
  simp only [State.modMe, State.modTset, mmod, this]

theorem after_congr (h : Hints) (s : State) (f g : TSet → TSet) (e : f (begin s).me = g (begin s).me) : after h s f = after h s g := by
  simp only [after, State.modMe_congr _ f g e]

/-! ## A value does not depend on the pc -/

@[simp] theorem value_pc (t : TSet) (w : Word) (b : Bool) (o : Operand) :
    TSet.value { t with pc := w, stalled := b } o = t.value o := rfl

/-- An ordinary producer of a ready word writes the value its sources give. -/
theorem runToG_gives (f : Form) (use : OdUse) (result : TSet → Word) (s : State) (x : Word) (h : formReady s f none use = true)
    (hx : result (begin s).me = x) : runToG f use result s = givesG f s x := by
  rw [runToG_ready f use result s h, givesG]
  exact congrArg _ (after_congr _ _ _ _ (by simp only [hx]))

theorem runToP_gives (f : Form) (result : TSet → Word) (s : State) (x : Word) (h : formReady s f none .none = true)
    (hx : result (begin s).me = x) : runToP f result s = givesP f s x := by
  rw [runToP_ready f result s h, givesP]
  exact congrArg _ (after_congr _ _ _ _ (by simp only [hx]))

@[simp] theorem begin_value (s : State) (o : Operand) : (begin s).me.value o = s.me.value o := by
  rw [begin_me]; rfl
@[simp] theorem begin_readV (s : State) (i : Nat) : (begin s).me.readV i = s.me.readV i := by rw [begin_me]; rfl
@[simp] theorem begin_readP (s : State) (i : Nat) : (begin s).me.readP i = s.me.readP i := by rw [begin_me]; rfl
@[simp] theorem begin_gRaw (s : State) (i : Nat) : (begin s).me.gRaw i = s.me.gRaw i := by rw [begin_me]; rfl
@[simp] theorem begin_readC (s : State) (i : Nat) : (begin s).me.readC i = s.me.readC i := by
  rw [begin_me]; rfl

end Sys2Proof.Machine
end

