-- ==== Sys2Proof/Laws/Lanes.lean ====
section
/-! SUPPORT. Lane instructions: what their shared frame comes to for a word that is ready. -/

namespace Sys2Proof.Machine

theorem lanesOf_eq (w : Nat) (l : Line) : lanesOf w l = (List.range (512 / w)).map (fun k => (l.extractLsb' (w * k) w).toNat) := rfl

theorem laneOf_eq (s : State) (f : Form) (o : Operand) : lanesOf (laneBits (tyOf f)) (lineOperand (begin s) (laneBits (tyOf f)) o) =
    (List.range (laneCount (tyOf f))).map (laneOf s f o) := rfl

@[simp] theorem begin_guardMask (s : State) (g : Guard) : guardMask (begin s).me g = guardMask s.me g := by
  rw [begin_me]; rfl

theorem activeOf_eq (s : State) (f : Form) : activeLanes (guardMask (begin s).me f.guard) (laneCount (tyOf f)) = activeOf s f := by
  simp [activeLanes, activeOf]

theorem zipWith_range {α β γ : Type} (n : Nat) (op : α → β → γ) (a : Nat → α) (b : Nat → β) :
    List.zipWith op ((List.range n).map a) ((List.range n).map b) = (List.range n).map (fun k => op (a k) (b k)) := by
  simp [List.zipWith_map, List.zipWith_self]

theorem zip_range {α β : Type} (n : Nat) (a : Nat → α) (b : Nat → β) :
    ((List.range n).map a).zip ((List.range n).map b) = (List.range n).map (fun k => (a k, b k)) := zipWith_range n _ a b

/-- A ready lane instruction whose result lanes are `res` writes those that are given and active. -/
theorem runLanesOpt_ready (f : Form) (readsOD : Bool) (m : Nat) (res : State → List Nat → List Nat → List Nat → List (Option Nat)) (s : State)
    (new : List (Option Nat)) (act : List Bool) (h : lanesReady f s readsOD)
    (hn : res (begin s) ((List.range (laneCount (tyOf f))).map (laneOf s f f.od)) ((List.range (laneCount (tyOf f))).map (laneOf s f f.oa))
      ((List.range (laneCount (tyOf f))).map (laneOf s f f.ob)) = new)
    (ha : List.zipWith (fun (a : Bool) (n : Option Nat) => a && n.isSome) (activeOf s f) new = act) :
    lanesDone f s m readsOD act (new.map (fun n => n.getD 0)) (runLanesOpt f (tyOf f) readsOD m res s) := by
  intro s' hs
  unfold runLanesOpt
  rw [run_ready _ _ _ _ _ h.1]
  simp only [h.2, laneOf_eq, hn, activeOf_eq, ha, hs, bind, Except.bind, pure, Except.pure]
  rfl

theorem isSome_active (act : List Bool) (new : List Nat) (h : act.length = new.length) :
    List.zipWith (fun (a : Bool) (n : Option Nat) => a && n.isSome) act (new.map some) = act := by
  induction act generalizing new with
  | nil => simp
  | cons a r ih =>
    cases new with
    | nil => simp at h
    | cons b t => simp at h; simp [ih t h]

/-- A ready lane instruction that gives every lane writes the active ones. -/
theorem runLanes_ready (f : Form) (readsOD : Bool) (m : Nat) (res : State → List Nat → List Nat → List Nat → List Nat) (s : State)
    (new : List Nat) (h : lanesReady f s readsOD)
    (hn : res (begin s) ((List.range (laneCount (tyOf f))).map (laneOf s f f.od)) ((List.range (laneCount (tyOf f))).map (laneOf s f f.oa))
      ((List.range (laneCount (tyOf f))).map (laneOf s f f.ob)) = new) (hl : new.length = laneCount (tyOf f)) :
    lanesDone f s m readsOD (activeOf s f) new (runLanes f (tyOf f) readsOD m res s) := by
  have e := runLanesOpt_ready f readsOD m (fun s d a b => (res s d a b).map some) s (new.map some) (activeOf s f) h (by simp only [hn])
    (isSome_active _ _ (by simp [activeOf, hl]))
  simpa [runLanes] using e

/-- The same where each lane depends on the lanes at its place. -/
theorem runLanewise_ready (f : Form) (readsOD : Bool) (m : Nat) (op : Nat → Nat → Nat → Nat) (s : State) (h : lanesReady f s readsOD) :
    lanesDone f s m readsOD (activeOf s f)
      ((List.range (laneCount (tyOf f))).map (fun k => op (laneOf s f f.od k) (laneOf s f f.oa k) (laneOf s f f.ob k)))
      (runLanewise f (tyOf f) readsOD m op s) :=
  runLanes_ready f readsOD m _ s _ h (by simp only [zip_range, zipWith_range]) (by simp)

/-- A ready reduction gives its value to g[OD]. -/
theorem runLanesToG_ready (f : Form) (m : Nat) (res : List Bool → List Nat → List Nat → Word) (s : State) (h : lanesReady f s false) :
    runLanesToG f (tyOf f) m res s = lanesGive f s m (fun t => t.writeG (regOf f.od)
      (res (activeOf s f) ((List.range (laneCount (tyOf f))).map (laneOf s f f.oa))
        ((List.range (laneCount (tyOf f))).map (laneOf s f f.ob)))) := by
  unfold runLanesToG
  have h1 : formReady s f (some (laneCount (tyOf f))) .write = true := by simpa using h.1
  rw [run_ready _ _ _ _ _ h1]
  simp only [h.2, laneOf_eq, activeOf_eq, bind, Except.bind, pure, Except.pure]
  rfl

end Sys2Proof.Machine
end

