-- ==== Sys2Proof/Laws/Memory.lean ====
section
/-! SUPPORT. The byte memories: every operation on them keeps the canonical form, and a byte that is not written reads as before. -/

namespace Sys2Proof.Machine

/-- A memory after a list of byte writes. -/
theorem wf_foldl_mset (bs : List (Nat × Byte)) (m : Memory) (h : m.wf = true) :
    Memory.wf (bs.foldl (fun (m : Memory) (b : Nat × Byte) => mset unwritten m b.1 b.2) m) = true := by
  induction bs generalizing m with
  | nil => exact h
  | cons b r ih => exact ih _ (mwf_mset unwritten m b.1 b.2 h)

/-- A byte that none of the writes names reads as before. -/
theorem mget_foldl_mset (bs : List (Nat × Byte)) (m : Memory) (a : Nat) (h : ∀ b ∈ bs, b.1 ≠ a) :
    mget unwritten (bs.foldl (fun (m : Memory) (b : Nat × Byte) => mset unwritten m b.1 b.2) m) a = mget unwritten m a := by
  induction bs generalizing m with
  | nil => rfl
  | cons b r ih =>
    rw [List.foldl_cons, ih _ (fun c hc => h c (List.mem_cons_of_mem _ hc))]
    exact mget_mset_ne unwritten m b.2 (h b List.mem_cons_self).symm

/-- Bytes written at their home keep the canonical form. -/
theorem State.homeWriteBytes_memoryWf (s : State) (bs : List (Nat × Byte)) (h : s.memoryWf) : (s.homeWriteBytes bs).memoryWf :=
  ⟨wf_foldl_mset bs s.home h.1, h.2⟩

/-- A number written at its home keeps the canonical form. -/
theorem State.homeWrite_memoryWf (s : State) (pa n x : Nat) (h : s.memoryWf) : (s.homeWrite pa n x).memoryWf :=
  s.homeWriteBytes_memoryWf _ h

/-- Every byte but those written reads as before at its home. -/
theorem State.homeByte_homeWriteBytes (s : State) (bs : List (Nat × Byte)) (a : Nat) (h : ∀ b ∈ bs, b.1 ≠ a) :
    (s.homeWriteBytes bs).homeByte a = s.homeByte a := mget_foldl_mset bs s.home a h

/-- A write of host memory keeps the canonical form. -/
theorem hostWrite_memoryWf (s : State) (at_ : Nat) (bs : List Byte) (h : s.memoryWf) : (hostWrite s at_ bs).memoryWf := by
  have e : (hostWrite s at_ bs).hostMem = (((List.range bs.length).zip bs).map (fun p => (at_ + p.1, p.2))).foldl
      (fun (m : Memory) (b : Nat × Byte) => mset unwritten m b.1 b.2) s.hostMem := by
    rw [List.foldl_map]; rfl
  exact ⟨h.1, by rw [e]; exact wf_foldl_mset _ _ h.2⟩

/-- The memories right after reset are in canonical form. -/
theorem State.reset_memoryWf : State.reset.memoryWf := ⟨rfl, rfl⟩

/-- Placing an instruction keeps the canonical form. -/
theorem State.withFetchWord_memoryWf (s : State) (nbits w : Nat) (h : s.memoryWf) : (s.withFetchWord nbits w).memoryWf :=
  ⟨wf_foldl_mset _ _ h.1, h.2⟩

/-- The end of a word whose own effect is a change of its thread set: the memories stand. -/
theorem after_memory (h : Hints) (s : State) (upd : TSet → TSet) : (after h s upd).home = s.home ∧ (after h s upd).hostMem = s.hostMem := by
  unfold after finished applyHints
  cases h.ys <;> by_cases hd : h.sd = 0 <;> simp only [hd, if_true, if_false] <;> exact ⟨rfl, rfl⟩

end Sys2Proof.Machine
end

