-- ==== Sys2Proof/Tests/Slice0.lean ====
section
/-! SUPPORT. Tests: terms that no encoding admits, words laid out by hand, small steps, and witnesses of what the statements assume. -/

namespace Sys2Proof.Tests

open Sys2Proof.Machine

set_option Elab.async false

/-! ## Words that no encoding admits (WellFormed): one for each check -/

/-- A form with no guard and no hints. -/
def frm (md : BitVec 3) (od oa ob : Operand) : Form := ⟨⟨false, 0⟩, ⟨false, false, 0⟩, md, od, oa, ob⟩
/-- A g register without TE. -/
def gr (k : BitVec 5) : Operand := .g k false
/-- A v register without TE. -/
def vr (k : BitVec 5) : Operand := .v k false

/-- A guard that can never hold (R36). -/
theorem test_wf_guard : (Instr.add ⟨⟨true, 0⟩, ⟨false, false, 0⟩, 0, gr 1, gr 2, gr 3⟩).wellFormed = false := by decide
/-- A modifier the operation has not (R91). -/
theorem test_wf_modifier : (Instr.add (frm 2 (gr 1) (gr 2) (gr 3))).wellFormed = false := by decide
/-- A used position left empty, and an operand in an unused one (R28). -/
theorem test_wf_positions : (Instr.add (frm 0 (gr 1) (gr 2) .unused)).wellFormed = false ∧
    (Instr.neg (frm 0 (gr 1) (gr 2) (gr 3))).wellFormed = false := by decide
/-- A kind that the position does not allow (R24, R25). -/
theorem test_wf_kinds : (Instr.add (frm 0 (vr 1) (gr 2) (gr 3))).wellFormed = false ∧
    (Instr.vfadd (frm 0 (vr 1) (gr 2) (vr 3))).wellFormed = false ∧ (Instr.cmp (frm 0 (gr 1) (gr 2) (gr 3))).wellFormed = false ∧
    (Instr.sel (frm 0 (gr 1) (gr 2) (gr 3))).wellFormed = false ∧ (Instr.br (frm 0 .unused .unused (gr 1))).wellFormed = false ∧
    (Instr.resolve (frm 0 (gr 1) (gr 2) (.i 1))).wellFormed = false ∧ (Instr.vlds (frm 0 (vr 1) (vr 2) (gr 3))).wellFormed = false := by decide
/-- TE on a register that is only written (R25). -/
theorem test_wf_te : (Instr.add (frm 0 (.g 1 true) (gr 2) (gr 3))).wellFormed = false ∧
    (Instr.vld (frm 0 (.v 1 true) (.c 1 false 0) .unused)).wellFormed = false := by decide
/-- p0 as a destination (R47). -/
theorem test_wf_p0 : (Instr.cmp (frm 0 (.p 0) (gr 2) (gr 3))).wellFormed = false := by decide
/-- A cursor that increments where it may not, and an increment that is not enabled (R24, R109). -/
theorem test_wf_cursor : (Instr.curs (frm 0 (.c 1 true 1) (gr 2) .unused)).wellFormed = false ∧
    (Instr.vfadd (frm 0 (.c 1 false 1) (vr 2) (vr 3))).wellFormed = false := by decide
/-- A special register that is not assigned, or not written (R50, R94). -/
theorem test_wf_special : (Instr.mfs (frm 0 (gr 1) (.s 0x012) .unused)).wellFormed = false ∧
    (Instr.mts (frm 0 (.s 0x001) (gr 1) .unused)).wellFormed = false := by decide
/-- A descriptor of another buffer, past its buffer, with a core though local, or remote where it may not be (R27, R191). -/
theorem test_wf_descriptor : (Instr.cclr (frm 0 (.b 1 false 0 0) .unused .unused)).wellFormed = false ∧
    (Instr.cclr (frm 0 (.b 2 false 0 16) .unused .unused)).wellFormed = false ∧
    (Instr.mma (frm 0 (.b 2 false 0 0) (.b 1 false 0 2048) (.b 0 false 0 0))).wellFormed = false ∧
    (Instr.mma (frm 0 (.b 2 false 0 0) (.b 1 false 3 0) (.b 0 false 0 0))).wellFormed = false ∧
    (Instr.vld (frm 0 (vr 1) (.b 1 true 3 0) (gr 2))).wellFormed = false := by decide
/-- `LIMM` and `LIMM.hi` with a destination that is no g register. -/
theorem test_wf_limm : (Instr.limm ⟨false, 0⟩ ⟨false, false, 0⟩ (vr 1) 5).wellFormed = false ∧
    (Instr.limmHi ⟨true, 0⟩ ⟨false, false, 0⟩ (gr 1) 5).wellFormed = false := by decide
/-- A constructor that only some words of its operation name (R105, R106). -/
theorem test_wf_split : (Instr.mts (frm 0 (.s 0x009) (gr 1) .unused)).wellFormed = false ∧
    (Instr.mtsOwner (frm 0 (.s 0x061) (gr 1) .unused)).wellFormed = false := by decide
/-- The same words with that field mended are admitted. -/
theorem test_wf_admitted : (Instr.add (frm 0 (gr 1) (gr 2) (gr 3))).wellFormed = true ∧
    (Instr.mma (frm 0 (.b 2 false 0 0) (.b 1 false 0 2047) (.b 0 true 3 0))).wellFormed = true ∧
    (Instr.mts (frm 0 (.s 0x061) (gr 1) .unused)).wellFormed = true := by decide

/-! ## Words laid out by hand, one for each constructor that a word names -/

/-- Words of class 00, major opcode 0, laid out by hand (Tables 2.1, 2.2, 5.3 to 5.6). -/
theorem test_decode_scalar0a : ([
    (0x000240000001000002800307, .add ⟨⟨true, 1⟩, ⟨false, false, 0⟩, 0, .g 1 false, .g 2 false, .i 775⟩),
    (0x002464000004000005000006, .sub ⟨⟨false, 1⟩, ⟨true, false, 1⟩, 1, .g 4 false, .g 5 false, .g 6 false⟩),
    (0x004098000007000008800907, .mul ⟨⟨false, 2⟩, ⟨false, true, 2⟩, 0, .g 7 false, .g 8 false, .i 2311⟩),
    (0x0064FC00000A00000B00000C, .mulh ⟨⟨false, 3⟩, ⟨true, true, 3⟩, 1, .g 10 false, .g 11 false, .g 12 false⟩),
    (0x00834000000D00000E800F07, .div ⟨⟨true, 5⟩, ⟨false, false, 0⟩, 0, .g 13 false, .g 14 false, .i 3847⟩),
    (0x00A564000010000011000012, .divu ⟨⟨false, 5⟩, ⟨true, false, 1⟩, 1, .g 16 false, .g 17 false, .g 18 false⟩),
    (0x00C198000013000014801507, .rem ⟨⟨false, 6⟩, ⟨false, true, 2⟩, 0, .g 19 false, .g 20 false, .i 5383⟩),
    (0x00E5FC000016000017000018, .remu ⟨⟨false, 7⟩, ⟨true, true, 3⟩, 1, .g 22 false, .g 23 false, .g 24 false⟩),
    (0x010280000001000002000000, .neg ⟨⟨true, 2⟩, ⟨false, false, 0⟩, 0, .g 1 false, .g 2 false, .unused⟩),
    (0x012464000004000005000000, .abs ⟨⟨false, 1⟩, ⟨true, false, 1⟩, 1, .g 4 false, .g 5 false, .unused⟩)] : List (IWord × Instr)).all (fun x => decide (decode x.1 = .ok x.2) && decide (encode x.2 = some x.1) && x.2.wellFormed) = true := by decide +kernel

/-- Words of class 00, major opcode 0, laid out by hand (Tables 2.1, 2.2, 5.3 to 5.6). -/
theorem test_decode_scalar0b : ([
    (0x014098000007000008800907, .min ⟨⟨false, 2⟩, ⟨false, true, 2⟩, 0, .g 7 false, .g 8 false, .i 2311⟩),
    (0x0164FC00000A00000B00000C, .max ⟨⟨false, 3⟩, ⟨true, true, 3⟩, 1, .g 10 false, .g 11 false, .g 12 false⟩),
    (0x01838000000D00000E800F07, .minu ⟨⟨true, 6⟩, ⟨false, false, 0⟩, 0, .g 13 false, .g 14 false, .i 3847⟩),
    (0x01A564000010000011000012, .maxu ⟨⟨false, 5⟩, ⟨true, false, 1⟩, 1, .g 16 false, .g 17 false, .g 18 false⟩)] : List (IWord × Instr)).all (fun x => decide (decode x.1 = .ok x.2) && decide (encode x.2 = some x.1) && x.2.wellFormed) = true := by decide +kernel

/-- Words of class 00, major opcode 1, laid out by hand (Tables 2.1, 2.2, 5.3 to 5.6). -/
theorem test_decode_scalar1a : ([
    (0x040198000013000014801507, .and ⟨⟨false, 6⟩, ⟨false, true, 2⟩, 0, .g 19 false, .g 20 false, .i 5383⟩),
    (0x0425FC000016000017000018, .or ⟨⟨false, 7⟩, ⟨true, true, 3⟩, 1, .g 22 false, .g 23 false, .g 24 false⟩),
    (0x0442C0000001000002800307, .xor ⟨⟨true, 3⟩, ⟨false, false, 0⟩, 0, .g 1 false, .g 2 false, .i 775⟩),
    (0x046464000004000005000006, .andn ⟨⟨false, 1⟩, ⟨true, false, 1⟩, 1, .g 4 false, .g 5 false, .g 6 false⟩),
    (0x048098000007000008800907, .shl ⟨⟨false, 2⟩, ⟨false, true, 2⟩, 0, .g 7 false, .g 8 false, .i 2311⟩),
    (0x04A4FC00000A00000B00000C, .shr ⟨⟨false, 3⟩, ⟨true, true, 3⟩, 1, .g 10 false, .g 11 false, .g 12 false⟩),
    (0x04C3C000000D00000E800F07, .sar ⟨⟨true, 7⟩, ⟨false, false, 0⟩, 0, .g 13 false, .g 14 false, .i 3847⟩),
    (0x04E564000010000011000012, .ror ⟨⟨false, 5⟩, ⟨true, false, 1⟩, 1, .g 16 false, .g 17 false, .g 18 false⟩),
    (0x050198000013000014000000, .clz ⟨⟨false, 6⟩, ⟨false, true, 2⟩, 0, .g 19 false, .g 20 false, .unused⟩),
    (0x0525FC000016000017000000, .ctz ⟨⟨false, 7⟩, ⟨true, true, 3⟩, 1, .g 22 false, .g 23 false, .unused⟩)] : List (IWord × Instr)).all (fun x => decide (decode x.1 = .ok x.2) && decide (encode x.2 = some x.1) && x.2.wellFormed) = true := by decide +kernel

/-- Words of class 00, major opcode 1, laid out by hand (Tables 2.1, 2.2, 5.3 to 5.6). -/
theorem test_decode_scalar1b : ([
    (0x054300000001000002000000, .popc ⟨⟨true, 4⟩, ⟨false, false, 0⟩, 0, .g 1 false, .g 2 false, .unused⟩),
    (0x056464000004000005000006, .extr ⟨⟨false, 1⟩, ⟨true, false, 1⟩, 1, .g 4 false, .g 5 false, .g 6 false⟩),
    (0x058098000007000008800907, .ins ⟨⟨false, 2⟩, ⟨false, true, 2⟩, 0, .g 7 false, .g 8 false, .i 2311⟩)] : List (IWord × Instr)).all (fun x => decide (decode x.1 = .ok x.2) && decide (encode x.2 = some x.1) && x.2.wellFormed) = true := by decide +kernel

/-- Words of class 00, major opcode 2, laid out by hand (Tables 2.1, 2.2, 5.3 to 5.6). -/
theorem test_decode_scalar2 : ([
    (0x080CFC40000700000B00000C, .cmp ⟨⟨false, 3⟩, ⟨true, true, 3⟩, 3, .p 7, .g 11 false, .g 12 false⟩),
    (0x08224000000D400002800F07, .sel ⟨⟨true, 1⟩, ⟨false, false, 0⟩, 0, .g 13 false, .p 2, .i 3847⟩),
    (0x084164400002400003400004, .pand ⟨⟨false, 5⟩, ⟨true, false, 1⟩, 0, .p 2, .p 3, .p 4⟩),
    (0x086198400003400004400005, .por ⟨⟨false, 6⟩, ⟨false, true, 2⟩, 0, .p 3, .p 4, .p 5⟩),
    (0x0881FC400004400005400006, .pxor ⟨⟨false, 7⟩, ⟨true, true, 3⟩, 0, .p 4, .p 5, .p 6⟩),
    (0x08A340400005400006000000, .pnot ⟨⟨true, 5⟩, ⟨false, false, 0⟩, 0, .p 5, .p 6, .unused⟩),
    (0x08C064000004400007000000, .ptog ⟨⟨false, 1⟩, ⟨true, false, 1⟩, 0, .g 4 false, .p 7, .unused⟩),
    (0x08E098400007800807000000, .gtop ⟨⟨false, 2⟩, ⟨false, true, 2⟩, 0, .p 7, .i 2055, .unused⟩)] : List (IWord × Instr)).all (fun x => decide (decode x.1 = .ok x.2) && decide (encode x.2 = some x.1) && x.2.wellFormed) = true := by decide +kernel

/-- Words of class 00, major opcode 3, laid out by hand (Tables 2.1, 2.2, 5.3 to 5.6). -/
theorem test_decode_scalar3a : ([
    (0x0C00FC00000A00000B000000, .mov ⟨⟨false, 3⟩, ⟨true, true, 3⟩, 0, .g 10 false, .g 11 false, .unused⟩),
    (0x0C2280000005123456789ABC, .limm ⟨true, 2⟩ ⟨false, false, 0⟩ (.g 5 false) 0x123456789ABC),
    (0x0C256400000500BEEF000000, .limmHi ⟨false, 5⟩ ⟨true, false, 1⟩ (.g 5 false) 0xBEEF),
    (0x0C4D98000013801407801507, .lea ⟨⟨false, 6⟩, ⟨false, true, 2⟩, 3, .g 19 false, .i 5127, .i 5383⟩),
    (0x0C61FC000016000017000000, .ptrg ⟨⟨false, 7⟩, ⟨true, true, 3⟩, 0, .g 22 false, .g 23 false, .unused⟩),
    (0x0C8380000001000002800307, .ptrs ⟨⟨true, 6⟩, ⟨false, false, 0⟩, 0, .g 1 false, .g 2 false, .i 775⟩),
    (0x0CA064000004A00001000000, .mfs ⟨⟨false, 1⟩, ⟨true, false, 1⟩, 0, .g 4 false, .s 0x1, .unused⟩),
    (0x0CC098A00061800040000000, .mts ⟨⟨false, 2⟩, ⟨false, true, 2⟩, 0, .s 0x61, .i 64, .unused⟩),
    (0x0CC0FCA00009000003000000, .mtsOwner ⟨⟨false, 3⟩, ⟨true, true, 3⟩, 0, .s 0x9, .g 3 false, .unused⟩),
    (0x0CA2C0000004A00034000000, .fpctlAccess ⟨⟨true, 3⟩, ⟨false, false, 0⟩, 0, .g 4 false, .s 0x34, .unused⟩)] : List (IWord × Instr)).all (fun x => decide (decode x.1 = .ok x.2) && decide (encode x.2 = some x.1) && x.2.wellFormed) = true := by decide +kernel

/-- Words of class 00, major opcode 3, laid out by hand (Tables 2.1, 2.2, 5.3 to 5.6). -/
theorem test_decode_scalar3b : ([
    (0x0CA164000004A00032000000, .mfsTmstat ⟨⟨false, 5⟩, ⟨true, false, 1⟩, 0, .g 4 false, .s 0x32, .unused⟩),
    (0x0CA198000004A00103000000, .mfsCounter ⟨⟨false, 6⟩, ⟨false, true, 2⟩, 0, .g 4 false, .s 0x103, .unused⟩),
    (0x0CC1FCA0010A000003000000, .mtsCsel ⟨⟨false, 7⟩, ⟨true, true, 3⟩, 0, .s 0x10A, .g 3 false, .unused⟩),
    (0x0CE3C0600001800207000000, .curs ⟨⟨true, 7⟩, ⟨false, false, 0⟩, 0, .c 1 false 0, .i 519, .unused⟩),
    (0x0D0064000004600005000000, .curg ⟨⟨false, 1⟩, ⟨true, false, 1⟩, 0, .g 4 false, .c 5 false 0, .unused⟩),
    (0x0CC164A00800000003000000, .specialRegisterWrite ⟨⟨false, 5⟩, ⟨true, false, 1⟩, 0, .s 0x800, .g 3 false, .unused⟩)] : List (IWord × Instr)).all (fun x => decide (decode x.1 = .ok x.2) && decide (encode x.2 = some x.1) && x.2.wellFormed) = true := by decide +kernel

/-- Words of class 00, major opcode 4, laid out by hand (Tables 2.1, 2.2, 5.3 to 5.6). -/
theorem test_decode_scalar4 : ([
    (0x100098000007000008800907, .fadd ⟨⟨false, 2⟩, ⟨false, true, 2⟩, 0, .g 7 false, .g 8 false, .i 2311⟩),
    (0x1024FC00000A00000B00000C, .fsub ⟨⟨false, 3⟩, ⟨true, true, 3⟩, 1, .g 10 false, .g 11 false, .g 12 false⟩),
    (0x10430000000D00000E800F07, .fmul ⟨⟨true, 4⟩, ⟨false, false, 0⟩, 0, .g 13 false, .g 14 false, .i 3847⟩),
    (0x106564000010000011000012, .ffma ⟨⟨false, 5⟩, ⟨true, false, 1⟩, 1, .g 16 false, .g 17 false, .g 18 false⟩),
    (0x108198000013000014801507, .fdiv ⟨⟨false, 6⟩, ⟨false, true, 2⟩, 0, .g 19 false, .g 20 false, .i 5383⟩),
    (0x10A5FC000016000017000000, .fsqrt ⟨⟨false, 7⟩, ⟨true, true, 3⟩, 1, .g 22 false, .g 23 false, .unused⟩),
    (0x10C240000001000002800307, .fmin ⟨⟨true, 1⟩, ⟨false, false, 0⟩, 0, .g 1 false, .g 2 false, .i 775⟩),
    (0x10E464000004000005000006, .fmax ⟨⟨false, 1⟩, ⟨true, false, 1⟩, 1, .g 4 false, .g 5 false, .g 6 false⟩),
    (0x110898400003000008800907, .fcmp ⟨⟨false, 2⟩, ⟨false, true, 2⟩, 2, .p 3, .g 8 false, .i 2311⟩),
    (0x112CFC00000A00000B000000, .fcvt ⟨⟨false, 3⟩, ⟨true, true, 3⟩, 3, .g 10 false, .g 11 false, .unused⟩)] : List (IWord × Instr)).all (fun x => decide (decode x.1 = .ok x.2) && decide (encode x.2 = some x.1) && x.2.wellFormed) = true := by decide +kernel

/-- Words of class 01, major opcode 0, laid out by hand (Tables 2.1, 2.2, 5.3 to 5.6). -/
theorem test_decode_vector0a : ([
    (0x400340600F0D600F0E801234, .vfadd ⟨⟨true, 5⟩, ⟨false, false, 0⟩, 0, .c 5 true 240, .c 6 true 240, .i 4660⟩),
    (0x402564200010200011200012, .vfsub ⟨⟨false, 5⟩, ⟨true, false, 1⟩, 1, .v 16 false, .v 17 false, .v 18 false⟩),
    (0x404998600F0B600F0C200015, .vfmul ⟨⟨false, 6⟩, ⟨false, true, 2⟩, 2, .c 3 true 240, .c 4 true 240, .v 21 false⟩),
    (0x4061FC200016200017801234, .vffma ⟨⟨false, 7⟩, ⟨true, true, 3⟩, 0, .v 22 false, .v 23 false, .i 4660⟩),
    (0x408680600F09600F0A200003, .vfmin ⟨⟨true, 2⟩, ⟨false, false, 0⟩, 1, .c 1 true 240, .c 2 true 240, .v 3 false⟩),
    (0x40A864200004200005200006, .vfmax ⟨⟨false, 1⟩, ⟨true, false, 1⟩, 2, .v 4 false, .v 5 false, .v 6 false⟩),
    (0x40C098600F0F600F08000000, .vfabs ⟨⟨false, 2⟩, ⟨false, true, 2⟩, 0, .c 7 true 240, .c 0 true 240, .unused⟩),
    (0x40E4FC20000A20000B000000, .vfneg ⟨⟨false, 3⟩, ⟨true, true, 3⟩, 1, .v 10 false, .v 11 false, .unused⟩),
    (0x410B80600F0D600F0E000000, .vfrcp ⟨⟨true, 6⟩, ⟨false, false, 0⟩, 2, .c 5 true 240, .c 6 true 240, .unused⟩),
    (0x412164200010200011000000, .vfrsq ⟨⟨false, 5⟩, ⟨true, false, 1⟩, 0, .v 16 false, .v 17 false, .unused⟩)] : List (IWord × Instr)).all (fun x => decide (decode x.1 = .ok x.2) && decide (encode x.2 = some x.1) && x.2.wellFormed) = true := by decide +kernel

/-- Words of class 01, major opcode 0, laid out by hand (Tables 2.1, 2.2, 5.3 to 5.6). -/
theorem test_decode_vector0b : ([
    (0x414598600F0B600F0C000000, .vfexp2 ⟨⟨false, 6⟩, ⟨false, true, 2⟩, 1, .c 3 true 240, .c 4 true 240, .unused⟩),
    (0x4169FC400002200017200018, .vfcmpeq ⟨⟨false, 7⟩, ⟨true, true, 3⟩, 2, .p 2, .v 23 false, .v 24 false⟩),
    (0x4182C0400003600F0A801234, .vfcmplt ⟨⟨true, 3⟩, ⟨false, false, 0⟩, 0, .p 3, .c 2 true 240, .i 4660⟩),
    (0x41A464400004200005200006, .vfcmple ⟨⟨false, 1⟩, ⟨true, false, 1⟩, 1, .p 4, .v 5 false, .v 6 false⟩)] : List (IWord × Instr)).all (fun x => decide (decode x.1 = .ok x.2) && decide (encode x.2 = some x.1) && x.2.wellFormed) = true := by decide +kernel

/-- Words of class 01, major opcode 1, laid out by hand (Tables 2.1, 2.2, 5.3 to 5.6). -/
theorem test_decode_vector1a : ([
    (0x441498600F0F600F08200009, .vadd ⟨⟨false, 2⟩, ⟨false, true, 2⟩, 5, .c 7 true 240, .c 0 true 240, .v 9 false⟩),
    (0x4438FC20000A20000B801234, .vsub ⟨⟨false, 3⟩, ⟨true, true, 3⟩, 6, .v 10 false, .v 11 false, .i 4660⟩),
    (0x444FC0600F0D600F0E20000F, .vmul ⟨⟨true, 7⟩, ⟨false, false, 0⟩, 3, .c 5 true 240, .c 6 true 240, .v 15 false⟩),
    (0x447564200010200011200012, .vmulh ⟨⟨false, 5⟩, ⟨true, false, 1⟩, 5, .v 16 false, .v 17 false, .v 18 false⟩),
    (0x449598600F0B600F0C801234, .vmin ⟨⟨false, 6⟩, ⟨false, true, 2⟩, 5, .c 3 true 240, .c 4 true 240, .i 4660⟩),
    (0x44B9FC200016200017200018, .vmax ⟨⟨false, 7⟩, ⟨true, true, 3⟩, 6, .v 22 false, .v 23 false, .v 24 false⟩),
    (0x44CF00600F09600F0A200003, .vand ⟨⟨true, 4⟩, ⟨false, false, 0⟩, 3, .c 1 true 240, .c 2 true 240, .v 3 false⟩),
    (0x44F064200004200005801234, .vor ⟨⟨false, 1⟩, ⟨true, false, 1⟩, 4, .v 4 false, .v 5 false, .i 4660⟩),
    (0x451498600F0F600F08200009, .vxor ⟨⟨false, 2⟩, ⟨false, true, 2⟩, 5, .c 7 true 240, .c 0 true 240, .v 9 false⟩),
    (0x4538FC20000A20000B20000C, .vshl ⟨⟨false, 3⟩, ⟨true, true, 3⟩, 6, .v 10 false, .v 11 false, .v 12 false⟩)] : List (IWord × Instr)).all (fun x => decide (decode x.1 = .ok x.2) && decide (encode x.2 = some x.1) && x.2.wellFormed) = true := by decide +kernel

/-- Words of class 01, major opcode 1, laid out by hand (Tables 2.1, 2.2, 5.3 to 5.6). -/
theorem test_decode_vector1b : ([
    (0x454E40600F0D600F0E801234, .vshr ⟨⟨true, 1⟩, ⟨false, false, 0⟩, 3, .c 5 true 240, .c 6 true 240, .i 4660⟩),
    (0x457164200010200011200012, .vsar ⟨⟨false, 5⟩, ⟨true, false, 1⟩, 4, .v 16 false, .v 17 false, .v 18 false⟩),
    (0x459998600F0B600F0C000000, .vabs ⟨⟨false, 6⟩, ⟨false, true, 2⟩, 6, .c 3 true 240, .c 4 true 240, .unused⟩),
    (0x45B9FC400004200017801234, .vcmpeq ⟨⟨false, 7⟩, ⟨true, true, 3⟩, 6, .p 4, .v 23 false, .i 4660⟩),
    (0x45CF40400005600F0A200003, .vcmplt ⟨⟨true, 5⟩, ⟨false, false, 0⟩, 3, .p 5, .c 2 true 240, .v 3 false⟩),
    (0x45F464200004400007200006, .vsel ⟨⟨false, 1⟩, ⟨true, false, 1⟩, 5, .v 4 false, .p 7, .v 6 false⟩),
    (0x461498600F0F600F08801234, .vadds ⟨⟨false, 2⟩, ⟨false, true, 2⟩, 5, .c 7 true 240, .c 0 true 240, .i 4660⟩)] : List (IWord × Instr)).all (fun x => decide (decode x.1 = .ok x.2) && decide (encode x.2 = some x.1) && x.2.wellFormed) = true := by decide +kernel

/-- Words of class 01, major opcode 2, laid out by hand (Tables 2.1, 2.2, 5.3 to 5.6). -/
theorem test_decode_vector2 : ([
    (0x4800FC20000A20000B9FFFF2, .vcvt ⟨⟨false, 3⟩, ⟨true, true, 3⟩, 0, .v 10 false, .v 11 false, .i 2097138⟩),
    (0x482A8020000D600F0E00000F, .vqnt ⟨⟨true, 2⟩, ⟨false, false, 0⟩, 2, .v 13 false, .c 6 true 240, .g 15 false⟩),
    (0x484164200010200011000012, .vdqnt ⟨⟨false, 5⟩, ⟨true, false, 1⟩, 0, .v 16 false, .v 17 false, .g 18 false⟩),
    (0x486598600F0B600F0C200015, .vscl ⟨⟨false, 6⟩, ⟨false, true, 2⟩, 1, .c 3 true 240, .c 4 true 240, .v 21 false⟩),
    (0x4889FC000016200017000000, .vamax ⟨⟨false, 7⟩, ⟨true, true, 3⟩, 2, .g 22 false, .v 23 false, .unused⟩)] : List (IWord × Instr)).all (fun x => decide (decode x.1 = .ok x.2) && decide (encode x.2 = some x.1) && x.2.wellFormed) = true := by decide +kernel

/-- Words of class 01, major opcode 3, laid out by hand (Tables 2.1, 2.2, 5.3 to 5.6). -/
theorem test_decode_vector3 : ([
    (0x4C0380000001600F0A000000, .vrsum ⟨⟨true, 6⟩, ⟨false, false, 0⟩, 0, .g 1 false, .c 2 true 240, .unused⟩),
    (0x4C2464000004200005000000, .vrmax ⟨⟨false, 1⟩, ⟨true, false, 1⟩, 1, .g 4 false, .v 5 false, .unused⟩),
    (0x4C4898000007600F08000000, .vrmin ⟨⟨false, 2⟩, ⟨false, true, 2⟩, 2, .g 7 false, .c 0 true 240, .unused⟩),
    (0x4C64FC20000A20000B20000C, .vperm ⟨⟨false, 3⟩, ⟨true, true, 3⟩, 1, .v 10 false, .v 11 false, .v 12 false⟩),
    (0x4C8AC0600F0D600F0E800F07, .vbcast ⟨⟨true, 3⟩, ⟨false, false, 0⟩, 2, .c 5 true 240, .c 6 true 240, .i 3847⟩),
    (0x4CAD64000010200011000012, .vext ⟨⟨false, 5⟩, ⟨true, false, 1⟩, 3, .g 16 false, .v 17 false, .g 18 false⟩),
    (0x4CD198200013801407801507, .vins ⟨⟨false, 6⟩, ⟨false, true, 2⟩, 4, .v 19 false, .i 5127, .i 5383⟩),
    (0x4CF5FC200016200017000018, .vrot ⟨⟨false, 7⟩, ⟨true, true, 3⟩, 5, .v 22 false, .v 23 false, .g 24 false⟩),
    (0x4D1BC0600F09600F0A400002, .vcomp ⟨⟨true, 7⟩, ⟨false, false, 0⟩, 6, .c 1 true 240, .c 2 true 240, .p 2⟩),
    (0x4D2064200004200005400003, .vexpd ⟨⟨false, 1⟩, ⟨true, false, 1⟩, 0, .v 4 false, .v 5 false, .p 3⟩)] : List (IWord × Instr)).all (fun x => decide (decode x.1 = .ok x.2) && decide (encode x.2 = some x.1) && x.2.wellFormed) = true := by decide +kernel

/-- Words of class 01, major opcode 4, laid out by hand (Tables 2.1, 2.2, 5.3 to 5.6). -/
theorem test_decode_vector4 : ([
    (0x500498200009D802FF000002, .vld ⟨⟨false, 2⟩, ⟨false, true, 2⟩, 1, .v 9 false, .b 3 false 0 767, .g 2 false⟩),
    (0x5028FCC807FF200009000002, .vst ⟨⟨false, 3⟩, ⟨true, true, 3⟩, 2, .b 1 false 0 2047, .v 9 false, .g 2 false⟩),
    (0x504F0020000D600006800F07, .vlds ⟨⟨true, 4⟩, ⟨false, false, 0⟩, 3, .v 13 false, .c 6 false 0, .i 3847⟩),
    (0x507164600108200011000012, .vsts ⟨⟨false, 5⟩, ⟨true, false, 1⟩, 4, .c 0 true 16, .v 17 false, .g 18 false⟩),
    (0x509598200013600004200015, .vgth ⟨⟨false, 6⟩, ⟨false, true, 2⟩, 5, .v 19 false, .c 4 false 0, .v 21 false⟩),
    (0x50B9FC60010E200017200018, .vsct ⟨⟨false, 7⟩, ⟨true, true, 3⟩, 6, .c 6 true 16, .v 23 false, .v 24 false⟩)] : List (IWord × Instr)).all (fun x => decide (decode x.1 = .ok x.2) && decide (encode x.2 = some x.1) && x.2.wellFormed) = true := by decide +kernel

/-- Words of class 10, major opcode 0, laid out by hand (Tables 2.1, 2.2, 5.3 to 5.6). -/
theorem test_decode_memory0 : ([
    (0x800240000001000002800307, .ld ⟨⟨true, 1⟩, ⟨false, false, 0⟩, 0, .g 1 false, .g 2 false, .i 775⟩),
    (0x802464000004000005000006, .st ⟨⟨false, 1⟩, ⟨true, false, 1⟩, 1, .g 4 false, .g 5 false, .g 6 false⟩),
    (0x804898200007000008800907, .vgld ⟨⟨false, 2⟩, ⟨false, true, 2⟩, 2, .v 7 false, .g 8 false, .i 2311⟩),
    (0x806CFC00000A20000B00000C, .vgst ⟨⟨false, 3⟩, ⟨true, true, 3⟩, 3, .g 10 false, .v 11 false, .g 12 false⟩),
    (0x80834000000000000E800F07, .pft ⟨⟨true, 5⟩, ⟨false, false, 0⟩, 0, .unused, .g 14 false, .i 3847⟩)] : List (IWord × Instr)).all (fun x => decide (decode x.1 = .ok x.2) && decide (encode x.2 = some x.1) && x.2.wellFormed) = true := by decide +kernel

/-- Words of class 10, major opcode 1, laid out by hand (Tables 2.1, 2.2, 5.3 to 5.6). -/
theorem test_decode_memory1 : ([
    (0x841564000010000011000012, .sld ⟨⟨false, 5⟩, ⟨true, false, 1⟩, 5, .g 16 false, .g 17 false, .g 18 false⟩),
    (0x842998000013000014801507, .sst ⟨⟨false, 6⟩, ⟨false, true, 2⟩, 2, .g 19 false, .g 20 false, .i 5383⟩),
    (0x8441FC000016000017000018, .ldl ⟨⟨false, 7⟩, ⟨true, true, 3⟩, 0, .g 22 false, .g 23 false, .g 24 false⟩),
    (0x846280000001000002800307, .stu ⟨⟨true, 2⟩, ⟨false, false, 0⟩, 0, .g 1 false, .g 2 false, .i 775⟩),
    (0x848064000000000005000006, .ulk ⟨⟨false, 1⟩, ⟨true, false, 1⟩, 0, .unused, .g 5 false, .g 6 false⟩)] : List (IWord × Instr)).all (fun x => decide (decode x.1 = .ok x.2) && decide (encode x.2 = some x.1) && x.2.wellFormed) = true := by decide +kernel

/-- Words of class 10, major opcode 2, laid out by hand (Tables 2.1, 2.2, 5.3 to 5.6). -/
theorem test_decode_memory2a : ([
    (0x880898000007000008800907, .aadd ⟨⟨false, 2⟩, ⟨false, true, 2⟩, 2, .g 7 false, .g 8 false, .i 2311⟩),
    (0x8830FC00000A00000B00000C, .afadd ⟨⟨false, 3⟩, ⟨true, true, 3⟩, 4, .g 10 false, .g 11 false, .g 12 false⟩),
    (0x88578000000D00000E800F07, .amax ⟨⟨true, 6⟩, ⟨false, false, 0⟩, 5, .g 13 false, .g 14 false, .i 3847⟩),
    (0x887964000010000011000012, .amaxu ⟨⟨false, 5⟩, ⟨true, false, 1⟩, 6, .g 16 false, .g 17 false, .g 18 false⟩),
    (0x889198000013000014801507, .afmax ⟨⟨false, 6⟩, ⟨false, true, 2⟩, 4, .g 19 false, .g 20 false, .i 5383⟩),
    (0x88A5FC000016000017000018, .amin ⟨⟨false, 7⟩, ⟨true, true, 3⟩, 1, .g 22 false, .g 23 false, .g 24 false⟩),
    (0x88CAC0000001000002800307, .aand ⟨⟨true, 3⟩, ⟨false, false, 0⟩, 2, .g 1 false, .g 2 false, .i 775⟩),
    (0x88F064000004000005000006, .aor ⟨⟨false, 1⟩, ⟨true, false, 1⟩, 4, .g 4 false, .g 5 false, .g 6 false⟩),
    (0x891498000007000008800907, .axor ⟨⟨false, 2⟩, ⟨false, true, 2⟩, 5, .g 7 false, .g 8 false, .i 2311⟩),
    (0x8938FC00000A00000B00000C, .axchg ⟨⟨false, 3⟩, ⟨true, true, 3⟩, 6, .g 10 false, .g 11 false, .g 12 false⟩)] : List (IWord × Instr)).all (fun x => decide (decode x.1 = .ok x.2) && decide (encode x.2 = some x.1) && x.2.wellFormed) = true := by decide +kernel

/-- Words of class 10, major opcode 2, laid out by hand (Tables 2.1, 2.2, 5.3 to 5.6). -/
theorem test_decode_memory2b : ([
    (0x8943C000000D00000E800F07, .acas ⟨⟨true, 7⟩, ⟨false, false, 0⟩, 0, .g 13 false, .g 14 false, .i 3847⟩)] : List (IWord × Instr)).all (fun x => decide (decode x.1 = .ok x.2) && decide (encode x.2 = some x.1) && x.2.wellFormed) = true := by decide +kernel

/-- Words of class 10, major opcode 3, laid out by hand (Tables 2.1, 2.2, 5.3 to 5.6). -/
theorem test_decode_memory3 : ([
    (0x8C0564000000000011000000, .acq ⟨⟨false, 5⟩, ⟨true, false, 1⟩, 1, .unused, .g 17 false, .unused⟩),
    (0x8C2198000000000014000000, .rel ⟨⟨false, 6⟩, ⟨false, true, 2⟩, 0, .unused, .g 20 false, .unused⟩),
    (0x8C41FC000016000017000018, .bind ⟨⟨false, 7⟩, ⟨true, true, 3⟩, 0, .g 22 false, .g 23 false, .g 24 false⟩),
    (0x8C6300000001000002000000, .unbind ⟨⟨true, 4⟩, ⟨false, false, 0⟩, 0, .g 1 false, .g 2 false, .unused⟩),
    (0x8C8464000000000000000000, .fence ⟨⟨false, 1⟩, ⟨true, false, 1⟩, 1, .unused, .unused, .unused⟩),
    (0x8CA098000000800807800907, .xfence ⟨⟨false, 2⟩, ⟨false, true, 2⟩, 0, .unused, .i 2055, .i 2311⟩),
    (0x8CC0FC00000A00000B00000C, .spinw ⟨⟨false, 3⟩, ⟨true, true, 3⟩, 0, .g 10 false, .g 11 false, .g 12 false⟩),
    (0x8CE240000000800E07000000, .barsync ⟨⟨true, 1⟩, ⟨false, false, 0⟩, 0, .unused, .i 3591, .unused⟩),
    (0x8D0164000010000011000012, .barmax ⟨⟨false, 5⟩, ⟨true, false, 1⟩, 0, .g 16 false, .g 17 false, .g 18 false⟩)] : List (IWord × Instr)).all (fun x => decide (decode x.1 = .ok x.2) && decide (encode x.2 = some x.1) && x.2.wellFormed) = true := by decide +kernel

/-- Words of class 10, major opcode 4, laid out by hand (Tables 2.1, 2.2, 5.3 to 5.6). -/
theorem test_decode_memory4 : ([
    (0x900198000013000014000015, .grant ⟨⟨false, 6⟩, ⟨false, true, 2⟩, 0, .g 19 false, .g 20 false, .g 21 false⟩),
    (0x9021FC000016000017000018, .revoke ⟨⟨false, 7⟩, ⟨true, true, 3⟩, 0, .g 22 false, .g 23 false, .g 24 false⟩),
    (0x904340000001000002000003, .rchk ⟨⟨true, 5⟩, ⟨false, false, 0⟩, 0, .g 1 false, .g 2 false, .g 3 false⟩),
    (0x906064000004000005000006, .genadv ⟨⟨false, 1⟩, ⟨true, false, 1⟩, 0, .g 4 false, .g 5 false, .g 6 false⟩),
    (0x908098000000000008000009, .tlbinv ⟨⟨false, 2⟩, ⟨false, true, 2⟩, 0, .unused, .g 8 false, .g 9 false⟩)] : List (IWord × Instr)).all (fun x => decide (decode x.1 = .ok x.2) && decide (encode x.2 = some x.1) && x.2.wellFormed) = true := by decide +kernel

/-- Words of class 10, major opcode 5, laid out by hand (Tables 2.1, 2.2, 5.3 to 5.6). -/
theorem test_decode_memory5 : ([
    (0x940CFCD00008C800D3C4CFFF, .mma ⟨⟨false, 3⟩, ⟨true, true, 3⟩, 3, .b 2 false 0 8, .b 1 false 0 211, .b 0 true 3 4095⟩),
    (0x943280D00009C800D4C4C080, .mmas ⟨⟨true, 2⟩, ⟨false, false, 0⟩, 4, .b 2 false 0 9, .b 1 false 0 212, .b 0 true 3 128⟩),
    (0x944564D0000AC800D5C4CFFF, .mrot ⟨⟨false, 5⟩, ⟨true, false, 1⟩, 1, .b 2 false 0 10, .b 1 false 0 213, .b 0 true 3 4095⟩),
    (0x946998D0000BC800D6C4C080, .mrot2 ⟨⟨false, 6⟩, ⟨false, true, 2⟩, 2, .b 2 false 0 11, .b 1 false 0 214, .b 0 true 3 128⟩),
    (0x9481FCD0000C000000000000, .cclr ⟨⟨false, 7⟩, ⟨true, true, 3⟩, 0, .b 2 false 0 12, .unused, .unused⟩),
    (0x94A380C80010000002000003, .tld ⟨⟨true, 6⟩, ⟨false, false, 0⟩, 0, .b 1 false 0 16, .g 2 false, .g 3 false⟩),
    (0x94C064000004D00009000006, .tst ⟨⟨false, 1⟩, ⟨true, false, 1⟩, 0, .g 4 false, .b 2 false 0 9, .g 6 false⟩),
    (0x94E098C80010D00009000009, .tcvt ⟨⟨false, 2⟩, ⟨false, true, 2⟩, 0, .b 1 false 0 16, .b 2 false 0 9, .g 9 false⟩),
    (0x9500FC00000A00000B000000, .twait ⟨⟨false, 3⟩, ⟨true, true, 3⟩, 0, .g 10 false, .g 11 false, .unused⟩)] : List (IWord × Instr)).all (fun x => decide (decode x.1 = .ok x.2) && decide (encode x.2 = some x.1) && x.2.wellFormed) = true := by decide +kernel

/-- Words of class 10, major opcode 6, laid out by hand (Tables 2.1, 2.2, 5.3 to 5.6). -/
theorem test_decode_memory6 : ([
    (0x9802C000000D20000E000000, .esend ⟨⟨true, 3⟩, ⟨false, false, 0⟩, 0, .g 13 false, .v 14 false, .unused⟩),
    (0x982164000010200011000012, .gnode ⟨⟨false, 5⟩, ⟨true, false, 1⟩, 0, .g 16 false, .v 17 false, .g 18 false⟩),
    (0x984198000013000000000015, .gseal ⟨⟨false, 6⟩, ⟨false, true, 2⟩, 0, .g 19 false, .unused, .g 21 false⟩)] : List (IWord × Instr)).all (fun x => decide (decode x.1 = .ok x.2) && decide (encode x.2 = some x.1) && x.2.wellFormed) = true := by decide +kernel

/-- Words of class 11, major opcode 0, laid out by hand (Tables 2.1, 2.2, 5.3 to 5.6). -/
theorem test_decode_control0 : ([
    (0xC001FC0000000000009FFFF2, .br ⟨⟨false, 7⟩, ⟨true, true, 3⟩, 0, .unused, .unused, .i 2097138⟩),
    (0xC023C0000000000002000000, .bri ⟨⟨true, 7⟩, ⟨false, false, 0⟩, 0, .unused, .g 2 false, .unused⟩),
    (0xC04064000004000000000006, .call ⟨⟨false, 1⟩, ⟨true, false, 1⟩, 0, .g 4 false, .unused, .g 6 false⟩),
    (0xC06098000000000008000000, .ret ⟨⟨false, 2⟩, ⟨false, true, 2⟩, 0, .unused, .g 8 false, .unused⟩),
    (0xC080FC00000A0000009FFFF2, .loop ⟨⟨false, 3⟩, ⟨true, true, 3⟩, 0, .g 10 false, .unused, .i 2097138⟩)] : List (IWord × Instr)).all (fun x => decide (decode x.1 = .ok x.2) && decide (encode x.2 = some x.1) && x.2.wellFormed) = true := by decide +kernel

/-- Words of class 11, major opcode 1, laid out by hand (Tables 2.1, 2.2, 5.3 to 5.6). -/
theorem test_decode_control1 : ([
    (0xC40F00000001000002000003, .send ⟨⟨true, 4⟩, ⟨false, false, 0⟩, 3, .g 1 false, .g 2 false, .g 3 false⟩),
    (0xC42D64000001800123000003, .sendnow ⟨⟨false, 5⟩, ⟨true, false, 1⟩, 3, .g 1 false, .i 291, .g 3 false⟩),
    (0xC44198000000000000000000, .endAct ⟨⟨false, 6⟩, ⟨false, true, 2⟩, 0, .unused, .unused, .unused⟩),
    (0xC461FC000016000017000018, .endw ⟨⟨false, 7⟩, ⟨true, true, 3⟩, 0, .g 22 false, .g 23 false, .g 24 false⟩),
    (0xC48240000000000002800307, .rread ⟨⟨true, 1⟩, ⟨false, false, 0⟩, 0, .unused, .g 2 false, .i 775⟩),
    (0xC4A064000000000005000006, .htset ⟨⟨false, 1⟩, ⟨true, false, 1⟩, 0, .unused, .g 5 false, .g 6 false⟩),
    (0xC4C098000000800807000000, .tagen ⟨⟨false, 2⟩, ⟨false, true, 2⟩, 0, .unused, .i 2055, .unused⟩),
    (0xC4E0FC00000A00000B000000, .tagpnd ⟨⟨false, 3⟩, ⟨true, true, 3⟩, 0, .g 10 false, .g 11 false, .unused⟩)] : List (IWord × Instr)).all (fun x => decide (decode x.1 = .ok x.2) && decide (encode x.2 = some x.1) && x.2.wellFormed) = true := by decide +kernel

/-- Words of class 11, major opcode 2, laid out by hand (Tables 2.1, 2.2, 5.3 to 5.6). -/
theorem test_decode_control2 : ([
    (0xC80340000000800E0700000F, .fork ⟨⟨true, 5⟩, ⟨false, false, 0⟩, 0, .unused, .i 3591, .g 15 false⟩),
    (0xC82164000000000011000000, .join ⟨⟨false, 5⟩, ⟨true, false, 1⟩, 0, .unused, .g 17 false, .unused⟩),
    (0xC84198000013801407000015, .qpost ⟨⟨false, 6⟩, ⟨false, true, 2⟩, 0, .g 19 false, .i 5127, .g 21 false⟩),
    (0xC861FC000000000017000018, .evset ⟨⟨false, 7⟩, ⟨true, true, 3⟩, 0, .unused, .g 23 false, .g 24 false⟩),
    (0xC88280000000800207000003, .evclr ⟨⟨true, 2⟩, ⟨false, false, 0⟩, 0, .unused, .i 519, .g 3 false⟩)] : List (IWord × Instr)).all (fun x => decide (decode x.1 = .ok x.2) && decide (encode x.2 = some x.1) && x.2.wellFormed) = true := by decide +kernel

/-- Words of class 11, major opcode 3, laid out by hand (Tables 2.1, 2.2, 5.3 to 5.6). -/
theorem test_decode_control3 : ([
    (0xCC0064000004000005000006, .trye ⟨⟨false, 1⟩, ⟨true, false, 1⟩, 0, .g 4 false, .g 5 false, .g 6 false⟩),
    (0xCC2098000000000000000000, .fail ⟨⟨false, 2⟩, ⟨false, true, 2⟩, 0, .unused, .unused, .unused⟩),
    (0xCC40FC00000000000B000000, .cut ⟨⟨false, 3⟩, ⟨true, true, 3⟩, 0, .unused, .g 11 false, .unused⟩),
    (0xCC638000000000000E000000, .trail ⟨⟨true, 6⟩, ⟨false, false, 0⟩, 0, .unused, .g 14 false, .unused⟩)] : List (IWord × Instr)).all (fun x => decide (decode x.1 = .ok x.2) && decide (encode x.2 = some x.1) && x.2.wellFormed) = true := by decide +kernel

/-- Words of class 11, major opcode 4, laid out by hand (Tables 2.1, 2.2, 5.3 to 5.6). -/
theorem test_decode_control4 : ([
    (0xD00164000010000011000012, .spec ⟨⟨false, 5⟩, ⟨true, false, 1⟩, 0, .g 16 false, .g 17 false, .g 18 false⟩),
    (0xD02198000013000014000015, .resolve ⟨⟨false, 6⟩, ⟨false, true, 2⟩, 0, .g 19 false, .g 20 false, .g 21 false⟩)] : List (IWord × Instr)).all (fun x => decide (decode x.1 = .ok x.2) && decide (encode x.2 = some x.1) && x.2.wellFormed) = true := by decide +kernel

/-- Words of class 11, major opcode 5, laid out by hand (Tables 2.1, 2.2, 5.3 to 5.6). -/
theorem test_decode_control5 : ([
    (0xD401FC000000000000000000, .nop ⟨⟨false, 7⟩, ⟨true, true, 3⟩, 0, .unused, .unused, .unused⟩),
    (0xD422C0000000800207000000, .trap ⟨⟨true, 3⟩, ⟨false, false, 0⟩, 0, .unused, .i 519, .unused⟩),
    (0xD44064000000000000000000, .tret ⟨⟨false, 1⟩, ⟨true, false, 1⟩, 0, .unused, .unused, .unused⟩),
    (0xD46098000000800807000000, .tabort ⟨⟨false, 2⟩, ⟨false, true, 2⟩, 0, .unused, .i 2055, .unused⟩),
    (0xD480FC000000000000000000, .yieldAct ⟨⟨false, 3⟩, ⟨true, true, 3⟩, 0, .unused, .unused, .unused⟩),
    (0xD4A3C0000000800E07000000, .brk ⟨⟨true, 7⟩, ⟨false, false, 0⟩, 0, .unused, .i 3591, .unused⟩)] : List (IWord × Instr)).all (fun x => decide (decode x.1 = .ok x.2) && decide (encode x.2 = some x.1) && x.2.wellFormed) = true := by decide +kernel

/-! ## A small state: core 0, thread set 0 of context 1 of partition 1 -/

/-- An activation with room for two choice points and 64 trail entries. -/
def act0 : Act := { uid := 5, msg := { ctx := 1 }, choiceBase := 0x2C000, choiceEnd := 0x2C300, trailBase := 0x2E000, trailEnd := 0x2E400 }
/-- A thread set at address 0x100 with a trap handler at 0x400 and the registers `gs`. -/
def tset0 (gs : List (Nat × Word)) : TSet :=
  { act := some act0, pc := 0x100, tvec := 0x400, cstop := 0x2C000, trtop := 0x2E000, g := gs, wdogEnd := 100 }
/-- Core 0 of context 1, whose lookups admit every access of owner 0 below 64 KiB. -/
def core0 : Core := { Core.reset 0 with ctx := some 1, plb := [⟨0, 1, 0, 2 ^ 20, 0, 0x1F, false⟩], tlb := [⟨0, 65536, {}⟩] }
/-- The state with that core and one thread set. -/
def on (t : TSet) : State :=
  { tsets := [(0, t)], cores := [(0, core0)], contexts := [(1, some { partition := 1, owners := [0] })],
    partitions := [(1, { made := true, clusters := [0] })] }
/-- The same with registers only. -/
def regs (gs : List (Nat × Word)) : State := on (tset0 gs)
/-- The state with an instruction's effects about to take place. -/
def beg (s : State) : State := begin s

/-- Whether an access passes at once. -/
def accessB (s : State) (ea : Word) (n : Nat) (need : BitVec 5) (x : Xlat) : Bool :=
  decide (ea.toNat % n = 0) && decide (ptrGen ea ≠ 127) &&
  s.myCore.plb.any (fun e => e.covers s.me.owner (ptrAddr ea) n && e.passes (ptrGen ea) need false) &&
  (s.myCore.tlb.find? (fun e => e.holds (ptrAddr ea))).any (fun e => decide (x = e.at_ (ptrAddr ea))) && decide (needPath s 0 = .ok ())

theorem access_of (s : State) (ea : Word) (n : Nat) (need : BitVec 5) (x : Xlat) (h : accessB s ea n need x = true) :
    accessOk s ea n need x := by
  simp only [accessB, Bool.and_eq_true, List.any_eq_true, Option.any_eq_true, decide_eq_true_eq] at h
  obtain ⟨⟨⟨⟨h1, h2⟩, e, he, hc, hp⟩, y, hy, hx⟩, h5⟩ := h
  exact ⟨h1, h2, ⟨e, he, hc, hp⟩, ⟨y, hy, hx⟩, h5⟩

/-! ## Witnesses: a state and operands that meet what each statement assumes -/

/-- Three g registers. -/
def f3 (md : BitVec 3) : Form := frm md (gr 1) (gr 2) (gr 3)
/-- A state that holds `a` in g2, `b` in g3 and `d` in g1. -/
def abd (a b d : Word) : State := regs [(1, d), (2, a), (3, b)]
/-- The same as a system context. -/
def sys (s : State) : State := { s with contexts := [(1, some { partition := 1, owners := [0], sys := true })] }
/-- The same with every feature of its partition open and its cluster's counters held. -/
def opened (s : State) : State :=
  { s with partitions := [(1, { made := true, clusters := [0], opened := 0x3F })], clusters := [(0, { holder := some 1 })] }

theorem witness_IntegerArithmetic : formReady (abd 5 7 9) (f3 0) none .write = true ∧ formReady (abd 5 7 9) (f3 1) none .both = true := by
  decide +kernel
theorem witness_Division : formReady (abd 5 0 0) (f3 0) none .write = true ∧ wideU 0 ((abd 5 0 0).me.value (gr 3)) = 0 ∧
    formReady (abd 5 7 0) (f3 1) none .write = true ∧ wideU 1 ((abd 5 7 0).me.value (gr 3)) ≠ 0 := by decide +kernel
theorem witness_PredicatesAndMoves : (∀ md < 6, formReady (abd 5 7 9) (frm (BitVec.ofNat 3 md) (.p 1) (gr 2) (gr 3)) none .none = true) ∧
    formReady (abd 5 7 9) (frm 0 (gr 1) (.p 1) (gr 3)) none .both = true ∧ formReady (abd 5 7 9) (frm 4 (gr 1) (gr 2) (gr 3)) none .write = true ∧
    formReady (abd 5 7 9) { frm 0 (gr 1) (gr 2) (gr 3) with oa := .unused, ob := .unused } none .both = true := by decide +kernel
theorem witness_FloatScalar : formReady (abd 5 7 9) (f3 1) none .both = true ∧ (abd 5 7 9).me.fpctl.extractLsb' 0 5 = 0 ∧
    formReady (on { tset0 [] with fpctl := 3 }) (f3 0) none .write = true ∧ (on { tset0 [] with fpctl := 3 }).me.fpctl.extractLsb' 0 5 ≠ 0 ∧
    (∀ md < 8, formReady (abd 5 7 9) (frm (BitVec.ofNat 3 md) (.p 1) (gr 2) (gr 3)) none .none = true ∧
      formReady (abd 5 7 9) (frm (BitVec.ofNat 3 md) (gr 1) (gr 2) .unused) none .write = true) := by decide +kernel
theorem witness_FloatScalar_rounding : ∀ p ∈ [fp64, fp32, fp16, bf16, e4m3, e5m2], (0 : Nat) < 2 ^ p.width ∧ (decodeF p 0).isNan = false := by decide +kernel
theorem witness_SpecialRegisters :
    (∀ n ∈ [0x001, 0x028, 0x02F], formReady (abd 5 7 9) (frm 0 (gr 1) (.s n) .unused) none .write = true) ∧
    formReady (sys (abd 5 7 9)) (frm 0 (gr 1) (.s 0x802) .unused) none .write = true ∧ (sys (abd 5 7 9)).isSystem (sys (abd 5 7 9)).myCtx = true ∧
    (abd 5 7 9).isSystem (abd 5 7 9).myCtx = false ∧ formReady (abd 5 7 9) (frm 0 (gr 1) (.s 0x800) .unused) none .write = true ∧
    formReady (on { tset0 [] with tlvl := 1 }) (frm 0 (gr 1) (.s 0x06D) .unused) none .write = true ∧
    regsClear (on { tset0 [] with tlvl := 1 }) (tbgSrc (on { tset0 [] with tlvl := 1 }).me (.s 0x06D)) [] = true ∧
    (∀ n ∈ [0x020, 0x025, 0x030, 0x031, 0x044, 0x045, 0x062, 0x069, 0x061, 0x040, 0x041], isTbg n = false ∧
      formReady (abd 8 7 9) (frm 0 (.s (BitVec.ofNat 12 n)) (gr 2) .unused) none .none = true) ∧
    (8 : Word) &&& 7 = 0 ∧ (8 : Word).toNat / 65536 % 4 ≠ 3 ∧ (abd 8 7 9).me.sflen = 0 ∧
    formReady (opened (abd 16 7 9)) (frm 0 (.s 0x110) (gr 2) .unused) none .none = true ∧
    obsOpen (opened (abd 16 7 9)) 0 (opened (abd 16 7 9)).myPartition 0x110 = true := by decide +kernel
theorem witness_SpecialBanks :
    (∀ k < 4, srOf (.s (BitVec.ofNat 12 (0x06A + k))) = 0x06A + k) ∧
    formReady (abd 5 7 9) (frm 0 (.s 0x06A) (gr 2) .unused) none .none = true ∧ (abd 5 7 9).me.tlvl = 0 ∧
    formReady (on { tset0 [] with tlvl := 2 }) (frm 0 (.s 0x06D) (gr 2) .unused) none .none = true ∧
    (on { tset0 [] with tlvl := 2 }).me.isBusy 0 false 35 = false ∧ (on { tset0 [] with tlvl := 2 }).me.gLock.getLsbD 35 = false ∧
    (abd 0 7 9).context (abd 0 7 9).myCtx = some { partition := 1, owners := [0] } ∧ ((abd 0 7 9).me.value (gr 2)).setWidth 20 ∈ [(0 : BitVec 20)] ∧
    ((abd 5 7 9).me.value (gr 2)).setWidth 20 ∉ [(0 : BitVec 20)] ∧ floatPending (abd 5 7 9) = false ∧
    formReady (opened (abd 5 7 9)) (frm 0 (.s 0x10F) (gr 2) .unused) none .none = true ∧
    obsOpen (opened (abd 5 7 9)) 0 (opened (abd 5 7 9)).myPartition 0x10F = true ∧ obsOpen (opened (abd 5 7 9)) 0 1 0x103 = true ∧
    formReady (sys (abd 2300 7 9)) (frm 0 (.s 0x802) (gr 2) .unused) none .none = true ∧ formReady (sys (abd 2300 7 9)) (frm 0 (.s 0x800) (gr 2) .unused) none .none = true ∧
    temperedOf (abd 5 7 9) 0 ((abd 5 7 9).me.act.map (·.uid)) = [] ∧
    formReady (abd 5 7 9) (frm 0 (gr 1) (.s 0x032) .unused) none .write = true := by decide +kernel
/-- A tempered command of the activation whose status is still open. -/
theorem witness_SpecialBanks_tempered : let s := { abd 5 7 9 with cores := [(0, { core0 with anvil :=
      [{ id := 9, op := .mma, temper := true, act := some 5, tmpol := (1 : Word) <<< 42 }] })] }
    formReady s (frm 0 (gr 1) (.s 0x033) .unused) none .write = true ∧ temperedOf s s.curCore (s.me.act.map (·.uid)) ≠ [] := by decide +kernel

/-- Three v registers. -/
def v3 (md : BitVec 3) : Form := frm md (vr 1) (vr 2) (vr 3)
/-- A form with cursors. -/
def c3 : Form := frm 0 (.c 1 true 16) (.c 2 false 0) (vr 3)
theorem lanes_of (f : Form) (s : State) (b : Bool) (h : formReady s f (some (laneCount (tyOf f))) (if b then .both else .write) = true)
    (h2 : checkCursors (begin s) f b = .ok ()) : lanesReady f s b := ⟨h, h2⟩
theorem witness_Lanes : lanesReady (v3 0) (abd 0 0 0) false ∧ lanesReady (v3 2) (abd 0 0 0) true ∧ lanesReady c3 (abd 0 0 0) false :=
  ⟨lanes_of _ _ _ (by decide +kernel) (by decide +kernel), lanes_of _ _ _ (by decide +kernel) (by decide +kernel),
    lanes_of _ _ _ (by decide +kernel) (by decide +kernel)⟩
/-- The write of a lane result succeeds, to a v register and to a cursor. -/
theorem witness_Lanes_written : (match writeLanes (begin (abd 0 0 0)) 32 [true, false] (vr 1) [1, 2] with | .ok _ => true | .error _ => false) = true ∧
    (match writeLanes (begin (abd 0 0 0)) 32 (List.replicate 16 true) (.c 1 true 16) (List.replicate 16 7) with
      | .ok s => s.me.storeq.length == 1 | .error _ => false) = true ∧
    (begin (abd 0 0 0)).mySpec = none ∧ (begin (abd 0 0 0)).me.choiceOpen = false := by decide +kernel
theorem witness_LaneComparesAndMoves : formReady (abd 0 0 0) (frm 0 (.p 1) (vr 2) (vr 3)) (some (laneCount 0)) .none = true ∧
    checkCursors (begin (abd 0 0 0)) (frm 0 (.p 1) (vr 2) (vr 3)) false = .ok () ∧ tyOf (frm 0 (.p 1) (vr 2) (vr 3)) = 0 := by decide +kernel
theorem witness_LaneReductionsAndConversions :
    lanesReady (frm 3 (gr 1) (vr 2) .unused) (abd 0 0 0) false ∧ tyOf (frm 3 (gr 1) (vr 2) .unused) = 3 ∧ lanesReady (v3 1) (abd 0 0 0) false ∧
    cvtRefused 0 0 = false ∧ laneCount 0 ≤ laneCount 0 ∧ cvtRefused 1 0 = false ∧ laneCount 0 < laneCount 1 ∧
    qRefused 0 (qword 0) false = false ∧ qRefused 0 (qword 0) true = false ∧ qRefused 0 (qword 0x300) true = true :=
  ⟨lanes_of _ _ _ (by decide +kernel) (by decide +kernel), by decide +kernel, lanes_of _ _ _ (by decide +kernel) (by decide +kernel),
    by decide +kernel⟩

/-- A cursor in c1 and c2 at scratchpad address 64, and a remote one in c4. -/
def curs0 : State := on { tset0 [] with c := [(1, 64), (2, 128), (4, 0x1100040)] }
theorem witness_LaneMemory :
    (∀ o ∈ [Operand.b 0 false 0 0xFFF, .b 1 false 0 0x7FF, .b 2 false 0 15, .b 3 false 0 0xBBF, .c 1 true 16],
      formReady curs0 (frm 0 (vr 1) o (gr 3)) (some (laneCount 0)) .write = true) ∧ needPath (begin curs0) 0 = .ok () ∧
    anvilBefore (begin curs0) (AnvilCmd.landsOn false 4095) = false ∧ anvilBefore (begin curs0) (AnvilCmd.landsOn true 2047) = false ∧
    anvilBefore (begin curs0) (fun a => a.tile == 15) = false ∧ 64 * (0xBBF + 0) + 64 ≤ 0x2F000 ∧
    needScratch (begin curs0) ⟨0, false, 64 * 0xBBF⟩ [0xBBF] = .ok () ∧
    (begin curs0).scratchBad 0 (lineAddrs (begin curs0) (frm 0 (vr 1) (.b 3 false 0 0xBBF) (gr 3)) ⟨0, false, 64 * 0xBBF⟩) = false ∧
    cursorAligned (begin curs0) (.c 1 true 16) = .ok () ∧ cursorInRange (begin curs0) (.c 1 true 16) = .ok () ∧ (cursorAddr (begin curs0) 1).remote = false ∧
    needScratch (begin curs0) (cursorAddr (begin curs0) 1) [1] = .ok () ∧ needScratch (begin curs0) (cursorAddr (begin curs0) 4) [1] = .ok () ∧
    cursorAligned (begin curs0) (.c 4 false 0) = .ok () ∧ cursorInRange (begin curs0) (.c 4 false 0) = .ok () ∧ (cursorAddr (begin curs0) 4).remote = true ∧
    needCredit (begin curs0) = .ok () := by decide +kernel
theorem witness_LaneMemory_strided : let u := begin curs0
    let act := List.replicate 16 true
    checkLanes (u.me.readC 1) 32 act (fun i => ((64 + (i : Int) * 4) % 2 ^ 18).toNat) = .ok () ∧
    needScratch u (cursorAddr u 1) ((laneLoads 32 act (fun i => ((64 + (i : Int) * 4) % 2 ^ 18).toNat)).map (fun p => p.2 / 64)) = .ok () ∧
    checkLanes (u.me.readC 4) 32 act (fun i => ((64 + (i : Int) * 4) % 2 ^ 18).toNat) = .ok () ∧
    formReady curs0 (frm 0 (.c 1 false 0) (vr 2) (gr 3)) (some (laneCount 0)) .read = true ∧
    checkCursors u (frm 0 (.c 1 false 0) (vr 2) .unused) false = .ok () ∧ u.mySpec = none ∧ anvilBefore u (fun c => c.op != .cclr) = false ∧
    (match scratchStore u (cursorAddr u 1) (laneBytes 32 act 64 0) none with | .ok _ => true | .error _ => false) = true := by decide +kernel

/-- Addresses 0x40 in g2 and g1, 8 in g3. -/
def mem0 : State := abd 0x40 8 0x40
theorem witness_GlobalAccesses :
    (formReady mem0 (frm 3 (gr 1) (gr 2) (gr 3)) none .write = true ∧ accessOk (begin mem0) 0x48 8 rightR { pa := 0x48 } ∧
      needCredit (begin mem0) = .ok ()) ∧
    (formReady mem0 (frm 3 (gr 1) (gr 2) (gr 3)) none .read = true ∧ accessOk (begin mem0) 0x48 8 rightW { pa := 0x48 } ∧
      (begin mem0).mySpec = none ∧ mem0.me.storeq.length < 16) ∧
    (formReady mem0 (frm 0 (vr 1) (gr 2) (.i 0)) (some 16) .write = true ∧ accessOk (begin mem0) 0x40 64 rightR { pa := 0x40 }) ∧
    (formReady mem0 (frm 0 (gr 1) (vr 2) (.i 0)) (some 16) .read = true ∧ accessOk (begin mem0) 0x40 64 rightW { pa := 0x40 }) ∧
    predsReady mem0 (frm 0 .unused (gr 2) (gr 3)) = true :=
  ⟨⟨by decide +kernel, access_of _ _ _ _ _ (by decide +kernel), by decide +kernel⟩,
    ⟨by decide +kernel, access_of _ _ _ _ _ (by decide +kernel), by decide +kernel, by decide +kernel⟩,
    ⟨by decide +kernel, access_of _ _ _ _ _ (by decide +kernel)⟩, ⟨by decide +kernel, access_of _ _ _ _ _ (by decide +kernel)⟩, by decide +kernel⟩
/-- A page table whose root leads to one page of 1 GiB at address 0, and a rights entry over its first 64 KiB. -/
def paged : State :=
  { mem0 with
    pgroot := 0x10000
    home := [(0x10000, 1), (0x10002, 2), (0x20000, 1), (0x20002, 3), (0x30000, 5), (0x30001, 0x40)]
    owners := [(0, some { capacity := 4, entries := [⟨0, 1024, 0, 0x1F, 1, 0, 0, true, false, false⟩] })] }
theorem witness_GlobalAccesses_lookups : missCovers mem0 0 0 64 64 0 true = [] ∧ missXlat mem0 0 64 = none ∧ missCovers paged 0 0 64 64 0 true ≠ [] ∧
    missXlat paged 0 64 = some ⟨0, 2 ^ 30, { pa := 0, pte := 0x30000 }⟩ := by
  decide +kernel
theorem witness_NotReady_misaligned : let s := abd 0x41 8 0x41
    formReady s (frm 3 (gr 1) (gr 2) (gr 3)) none .both = true ∧ ((0x41 : Word) + 8).toNat % 8 ≠ 0 ∧ (0x41 : Word).toNat % 4 ≠ 0 ∧
    formReady s (frm 1 (gr 1) (gr 2) (gr 3)) none .read = true ∧ ((0x41 : Word) + 8).toNat % 2 ≠ 0 ∧
    formReady s (frm 0 (vr 1) (gr 2) (gr 3)) (some 16) .write = true ∧ ((0x41 : Word) + 8).toNat % 64 ≠ 0 ∧
    formReady s (frm 0 (gr 1) (vr 2) (gr 3)) (some 16) .read = true ∧ formReady s (frm 0 .unused (gr 2) (gr 3)) none .none = true := by
  decide +kernel
theorem witness_Atomics : accessOk (begin mem0) 0x40 8 rightA { pa := 0x40 } ∧ accessOk (begin mem0) 0x40 4 rightA { pa := 0x40 } ∧
    (begin mem0).mySpec = none ∧ ({ pa := 0x40 } : Xlat).wb = false ∧ formReady mem0 (f3 1) none .write = true ∧ formReady mem0 (f3 5) none .both = true ∧
    regOf (gr 1) ≠ 0 ∧ regOf (gr 0) = 0 ∧ needCredit (begin mem0) = .ok () :=
  ⟨access_of _ _ _ _ _ (by decide +kernel), access_of _ _ _ _ _ (by decide +kernel), by decide +kernel⟩
/-- g2 + 8 is local address 0x48, or remote with bit 24. -/
theorem witness_ScratchAccesses : let at_ := fun (ea : Word) => saddrOf 0 (ea.setWidth 25)
    formReady mem0 (frm 3 (gr 1) (gr 2) (gr 3)) none .write = true ∧ (0x48 : Word).toNat % 8 = 0 ∧ scratchRefused (at_ 0x48).addr 8 = false ∧
    (at_ 0x48).remote = false ∧ needScratch (begin mem0) (at_ 0x48) [1] = .ok () ∧
    (begin mem0).scratchBad 0 ((List.range 8).map (0x48 + ·)) = false ∧
    (at_ 0x1000048).remote = true ∧ scratchRefused (at_ 0x1000048).addr 8 = false ∧ needScratch (begin mem0) (at_ 0x1000048) [1] = .ok () ∧
    formReady (abd 0x1000040 8 0) (frm 3 (gr 1) (gr 2) (gr 3)) none .write = true ∧ needCredit (begin (abd 0x1000040 8 0)) = .ok () ∧
    (begin mem0).mySpec = none ∧ mem0.me.storeq = [] ∧ mem0.lockWaits = [] ∧ (∀ l ∈ mem0.locks, l.at_ ≠ lockBit (at_ 0x48)) ∧
    formReady mem0 (f3 3) none .read = true ∧ needPath (begin mem0) 0 = .ok () ∧ (begin mem0).thefts = [] ∧ mem0.me.choiceOpen = false ∧
    formReady mem0 (frm 0 .unused (gr 2) (gr 3)) none .none = true := by decide +kernel
/-- One result in flight to g1. -/
def flying (k : PendKind) : State := on { tset0 [] with pend := [{ seq := 3, reg := 1, kind := k }] }
theorem witness_ResultArrives : (∀ k ∈ [PendKind.value 7, .float 7 1, .sload 0 64 8 true, .atomic 0 1 8 64 { pa := 64 } 0 0 (some 5),
      .load 64 { pa := 64 } 8 false []], ∃ p, ((flying k).tset 0 0).pend[0]? = some p ∧ p.isV = false ∧ p.posted = false ∧ p.dropped = false ∧ p.bad = false ∧
        p.reg ≠ 0 ∧ p.kind = k) ∧
    (flying (.sload 0 64 8 true)).scratchBad 0 ((List.range 8).map (64 + ·)) = false ∧
    loadBlocked ((flying (.load 64 { pa := 64 } 8 false [])).tset 0 0) { seq := 3, reg := 1, kind := .load 64 { pa := 64 } 8 false [] } = false ∧
    (loadLine (flying (.load 64 { pa := 64 } 8 false [])) 0 (ptrAddr 64) { pa := 64 } true).2.1 = 0 := by
  refine ⟨fun k _ => ⟨{ seq := 3, reg := 1, kind := k }, rfl, rfl, rfl, rfl, rfl, Nat.one_ne_zero, rfl⟩, ?_⟩
  decide +kernel
/-- One result in flight to v1, a global line or lanes of a scratchpad. -/
def flyingV (k : PendKind) : State := on { tset0 [] with pend := [{ seq := 3, isV := true, reg := 1, kind := k }] }
theorem witness_ResultArrives_lanes : (∀ k ∈ [PendKind.vload 64 { pa := 64 } [0, 63] [(0, 7)], .svload 0 [(0, 64), (1, 65)]],
      ∃ p, ((flyingV k).tset 0 0).pend[0]? = some p ∧ p.isV = true ∧ p.posted = false ∧ p.dropped = false ∧ p.bad = false ∧ p.reg < 32 ∧ p.kind = k) ∧
    (let s := flyingV (.vload 64 { pa := 64 } [0, 63] [(0, 7)]);
      loadBlocked (s.tset 0 0) { seq := 3, isV := true, reg := 1, kind := .vload 64 { pa := 64 } [0, 63] [(0, 7)] } = false ∧
      (loadLine s 0 (ptrAddr 64) { pa := 64 } true).2.1 = 0) ∧
    (flyingV (.svload 0 [(0, 64), (1, 65)])).scratchBad 0 ([((0 : Nat), (64 : Nat)), (1, 65)].map (·.2)) = false := by
  refine ⟨fun k _ => ⟨{ seq := 3, isV := true, reg := 1, kind := k }, rfl, rfl, rfl, rfl, rfl, (show (1 : Nat) < 32 by decide), rfl⟩, ?_⟩
  decide +kernel
/-- One queued write, and the line of a global one in the cluster cache. -/
def storing (w : QWrite) : State := { on { tset0 [] with storeq := [⟨3, w, 0⟩] } with
  clusters := [(0, { lines := [{ va := 64, x := { pa := 64 } }] })] }
theorem witness_StoresLand : let s := storing (.scratch 0 [(64, 7), (65, 8)] false none)
    (∀ b ∈ [((64 : Nat), (7 : Byte)), (65, 8)], b.1 < 0x30000) ∧ ([((64 : Nat), (7 : Byte)), (65, 8)].map (·.1)).Nodup ∧
    (s.tset 0 0).pend = [] ∧ rreadPending s 0 0 3 = false ∧ olderCoreWrite s 0 0 ⟨3, .scratch 0 [(64, 7), (65, 8)] false none, 0⟩ = false ∧ s.owed = [] ∧
    (s.tset 0 0).unacked = [] ∧ portTaken s 0 [(64, 7), (65, 8)] = false := by decide +kernel
theorem witness_StoresLand_global : let s := storing (.global 64 { pa := 64 } [(0, 7), (63, 8)])
    (∀ b ∈ [((0 : Nat), (7 : Byte)), (63, 8)], ptrAddr 64 % 64 + b.1 < 64) ∧ rreadPending s 0 0 3 = false ∧
    heldWord s 0 (ptrAddr 64) [(0, 7), (63, 8)] = false ∧ needsLine s 0 (ptrAddr 64) { pa := 64 } [(0, 7), (63, 8)] = false ∧ s.owed = [] ∧ (currentXlat s 0 (ptrAddr 64) { pa := 64 }).dirty = true ∧
    (s.cluster (cacheOf 0)).find (ptrAddr 64) = some { va := 64, x := { pa := 64 } } := by decide +kernel
theorem witness_Atomics_performed : let s := flying (.atomic 0 1 8 64 { pa := 64 } 5 0 none)
    let p : Pend := { seq := 3, reg := 1, kind := .atomic 0 1 8 64 { pa := 64 } 5 0 none }
    (s.tset 0 0).pend[0]? = some p ∧ earlierAtomic s (s.tset 0 0) p = false ∧ earlierStore (s.tset 0 0) 3 (ptrAddr 64) = false ∧
    heldWord s 0 (ptrAddr 64) [(0, 0)] = false ∧ keyStands s { pa := 64 } = true ∧
    (currentXlat s 0 (ptrAddr 64) { pa := 64 }).dirty = true ∧ s.eccFails 64 = false ∧ s.owed = [] ∧ (s.cluster (cacheOf 0)).find (ptrAddr 64) = none := by decide +kernel
theorem witness_LocksWalksCaches :
    (let s := { mem0 with lockWaits := [⟨5, 0, 0⟩] }; s.lockWaits = ⟨5, 0, 0⟩ :: [] ∧ ∀ l ∈ s.locks, l.at_ ≠ 5) ∧
    rightsDecision (missCovers paged 0 0 64 8 rightR false) 0 0 64 8 rightR false = none ∧ (missCovers paged 0 0 64 8 rightR false).length ≤ 64 ∧
    (rightsDecision (missCovers mem0 0 0 64 8 rightR false) 0 0 64 8 rightR false).isSome = true ∧ missXlat mem0 0 64 = none ∧
    (let s := on { tset0 [] with walk := .rights 0 64 8 rightR false }; (s.tset 0 0).walk = .rights 0 64 8 rightR false) ∧
    (let s := on { tset0 [] with walk := .page 64 }; (s.tset 0 0).walk = .page 64) := by decide +kernel
/-- A full set of clean lines. -/
def fullSet : State := { mem0 with clusters := [(0, { lines := (List.range 16).map (fun k => { va := k * 131072, way := k, x := { pa := k * 131072 } }) })] }
theorem witness_LocksWalksCaches_evict : let inSet := (fullSet.cluster 0).lines.filter (fun l => l.va / 64 % 2048 == 0)
    16 ≤ inSet.length ∧ ∃ l ∈ inSet, inSet.find? (fun l => l.way == plruVictim (mget 0 (fullSet.cluster 0).plru 0)) = some l ∧
      (fullSet.cluster 0).find l.va = some l ∧ l.dw = 0 ∧ l.wrote = [] := by decide +kernel
/-- A held word of two cores whose page is no longer under write-block, and its line in the cluster cache. -/
theorem witness_LocksWalksCaches_held :
    let h : HeldWrite := { va := 64, stores := [{ core := 0, owner := 0, seq := 3, bytes := [(0, 7)] }, { core := 1, owner := 0, seq := 4, bytes := [(1, 8)] }] }
    let s := { paged with clusters := [(0, { hold := [h], lines := [{ va := 64, x := { pa := 64 } }] })] }
    (s.cluster 0).hold = [h] ∧ (translate s h.va).any (fun e => !e.x.wb && e.x.dirty && !needsLine s 0 h.va (e.at_ h.va) h.bytes) = true ∧
    (∀ q ∈ h.stores, cacheOf q.core = 0 ∧ s.owed = []) ∧ (∀ b ∈ h.bytes, h.va % 64 + b.1 < 64) ∧
    (paged.core 0).plb.Nodup := by decide +kernel
theorem witness_FencesPublish : formReady mem0 (frm 2 .unused .unused .unused) none .none = true ∧ linesOk mem0 (cacheOf 0) ∧ quiet mem0 ∧
    mem0.mySpec = none ∧ (mem0.cluster (cacheOf 0)).hold = [] ∧ mem0.peerStores = [] ∧ mem0.me.wait = .none ∧ mem0.myCore.xfences = [] ∧
    mem0.myCore.anvil = [] ∧ mem0.myCore.inject = [] ∧ (mem0.cluster (cacheOf 0)).stream = [] ∧ mem0.leases = [] ∧
    (∀ k < 4, (mem0.tset 0 k).storeq = [] ∧ (mem0.tset 0 k).pend = [] ∧ (mem0.tset 0 k).unacked = []) ∧
    ((mem0.me.value (gr 2)).setWidth 6 : BitVec 6) = 0 ∧ ((mem0.me.value (gr 3)).setWidth 6 : BitVec 6) ≠ 0 ∧
    ((mem0.me.value (.i 1)).setWidth 6 : BitVec 6) ≠ 0 :=
  ⟨by decide +kernel, ⟨by decide +kernel, by decide +kernel⟩, ⟨rfl, rfl, rfl, rfl⟩, by decide +kernel⟩
/-- A dirty line of core 0. -/
def dirtyLine : CacheLine := { va := 64, x := { pa := 64 }, dw := 0x81, dc := 1, data := 7 }
theorem witness_FencesPublish_line : let s := { mem0 with clusters := [(0, { lines := [dirtyLine] })] }
    linesOk s (cacheOf 0) ∧ dirtyLine ∈ (s.cluster (cacheOf 0)).lines ∧ dirtyLine.dc.getLsbD (dcBit 0) = true ∧ dirtyLine.x.tier = 0 ∧ dirtyLine.bad = 0 ∧ dirtyLine.hole = 0 ∧
    (∀ m ∈ (s.cluster (cacheOf 0)).lines, m.x.pa % 64 = 0 ∧ (m.va ≠ dirtyLine.va → m.x.pa ≠ dirtyLine.x.pa)) ∧
    dirtyLine.dw.getLsbD (63 / 8) = true ∧ dirtyLine.dw.getLsbD (0 / 8) = true :=
  ⟨⟨by decide +kernel, by decide +kernel⟩, by decide +kernel⟩

/-- A sync object at 0x40 in g2, a range at 0x80 of 64 bytes in g3 and g1. -/
def objs : State := abd 0x40 0x80 64
theorem witness_SyncAndGrants :
    accessOk (begin objs) 0x40 16 rightA { pa := 0x40 } ∧ objs.mySpec = none ∧ formReady objs (f3 1) none .none = true ∧
    (on { tset0 [] with wait := .acq 0x40 true }).me.wait = .acq 0x40 true ∧ quiet objs ∧
    boundUnpublished (begin objs) 0 1 0x40 = false ∧ boundUnpublished (publishBound (begin objs) 0 1 0x40) 0 1 0x40 = false ∧ objs.me.wait = .none ∧ objs.me.holdCount < 8 ∧
    objs.me.holds.find? (fun h => h.pa == 0x40) = none ∧
    (on { tset0 [] with holds := [⟨0x40, 0x40, true, 1⟩] }).me.holds.find? (fun h => h.pa == 0x40) = some ⟨0x40, 0x40, true, 1⟩ ∧
    8 ≤ (on { tset0 [] with holds := (List.range 8).map (fun k => ⟨0x40 * k, 0x40 * k, false, 1⟩) }).me.holdCount ∧
    formReady objs (f3 0) none .both = true ∧ (0x80 : Word).toNat % 64 = 0 ∧ checkRights (begin objs) 0x80 64 rightR false = .ok () ∧
    (checkXlat (begin objs) 0x80 = .ok { pa := 0x80 }) ∧ needCredit (begin objs) = .ok () ∧ freeTag [] = some 0 ∧
    objs.context objs.myCtx = some { partition := 1, owners := [0] } ∧ objExc objs 0x40 = false ∧ objShr objs 0x40 = 0 ∧
    objs.binding objs.myCtx 0x40 = none ∧ ({ pa := 0x40 } : Xlat).wb = false :=
  ⟨access_of _ _ _ _ _ (by decide +kernel), by decide +kernel, by decide +kernel, by decide +kernel, ⟨rfl, rfl, rfl, rfl⟩, by decide +kernel⟩
/-- A context whose object at 0x40 is bound to `rs`. -/
def bound (rs : List (Nat × Nat)) : State :=
  { objs with contexts := [(1, some { partition := 1, owners := [0], bindings := [⟨0x40, 3, rs⟩] })] }
theorem witness_SyncAndGrants_bound :
    (∀ n ∈ [1, 4], (((bound (List.replicate n (0x1000, 64))).context 1).map (·.bindings)).getD [] = [⟨0x40, 3, List.replicate n (0x1000, 64)⟩]) ∧
    (∃ b ∈ [Binding.mk 0x40 3 [(0x80, 64)]], ∃ r ∈ b.ranges, r.1 < ptrAddr 0x80 + 64 ∧ ptrAddr 0x80 < r.1 + r.2) ∧
    (∀ b ∈ [Binding.mk 0x40 3 [(0xC0, 64)]], ∀ r ∈ b.ranges, r.1 + r.2 ≤ ptrAddr 0x80 ∨ ptrAddr 0x80 + 64 ≤ r.1) ∧
    (bound [(0xC0, 64)]).binding 1 0x40 = some ⟨0x40, 3, [(0xC0, 64)]⟩ := by decide +kernel
/-- A context that has used every binding tag. -/
theorem witness_SyncAndGrants_full : ∃ bs, freeTag bs = none ∧ bs.find? (fun b => b.obj == 5000) = none := by
  refine ⟨(List.range 4096).map (fun k => ⟨k, BitVec.ofNat 12 k, []⟩), ?_, ?_⟩
  · simp only [freeTag, Config.bindingTags, Option.map_eq_none_iff, List.find?_eq_none, List.mem_range]
    intro k hk
    simp only [List.any_map, Bool.not_eq_true', Bool.not_eq_false, List.any_eq_true, List.mem_range]
    exact ⟨k, hk, by simp [Nat.mod_eq_of_lt hk]⟩
  · simp only [List.find?_eq_none, List.mem_map, List.mem_range]
    rintro b ⟨k, hk, rfl⟩
    simp; omega
/-- The page of the object stands in the L1 TLB of its core. -/
theorem witness_SyncAndGrants_here (as : List AcqWait) : objectHere { objs with acqs := as } 0 0x40 0x40 { pa := 0x40 } :=
  ⟨rfl, rfl, rfl, rfl, by rfl, ⟨0, 65536, {}⟩, by rfl, by rfl⟩
theorem witness_SyncAndGrants_grant : ∀ sh ∈ [true, false], let s := { objs with acqs := [⟨0x40, 0x40, 0, 1, sh⟩] }
    s.acqs.filter (fun a => a.pa == 0x40) = ⟨0x40, 0x40, 0, 1, sh⟩ :: [] ∧ objExc s 0x40 = false ∧ objShr s 0x40 = 0 ∧
    s.binding (s.ctxOf 0 1) 0x40 = none ∧ objShr s 0x40 + 1 < 2 ^ 32 := by decide +kernel
theorem witness_Watches :
    formReady objs (f3 0) none .write = true ∧ accessOk (begin objs) 0x40 8 rightR { pa := 0x40 } ∧ needCredit (begin objs) = .ok () ∧
    (creditsUsed (begin objs) 0).2 < 16 ∧ objs.mySpec = none ∧ ({ pa := 0x40 } : Xlat).wb = false ∧
    (let w : HomeWatch := ⟨0x40, 0, 0x40, 0, false, none, .spin 0 0 3⟩
     let s := { objs with watches := [w] }
     filterRoom s w = true ∧ watchBehind s w = false ∧ (s.cluster (cacheOf 0)).find (ptrAddr 0x40) = none) ∧
    (let s := { flying (.spinw 0x40 { pa := 0x40 } 0 true) with watches := [⟨0x40, 0, 0x40, 0, true, some 9, .spin 0 0 3⟩] }
     (∃ p, (s.tset 0 0).pend.find? (fun p => p.seq == 3) = some p ∧ p.isV = false ∧ p.posted = false ∧ p.dropped = false ∧ p.reg ≠ 0) ∧ s.eccFails 0x40 = false) ∧
    (let w : HomeWatch := ⟨0x40, 1, 0x40, 0, true, none, .spin 0 0 3⟩; w.armed = true ∧ w.fired = none ∧ w.tier ≠ 0) :=
  ⟨by decide +kernel, access_of _ _ _ _ _ (by decide +kernel), by decide +kernel, by decide +kernel, by decide +kernel, by decide +kernel,
    by decide +kernel, ⟨⟨{ seq := 3, reg := 1, kind := .spinw 0x40 { pa := 0x40 } 0 true }, rfl, rfl, rfl, rfl, Nat.one_ne_zero⟩, by decide +kernel⟩,
    by decide +kernel⟩
theorem witness_Barriers :
    formReady (on { tset0 [] with wait := .barrier (some 7) }) (frm 0 .unused (gr 2) .unused) none .none = true ∧
    formReady (on { tset0 [] with wait := .barrier (some 7) }) (frm 0 (gr 1) (gr 2) (gr 3)) none .write = true ∧
    (let s := abd 0x00010003 0x8001000F 0
     formReady s (f3 0) none .write = true ∧ formReady s (f3 0) none .none = true ∧ s.me.wait = .none ∧ quiet s ∧ (0x8001000F : Word) &&& ~~~0xFFFF000F = 0 ∧
     (0x00010003 : Word).getLsbD (16 + dcBit 0) = true ∧ mget none (s.cluster (cacheOf 0)).barriers 3 = none) :=
  ⟨by decide +kernel, by decide +kernel, by decide +kernel, by decide +kernel, rfl, ⟨rfl, rfl, rfl, rfl⟩, by decide +kernel⟩
/-- A member that arrives second, one with another mask, one of another context, and a word that names no barrier of its core. -/
theorem witness_Barriers_later : let open_ := fun (c : BitVec 12) (m : BitVec 16) =>
      { abd 0x00030003 0x80010003 0 with clusters := [(0, { barriers := [(3, some ⟨c, m, [(1, 0, 7)]⟩)] })] }
    let s := open_ 1 3
    formReady s (f3 0) none .none = true ∧ s.me.wait = .none ∧ (∀ m ∈ [(3 : BitVec 16), 7], ∃ e, mget none ((open_ 1 m).cluster (cacheOf 0)).barriers 3 = some e ∧
      e.ctx.toNat = s.myCtx ∧ e.mask = m ∧ ∀ a ∈ e.arrived, a.1 ≠ dcBit 0) ∧
    ((0x00030003 : Word).extractLsb' 16 16 : BitVec 16) = 3 ∧ (0x00030003 : Word).getLsbD (16 + dcBit 0) = true ∧
    (∃ e, mget none ((open_ 2 3).cluster (cacheOf 0)).barriers 3 = some e ∧ e.ctx.toNat ≠ s.myCtx) ∧
    (0x00030013 : Word) &&& ~~~0xFFFF000F ≠ 0 ∧ (0x00020003 : Word).getLsbD (16 + dcBit 0) = false := by
  refine ⟨by decide +kernel, rfl, fun m _ => ⟨⟨1, m, [(1, 0, 7)]⟩, rfl, by rfl, rfl, fun a h => by cases List.mem_singleton.mp h; decide⟩,
    by decide +kernel, by decide +kernel,
    ⟨⟨2, 3, [(1, 0, 7)]⟩, rfl, by decide +kernel⟩, by decide +kernel, by decide +kernel⟩
theorem witness_Barriers_release : let e : Barrier := ⟨1, 3, [(0, 0, 7), (1, 3, 9)]⟩
    let late : Barrier := ⟨1, 3, [(0, 0, 7)]⟩
    let nan : Barrier := ⟨1, 1, [(0, 0, 0x7F800001)]⟩
    e.arrived ≠ [] ∧ (∀ k < 16, nan.mask.getLsbD k = true → ∃ a ∈ nan.arrived, a.1 = k) ∧
    (∃ a ∈ nan.arrived, 0x7F800000 < (a.2.2.extractLsb' 0 31).toNat) ∧ (∀ k < 16, e.mask.getLsbD k = true → ∃ a ∈ e.arrived, a.1 = k) ∧
    (∀ a ∈ e.arrived, (a.2.2.extractLsb' 0 31).toNat ≤ 0x7F800000) ∧ (∃ k < 16, late.mask.getLsbD k = true ∧ ∀ a ∈ late.arrived, a.1 ≠ k) := by
  decide +kernel

/-- Owner 0 holds the original rights of the first 64 KiB; the pointer in g2 and the range word in g3 name its first 64 bytes. -/
def granting (to_ : Word) (tab : List (Nat × Option OwnerTable)) (e : REntry) : State :=
  { abd 0x40 (1 + to_ <<< 44 + (1 : Word) <<< 32) 0 with owners := (0, some { capacity := 4, entries := [e] }) :: tab }
/-- An original entry with every right. -/
def orig0 : REntry := ⟨0, 1024, 0, 0x1F, 1, 0, 0, true, false, false⟩
theorem witness_RightsGranted : let s := granting 2 [(2, some { capacity := 1 })] orig0
    let w := s.me.value (gr 3)
    let q := rangeOf (s.me.value (gr 2)) w
    let covers := fun (s : State) => (s.ownerEntries 0).filter (fun e => e.holds q && (e.rights &&& (rangeRt w ||| rightG)) == (rangeRt w ||| rightG))
    formReady s (f3 0) none .write = true ∧ (s.me.value (gr 2)).toNat % 64 = 0 ∧ fieldN w 0 32 ≠ 0 ∧ fieldN w 37 7 = 0 ∧ s.mySpec = none ∧
    needCredit (begin s) = .ok () ∧ needPath (begin s) 0 = .ok () ∧ q = (0x40, 64) ∧ rangeTo w = 2 ∧ rangeRt w = 1 ∧
    covers s ≠ [] ∧ orig0.quar = false ∧ orig0.gen = ptrGen (s.me.value (gr 2)) ∧
    covers (granting 2 [] { orig0 with rights := 1 }) = [] ∧ covers (granting 2 [] { orig0 with gen := 3 }) = [{ orig0 with gen := 3 }] ∧
    (rangeTo w).extractLsb' 13 7 = (0 : BitVec 20).extractLsb' 13 7 ∧ mget none (granting 2 [] orig0).owners 2 = none ∧
    mget none s.owners 2 = some { capacity := 1 } ∧
    mget none (granting 2 [(2, some { capacity := 1, entries := [orig0] })] orig0).owners 2 = some { capacity := 1, entries := [orig0] } ∧
    (rangeTo ((granting 0x2001 [] orig0).me.value (gr 3))).extractLsb' 13 7 ≠ (0 : BitVec 20).extractLsb' 13 7 ∧
    consented (granting 0x2001 [] orig0) 0 0x2001 q 1 = false ∧ inWindow q = false ∧
    inWindow (2 ^ 56, 64) = true ∧ systemOwner s 2 = false := by decide +kernel
theorem witness_RightsRevoked : let given : REntry := ⟨0, 2, 0, 1, 2, 1, 0, false, false, false⟩
    let s := granting 2 [(2, some { capacity := 2, entries := [given] })] orig0
    let q := rangeOf (s.me.value (gr 2)) (s.me.value (gr 3))
    (2, some { capacity := 2, entries := [given] }) ∈ s.owners ∧ given.orig = false ∧ given.granter = 0 ∧ given.meets q = true ∧
    spansRange ((s.ownerEntries 0).filter (fun e => e.orig && e.meets q)) q = true ∧
    spansRange (((granting 2 [] { orig0 with orig := false }).ownerEntries 0).filter (fun e => e.orig && e.meets q)) q = false ∧
    (let derived : REntry := ⟨0, 2, 0, 1, 3, 2, 2, false, false, false⟩
     let s3 := granting 2 [(2, some { capacity := 2, entries := [given] }), (3, some { capacity := 2, entries := [derived] })] orig0
     revokedIds s3 0 2 q = [2, 3] ∧ derivedIds (allEntries s3) q (allEntries s3).length [1] = [1, 2, 3] ∧ given.outside q ≠ []) ∧
    orig0.gen.toNat < 126 ∧ 126 ≤ ({ orig0 with gen := 126 } : REntry).gen.toNat := by decide +kernel
theorem witness_Purges :
    formReady (sys (abd 0x40 3 0)) (f3 0) none .none = true ∧ (sys (abd 0x40 3 0)).isSystem (sys (abd 0x40 3 0)).myCtx = true ∧
    (abd 0x40 3 0).isSystem (abd 0x40 3 0).myCtx = false ∧ (sys (abd 0x40 3 0)).me.wait = .none ∧
    (sendPagePurge (begin (sys (abd 0x40 3 0))) (invPage (ptrAddr 0x40) 3)).1.isSome = true ∧
    (sendPagePurge (begin { sys (abd 0x40 0 0) with cores := [] }) (invPage (ptrAddr 0x40) 0)).1 = none ∧
    purgeDone (sys (on { tset0 [] with wait := .purge 4 })) 4 = true ∧
    (∀ kind ∈ [PurgeKind.rights [0] 0 64, .page 0 65536, .handler 1 3], let s := { abd 0 0 0 with purges := [⟨4, kind, [0, 5000]⟩] }
      (s.purges[0]? = some ⟨4, kind, [0, 5000]⟩ ∧ coreStoresIn s 0 (0, 65536) = false ∧ s.leases = [])) := by decide +kernel
theorem witness_Transfers : formReady (abd 0x400 0x40 3) (f3 0) none .none = true ∧ (0x400 : Word).extractLsb' 0 2 = 0 ∧
    (0x401 : Word).extractLsb' 0 2 ≠ 0 ∧ formReady (abd 0x400 0x40 3) (frm 0 (gr 1) .unused (.i 4)) none .write = true ∧
    formReady (abd 0x400 0x40 3) (frm 0 (gr 1) .unused (gr 3)) none .write = true ∧ (0x40 : Word).extractLsb' 0 2 = 0 ∧
    formReady (abd 0 0 3) (frm 0 (gr 1) .unused (.i 4)) none .both = true ∧ (abd 0 0 3).me.value (gr 1) - 1 ≠ 0 ∧
    (abd 0 0 1).me.value (gr 1) - 1 = 0 := by decide +kernel
theorem witness_TrapEntry : (abd 0 0 0).me.act = some act0 ∧ act0.spec = none ∧ (abd 0 0 0).me.tvec ≠ 0 ∧
    (∀ l < 3, (on { tset0 [] with tlvl := l }).me.tlvl = l) ∧ (on { tset0 [] with tvec := 0 }).me.tvec = 0 ∧
    (on { tset0 [] with act := some { act0 with spec := some (0, 0, 1) } }).me.act = some { act0 with spec := some (0, 0, 1) } := by
  decide +kernel
theorem witness_NotReady : let g2 := fun (te : Bool) => frm 0 (gr 1) (.g 2 te) (gr 3)
    let s := abd 5 7 9
    s.powered = true ∧ predsReady s (g2 true) = true ∧ predsLate s [0] = false ∧ predsLate s (formPreds (g2 true)) = false ∧
    (let e := on { tset0 [] with late := [(128, 5), (129, 5)] }
     predsLate e [0] = true ∧ predsLate e (formPreds (frm 0 (gr 1) (.p 1) (gr 3))) = true) ∧ guardHolds s.me ⟨false, 1⟩ none = false ∧ guardHolds s.me ⟨false, 0⟩ none = true ∧
    (let e := on { tset0 [] with gPar := 1#56 <<< 41 }
     guardFails e.me ⟨false, 1⟩ = true ∧ guardFails s.me ⟨false, 1⟩ = false ∧ (formSrcs e.me .write (frm 0 (gr 1) (.p 1) (gr 3))).findSome? (srcError e.me) = some 0x2400001) ∧
    (let e := on { tset0 [] with gEmpty := 4 }
     (((formSrcs e.me .write (g2 true)).find? (fun x => x.te && e.me.isEmpty x.isV x.reg)).isSome = true ∧
      (∀ x ∈ formSrcs e.me .write (g2 false), x.te = false) ∧ ∃ x ∈ formSrcs e.me .write (g2 false), e.me.isBusy 0 x.isV x.reg = true)) ∧
    (let e := on { tset0 [] with gMark := [(2, some 0x40)] }
     (∀ x ∈ formSrcs e.me .write (g2 false), e.me.isBusy 0 x.isV x.reg = false) ∧
      (formSrcs e.me .write (g2 false)).findSome? (srcError e.me) = some 0x40) ∧
    (let e := on { tset0 [] with gEmpty := 2 }
     (formSrcs e.me .write (g2 false)).findSome? (srcError e.me) = none ∧
      ∃ d ∈ formDsts e.me .write (g2 false), (e.me.isBusy 0 d.1 d.2 || e.me.isLocked d.1 d.2) = true) := by decide +kernel
/-- A lane word whose mask is empty, a store and a cursor whose register is empty, and lane words whose destination is empty or locked. -/
theorem witness_NotReady_lanes : (Instr.vfadd (v3 0), some (laneCount (tyOf (v3 0))), OdUse.write) ∈ formWords (v3 0) ∧
    (Instr.st (f3 0), none, OdUse.read) ∈ formWords (f3 0) ∧ (Instr.mma (f3 0), none, OdUse.read) ∈ formWords (f3 0) ∧
    guardHolds (abd 5 7 9).me ⟨false, 1⟩ (some 16) = false ∧ guardHolds (abd 5 7 9).me ⟨false, 0⟩ (some 16) = true ∧
    predsReady (abd 5 7 9) (v3 0) = true ∧
    (let e := on { tset0 [] with gEmpty := 2, vEmpty := 2, vLock := 4 }
     (∃ x ∈ formSrcs e.me .read (f3 0), e.me.isBusy 0 x.isV x.reg = true) ∧ (∃ d ∈ formDsts e.me .write (v3 0), e.me.isBusy 0 d.1 d.2 = true) ∧
     ∃ d ∈ formDsts e.me .write (frm 0 (vr 2) (vr 3) (vr 3)), e.me.isLocked d.1 d.2 = true) ∧
    (let e := on { tset0 [] with gPar := 1#56 <<< 50 }
     (formSrcs e.me .write (frm 0 (vr 1) (.c 2 false 0) .unused)).findSome? (srcError e.me) ≠ none) := by
  decide +kernel
theorem witness_SystemAndEnds : let s := abd 0x40 0 0
    formReady s (f3 0) none .none = true ∧ stopArmed s s.myPartition = false ∧ s.me.tlvl = 0 ∧
    (let a := { opened s with cores := [(0, { core0 with brkStop := true })] }; stopArmed a a.myPartition = true) ∧
    (on { tset0 [] with tlvl := 1, tepc1 := 0x40 }).me.tlvl ≠ 0 ∧ (0x40 : Word).extractLsb' 0 2 = 0 ∧ (0x41 : Word).extractLsb' 0 2 ≠ 0 ∧
    s.me.act = some act0 ∧ s.me.holds = [] ∧ s.me.sendBuf = [] ∧
    (let b := on { tset0 [] with sendBuf := [.send (.core 1) {}] }
     b.me.sendBuf = [((Dest.core 1), ({} : Msg))].map (fun m => .send m.1 m.2) ∧ b.myCore.inject.length + 1 ≤ 32) ∧
    (let r := { s with cores := [(0, { core0 with inbox := [{ state := .running 0 }] })] }
     runningSlot r 0 0 = some 0 ∧ r.myCore.inbox[0]? = some { state := .running 0 }) := by decide +kernel
theorem witness_SystemAndEnds_watch : formReady (abd 0 0x3FFF 0x40) (f3 0) none .read = true ∧ accessOk (begin (abd 0 0x3FFF 0x40)) 0x40 8 rightR { pa := 0x40 } ∧
    (0x3FFF : Word) &&& ~~~(0x80000 ||| 0x3FFF) = 0 ∧ (0x3FFF : Word).getLsbD 19 = false ∧ (0x80001 : Word).getLsbD 19 = true ∧
    checkScratch (begin (abd 0 0x80001 0x40)) 0x40 8 = .ok ⟨0, false, 0x40⟩ ∧ bankCount (abd 0 0x80001 0x40) 0 0 < 16 :=
  ⟨by decide +kernel, access_of _ _ _ _ _ (by decide +kernel), by decide +kernel⟩

/-- A destination descriptor of core 1, context 1, in g1; a route word in g2; payload from g3 on. -/
def desc0 : Word := 1 + (1 : Word) <<< 48
theorem witness_MessageWords : let s := abd 0x5 8 desc0
    (s.powered && predsReady s (f3 2) && guardHolds s.me ⟨false, 0⟩ none && regsClear s (formSrcs s.me .read (f3 2) ++ payloadSrcs s.me (f3 2)) []) = true ∧
    checkSend (begin s) (f3 2) = .ok () ∧ s.mySpec = none ∧ s.me.sendBuf.length < 8 ∧
    8 ≤ (on { tset0 [] with sendBuf := List.replicate 8 (.join 0 {}) }).me.sendBuf.length ∧ s.myCore.inject.length < 32 ∧
    [0, 1, 4].contains (descKind desc0) = true ∧ descFits desc0 = true ∧ descAllowed s s.myCtx desc0 = true ∧
    (let d2 : Word := 1 + (2 : Word) <<< 48
     (descCtx d2).toNat ≠ s.myCtx ∧ s.isSystem s.myCtx = false ∧ [0, 1, 4].contains (descKind d2) = true ∧ descFits d2 = true) ∧
    (let d3 : Word := 2 + (1 : Word) <<< 48 + (2 : Word) <<< 60; [0, 1, 4].contains (descKind d3) = false ∨ descFits d3 = false) := by decide +kernel
theorem witness_MessageWords_other : let s := { abd 0x40 0x10005 0 with clusters := [(0, {})] }
    formReady s (f3 0) none .none = true ∧ s.mySpec = none ∧ (0x10005 : Word) &&& ~~~(0x70000 ||| 0x3FFF) = 0 ∧ fieldN (0x10005 : Word) 16 3 = 1 ∧
    checkWide (begin s) 0x40 8 8 rightR = .ok ({ pa := 0x40 }, { pa := 0x47 }) ∧ replyFree s 0 = true ∧ streamRoom s (cacheOf 0) = true ∧
    (s.cores.filter (fun c => c.2.handlers.any (fun h => h.1 == 16 * 0x40))).map (·.1) = [] ∧
    (let h := { s with cores := [(0, { core0 with handlers := [(16 * 0x40, 0)] })] }
     (h.cores.filter (fun c => c.2.handlers.any (fun x => x.1 == 16 * 0x40))).map (·.1) = [0]) ∧
    ptrAddr (regionAt s s.myCtx ((s.me.act.map (·.rcb)).getD 0) (s.me.act.bind (·.launch))).htab = 0 ∧
    formReady s (f3 1) none .write = true ∧ (4095 : Word).toNat ≤ 4095 ∧ 4095 < (4096 : Word).toNat ∧ s.me.wait = .none ∧
    purgeDone (on { tset0 [] with wait := .purge 4 }) 4 = true := by decide +kernel
/-- A handler entry with its VALID bit alone. -/
def valid57 : Word := (1 : Word) <<< 57
/-- A ready core of partition 1, with the handler entry of tag 3 in its cache. -/
def recv (e : Word) (x : Msg) (box : List Machine.Slot) : State :=
  { abd 0 0 0 with ready := [(readyOffset 0, 1)], cores := [(0, { core0 with handlers := [(48, e)], inbox := box })], mail := [(.core 0, x)], partitions := [(1, { made := true, clusters := [0], phase := .running })] }
theorem witness_MessageSteps : let m : Msg := { tag := 3, ctx := 1 }
    let r : Msg := { tag := 3, ctx := 1, kind := 3 }
    (∀ s ∈ [recv valid57 m [], recv 0 m [], recv valid57 r []], (∃ x ∈ [m, r], s.mail[0]? = some (.core 0, x)) ∧ routedCore s 1 0 = 0 ∧
      (s.context 1).isSome = true ∧ accepting s 0 1 = true) ∧
    entryAddr (recv valid57 m []) 0 m = 48 ∧ cachedEntry (recv valid57 m []) 0 48 = some valid57 ∧ isReply m.kind = false ∧ isReply r.kind = true ∧
    requestFree (recv valid57 m []) 0 = true ∧ requestFree (recv valid57 m (List.replicate 48 {})) 0 = false ∧ msgPasses (recv valid57 m []) 0 m valid57 = true := by
  decide +kernel
theorem witness_MessageSteps_queue : let m : Msg := { tag := 3, ctx := 1 }
    let s := { recv valid57 m [] with cores := [(0, { core0 with handlers := [(48, valid57)], inject := [{ dest := .core 0, msg := m }] })] }
    (s.core 0).inject = [{ dest := .core 0, msg := m }] ∧ isCompute 0 = true ∧ (∀ ts < 4, (s.tset 0 ts).releasing = []) ∧
    accepting s 0 1 = true ∧ cachedEntry s 0 (entryAddr s 0 m) = some valid57 ∧ requestFree s 0 = true ∧
    (let t := { recv valid57 m [] with cores := [(0, core0)] }
     (comingTo t 0).find? (fun m => m.tag == 3 && (cachedEntry t 0 (entryAddr t 0 m)).isNone) = some m) := by decide +kernel
theorem witness_MessageSteps_later : let w : Watch := { core := 0, ctx := 1, tag := 3, fired := some 9 }
    let s := { recv valid57 {} [] with bankWatches := [⟨0, 0, some w, 1, 1⟩], watches := [⟨64, 0, 64, 0, true, some 9, .endw w⟩] }
    replyRoom s (routedCore s 1 0) 1 = true ∧ s.bankWatches[0]? = some ⟨0, 0, some w, 1, 1⟩ ∧
    s.watches[0]? = some ⟨64, 0, 64, 0, true, some 9, .endw w⟩ ∧
    (let c : StreamCmd := { op := .rread 1, engine := some 0, gptr := 64, x := { pa := 64 }, core := 0, ctx := 1 }
     let t := { s with clusters := [(0, { stream := [c] })] }
     (t.cluster 0).stream.find? (fun c => c.engine == some 0) = some c ∧ readBehind (t.tset 0 0) c 1 = false ∧ c.x.tier ≠ 3 ∧ c.x2.tier ≠ 3) ∧
    (let x : Xlat := { pa := 64, pte := 0x30000 }
     let t := { paged with tsets := [(0, { tset0 [] with releasing := [.join 64 x] })] }
     xlatOf t (ptrAddr 64) = some x ∧ x.wb = false ∧ x.dirty = true ∧ x.pa % 16 = 0 ∧ keyStands t x = true ∧ (t.tset 0 0).holds = [] ∧
      rreadPending t 0 0 t.uid = false ∧ (t.tset 0 0).releasing = [.join 64 x] ∧ (t.tset 0 0).storeq = [] ∧ (t.tset 0 0).pend = [] ∧ (t.tset 0 0).unacked = [] ∧ (t.cluster (cacheOf 0)).hold = [] ∧
      (t.cluster (cacheOf 0)).lines = []) := by decide +kernel
/-- Queue 64 with a control block at 0x1000: launch and completion rings of 4 entries at 2^56 + 0x2000 and 2^56 + 0x3000. -/
def queueMem (tail head ctail : Byte) : Memory :=
  [(0x1001, 0x20), (0x1007, 1), (0x1009, 0x30), (0x100F, 1), (0x1010, tail), (0x1014, head), (0x1018, ctail), (0x1020, 2), (0x1021, 2)].filter
    (fun b => b.2 != 0)
/-- A state with that queue assigned to partition 1, and some bytes below it. -/
def queued (s : State) (low : Memory) (tail head ctail : Byte) : State :=
  { s with queues := [(64, { block := 0x1000, arms := [(0, 1, 3, 1)] })], home := low ++ queueMem tail head ctail,
           partitions := [(1, { made := true, clusters := [0], blocks := [1], phase := .running })] }
theorem witness_MessageSteps_triggers_queue : let s := queued (regs []) [] 0 0 0
    queueValid s 64 = true ∧ queueFull s 64 = false ∧
    (s.queue 64).arms.find? (fun a => replyRoom s (routedCore s a.2.1 a.1) a.2.1) = some (0, 1, 3, 1) ∧ routedCore s 1 0 = 0 := by decide +kernel

/-- A thread set of core 0 with that many records in its deque. -/
def forks (n : Nat) : State := { abd 0x1003 0 0 with cores := [(0, { core0 with dqLen := n })] }
theorem witness_TasksAndStealing_tasks_fork : ∀ n ∈ [63, 64], let s := forks n
    s.powered = true ∧ predsReady s (f3 0) = true ∧ guardHolds s.me (f3 0).guard none = true ∧
    regsClear s (formSrcs s.me .none (f3 0) ++ srcRange s.me 3 (f3 0).ob (min 6 (32 - regOf (f3 0).ob))) [] = true ∧
    s.me.value (f3 0).oa &&& ~~~(0 ||| 0x3FFF) = 0 ∧ regOf (f3 0).ob ≤ 26 ∧ (n = 63 ∧ s.myCore.dqLen < 64 ∨ n = 64 ∧ 64 ≤ s.myCore.dqLen) := by
  decide +kernel
theorem witness_TasksAndStealing_tasks_join : let s := abd 0x40 0 0
    formReady s (f3 0) none .none = true ∧ accessOk (begin s) 0x40 16 rightA { pa := 0x40 } ∧ s.mySpec = none ∧ s.me.sendBuf.length < 8 :=
  ⟨by decide +kernel, access_of _ _ _ _ _ (by decide +kernel), by decide +kernel⟩
/-- A post of the 128 bytes at 0x200, whose record names context 1, to queue 64. -/
def posts (low : Memory) (tail : Byte) : State := queued (abd 64 0x200 0) low tail 0 0
theorem witness_TasksAndStealing_tasks_post : (∀ x ∈ [(posts [(0x201, 1)] 0, 0), (posts [(0x201, 1)] 4, 1), (posts [] 0, 3)],
    let s := x.1; let u := begin s
    formReady s (f3 1) none .write = true ∧ fieldN (64 : Word) 14 2 = 0 ∧ fieldN (64 : Word) 30 34 = 0 ∧ s.me.value (f3 1).oa = 64 ∧
    checkWide u 0x200 128 64 rightR = .ok ({ pa := 0x200 }, { pa := 0x27F }) ∧ s.mySpec = none ∧ s.me.wait = .none ∧ needCredit u = .ok () ∧ storesIn s.me (0x200, 128) = false ∧
    (let r := loadTwo (u.used 0x200 128 rightR false) s.curCore s.asker 0x200 (wideXlat { pa := 0x200 } { pa := 0x27F } 0x200 128)
     r.2.1 = false ∧ postStatus r.2.2 s.myPartition s.myCtx 64 (s.isSystem s.myCtx) r.1 = x.2)) ∧ (f3 1).md.getLsbD 0 = true := by decide +kernel
theorem witness_TasksAndStealing_tasks_events : let s := abd 3 0xF 0
    formReady s (f3 0) none .none = true ∧ (3 : Word).toNat ≤ 3 ∧ s.mySpec = none ∧ (s.me.storeq = [] ∧ s.me.pend = [] ∧ s.me.unacked = []) ∧
    (s.cluster (cacheOf s.curCore)).hold = [] ∧ s.context s.myCtx = some { partition := 1, owners := [0] } := by decide +kernel

/-- An idle core 0 that selects, with `d` records in its deque, the top one `l`; core 1 asks it. -/
def idle (d : Nat) (l : Line) : State :=
  { contexts := [(1, some { partition := 1, owners := [0] })], partitions := [(1, { made := true, clusters := [0], phase := .running })],
    cores := [(0, { core0 with dqLen := d, nextTheft := 1000 }), (1, { core0 with round := [0] })], scratch := mset 0 [] 3008 l,
    ready := [(readyOffset 0, 1)] }
theorem witness_TasksAndStealing_stealing : isCompute 0 = true ∧ coreSelects (idle 0 0) 0 = true ∧ coreIdle (idle 0 0) 0 = true ∧ ((idle 0 0).core 0).round = [] ∧
    ((idle 0 0).core 0).asking = [] ∧ ((idle 0 0).core 0).nextSteal ≤ (idle 0 0).cycle 0 ∧ (idle 0 0).cycle 0 < ((idle 0 0).core 0).nextTheft ∧
    ((idle 1 0).core 1).round = 0 :: [] ∧ ((idle 1 0).core 0).dqLen ≠ 0 ∧ recHeld (dequeRec (idle 1 0) 0 0) = false ∧
    ((idle 1 0).core 0).ctx = ((idle 1 0).core 1).ctx ∧ ((idle 0 0).core 0).dqLen = 0 ∧ recHeld (dequeRec (idle 1 (1 <<< 16)) 0 0) = true := by
  decide +kernel
theorem witness_TasksAndStealing_stealing_bounce :
    let x : Stolen := { victim := 0, thief := 17, record := 0, msg := { ctx := 1, kind := 5 } }
    let s := { idle 0 0 with stolen := [x] }
    s.stolen[0]? = some x ∧ stolenTo s x = none ∧ contextMayRun s x.msg.ctx.toNat x.victim = true ∧
    s.isReady (readyOffset x.victim) = true ∧ (s.core x.victim).ctx = some x.msg.ctx ∧ (s.core x.victim).dqLen < 64 := by decide +kernel

theorem witness_SearchWords_choicePoints : let s := abd 0x40 2 0
    s.me.act = some act0 ∧ s.powered = true ∧ predsReady s (f3 0) = true ∧ guardHolds s.me (f3 0).guard none = true ∧
    regsClear s (formSrcs s.me .write (f3 0) ++ snapshotSrcs) (formDsts s.me .write (f3 0)) = true ∧
    s.me.tlvl = 0 ∧ 0 < (2 : Word).toNat ∧ (65535 : Word).toNat ≤ 65535 ∧ accessOk (begin s) 0x40 8 rightR { pa := 0x40 } ∧
    s.me.cstop.toNat + 384 ≤ act0.choiceEnd ∧ needCredit (begin s) = .ok () ∧
    (let t := on { tset0 [(2, 0x40), (3, 2)] with cstop := 0x2C300 }; act0.choiceEnd < t.me.cstop.toNat + 384 ∧ t.me.act = some act0) ∧
    formReady s (f3 0) none .none = true ∧ s.thefts = [] ∧ s.mySpec = none ∧ s.me.storeq.length < 16 := by
  refine ⟨?_, ?_, ?_, ?_, ?_, ?_, ?_, ?_, access_of _ _ _ _ _ ?_, ?_⟩ <;> decide +kernel
/-- The same with a choice point and the line of address 0x40 in the cache. -/
def trailing (top : BitVec 18) : State :=
  { on { tset0 [(2, 0x40), (3, 2)] with cstop := 0x2C180, trtop := top } with clusters := [(0, { lines := [{ va := 0x40, data := 77 }] })] }
theorem witness_SearchWords_choicePoints_trail : let s := trailing 0x2E000
    formReady s (f3 0) none .none = true ∧ s.me.tlvl = 0 ∧ accessOk (begin s) 0x40 8 (rightR ||| rightW) { pa := 0x40 } ∧ s.mySpec = none ∧ s.me.wait = .none ∧
    needCredit (begin s) = .ok () ∧ (abd 0x40 2 0).me.choiceOpen = false ∧ s.me.choiceOpen = true ∧ s.me.act = some act0 ∧
    act0.trailEnd < (trailing 0x2E3E8).me.trtop.toNat + 32 ∧ s.me.trtop.toNat + 32 ≤ act0.trailEnd ∧ s.me.trtop.toNat + 32 < 2 ^ 18 ∧ s.thefts = [] ∧
    s.me.storeq = [] ∧ s.me.pend = [] ∧ (s.cluster (cacheOf s.curCore)).find (ptrAddr 0x40) = some { va := 0x40, data := 77 } ∧ ({ va := 0x40, data := 77 } : CacheLine).bad = 0 ∧ ({ va := 0x40, data := 77 } : CacheLine).hole = 0 ∧
    (s.cluster (cacheOf s.curCore)).hold = [] ∧ askedLine s (cacheOf s.curCore) s.asker (ptrAddr 0x40) = none := by
  refine ⟨?_, ?_, access_of _ _ _ _ _ ?_, ?_⟩ <;> decide +kernel
/-- A choice point at 0x2C000 with one alternative left of a table at 0x40, its trail top `n`; the trail stands at `top`. -/
def failing (n : Word) (top : BitVec 18) : State :=
  { on { tset0 [] with cstop := 0x2C180, trtop := top } with
    scratch := [(0xB05, (0x40 : Line) <<< 128 ||| (1 : Line) <<< 224 ||| (n.setWidth 512) <<< 256)] }
theorem witness_SearchWords_failing : let s := failing 0x2E000 0x2E000
    formReady s (f3 0) none .none = true ∧ s.me.act = some act0 ∧ act0.spec = none ∧ s.me.tlvl = 0 ∧ snapshotBusy s.me = false ∧
    (s.me.cstop.toNat - act0.choiceBase) / 384 ≠ 0 ∧ cpNext s 0 0 0x2C000 < cpCount s 0 0 0x2C000 ∧ cpWord s 0 0 0x2C000 0x150 = 0x40 ∧
    accessOk (begin s) 0x40 8 rightR { pa := 0x40 } ∧ needCredit (begin s) = .ok () ∧ s.me.trtop.toNat ≤ cpTrail s 0 0 0x2C000 ∧
    queuedIn s.me 0 act0.choiceBase s.me.cstop.toNat = false ∧ s.me.storeq.length < 16 ∧
    (abd 0 0 0).me.holds = [] ∧ ((abd 0 0 0).me.cstop.toNat - act0.choiceBase) / 384 = 0 := by
  refine ⟨?_, ?_, ?_, ?_, ?_, ?_, ?_, ?_, access_of _ _ _ _ _ ?_, ?_⟩ <;> decide +kernel
theorem witness_SearchWords_failing_undo : let s := failing 0x2E000 0x2E010
    s.me.trtop.toNat = cpTrail s 0 0 0x2C000 + 16 ∧ (let e := s.scratchRead 0 0x2E000 16
      e / 2 ^ 24 % 8 ≤ 3 ∧ e % 2 ^ 18 + 2 ^ (e / 2 ^ 24 % 8) ≤ 0x2C158) ∧ s.me.storeq = [] ∧ s.me.pend = [] ∧ s.thefts = [] ∧
    cpNext s 0 0 0x2C000 < cpCount s 0 0 0x2C000 := by decide +kernel

/-- The address of the root RCB of context 1, and its bytes in memory: four thread sets and eight open slots a core. -/
def root0 : Word := BitVec.ofNat 64 (2 ^ 56 + 0x5000)
def rootMem : Memory := [(0x5012, 4), (0x5014, 8)]
/-- Core 1 asks core 0, whose thread set 0 lets its oldest open choice point be stolen when `pol` is 1. -/
def asked (pol : Word) : State :=
  { failing 0x2E000 0x2E000 with
    tsets := [(0, { tset0 [] with act := some { act0 with rcb := root0 }, cstop := 0x2C180, stealpol := pol })],
    cores := [(0, core0), (1, { core0 with asking := [0] })], contexts := [(1, some { partition := 1, owners := [0], root := root0 })],
    partitions := [(1, { made := true, clusters := [0], phase := .running })], home := rootMem }
theorem witness_TheftsAndSpeculation_thefts : freeTset (idle 0 0) 0 = some 0 ∧ isCompute 0 = true ∧ coreSelects (idle 0 0) 0 = true ∧
    (∀ x ∈ ((idle 0 0).core 0).inbox, x.state ≠ .eligible) ∧ bottomUnheld (idle 0 0) 0 = none ∧ ((idle 0 0).core 0).asking = [] ∧
    ((recv 0 {} []).core 0).nextTheft ≤ (recv 0 {} []).cycle 0 ∧
    ((asked 1).core 1).asking = 0 :: [] ∧ freeTset (asked 1) 1 = some ((asked 1).core 1).askFor ∧ failedNow (asked 1) 0 = false ∧
    grantable (asked 1) 1 0 = some (0, 0x2C000) ∧ grantable (asked 0) 1 0 = none ∧
    queuedIn ((asked 1).tset 0 0) 0 0x2C000 (0x2C000 + 384) = false ∧ (∀ a ∈ ((asked 1).tset 0 0).act.toList, a.spec = none) := by decide +kernel
/-- A theft from core 0 by thread set 0 of core 1. -/
def theft0 : Theft :=
  { id := 7, thief := 1, thiefTs := 0, victim := 0, victimTs := 0, cp := 0x2C000, cpId := 9, index := 1, sfbase := 0x1000, sflen := 16,
    srchdone := 0, stealpol := 1, owner := 0, prio := 0, ctx := 1, cpBytes := List.replicate 384 0, frame := List.replicate 16 5 }
theorem witness_TheftsAndSpeculation_thefts_asks : let s := { asked 1 with thefts := [theft0] }
    s.thefts[0]? = some theft0 ∧ theft0.copying = false ∧ enginesTaken s (clusterOf theft0.victim) < 2 ∧
    2 ≤ enginesTaken { s with clusters := [(0, { stream := [{ op := .rread 1, engine := some 0 }, { op := .rread 1, engine := some 1 }] })] } 0 := by
  decide +kernel
theorem witness_TheftsAndSpeculation_thefts_copy : let x := { theft0 with copying := true }
    let s := { asked 1 with thefts := [x] }
    s.thefts[0]? = some x ∧ (∀ y ∈ s.thefts, y.id = x.id → y = x) ∧ x.copying = true ∧ x.copied = false ∧ x.sent = false ∧
    (s.core 1).ctx = some theft0.ctx ∧ requestFree s 1 = true ∧ theft0.cpBytes.length = 384 ∧ theft0.index + 1 < 2 ^ 32 ∧
    x.sfbase.toNat + x.frame.length ≤ thiefBase s x := by decide +kernel
theorem witness_TheftsAndSpeculation_thefts_start : let x := { theft0 with copied := true, sent := true }
    let m : Machine.Slot := { state := .eligible, msg := { ctx := 1, words := [9, 1] }, theft := some 7 }
    let s := { asked 1 with thefts := [x], cores := [(0, core0), (1, { core0 with inbox := [m] })], tsets := [(4, { theftGrant := some 7 })],
                            owners := [(0, some { capacity := 4, entries := [⟨2 ^ 56, 4, 0, 0x1F, 1, 0, 0, true, false, false⟩] })],
                            scratch := mset 0 [] (3072 + (thiefBase (asked 1) x + 0x140) / 64) ((1 : Line) <<< 184) }
    coreSelects s 1 = true ∧ selected s 1 = some (.slot 0 0) ∧ (s.core 1).inbox[0]? = some m ∧ m.theft = some 7 ∧
    s.thefts.find? (fun y => y.id == 7) = some x ∧ m.msg.launch = none ∧ m.msg.spec = none ∧ (s.tset 1 0).act = none ∧
    (let ea : Word := BitVec.ofNat 64 (cpWord s 1 0 (thiefBase s x) 0x150) + BitVec.ofNat 64 (8 * x.index)
     ea.toNat % 8 = 0 ∧ 2 ^ 56 ≤ ptrAddr ea ∧ tableDecision s x.owner (ptrGen ea) (ptrAddr ea) 8 rightR false = none) := by decide +kernel
theorem witness_TheftsAndSpeculation_thefts_prune : let s := { on { tset0 [] with act := some { act0 with rootId := some 9 } } with clusters := [(0, { prunes := [(9, [0])] })] }
    (s.cluster 0).prunes[0]? = some (9, [0]) ∧ [0].contains 0 = true ∧ s.thefts = [] ∧
    ∀ ts < 4, ∀ a ∈ ((s.tset 0 ts).act).toList, a.rootId = some 9 → (s.tset 0 ts).tlvl = 0 ∧ (s.tset 0 ts).holds = [] ∧ a.spec = none := by
  decide +kernel
/-- A state with a free decision of its RCB, one thread set of context 1 running. -/
def splits : State :=
  { asked 1 with
    home := [(0x5012, 4), (0x5014, 8), (0x5016, 2)],
    tsets := [(0, { tset0 [(2, 3), (3, 1)] with act := some { act0 with rcb := root0 } })] }
theorem witness_TheftsAndSpeculation_speculation_spec : (∀ s ∈ [splits, abd 3 1 0], s.powered = true ∧ predsReady s (f3 0) = true ∧ guardHolds s.me (f3 0).guard none = true ∧
    regsClear s (formSrcs s.me .write (f3 0) ++ srcRange s.me 3 (f3 0).ob (min 4 (32 - regOf (f3 0).ob))) (formDsts s.me .write (f3 0)) = true ∧
    regOf (f3 0).ob ≤ 28 ∧ s.mySpec = none ∧ needCredit (begin s) = .ok ()) ∧ specStatus splits = 0 ∧ 64 ≤ specStatus (abd 3 1 0) := by
  decide +kernel
/-- Decision 3 of cluster 0 with the sides `xs`; the loser may run on thread set 1. -/
def decided (xs : List Side) : State :=
  { abd 3 1 0 with clusters := [(0, { decisions := [⟨3, 1, 0, 5, 0, xs, none⟩] })], tsets := [(0, tset0 [(2, 3), (3, 1)]), (1, { act := some { uid := 6 } })] }
theorem witness_TheftsAndSpeculation_speculation_resolve : (∀ s ∈ [abd 3 1 0, decided [{}, {}], decided [{ act := some 6 }, {}]],
    formReady s (f3 0) none .write = true ∧ needCredit (begin s) = .ok () ∧ isCompute s.curCore = true ∧ (s.me.value (f3 0).oa).toNat = 3 ∧
    (s.me.value (f3 0).ob).toNat = 1) ∧ decisionOf (abd 3 1 0) (clusterOf 0) 3 = none ∧
    decisionOf (decided [{}, {}]) (clusterOf 0) 3 = some ⟨3, 1, 0, 5, 0, [{}, {}], none⟩ ∧ (decided [{}, {}]).myCtx = 1 ∧
    (let s := decided [{ act := some 6 }, {}]
     decisionOf s (clusterOf 0) 3 = some ⟨3, 1, 0, 5, 0, [{ act := some 6 }, {}], none⟩ ∧ findAct s 6 = some (0, 1) ∧ s.curTs < 4 ∧
     (0, 1) ≠ (s.curCore, s.curTs)) := by decide +kernel
theorem witness_TheftsAndSpeculation_speculation_returned (c : Nat) : ((decided [{}, {}]).core c).returned = [] := by
  simp only [State.core, decided, abd, regs, on, mget]
  split <;> [rfl; rfl]
theorem witness_TheftsAndSpeculation_speculation_commit : let p : Pend := { seq := 1, reg := 1, kind := .resolve 0 3 }
    let s := { decided [] with clusters := [(0, { decisions := [⟨3, 1, 0, 5, 0, [{}, {}], some 1⟩] })], tsets := [(0, { tset0 [] with pend := [p] })] }
    (s.tset 0 0).pend[0]? = some p ∧ p.isV = false ∧ p.dropped = false ∧ p.posted = false ∧
    decisionOf s 0 3 = some ⟨3, 1, 0, 5, 0, [{}, {}], some 1⟩ := by decide +kernel

/-- An Anvil word on C tile 3, A block 64 and W block 128. -/
def fm (md : BitVec 3) : Form := frm md (.b 2 false 0 3) (.b 1 false 0 64) (.b 0 false 0 128)
/-- Core 0 with the formats `a`, `w` and `c`. -/
def formats (a w c : BitVec 4) : State := { regs [] with cores := [(0, { core0 with afmt := a, wfmt := w, cfmt := c })] }
theorem witness_EngineWords_anvilWords : (∀ s ∈ [formats 0 0 0, formats 3 3 5, formats 6 6 8], formReady s (fm 0) none .read = true ∧ s.mySpec = none ∧
    needPath (begin s) 1 = .ok () ∧ s.myCore.anvil.length < 4 ∧ landBad s.myCore.mrland = false) ∧
    (64 : BitVec 14).toNat % 64 = 0 ∧ (64 : BitVec 14).toNat + 512 ≤ 2048 ∧ (128 : BitVec 14).toNat + 256 * 4 ≤ 4096 ∧
    pairOk 0 0 0 = false ∧ pairOk 3 3 5 = true ∧ pairOk 6 6 8 = true ∧ (fm 0).md.getLsbD 0 = false := by decide +kernel
/-- Core 0 with one Anvil command. -/
def anvil (c : AnvilCmd) : State := { regs [] with cores := [(0, { core0 with anvil := [c] })], periods := 32 }
theorem witness_AnvilSteps :
    (∀ c : AnvilCmd, ((anvil c).core 0).anvil = c :: []) ∧
    (let c : AnvilCmd := { op := .mma, phase := .evaluating, xGot := true, yGot := true, temper := true, tmpol := 0x40000000010, xSide := { satc := 1 } }
     c.bad = false ∧ c.nrep = 0 ∧ c.rotates = false ∧ c.tempered = true ∧ c.tmpol.getLsbD 43 = false ∧
     withinBudget { c with can := (evalNarrow (anvil c) 0 c).2, sat := sideCounts c (fun x => x.satc.toNat), unf := 0 } = false ∧
     c.rung < (rungOf (fieldN c.tmpol 4 4)).getD 0) ∧
    (let c : AnvilCmd := { op := .mma, phase := .evaluating, y := { core := 1, remote := true } }
     c.yGot = false ∧ (∀ k < 16, ∀ v ∈ waitsOf (anvil c) (clusterOf 0 * 16 + k), v.isY = true → v.since + 32 ≤ (anvil c).periods ∧
        ∀ b ∈ v.bases, blockLanding ((anvil c).core v.owner) false b 256 = false)) ∧
    (let c : AnvilCmd := { op := .mma, phase := .fetching, fetched := 1 }; (replayRow c c.fetched).side.hv = false ∧ c.rotates = false ∧
      enginesTaken (anvil c) (clusterOf 0) < 2) :=
  ⟨fun _ => rfl, by decide +kernel⟩
/-- A replay row whose home is wide, and the elements and scales of an output. -/
theorem witness_AnvilSteps_replay :
    let c : AnvilCmd := { op := .mma, phase := .fetching, rung := 1, xSide := { hv := true, hfmt := 3, home := BitVec.ofNat 64 (2 ^ 56), hpitch := 256 },
                          xLines := List.replicate 256 0, yLines := List.replicate 256 0, ySides := [{}] }
    let s := { anvil c with owners := [(0, some { capacity := 4, entries := [⟨2 ^ 56, 1024, 0, 0x1F, 1, 0, 0, true, false, false⟩] })],
                            contexts := [(1, some { partition := 1, owners := [0], sys := true })] }
    let q := replayRow c c.fetched
    let ptr : Word := BitVec.ofNat 64 (2 ^ 56)
    q.side.hv = true ∧ homeBytes q.side.hfmt.toNat = some 2 ∧ enginesTaken s (clusterOf 0) < 2 ∧
    (match engineCheck s (cacheOf 0) c.owner ptr (perRow .e4m3 * 2) rightR with
     | (.ok ls, s1) => (missingLine s1 (cacheOf 0) (.anvil 0 c.id) ls).isNone && !(readLines s1 0 (.anvil 0 c.id) ls).2.1
     | _ => false) = true ∧ c.afmt ≠ 6 ∧ ((xRow c 0).scales[0]?).isSome = true ∧ ((xRow c 0).vals[31]?).isSome = true ∧
    ((yRow c 0).scales[0]?).isSome = true ∧ ((yRow c 0).vals[31]?).isSome = true := by decide +kernel
/-- A half from a sender, held at time 0. -/
def half (isX : Bool) (sender : Nat) : Half := ⟨isX, 0, false, sender, 0, 0, [], {}, 1⟩
theorem witness_Rotations : let c : AnvilCmd := { op := .mrot, phase := .rotating, ctx := 1, westHeld := some 0, northHeld := some 0 }
    let s := { anvil c with cores := [(0, { core0 with anvil := [c], halves := [half true (eastOf false 0), half false (southOf 0)] })],
                            flights := [⟨0, half true 1⟩] }
    s.flights[0]? = some ⟨0, half true 1⟩ ∧ (s.core 0).anvil = c :: [] ∧ waitMet s 0 c = true ∧
    heldHalves s 0 c = some (half true (eastOf false 0), half false (southOf 0)) ∧ waitMet (anvil c) 0 c = false ∧
    (let t := { anvil c with periods := 200000 }; waitMet t 0 c = false ∧ c.commitTime + 64000 ≤ t.now ∧
      (let u := { t with cores := [(0, { core0 with halves := [half true 1] })] }
       (u.core 0).halves[0]? = some (half true 1) ∧ (u.core 0).anvil = [] ∧ (half true 1).arrived + 64000 ≤ u.now)) := by decide +kernel

/-- A scratchpad field at line `o`. -/
def scr (o : BitVec 14) : Operand := .b 3 false 0 o
/-- Whether a plan is made and moves at once. -/
def planned (s : State) (r : Except PlanError Plan) : Bool :=
  match r with
  | .ok p => !writesStaging s p && !readsPending s p
  | .error _ => false
/-- The state of the moves: row addresses in g1 and g2, a shape of one row in g3. -/
def rows0 : State := abd 0x40 (1 <<< 48) 0x40
theorem witness_EngineWords_streamWords :
    (∀ f ∈ [frm 0 (scr 0) (gr 2) (gr 3), frm 0 (gr 1) (scr 0) (gr 3)], formReady rows0 f none .read = true) ∧ rows0.mySpec = none ∧
    needPath (begin rows0) 2 = .ok () ∧ streamRoom rows0 (cacheOf rows0.curCore) = true ∧
    fieldOf rows0 1 (scr 0) [0, 1, 3] = .ok ⟨3, false, 0, 0⟩ ∧ fieldOf rows0 2 (scr 0) [1, 2, 3] = .ok ⟨3, false, 0, 0⟩ := by decide +kernel
theorem witness_EngineWords_streamWords_load : planned rows0 (planMove (.tld false) 0 (fmtsOf rows0.myCore) ⟨3, false, 0, 0⟩ 0x40 (1 <<< 48) 1 2) = true := by
  decide +kernel
theorem witness_EngineWords_streamWords_store : planned rows0 (planMove .tst 0 (fmtsOf rows0.myCore) ⟨3, false, 0, 0⟩ 0x40 (1 <<< 48) 2 1) = true := by
  decide +kernel
theorem witness_EngineWords_streamWords_convert : let t := abd 0x40 0 0; let f := frm 0 (scr 0) (scr 64) (gr 3)
    formReady t f none .read = true ∧ fieldOf t 1 (scr 0) [0, 1, 3] = .ok ⟨3, false, 0, 0⟩ ∧ fieldOf t 2 (scr 64) [1, 2, 3] = .ok ⟨3, false, 0, 64⟩ ∧
    planned t (planConvert 0 (fmtsOf t.myCore) ⟨3, false, 0, 0⟩ ⟨3, false, 0, 64⟩ 0) = true := by decide +kernel
theorem witness_EngineWords_streamWords_send : let d : Word := (2 : Word) <<< 60 + (1 : Word) <<< 48
    let t := abd 0 0 d; let f := frm 0 (gr 1) (vr 2) .unused
    formReady t f none .read = true ∧ checkDesc t d [2] 1 f.od = .ok () ∧ needPath (begin t) (if fieldN d 44 4 = 0 then 2 else 3) = .ok () ∧
    t.myCore.inject.length < 32 ∧ (lineWord (t.me.readV (regOf f.oa)) 0).getLsbD 15 = false := by decide +kernel
theorem witness_EngineWords_streamWords_wait : formReady (abd 0 0 0) (f3 0) none .write = true ∧ formReady (abd 3 0 0) (f3 0) none .write = true ∧
    awaits (abd 3 0 0) 0 (some 5) 3 = false ∧ (3 : Word).toNat ≤ 3 := by decide +kernel
/-- A stream command of a global row at `2^56 + 0x40` and scratchpad line 0, running on engine 0 of cluster 0. -/
def cmd0 (op : StreamOp) : StreamCmd :=
  { id := 1, op := op, gptr := BitVec.ofNat 64 (2 ^ 56 + 0x40), loc := encodeField (scr 64), dst := encodeField (scr 0), shape := if op = .tcvt then 0 else 1 <<< 48,
    ctx := 1, engine := some 0 }
/-- A state in which that command runs; owner 0 may access its row. -/
def streams (c : StreamCmd) : State :=
  { recv 0 {} [] with clusters := [(0, { stream := [c] })],
                      owners := [(0, some { capacity := 4, entries := [⟨2 ^ 56, 4, 0, 0x1F, 1, 0, 0, true, false, false⟩] })] }
/-- What a running move needs of its plan. -/
def moves (s : State) (c : StreamCmd) (q : Plan → Bool) : Bool := match planOf c with | .ok p => !rowMeetsDeque p c.rows && q p | .error _ => false
/-- The lines of a checked row. -/
def rowLines (s : State) (c : StreamCmd) (p : Plan) (need : BitVec 5) : List (Nat × Xlat) :=
  match (engineCheck s 0 c.owner (p.ptr + BitVec.ofNat 64 (c.rows * p.shape.pitch * 64)) p.bytes need).1 with | .ok ls => ls | .error _ => []
theorem witness_EngineSteps_streamSteps :
    (let s := streams { cmd0 .tst with engine := none }
     runningStream s 0 0 = none ∧ enginesTaken s 0 + engineClaims s 0 < 2 ∧ (s.cluster 0).stream.find? (fun c => c.engine.isNone) = some { cmd0 .tst with engine := none } ∧ (cmd0 .tst).msg = none) ∧
    (∀ op ∈ [StreamOp.tld false, .tst, .tcvt], runningStream (streams (cmd0 op)) 0 0 = some (cmd0 op) ∧ (cmd0 op).fin = false) ∧
    (let s := streams (cmd0 (.tld false)); moves s (cmd0 (.tld false)) (fun p => p.dst.isSome && p.src.isNone &&
      (let ls := rowLines s (cmd0 (.tld false)) p rightR; !ls.isEmpty && (missingLine s 0 (.stream 1) ls).isNone && !(readLines s 0 (.stream 1) ls).2.1)) = true) ∧
    (let s := streams (cmd0 .tst); moves s (cmd0 .tst) (fun p => p.dst.isNone && p.src.isSome &&
      (match rowLines s (cmd0 .tst) p rightW with | [(_, x)] => !x.wb && x.dirty && x.tier == 0 && p.src.all (fun y => !sideBad s y 0) | _ => false)) = true) ∧
    moves (streams (cmd0 .tcvt)) (cmd0 .tcvt) (fun p => p.dst.isSome && p.src.isSome) = true ∧
    (∀ rq ∈ [true, false], let c := { cmd0 (.tld false) with fin := true, rq := rq }
      runningStream (streams c) 0 0 = some c ∧ c.msg = none) ∧
    (let d : Due := { core := 0, ctx := 1, tag := 3, prio := 1, words := [0] }
     let s := { streams (cmd0 .tst) with due := [d] }
     s.due[0]? = some d ∧ replyRoom s (routedCore s d.ctx d.core) d.ctx = true) := by decide +kernel

/-- Engine `e` of die 0 bound to lease slot 32 of partition 1, with one command in it. -/
def pool (e : Nat) (c : PoolCmd) : State :=
  { streams (cmd0 .tst) with leases := [(32, { cmds := [c] })], engines := [(e, { slot := some 32, until_ := 1 })] }
/-- A copy, a fill and a reduction. -/
def copy0 : PoolCmd := { cmd := { words := [0x3100000, 0x1000, 0x2000, 64], ctx := 1 } }
def fill0 : PoolCmd := { cmd := { words := [0x2110000, 7, 0x2000, 64], ctx := 1 } }
def reduce0 : PoolCmd := { cmd := { words := [0x200000, BitVec.ofNat 64 (2 ^ 56), BitVec.ofNat 64 (2 ^ 56 + 64), 4, 2, 0], ctx := 1 } }
/-- The same with group 2 of the partition. -/
def grouped (c : PoolCmd) : State :=
  { pool 16 c with partitions := [(1, { made := true, clusters := [0], groups := [(2, ([0, 1], 0))] })] }
theorem witness_EngineSteps_poolSteps :
    (let s := { pool 0 copy0 with engines := [] }
     (s.die 0).session = none ∧ (s.engine (engineKey 0 0)).slot = none ∧ waitingSlots s 0 (engineClass 0) (s.engine (engineKey 0 0)).last = 32 :: []) ∧
    (∀ c ∈ [copy0, fill0], headPool (pool 0 c) (engineKey 0 0) = some (32, c) ∧ c.fin = false ∧ leaseOver (pool 0 c) 0 0 = false) ∧
    (pool 0 copy0).scratchBad 0 ((List.range 64).map (0x1000 + ·)) = false ∧ copy0.cmd.opcode = 0x10 ∧ fill0.cmd.opcode = 0x11 ∧
    poolPlan (pool 0 copy0) copy0.cmd = .ok ⟨some (.loc 0 0x1000), 0x1000, .loc 0 0x2000, 1⟩ ∧
    poolPlan (pool 0 fill0) fill0.cmd = .ok ⟨none, 7, .loc 0 0x2000, 1⟩ ∧
    (let c := { copy0 with fin := true }; headPool (pool 0 c) (engineKey 0 0) = some (32, c) ∧ storesAway (pool 0 c) (engineCache (engineKey 0 0)) = false) := by decide +kernel
theorem witness_EngineSteps_poolSteps_reduce : let s := grouped reduce0
    headPool s (engineKey 0 16) = some (32, reduce0) ∧ reduce0.fin = false ∧ reduce0.started = false ∧ leaseOver s 0 16 = false ∧
    (match reducePlan s reduce0.cmd with
     | .error _ => false
     | .ok p => match reduceCheck s (engineKey 0 16) reduce0.cmd.owner p.src p.bytes rightR p.offsets with
       | .error _ => false
       | .ok s1 => match reduceCheck s1 (engineKey 0 16) reduce0.cmd.owner p.dst p.bytes rightW p.offsets with
         | .error _ => false
         | .ok s2 => (readRange (engineKey 0 16) reduce0.cmd.owner (lineSpan (ptrAddr p.src) p.bytes) s2 []).isOk &&
             (groupOf s (s.partitionOf reduce0.cmd.ctx.toNat) p.group == some ([0, 1], 0))) = true ∧
    (let c := { reduce0 with started := true }; headPool (grouped c) (engineKey 0 16) = some (32, c) ∧
      groupOf (grouped c) ((grouped c).partitionOf c.cmd.ctx.toNat) 2 = some ([0, 1], 0) ∧ c.since + 0 ≤ (grouped c).now) := by
  decide +kernel

/-- A record of context 1 at the unit of cluster 0. -/
def rec0 (st : GraphState) : GraphRec :=
  { ctx := 1, batch := 4, node := 2, cls := 1, pred := 0, cost := 9, succ := [], core := 0, rq := false, prio := 0, tag := 0, cmd := {}, state := st }
/-- Core 0 with v2 and a descriptor of cluster 0 in g3; the unit holds `rs`. -/
def graphs (l : Line) (rs : List GraphRec) : State :=
  { on { tset0 [(3, (3 : Word) <<< 60 + (1 : Word) <<< 48)] with v := [(2, l)] } with clusters := [(0, { graph := rs })], partitions := [(1, { made := true, clusters := [0], phase := .running })] }
theorem witness_TaskGraphs : let f := frm 0 (gr 1) (vr 2) (gr 3)
    (∀ s ∈ [graphs 1 [], graphs 4 [], graphs 1 [rec0 .open_]], formReady s f none .write = true ∧
      checkDesc s (s.me.value f.ob) [3] 3 f.ob = .ok () ∧ s.mySpec = none ∧ fieldN (s.me.value f.ob) 0 6 = 0) ∧
    nodeStatus (graphs 1 []) 0 ((graphs 1 []).me.readV 2) = 0 ∧ nodeStatus (graphs 4 []) 0 ((graphs 4 []).me.readV 2) ≠ 0 ∧
    openBatch ((graphs 1 []).cluster 0) 1 = none ∧ openBatch ((graphs 1 [rec0 .open_]).cluster 0) 1 = some 4 ∧
    (∀ r ∈ ((graphs 1 [rec0 .open_]).cluster 0).graph, r.succ = []) ∧
    (let s := graphs 1 [rec0 .sealed]
     rec0 .sealed ∈ (s.cluster 0).graph ∧ streamRoom s 0 = true ∧
     bestRecord s 0 ((s.cluster 0).graph.filter (fun r => r.isReady && r.cls == 1 && graphLive s 0 r.ctx && (1 != 0 || r.core == 0))) = some (rec0 .sealed)) ∧
    (let r := { rec0 .dispatched with done := some (0, 1, 0, 0) }; ((graphs 1 [r]).cluster 0).graph[0]? = some r ∧ r.rq = false) := by decide +kernel

/-! ## Queues, launches, slices -/

/-- A message of tag 3 to context 1, ELIGIBLE in an inbox. -/
def box3 : Machine.Slot := { state := .eligible, msg := { tag := 3, ctx := 1 } }
/-- Core 0 of the resident context with its inbox and no activation. -/
def choosing (e : Word) (box : List Machine.Slot) : State := { recv e {} box with mail := [], tsets := [], home := rootMem, contexts := [(1, some { partition := 1, owners := [0], root := root0 })] }
theorem witness_QueueRuns_runQueue : selectBest (choosing valid57 [box3]) 0 = some (0, 0, effPrio (choosing valid57 [box3]) 0 box3) ∧
    (∀ s ∈ [choosing valid57 [box3], choosing 0 [box3]], coreSelects s 0 = true ∧ selected s 0 = some (.slot 0 0) ∧ (s.core 0).inbox[0]? = some box3 ∧
      box3.theft = none ∧ (s.core 0).tagCycle ≠ some (s.cycle 0)) ∧
    msgPasses (choosing valid57 [box3]) 0 box3.msg (entryOf (choosing valid57 [box3]) 0 box3.msg) = true ∧
    msgPasses (choosing 0 [box3]) 0 box3.msg (entryOf (choosing 0 [box3]) 0 box3.msg) = false ∧
    selected (choosing 0 []) 0 = none ∧ coreSelects (idle 1 0) 0 = true ∧
    selected { choosing 0 [] with cores := [(0, { core0 with dqLen := 1, handlers := [(0, valid57)] })] } 0 = some (.record 0 0) := by decide +kernel

/-- Core 0 with the activation of thread set 0, whose message stands RUNNING in the inbox. -/
def ending (stepping killed stopped : Bool) (at_ : Nat) : State :=
  { tsets := [(0, { act := some { act0 with stepping := stepping }, wdogEnd := at_ })],
    cores := [(0, { core0 with debugIn := if stopped then [{ code := 1, sel := 0, value := 0, fn := 1 }] else [], inbox := [{ box3 with state := .running 0 }] })],
    contexts := [(1, some { partition := 1, owners := [0], killed := killed })], partitions := [(1, { made := true, clusters := [0], phase := .running, opened := 0x3F })] }
/-- The same past the latency limit of a pre-emption, plain or forced. -/
def overdue (forced : Bool) : State :=
  { ending false false false 0 with partitions := [(1, { made := true, clusters := [0], phase := .preempting 0 0 forced false })] }
theorem witness_QueueRuns_aborts :
    (∀ s ∈ [ending false false false 0, ending false false false 9], (s.tset 0 0).act = some { act0 with stepping := false }) ∧
    ((ending false false false 0).tset 0 0).wdogEnd ≤ (ending false false false 0).cycle 0 ∧
    (ending false false false 9).cycle 0 < ((ending false false false 9).tset 0 0).wdogEnd ∧
    [0x43, 0x42, 0x41, 0x28].find? (abortSource (ending false false false 9) 0 0) ≠ some 0x28 ∧
    (let s := ending false false false 0
     [0x43, 0x42, 0x41, 0x28].find? (abortSource s 0 0) = some 0x28 ∧ runningSlot s 0 0 = some 0 ∧
     (s.core 0).inbox[0]? = some { box3 with state := .running 0 } ∧ ({ box3 with state := .running 0 } : Machine.Slot).aborts ≠ 2 ∧
     (s.cluster (clusterOf 0)).decisions = [] ∧ committing s 0 0 = false ∧ (∀ r ∈ [0x43, 0x42, 0x41], abortSource s 0 0 r = false) ∧ firstSource s 0 0 = some 0x28) ∧
    (∀ f ∈ [true, false], let s := overdue f
     residentOf s (corePartition s 0) = some 1 ∧ act0.msg.ctx = 1 ∧ (∀ k ∈ activationsOf s 1, committing s k.1 k.2 = false) ∧
     firstSource s 0 0 = some (if f then 0x43 else 0x41) ∧ (s.partition (corePartition s 0)).phase = .preempting 0 0 f false ∧
     overrunDue s 0 true = f ∧ (s.context 1).any (fun c => !c.killed) = true) ∧
    [0x43, 0x42, 0x41, 0x28].find? (abortSource (ending false false true 0) 0 0) = some 0x42 ∧
    [0x43, 0x42, 0x41, 0x28].find? (abortSource (ending false true true 0) 0 0) = some 0x43 := by decide +kernel

/-- The root RCB of context 1 with one core, and a record of its launch of one element in the ring, whose WAIT word is `w`. -/
def launchMem (format w : Byte) : Memory :=
  [(0x2000, format), (0x2001, 1), (0x2009, 0x50), (0x200F, 1), (0x2010, 1), (0x2012, 1), (0x2014, 1), (0x2020, w), (0x5010, 1), (0x5012, 4),
   (0x5014, 8), (0x5039, 0x10), (0x5041, 0x60), (0x5047, 1)].filter (fun b => b.2 != 0)
/-- Queue 64 with that record, its context killed or not, and an accepted record at its head. -/
def launching (format w : Byte) (killed : Bool) (a : Option Accepted) : State :=
  let s := queued (choosing 0 []) [] 1 0 0
  { s with home := (queueMem 1 0 0) ++ launchMem format w, contexts := [(1, some { partition := 1, owners := [0], root := root0, killed := killed })],
           queues := [(64, { block := 0x1000, accepted := a })], partitions := [(1, { made := true, clusters := [0], blocks := [1], phase := .running })] }
/-- The words of its record as they are taken. -/
def record (s : State) : List Word := recordWords (unitReadBytes s (queueEntry s 64 (queueField s 64 20 4)) 128)
theorem witness_LaunchQueues : (∀ s ∈ [launching 1 0 false none, launching 2 0 false none, launching 1 1 false none, launching 1 0 true none],
      queueValid s 64 = true ∧ queueLen s 64 ≠ 0 ∧ (s.queue 64).accepted = none) ∧
    fieldN (recWord (record (launching 2 0 false none)) 0) 0 8 ≠ 1 ∧ judge (launching 1 0 true none) 64 (record (launching 1 0 true none)) = .refused 5 ∧
    (∀ w ∈ [0, 1], let s := launching 1 w false none
      (match judge s 64 (record s) with | .accepted _ g => g.cores == [0] | .refused _ => false) = true ∧ waitMetBy s (record s) = decide (w = 0)) := by
  decide +kernel
/-- A record that waits at the head, accepted. -/
def held0 (w : Byte) : Accepted := { id := 3, record := record (launching 1 w false none), region := { cores := [0] }, taken := [] }
theorem witness_LaunchQueues_accepted :
    (∀ s ∈ [launching 1 0 false (some (held0 0)), launching 1 0 true (some (held0 0)), launching 1 1 false (some (held0 1))],
      queueValid s 64 = true ∧ queueLen s 64 ≠ 0 ∧ (s.queue 64).accepted.isSome = true) ∧
    headDoomed (launching 1 0 true none) 64 (held0 0).record = true ∧ headDoomed (launching 1 0 false none) 64 (held0 0).record = false ∧
    waitMetBy (launching 1 0 false none) (held0 0).record = true ∧ waitMetBy (launching 1 1 false none) (held0 1).record = false := by decide +kernel
/-- A launch of queue 64 on core 0. -/
def launch0 : Launch := { id := 3, queue := some 64, ctx := 1, rcb := root0, region := { cores := [0], qslots := 8 }, args := [0, 0, 0, 0], dimx := 1, dimy := 1, dimz := 1 }
/-- The same queue with launches, and a completion ring of two entries that holds `tail`. -/
def finishing (ls : List Launch) (tail : Byte) : State :=
  let s := launching 1 0 false none
  { s with launches := ls, home := queueMem 1 0 tail ++ launchMem 1 0 }
theorem witness_LaunchQueues_written : let l := { launch0 with status := some 0, published := true, set := [1, 0, 0, 0] }
    (∀ t ∈ [(0 : Byte), 4], let s := finishing [l] t
      launchBy s 3 = some l ∧ l.queue = some 64 ∧ queueValid s 64 = true ∧ endedFirst s l = true ∧ l.published = true ∧ regionAnswered s l = true) ∧
    completionLen (finishing [l] 4) 64 = 2 ^ queueField (finishing [l] 4) 64 33 1 ∧ completionLen (finishing [l] 0) 64 ≠ 2 ^ queueField (finishing [l] 0) 64 33 1 ∧
    (let s := finishing [l] 0
     let at_ := queueField s 64 8 8 + 16 * (queueField s 64 24 4 % 2 ^ queueField s 64 33 1)
     2 ^ 56 ≤ at_ ∧ at_ + 16 ≤ 2 ^ 57 ∧ (s.queue 64).block + 28 ≤ at_ - 2 ^ 56 ∧ (s.context 1).isSome = true ∧ l.set.length = 4) := by decide +kernel
theorem witness_Launches_launchElements : let c := { launch0 with coresident := true }
    let s := finishing [c] 0
    (launchBy s 3 = some c ∧ c.pos 0 = some 0 ∧ (servedLaunch s c.ctx).map (·.id) = some 3 ∧ (s.core 0).ctx = some c.ctx ∧ (s.tset 0 0).isFree = true ∧
      atBudget s c.ctx.toNat c.rcb (some c.id) = false ∧ reservedFor s 0 3 < elementsAt c.region c.total 0) ∧
    (let l := { launch0 with armed := true }
     let t := finishing [l] 0
     launchBy t 3 = some l ∧ l.pos 0 = some 0 ∧ startWaits t 0 l = true ∧ goesFirst t 0 l = true ∧ l.ended < l.total ∧ l.status = none) ∧
    (let l := { launch0 with armed := true, ended := 1, left := [(0, 0, 0)] }
     let t := finishing [l] 0
     launchBy t 3 = some l ∧ l.total ≤ l.ended ∧ l.published = false ∧ (∀ x ∈ l.left, writesOpen t x.1 x.2.1 x.2.2 = false) ∧ regionAnswered t l = true ∧
     (∀ c ∈ l.region.cores, ∀ k ∈ (t.cluster (cacheOf c)).lines, k.x.tier ≠ 3)) := by decide +kernel
/-- The ports of the fabric READY or not, and the host port. -/
def ported (up : Bool) (s : State) : State :=
  { s with ready := if up then (List.range 16).map (fun k => (0x50 + k, 1)) ++ [(0x60, 1)] else [], dies := [(0, { verified := up })] }
theorem ports_of (s : State) (up : Bool) (h : ∀ p < 16, portUp s p = up) (n : Nat) : portUp s (Config.portOf n) = up :=
  h _ (Config.nodePort n).isLt
theorem witness_Launches_fabricLaunches_ports : ∀ up ∈ [true, false], portUp (ported up (regs [])) (Config.portOf 2) = up ∧ hostUp (ported up (regs [])) = up :=
  fun up _ => by cases up <;> exact ⟨ports_of _ _ (by decide +kernel) _, by decide +kernel⟩
theorem witness_Launches_fabricLaunches : let l := { launch0 with queue := none, fabric := some (2, 7), status := some 0, published := true }
    (launchBy (finishing [l] 0) 3 = some l ∧ l.fabric = some (2, 7) ∧ regionAnswered (finishing [l] 0) l = true) ∧
    (let d : Direct := { node := 2, cookie := 7, core := 0, ctx := 1, entry := 0x100, args := [5, 6], fn := none, cid := 0, made := 0 }
     let s := { finishing [] 0 with directs := [d] }
     s.directs[0]? = some d ∧ routedCore s d.ctx d.core = 0 ∧ directTset { s with directs := s.directs.eraseIdx 0 } d = some 0 ∧
     (let t := { s with cores := [] }; t.directs[0]? = some d ∧ directTset { t with directs := t.directs.eraseIdx 0 } d = none)) := by decide +kernel
/-- Partition 1 in a phase, its slice list, and the state of core 0. -/
def slicing (ph : SlicePhase) (list : List SliceEntry) (runs : Bool) : State :=
  let s := finishing [{ launch0 with armed := true }] 0
  { s with partitions := [(1, { made := true, clusters := [0], blocks := [1], phase := ph, list := list })],
           tsets := if runs then [(0, { act := some act0 })] else [], queues := [(64, { block := 0x1000, since := some 0 })] }
/-- An entry of context 1 with a slice of 10 µs and a limit of 20 µs. -/
def entry1 : SliceEntry := { ctx := 1, slice := 10, limit := 20 }
theorem witness_Slices :
    (let s := slicing .running [entry1] true
     (s.partition 1).phase = .running ∧ (s.partition 1).entry = some entry1 ∧ (s.partition 1).sliceEnd ≤ s.now ∧ (s.partition 1).nextList = none ∧
     (s.partition 1).list = [entry1] ∧ ((slicing .running [entry1, entry1] true).partition 1).newList.list.length ≠ 1) ∧
    (∀ f ∈ [false, true], let s := slicing (.preempting 0 0 f false) [entry1] true
     (s.partition 1).phase = .preempting 0 0 f false ∧ residentOf s 1 = some 1 ∧ activationsOf s 1 ≠ [] ∧ 0 + 0 ≤ s.now ∧ (s.context 1).isSome = true ∧
     ∀ a ∈ activationsOf s 1, committing s a.1 a.2 = false) ∧
    (let s := slicing (.preempting 0 0 false false) [entry1] false
     residentOf s 1 = some 1 ∧ (s.context 1).isSome = true ∧ (s.partition 1).clusters.Nodup ∧ (partitionCores s 1).all (coreQuiet s 1) = true) ∧
    (partitionCores (slicing (.preempting 0 0 false false) [entry1] true) 1).all (coreQuiet (slicing (.preempting 0 0 false false) [entry1] true) 1) = false ∧
    (let s := slicing .idle [entry1] false
     (s.partition 1).phase = .idle ∧ ((s.partition 1).list[0]?).any (fun e => hasWork s 1 e.ctx && !s.isSystem e.ctx.toNat) = true) ∧
    ((slicing .idle [] false).partition 1).list = [] := by decide +kernel
theorem witness_Slices_stall : ∀ now ∈ [0, 22500000], let s := { slicing .running [entry1] true with periods := now }
    queueOwner s 64 = some 1 ∧ residentOf s 1 = some 1 ∧ (s.partition 1).entry = some entry1 ∧ (s.partition 1).phase = .running ∧ 1 ∈ countingCtxs s 64 ∧
    (now = 0 ∧ queueCounted s 64 < queueWdog s 64 ∨ now ≠ 0 ∧ queueWdog s 64 ≤ queueCounted s 64) ∧
    (let t := { slicing (.preempting s.now 0 false false) [entry1] true with periods := now }
     queueOwner t 64 = some 1 ∧ residentOf t 1 = some 1 ∧ (t.partition 1).entry = some entry1 ∧ 1 ∈ countingCtxs t 64) := by decide +kernel
/-- A launch of the system context 2 is open from the queue while context 1 is resident on the partition's cores. -/
theorem witness_Slices_notice : let s := { slicing .running [entry1] true with
      launches := [{ launch0 with ctx := 2, armed := true }], cores := [(0, core0), (1024, { core0 with ctx := some 2 })],
      home := queueMem 0 0 0 ++ launchMem 1 0, periods := 22500000 }
    queueOwner s 64 = some 1 ∧ residentOf s 1 = some 1 ∧ countingCtxs s 64 ≠ [] ∧ 1 ∉ countingCtxs s 64 ∧ queueWdog s 64 ≤ queueCounted s 64 := by
  decide +kernel
/-- Context 1 not resident, core 1 free for it, with a forwarding entry. -/
def moving : State :=
  { slicing .idle [entry1] false with cores := [], launches := [], ready := [(readyOffset 0, 1), (readyOffset 1, 1)],
                                      clusters := [(0, { forwards := [⟨1, 2, 3, 0⟩] })], periods := 225000 }
theorem witness_KillsAndResets_moves :
    (moving.context 1).any (fun k => !k.sys) = true ∧ isCompute 0 = true ∧ isCompute 1 = true ∧ contextMayRun moving 1 0 = true ∧ freeFor moving 1 1 = true ∧
    mayLeave moving 1 0 = true ∧ (moving.cluster (clusterOf 0)).forwards.length < Config.forwardEntries ∧ migrationHeld moving 0 = false ∧
    migrationHeld moving 1 = false ∧ (moving.core 0).ctx ≠ some 1 ∧ (moving.core 1).ctx ≠ some 1 ∧
    (moving.cluster 0).forwards[0]? = some ⟨1, 2, 3, 0⟩ ∧ 0 + 100000 ≤ moving.now ∧
    ({ moving with periods := 9 } : State).now < 0 + 100000 := by decide +kernel
theorem witness_KillsAndResets : let s := slicing .running [entry1] true
    (∃ k, s.context 1 = some k ∧ k.killed = false) ∧ (s.partition 1).made = true ∧ (s.partition 1).resetting = none ∧ hostUp s = false ∧ hostUp (ported true s) = true ∧
    ((ported true s).partition 1).resetting = none ∧
    (∀ busy ∈ [false, true], let t := { s with partitions := [(1, { made := true, clusters := [0], resetting := some (0, false) })],
                                               tsets := [(0, { unacked := if busy then [1] else [] })], periods := if busy then 225000 else 0 }
     (t.partition 1).made = true ∧ (t.partition 1).resetting = some (0, false) ∧
     (busy = true ∧ inFlight t 1 ≠ 0 ∧ 0 + 100000 ≤ t.now ∨ busy = false ∧ inFlight t 1 = 0 ∧ t.now < 0 + 100000)) :=
  ⟨⟨_, rfl, rfl⟩, by decide +kernel⟩
/-- Core cluster 0 with an event at its trace port and an open frame in the ring at the device window. -/
def tracing : State :=
  { clusters := [(0, { traceQ := [{ kind := 3, payload := [7] }], trace := { frame := some 0, fill := 16, last := 0 } })],
    dies := [(0, { ring := 2 ^ 56 + 0x10000 })], countQ := [(5, 0)], partitions := [(1, { made := true, clusters := [0], opened := 0x3F })] }
theorem witness_Upkeep : tracing.countQ = (5, 0) :: [] ∧ alreadyBad tracing 2 32 = false ∧ alreadyBad tracing 1 64 = false ∧
    (tracing.partition (placeOwner tracing 1 2 32)).supBlock = 0 ∧ (tracing.partition (placeOwner tracing 1 1 64)).supBlock = 0 ∧
    (tracing.die 0).bridgeDown = false ∧ (tracing.cluster 0).traceQ = { kind := 3, payload := [7] } :: [] ∧
    (let f := (tracing.cluster 0).trace
     let at_ := frameAt (tracing.die (0 / 32)) 0 + f.fill
     f.frame = some 0 ∧ tracing.now - f.last < 256 ∧ f.fill + 1 + 2 ≤ 4096 ∧ 2 ^ 56 ≤ at_ ∧ at_ + 4096 ≤ 2 ^ 57) ∧
    (let s := { tracing with partitions := [(1, { made := true, policy := some (1, 5) })] }
     (s.partition 1).policy = some ((1 : BitVec 6), (5 : Nat)) ∧ s.now < 5 ∧ 5 ≤ ({ s with periods := 12 } : State).now) ∧
    (tracing.die 0).session = none ∧ featureOpen tracing 1 5 = true ∧
    (let s := { tracing with dies := [(0, { session := some (1, true) })] }; (s.die 0).session = some (1, true)) := by decide +kernel

/-! ## The host port -/

/-- Word `k` of the command at host address 0x100, as bytes. -/
def hostMail (ws : List (Nat × Word)) : Memory := ws.flatMap (fun w => ((List.range 8).map (fun j => (0x100 + 8 * w.1 + j, (w.2.toNat / 2 ^ (8 * j)) % 256))).filterMap
  (fun b => if b.2 = 0 then none else some (b.1, BitVec.ofNat 8 b.2)))
/-- VF 1 with one command in its mailbox, `moved` bytes of it moved, a reset under way or not; owner 0 of the host may access all from 2^56 on. -/
def mailing (ws : List (Nat × Word)) (moved : Nat) (reset : Bool) : State :=
  { hostMem := hostMail ws, ready := [(0x60, 1)], dies := [(0, { verified := true })],
    owners := [((hostOwner 1).toNat, some { capacity := 4, entries := [⟨2 ^ 56, 4096, 0, 0x1F, 1, 0, 0, true, false, false⟩] })],
    contexts := [(1, some { partition := 1 })],
    partitions := [(1, { made := true, clusters := [0], blocks := [1], opened := 0x3F, resetting := if reset then some (0, false) else none,
                         mailbox := { sq := 0x100, sqLen := 4, cq := 0x800, cqLen := 4, tail := 1, moved := moved } })] }
/-- The command that stands there. -/
def mailCmd (ws : List (Nat × Word)) : Option MailCmd := nextCommand (mailing ws 0 false) 1
/-- A condition on it. -/
def mailOk (ws : List (Nat × Word)) (p : MailCmd → Bool) : Bool := (mailCmd ws).any p
/-- The same commands in the ring of the PF too. -/
def pfMailing (ws : List (Nat × Word)) : State :=
  { mailing ws 0 false with partitions := (0, { mailbox := ((mailing ws 0 false).partition 1).mailbox }) :: (mailing ws 0 false).partitions }
theorem witness_Mailboxes : (1 : Nat) ≤ 64 ∧ hostUp (mailing [] 0 false) = true ∧ hostUp State.reset = false ∧
    mailOk [(0, 9)] (fun c => c.bad) = true ∧ (∀ op ∈ [1, 2, 3, 4, 5, 6, 7], mailOk [(0, BitVec.ofNat 64 op)] (fun c => !c.bad && c.op == op) = true) ∧
    ((mailing [(0, 1)] 0 true).partition 1).resetting ≠ none ∧ (nextCommand (mailing [(0, 1)] 0 true) 1).isSome = true ∧
    ((mailing [(0, 1)] 0 false).partition 1).resetting = none ∧
    (∀ op ∈ [1, 2], let ws := [(0, BitVec.ofNat 64 op), (1, 64), (2, BitVec.ofNat 64 (2 ^ 56 + 64)), (3, 0x900)]
      mailOk ws (fun c => lengthOk c true && lengthOk c false && decide (c.len ≤ 64) && (mailPiece (mailing ws 0 false) 1 c == some (BitVec.ofNat 64 (2 ^ 56 + 64), 64)) &&
        (mailRights (mailing ws 0 false) 1 (BitVec.ofNat 64 (2 ^ 56 + 64)) 64 rightW == none) &&
        (mailRights (mailing ws 0 false) 1 (BitVec.ofNat 64 (2 ^ 56 + 64)) 64 rightR == none)) = true ∧
      ((mailing ws 64 false).mailbox 1).moved = 64) ∧
    (∀ op ∈ [1, 2], let ws := [(0, BitVec.ofNat 64 op), (1, 64), (2, 64)]
      mailOk ws (fun c => (mailPiece (mailing ws 0 false) 1 c == some (64, 64)) && (mailRights (mailing ws 0 false) 1 64 64 rightW == some 7) &&
        (mailRights (mailing ws 0 false) 1 64 64 rightR == some 7)) = true) := by decide +kernel
/-- The same VF with queue 64 and its ring's tail. -/
def mailQueue (tail block : Nat) : State := { mailing [(0, 3), (2, 64)] 0 false with queues := [(64, { block := block })], home := queueMem (BitVec.ofNat 8 tail) 0 0 }
theorem witness_Mailboxes_queue : queueOf (mailing [(0, 3)] 0 false) 1 0 = false ∧ queueOf (mailQueue 0 0) 1 64 = true ∧ queueValid (mailQueue 0 0) 64 = false ∧
    queueValid (mailQueue 4 0x1000) 64 = true ∧ queueFull (mailQueue 4 0x1000) 64 = true ∧ queueFull (mailQueue 0 0x1000) 64 = false := by decide +kernel
theorem witness_Mailboxes_units :
    (mailOk [(0, 4), (2, (1 : Word) <<< 48)] (fun c => fieldN c.a 10 38 == 0 && fieldN c.a 60 4 == 0) = true ∧ ((mailing [] 0 false).context 1).isSome = true ∧
      (mailing [] 0 false).partitionOf 1 = 1 ∧ ((mailing [] 0 false).context 0).isNone = true) ∧
    (mailOk [(0, 5), (4, 1)] (fun c => fieldN (c.word 0) 0 8 == 1 && fieldN (c.word 0) 22 42 == 0) = true ∧ featureOpen (mailing [] 0 false) 1 3 = true ∧
      0 ∈ partitionCores (mailing [] 0 false) 1 ∧ 99 ∉ partitionCores (mailing [] 0 false) 1) ∧
    policyOk (mailing [] 0 false) 0 [] [] = false ∧
    (mailOk [(0, 7)] (fun c => observeUnit c.b == some 0 && c.a == 0) = true ∧ mayHold (mailing [] 0 false) 1 0 = true ∧
      unitHolder (mailing [] 0 false) 0 = none ∧ pfAsks (mailing [] 0 false) 0 = false ∧ pfAsks (pfMailing [(0, 7)]) 0 = true ∧ mayHold (mailing [] 0 false) 1 5 = false ∧
      mailOk [(0, 7), (2, 1), (3, 5)] (fun c => observeUnit c.b == some 5 && c.a == 1) = true ∧
      (let s := { mailing [] 0 false with clusters := [(0, { holder := some 1 }), (5, { holder := some 2 })] }
       unitHolder s 0 = some 1 ∧ unitHolder s 5 ≠ some 1)) := by
  refine ⟨by decide +kernel, by decide +kernel, ?_, by decide +kernel⟩
  simp [policyOk, natOfBytes]
theorem witness_TrustAndRequests_securityRequests : let s := pfMailing [(0, 8)]
    (nextCommand s 0).any (fun c => !c.bad && c.op == 8) = true ∧ s.dsmWait = none ∧ hostUp s = true ∧ (s.partition 0).resetting = none ∧
    ((nextCommand (pfMailing [(0, 7)]) 0).any (fun c => !c.bad && c.op != 8) = true ∧
    (∀ w ∈ [true, false], purgeDone { s with dsmWait := some (4, 0), purges := if w then [⟨4, .page 0 64, [0]⟩] else [] } 4 = !w) ∧
    (let meets := fun (u : State) => (allEntries u).any (fun e => reachesTable u (e.base, e.len * 64) { capacity := 4 })
     meets s = true ∧ meets { s with owners := [] } = false ∧ s.choices = []) ∧
    s.owners.any (fun u => u.2.any (reachesTable s (0x40, 64))) = false ∧ s.owners.any (fun u => u.2.any (reachesTable s (2 ^ 56, 64))) = true) ∧
    mget none s.owners 7 = none ∧ ownerPartition 7 ≤ 64 ∧
    (mget none s.owners (hostOwner 1).toNat = some { capacity := 4, entries := [⟨2 ^ 56, 4096, 0, 0x1F, 1, 0, 0, true, false, false⟩] }) ∧
    systemOwner s (hostOwner 1) = false ∧ (s.partition (ownerPartition (hostOwner 1))).tdi = .unlocked ∧
    (∃ k, s.context 1 = some k ∧ k.killed = false) ∧ (∃ k, (launching 1 0 true none).context 1 = some k ∧ k.killed = true) ∧
    (queueOwner s 64).isSome = true :=
  ⟨by decide +kernel, by decide +kernel, by decide +kernel, by decide +kernel, by decide +kernel, by decide +kernel, by decide +kernel,
    by decide +kernel, by decide +kernel, by decide +kernel, ⟨_, rfl, rfl⟩, ⟨_, rfl, rfl⟩, by decide +kernel⟩
theorem witness_TrustAndRequests_trust : isVf 1 = true ∧ hostUp (ported true { partitions := [(1, { made := true, tdi := .locked })] }) = true ∧ hostUp State.reset = false ∧ (∀ t ∈ [Tdi.unlocked, .locked, .running], let s : State := { partitions := [(1, { made := true, tdi := t })] }
      (s.partition 1).tdi = t ∧ (s.partition 1).resetting = none) ∧
    (∀ b ∈ [false, true], let s : State := { dies := [(0, { verified := true })], spdm := { agreed := b } }
      (s.die 0).verified = true ∧ s.spdm.agreed = b) ∧
    (List.replicate 1184 (0 : Byte)).length = 1184 := by decide +kernel

/-- A debug command that stands at core 0; STOP is open to VF 1 or not. -/
def debugging (d : DebugCmd) (opened : BitVec 6) : State :=
  { mailing [] 0 false with
    home := rootMem, contexts := [(1, some { partition := 1, owners := [0], root := root0 })],
    cores := [(0, { core0 with debugIn := [d], inbox := [box3], handlers := [(48, valid57)], breaks := [(0, 0x100)] })],
    tsets := [(0, { act := some { act0 with stepping := true }, pc := 0x100 })],
    partitions := [(1, { ((mailing [] 0 false).partition 1) with opened := opened, phase := .running })] }
/-- A command of a code at thread set 1 of core 0. -/
def debug0 (code : Nat) : DebugCmd := { code := code, sel := 1, value := 5, reg := 3, fn := 1, write := decide (code = 8) }
theorem witness_DebugCommands : (∀ code ∈ [1, 2, 3, 4, 5, 6, 7], debugHead (debugging (debug0 code) 0) 0 code = some (debug0 code)) ∧
    featureOpen (debugging (debug0 1) 0) 1 3 = false ∧ featureOpen (debugging (debug0 1) 0x3F) 1 3 = true ∧
    (let s := debugging (debug0 3) 0x3F
     (debug0 3).sel % 4 = 1 ∧ stepChoice s 0 1 = some (.slot 0 1) ∧
     (let r := { s with cores := [(0, { s.core 0 with inbox := [], dqLen := 1, handlers := [(0, valid57)] })] }
      debugHead r 0 3 = some (debug0 3) ∧ stepChoice r 0 1 = some (.record 0 1)) ∧ (s.core 0).inbox[0]? = some box3 ∧ msgPasses s 0 box3.msg (entryOf s 0 box3.msg) = true) ∧
    (∀ w ∈ [false, true], let d := { debug0 5 with sel := 0, write := w }
     debugHead (debugging d 0x3F) 0 5 = some d ∧ isStepping (debugging d 0x3F) 0 (d.sel % 4) = true ∧ fieldN d.reg 12 4 = 0 ∧ 0 < fieldN d.reg 0 12 ∧
       fieldN d.reg 0 12 < 28 ∧ 1 ≤ d.value.toNat ∧ d.value.toNat ≤ 65535) ∧
    atBreakpoint (debugging (debug0 1) 0x3F) 0 0 = true := by decide +kernel

/-! ## The link, power, steps -/

/-- Port 0 with some retries, and owner 5's rights over the first units from 2^56 on. -/
def linked (retries : Nat) : State :=
  { ports := [(0, { retries := retries })], ready := (List.range 16).map (fun k => (0x50 + k, 1)), owners := [(5, some { capacity := 4, entries := [⟨2 ^ 56, 4096, 0, 0x1F, 1, 0, 0, true, false, false⟩] })],
    contexts := [(1, some { partition := 1 })], partitions := [(1, { made := true, clusters := [0], groups := [(2, ([0, 1], 0))] })], periods := 2250000 }
theorem witness_Fabric_ports (n pa : Nat) : portUp (linked 0) (Config.portOf n) = true ∧ portUp (linked 0) (peerPort pa) = true :=
  ⟨ports_of _ _ (by decide +kernel) n, ports_of _ _ (by decide +kernel) _⟩
theorem witness_Fabric : (∀ n ∈ [0, 8], portUp (linked n) 0 = true ∧ ((linked n).port 0).down = false ∧ ((linked n).port 0).retries = n) ∧ (linked 0).choices = [] ∧
    ((linked 0).port 0).lastSent + 1000000 ≤ (linked 0).now ∧ ({ linked 0 with periods := 5 } : State).now < 0 + 1000000 ∧
    peerRights (linked 0) 5 64 8 rightR = false ∧ peerRights (linked 0) 5 64 8 rightW = false ∧ (linked 0).eccBad = [] ∧
    (let p : Word := BitVec.ofNat 64 (2 ^ 56 + 64)
     2 ^ 56 ≤ ptrAddr p ∧ ptrAddr p % 64 + 8 ≤ 64 ∧ peerRights (linked 0) 5 p 8 rightR = true ∧ peerRights (linked 0) 5 p 8 rightW = true ∧
       peerRights (linked 0) 5 p 8 rightA = true ∧ ptrAddr p % 8 = 0) ∧
    (let m := msgOfWords [0x100003]
     isReply m.kind = false ∧ ((linked 0).context m.ctx.toNat).isSome = true ∧ contextMayRun (linked 0) m.ctx.toNat 0 = true ∧ m.len ≤ 6) ∧
    groupOf (linked 0) 1 2 = some ([0, 1], 0) ∧ pendOf (linked 0) 9 = none ∧ (linked 0).peerLoads = [] ∧ (linked 0).owed = [] := by decide +kernel
theorem witness_Fabric_reply : let p : Pend := { seq := 1, reg := 1, asked := some 9, kind := .atomic 0 2 8 0x40 { pa := 0x40, tier := 3 } 1 0 none }
    let s := { linked 0 with tsets := [(0, { pend := [p] })] }
    pendOf s 9 = some (0, 0, 0, p) ∧ (s.tset 0 0).pend[0]? = some p ∧ p.posted = false ∧ p.dropped = false ∧ effScope 2 3 ≠ 0 := by decide +kernel
theorem witness_Power : 0x60 ∈ dieOffsets 0 ∧ 0x48 ∈ dieOffsets 0 ∧ portUp State.reset 0 = false ∧ (({ dies := [(0, { verified := true })] } : State).die 0).verified = true ∧
    (∀ n ∈ [(0 : Nat), 512], let s : State := { clusters := [(0, { stretched := true })], periods := n }
      (s.cluster 0).stretched = true ∧ (n = 0 ∧ clusterCycle s 0 < (s.cluster 0).sagSince + 256 ∨ n = 512 ∧ (s.cluster 0).sagSince + 256 ≤ clusterCycle s 0)) ∧
    (({ dies := [(0, {}), (1, {})] } : State).dies.map (·.1)).Nodup := by decide +kernel
/-- A machine whose agenda lets core 0 issue; its first thread set waits in an instruction, or is to fetch one. -/
def turning (w : Wait) (word : IWord) (busy : Nat) : State :=
  { tsets := [(0, { tset0 [] with wait := w, word := word, pc := BitVec.ofNat 64 (2 ^ 56 + 0x40), wdogEnd := 100 })],
    cores := [(0, { core0 with nextIssue := busy })], contexts := [(1, some { partition := 1, owners := [0] })],
    partitions := [(1, { made := true, clusters := [0], phase := .running })],
    owners := [(0, some { capacity := 4, entries := [⟨2 ^ 56, 4, 0, 0x1F, 1, 0, 0, true, false, false⟩] })], agenda := [.issue 0 0] }
/-- The state in which thread set 0 of core 0 tries, after what is due. -/
def trying (s : State) : State :=
  let u := dueAborts (advance 0 { s with agenda := [] }) 0
  { (u.modCore 0 (fun c => { c with pass := false })).modTset 0 0 (fun t => { t with stalled := false }) with curCore := 0, curTs := 0 }
/-- The word of `add g1, g2, g3`, and one of an operation that is not assigned. -/
def addWord : IWord := 0x000001_000002_000003
theorem witness_StepRuns : (∀ s ∈ [turning (.fence 1) addWord 0, turning (.fence 1) 0 0],
      let u := dueAborts (advance 0 { s with agenda := [] }) 0
      s.powered = true ∧ s.agenda = .issue 0 0 :: [] ∧ (u.core 0).nextIssue ≤ u.cycle 0 ∧ issueOrder (u.core 0) = [] ++ 0 :: [1, 2, 3] ∧
      mayIssue u 0 0 = true ∧ (featureOpen u (u.partitionOf (u.ctxOf 0 0)) 3 = false) ∧ (nextWord (trying s)).toOption.map (·.1) = some s.me.word) ∧
    (decode addWord).toOption.isSome = true ∧ (decode 0).toOption = none ∧
    (let s := turning .none 0 5; let u := dueAborts (advance 0 { s with agenda := [] }) 0
     u.cycle 0 < (u.core 0).nextIssue) ∧
    (turning (.fence 1) 0 0).me.wait ≠ .none ∧
    (let s : State := { agenda := [.event 0 .deviceReset], powered := false }
     s.agenda = .event 0 .deviceReset :: [] ∧ s.powered = false) := by decide +kernel
theorem witness_MemoryStaysCanonical : State.reset.memoryWf := by decide +kernel
/-- One step of the machine after reset, from a state with canonical memories to another. -/
theorem witness_ScalarFrame : (∀ od ∈ [OdUse.write, .both, .none], formReady (abd 5 7 9) (f3 0) none od = true) ∧
    (match exec (.add (f3 0)) (abd 5 7 9) with | .next t => t.me.readG 1 == 12 | _ => false) = true := by decide +kernel
/-- The other words of the frame: immediates, `MFS` of a register, of a codebook and of a bank register, `FCMP`. -/
theorem witness_ScalarFrame_more : let s := on { tset0 [] with tlvl := 1 }
    formReady s { f3 0 with oa := .unused, ob := .unused } none .both = true ∧ formReady s { f3 0 with oa := .unused, ob := .unused } none .write = true ∧
    (∀ n ∈ [(0x001 : BitVec 12), 0x028, 0x06D], formReady s (frm 0 (gr 1) (.s n) .unused) none .write = true ∧ srOf (.s n) < 0x800) ∧
    isCodebook (srOf (.s 0x028)) = true ∧ isCodebook (srOf (.s 0x001)) = false ∧ isTbg (srOf (.s 0x06D)) = true ∧ s.me.tlvl ≠ 0 ∧
    regsClear s (tbgSrc s.me (.s 0x06D)) [] = true ∧ fpEnables (abd 5 7 9).me.fpctl = 0 ∧
    (match exec (.fcmp (frm 0 (.p 1) (gr 2) (gr 3))) (abd 5 7 9) with | .next t => t.me.readP 1 == 0 | _ => false) = true := by decide +kernel
theorem witness_LaneFrame : lanesReady (v3 0) (abd 0 0 0) false ∧ lanesReady (v3 2) (abd 0 0 0) true ∧ (v3 0).od = .v 1 false :=
  ⟨lanes_of _ _ _ (by decide +kernel) (by decide +kernel), lanes_of _ _ _ (by decide +kernel) (by decide +kernel), rfl⟩
/-- Whether a store enters the queue. -/
def enters (i : Instr) (s : State) : Bool :=
  match exec i s with | .next t => t.me.storeq.length == s.me.storeq.length + 1 && t.me.act.isSome == s.me.act.isSome | _ => false
theorem witness_StoreFrame : mem0.me.choiceOpen = false ∧ enters (.st (frm 3 (gr 1) (gr 2) (gr 3))) mem0 = true ∧
    enters (.vgst (frm 0 (gr 1) (vr 2) (.i 0))) mem0 = true ∧ enters (.sst (frm 3 (gr 1) (gr 2) (gr 3))) mem0 = true ∧
    enters (.stu (frm 3 (gr 1) (gr 2) (gr 3))) mem0 = true ∧ enters (.ulk (frm 0 .unused (gr 2) (gr 3))) mem0 = true := by
  refine ⟨?_, ?_, ?_, ?_, ?_, ?_⟩ <;> decide +kernel
theorem witness_StoreFrame_lanes : curs0.me.choiceOpen = false ∧ enters (.vst (frm 0 (.b 3 false 0 64) (vr 2) (gr 3))) curs0 = true ∧
    enters (.vst (frm 0 (.c 1 true 16) (vr 2) (gr 3))) curs0 = true ∧ enters (.vsts (frm 0 (.c 1 true 16) (vr 2) (.i 4))) curs0 = true ∧
    enters (.vsct (frm 0 (.c 1 false 0) (vr 2) (vr 3))) curs0 = true := by
  refine ⟨?_, ?_, ?_, ?_, ?_⟩ <;> decide +kernel
theorem witness_Cursors : formReady (abd 0x40 0 0) (frm 0 (.c 1 false 0) (gr 2) .unused) none .none = true ∧
    formReady (abd 0x1300040 0 0) (frm 0 (.c 1 false 0) (gr 2) .unused) none .none = true ∧
    isCompute (abd 0x1300040 0 0).curCore = true ∧ (0x1300040 : Word).getLsbD 24 = true ∧ (0x40 : Word).getLsbD 24 = false := by decide +kernel
theorem witness_TokenBuckets : let k : Tenant := { valid := true, rate := 4, burst := 2, ctx := 1, lo := root0, hi := root0 + 256, tokens := 1 }
    let good : List Word := [0x101, root0, 0x100010001]
    let s := { finishing [] 0 with tenants := [(7, k)], periods := 2250000 }
    (let m := pfMailing [(0, 8)]
     m.dsmWait = none ∧ hostUp m = true ∧ (nextCommand m 0).any (fun c => !c.bad && c.op == 8) = true ∧ (m.partition 0).resetting = none) ∧
    (s.tenant 0 7).valid = true ∧ k.tokens ≤ k.burst ∧ k.gained ≤ (s.now - k.since) * k.rate / 1000000 ∧
    recordOk good true = true ∧ recordOk [0x102, root0, 0x100010001] true = false ∧ (k.settled s.now).tokens ≠ 0 ∧
    (k.ctx.toNat != recCtx good || (s.context (recCtx good)).isNone || (s.partition (s.partitionOf k.ctx.toNat)).resetting.isSome ||
      decide (ptrAddr (recWord good 1) < ptrAddr k.lo) || decide (ptrAddr k.hi ≤ ptrAddr (recWord good 1))) = false ∧
    (let e := { k with tokens := 0, rate := 0 }; (e.settled s.now).tokens = 0) ∧ (s.tenant 0 8).valid = false := by decide +kernel
theorem witness_Displacements : formReady (abd 0 0 2) (frm 0 .unused .unused (.i 0x100000)) none .none = true ∧
    formReady (abd 0 0 2) (frm 0 (gr 1) .unused (.i 0xFFFFF)) none .write = true ∧ formReady (abd 0 0 2) (frm 0 (gr 1) .unused (.i 0x100000)) none .both = true ∧
    (abd 0 0 2).me.value (gr 1) ≠ 1 := by decide +kernel
theorem witness_DecodeEncode : (Instr.add (frm 0 (gr 1) (gr 2) (gr 3))).wellFormed = true ∧ encode (Instr.add (frm 0 (gr 1) (gr 2) (gr 3))) = some addWord := by decide
theorem witness_EncodeDecode : decode addWord = .ok (Instr.add (frm 0 (gr 1) (gr 2) (gr 3))) := by decide +kernel

end Sys2Proof.Tests
end

/-! # Words and instructions: the decoder and the encoder (R22 to R28, R36, R37, R91, Tables 2.1 to 2.4 and 5.3 to 5.6) -/
section

namespace Sys2Proof

/-! ## Words and fields in pieces -/

theorem ofBool_getLsbD {n : Nat} (x : BitVec n) (k : Nat) : BitVec.ofBool (x.getLsbD k) = x.extractLsb' k 1 := by
  ext i hi
  obtain rfl : i = 0 := by omega
  simp

/-- Two neighbouring pieces of a word are one piece. The premise is closed by computation, so that `simp` joins pieces of a layout. -/
theorem extractLsb'_append_next {n : Nat} (x : BitVec n) (lo len len' : Nat) {hi : Nat} (h : hi = lo + len := by rfl) :
    x.extractLsb' hi len' ++ x.extractLsb' lo len = x.extractLsb' lo (len' + len) :=
  BitVec.extractLsb'_append_extractLsb'_eq_extractLsb' h

/-! ## Fields (R24 to R28) -/

/-- The kind code of a field, by its number. -/
theorem kindOf_eq {f : BitVec 24} {n : Nat} (h : (kindOf f).toNat = n) : BitVec.ofNat 3 n = f.extractLsb' 21 3 := by
  rw [← h, BitVec.ofNat_toNat, BitVec.setWidth_eq, kindOf]

/-- A field whose reserved bits are zero is the field of the operand it names. -/
theorem encodeField_of_decodeField {f : BitVec 24} {te : Bool} {o : Operand} (hd : decodeField f = some o)
    (hr : reservedBits f te = false) : encodeField o = f := by
  unfold decodeField at hd
  split at hd
  case h_8 => simp at hd
  all_goals
    rename_i hn
    obtain rfl := Option.some.inj hd
    have hk := kindOf_eq hn
    simp only [reservedBits, hn, Bool.or_eq_false_iff, bne_eq_false_iff_eq, BitVec.ofNat_eq_ofNat] at hr
    simp only [encodeField, fieldBit, ofBool_getLsbD, BitVec.ofNat_eq_ofNat]
  case h_1 | h_2 => rw [hk, ← hr.1]; simp only [extractLsb'_append_next, BitVec.extractLsb'_eq_self]
  case h_3 | h_6 => rw [hk, ← hr]; simp only [extractLsb'_append_next, BitVec.extractLsb'_eq_self]
  case h_4 => rw [hk, ← hr.1]; simp only [extractLsb'_append_next, BitVec.extractLsb'_eq_self]
  case h_5 | h_7 => rw [hk]; simp only [extractLsb'_append_next, BitVec.extractLsb'_eq_self]

/-- A B field names a place where its core is zero unless remote, and its offset lies in the range of its buffer. -/
theorem descriptorOk_iff {buf : BitVec 2} {remote : Bool} {core : BitVec 4} {off : BitVec 14} :
    descriptorOk buf remote core off = true ↔ (remote = true ∨ core = 0) ∧ (buf = 0 → off.toNat < 4096) ∧
      (buf = 1 → off.toNat < 2048) ∧ (buf = 2 → off.toNat < 16) ∧ (buf = 3 → off.toNat < 4096) := by
  obtain rfl | rfl | rfl | rfl : buf = 0 ∨ buf = 1 ∨ buf = 2 ∨ buf = 3 := by clear * -; revert buf; decide
  all_goals simp [descriptorOk]

/-- The part from bit `lo` on of a value below `2 ^ lo` is zero. -/
theorem extractLsb'_eq_zero_of_lt {n lo len : Nat} {x : BitVec n} (h : x.toNat < 2 ^ lo) : x.extractLsb' lo len = 0 := by
  apply BitVec.eq_of_toNat_eq
  simp [Nat.shiftRight_eq_div_pow, Nat.div_eq_of_lt h]

/-- A field whose part from bit `lo` on is zero is below `2 ^ lo`. -/
theorem toNat_lt_of_extractLsb' {f : BitVec 24} {lo n : Nat} (h : f.extractLsb' lo n = 0) : (f.extractLsb' 0 (n + lo)).toNat < 2 ^ lo := by
  have e : f.extractLsb' 0 (n + lo) = f.extractLsb' lo n ++ f.extractLsb' 0 lo :=
    (BitVec.extractLsb'_append_extractLsb'_eq_extractLsb' (Nat.zero_add lo).symm).symm
  rw [e, h, BitVec.toNat_append]
  simpa using (f.extractLsb' 0 lo).isLt

/-- The operand named by a field without reserved bits that step 5 does not refuse may stand in the position. -/
theorem fits_of_decodeField {sl : Slot} {f : BitVec 24} {o : Operand} (hu : sl.used = true) (hd : decodeField f = some o)
    (hr : reservedBits f sl.te = false) (hs : slotRefuses sl f = false) : o.fits sl = true := by
  simp only [slotRefuses, hd, Bool.or_eq_false_iff, Bool.not_eq_false'] at hs
  obtain ⟨hkind, hs⟩ := hs
  unfold decodeField at hd
  split at hd
  case h_8 => simp at hd
  all_goals
    rename_i hn
    obtain rfl := Option.some.inj hd
    have hk : kindOf f = BitVec.ofNat 3 _ := (kindOf_eq hn).symm
    rw [hk] at hkind
    simp only [reservedBits, hn] at hr
    simp only [Operand.fits, hu, Bool.true_and]
  case h_7 =>
    simp only [Bool.or_eq_false_iff, Bool.not_eq_false', Bool.and_eq_false_iff, beq_eq_false_iff_ne, decide_eq_false_iff_not,
      Nat.not_le, bne_eq_false_iff_eq] at hs hr
    obtain ⟨⟨⟨hb, hrem⟩, h0⟩, h1⟩ := hs
    obtain ⟨⟨hcore, h2⟩, h3⟩ := hr
    have hok : descriptorOk (f.extractLsb' 19 2) (fieldBit f 18) (f.extractLsb' 14 4) (f.extractLsb' 0 14) = true :=
      descriptorOk_iff.mpr ⟨hcore, fun e => h0.resolve_left (absurd e), fun e => h1.resolve_left (absurd e),
        fun e => toNat_lt_of_extractLsb' (h2.resolve_left (absurd e)), fun e => toNat_lt_of_extractLsb' (h3.resolve_left (absurd e))⟩
    simp_all [BitVec.ofNat_eq_ofNat]
  case h_1 | h_2 => cases hte : fieldBit f 20 <;> simp_all
  case h_3 => cases hp : sl.p0 <;> simp_all
  case h_4 => cases hpost : fieldBit f 3 <;> simp_all
  case h_5 => simpa using hkind
  case h_6 => cases hw : sl.writes <;> simp_all

/-- The operand of a position that steps 4 and 5 let pass: its field is the field read, and it may stand there. -/
theorem operandOf_passed {sl : Slot} {f : BitVec 24} (hr : positionReserved sl f = false) (hs : (sl.used && slotRefuses sl f) = false) :
    encodeField (operandOf sl f) = f ∧ (operandOf sl f).fits sl = true := by
  unfold positionReserved at hr
  unfold operandOf
  cases hu : sl.used
  · simp_all [encodeField, Operand.fits]
  · simp only [hu, Bool.true_and, if_true] at hr hs ⊢
    obtain ⟨o, hd⟩ : ∃ o, decodeField f = some o := by
      cases hd : decodeField f with
      | none => simp [slotRefuses, hd] at hs
      | some o => exact ⟨o, rfl⟩
    simp only [hd, Option.getD_some]
    exact ⟨encodeField_of_decodeField hd hr, fits_of_decodeField hu hd hr hs⟩

/-- The operand of a field that was encoded is read back. -/
theorem decodeField_encodeField {o : Operand} (h : o ≠ .unused) : decodeField (encodeField o) = some o := by
  cases o <;>
    simp only [decodeField, kindOf, encodeField, fieldBit, BitVec.extractLsb'_append_eq_of_le, BitVec.extractLsb'_append_eq_of_add_le,
      BitVec.getLsbD_append, Nat.reduceLeDiff, Nat.reduceLT, Nat.reduceSub, Nat.zero_add, BitVec.extractLsb'_eq_self]
  case unused => exact absurd rfl h
  all_goals simp

/-- The field of an operand that may stand in a position has its reserved bits zero (step 4). -/
theorem reservedBits_encodeField {o : Operand} {sl : Slot} (h : o.fits sl = true) : reservedBits (encodeField o) sl.te = false := by
  cases o <;>
    simp only [reservedBits, kindOf, encodeField, fieldBit, BitVec.extractLsb'_append_eq_of_le, BitVec.extractLsb'_append_eq_of_add_le,
      BitVec.getLsbD_append, Nat.reduceLeDiff, Nat.reduceLT, Nat.reduceSub, Nat.zero_add, BitVec.extractLsb'_eq_self, Operand.fits, Bool.and_eq_true, descriptorOk_iff] at h ⊢
  case b buf remote core off =>
    obtain ⟨-, hcore, -, -, h2, h3⟩ := h
    have e2 : buf = 2 → off.extractLsb' 4 10 = 0 := fun e => extractLsb'_eq_zero_of_lt (h2 e)
    have e3 : buf = 3 → off.extractLsb' 12 2 = 0 := fun e => extractLsb'_eq_zero_of_lt (h3 e)
    simpa using ⟨⟨fun hr => hcore.resolve_left (by simp [hr]), e2⟩, e3⟩
  all_goals simp at h ⊢
  all_goals grind

/-- A position does not refuse the field of an operand that may stand in it (step 5). -/
theorem slotRefuses_encodeField {o : Operand} {sl : Slot} (h : o.fits sl = true) (hu : sl.used = true) : slotRefuses sl (encodeField o) = false := by
  have hne : o ≠ .unused := by rintro rfl; simp [Operand.fits, hu] at h
  rw [slotRefuses, decodeField_encodeField hne]
  cases o <;>
    simp only [kindOf, encodeField, BitVec.extractLsb'_append_eq_of_le, Nat.reduceLeDiff, Nat.reduceSub,
      BitVec.extractLsb'_eq_self, Operand.fits, Bool.and_eq_true, descriptorOk_iff] at h ⊢
  all_goals simp at h ⊢
  all_goals grind

/-- The field of an operand that may stand in a position passes steps 4 and 5 there, and the operand is read back. -/
theorem passed_of_fits {sl : Slot} {o : Operand} (h : o.fits sl = true) : positionReserved sl (encodeField o) = false ∧
    (sl.used && slotRefuses sl (encodeField o)) = false ∧ operandOf sl (encodeField o) = o := by
  cases hu : sl.used
  · obtain rfl : o = .unused := by cases o <;> simp_all [Operand.fits]
    simp [positionReserved, operandOf, hu, encodeField]
  · have hne : o ≠ .unused := by rintro rfl; simp [Operand.fits, hu] at h
    simp [positionReserved, operandOf, hu, reservedBits_encodeField h, slotRefuses_encodeField h hu, decodeField_encodeField hne]

/-! ## Heads and words (R22, R23, Table 2.1) -/

/-- The cell that bits 95:85 of a word name. -/
def cellOfWord (w : IWord) : Nat := cellNum (w.extractLsb' 94 2).toNat (w.extractLsb' 90 4).toNat (w.extractLsb' 85 5).toNat

/-- Bits 95:85 of a word are the number of its cell. -/
theorem ofNat_cellOfWord (w : IWord) : BitVec.ofNat 11 (cellOfWord w) = w.extractLsb' 85 11 := by
  have e : w.extractLsb' 85 11 = w.extractLsb' 94 2 ++ w.extractLsb' 90 4 ++ w.extractLsb' 85 5 := by
    simp only [extractLsb'_append_next]
  rw [e]
  apply BitVec.eq_of_toNat_eq
  have h1 := (w.extractLsb' 94 2).isLt
  have h2 := (w.extractLsb' 90 4).isLt
  have h3 := (w.extractLsb' 85 5).isLt
  simp only [BitVec.toNat_append, BitVec.toNat_ofNat, cellOfWord, cellNum]
  rw [← Nat.shiftLeft_add_eq_or_of_lt h3, ← Nat.shiftLeft_add_eq_or_of_lt h2, Nat.shiftLeft_eq, Nat.shiftLeft_eq]
  omega

/-- A word with bits 73:72 zero is its head and its three fields. -/
theorem word_eq_fields (w : IWord) (h : w.extractLsb' 72 2 = 0) :
    headBits (cellOfWord w) (w.extractLsb' 82 3) (guardOf w) (hintsOf w) ++ w.extractLsb' 48 24 ++ w.extractLsb' 24 24 ++
      w.extractLsb' 0 24 = w := by
  simp only [headBits, guardOf, hintsOf, ofNat_cellOfWord, ofBool_getLsbD, ← h, extractLsb'_append_next, BitVec.extractLsb'_eq_self]

/-! ## The opcode map (Tables 5.3 to 5.6) -/

/-- An operation found stands in the tables under its cell. -/
theorem findOp_some {cell : Nat} {o : Op} (h : findOp cell = some o) :
    o.cell = cell ∧ o ∈ scalarOps ++ vectorOps ++ memoryOps ++ controlOps := by
  unfold findOp at h
  split at h <;> exact ⟨by simpa using List.find?_some h, by simp [List.mem_of_find?_eq_some h]⟩

/-- The `MFS` words lie in one cell whatever register they read, `FPCTL` among them. -/
theorem cellOf_mkMfs {f : Form} {num : BitVec 12} (h : f.oa = .s num) : cellOf (mkMfs f) = some (101, f) := by
  simp only [mkMfs, h]
  split_ifs <;> simp [cellOf, h]

/-- The `MTS` words lie in one cell whatever register they write, since none of them has a special register in OA. -/
theorem cellOf_mkMts {f : Form} (h : ∀ num, f.oa ≠ .s num) : cellOf (mkMts f) = some (102, f) := by
  unfold mkMts
  split <;> try split_ifs
  all_goals simp [cellOf]

/-- Every operation of the tables but `MFS` (cell 101) and `MTS` (cell 102) builds, from any form, an instruction of its own cell. -/
theorem cellOf_build_plain (f : Form) {o : Op} (ho : o ∈ scalarOps ++ vectorOps ++ memoryOps ++ controlOps) (h1 : o.cell ≠ 101)
    (h2 : o.cell ≠ 102) : cellOf (o.build f) = some (o.cell, f) := by
  have table : (scalarOps ++ vectorOps ++ memoryOps ++ controlOps).map
        (fun o => if o.cell = 101 ∨ o.cell = 102 then none else cellOf (o.build f)) =
      (scalarOps ++ vectorOps ++ memoryOps ++ controlOps).map (fun o => if o.cell = 101 ∨ o.cell = 102 then none else some (o.cell, f)) := rfl
  simpa [h1, h2] using List.map_inj_left.mp table o ho

theorem findOp_mfs : findOp 101 = some ⟨101, [0], .mfs, mkMfs⟩ := rfl
theorem findOp_mts : findOp 102 = some ⟨102, [0], .mts, mkMts⟩ := rfl

/-- An operand in a position for a special register is one. -/
theorem fits_sRead {o : Operand} (h : o.fits .sRead = true) : ∃ num, o = .s num := by
  cases o <;> simp_all [Operand.fits, Slot.sRead]

/-- No position of `MTS` but OD takes a special register. -/
theorem mts_oa_ne_s {md : BitVec 3} {od oa : BitVec 24} {o : Operand} (h : o.fits (Shape.mts.slots md od oa).oa = true) (num : BitVec 12) :
    o ≠ .s num := by
  rintro rfl
  simp only [Shape.slots] at h
  split at h <;> try split_ifs at h
  all_goals simp [Operand.fits, Slot.v, Slot.gi, Slot.gvi] at h

/-- The operation of a cell builds, from a form that its positions accept, an instruction of that cell. -/
theorem cellOf_build {cell : Nat} {o : Op} (ho : findOp cell = some o) {f : Form}
    (h : (o.shape.slots f.md (encodeField f.od) (encodeField f.oa)).accept f = true) : cellOf (o.build f) = some (cell, f) := by
  obtain ⟨rfl, hm⟩ := findOp_some ho
  simp only [Slots.accept, Bool.and_eq_true] at h
  obtain ⟨⟨-, hoa⟩, -⟩ := h
  by_cases h1 : o.cell = 101
  · rw [h1, findOp_mfs] at ho
    obtain rfl := Option.some.inj ho
    have hs : f.oa.fits .sRead = true := by
      simp only [Shape.slots] at hoa
      split at hoa <;> exact hoa
    obtain ⟨num, hnum⟩ := fits_sRead hs
    exact cellOf_mkMfs hnum
  by_cases h2 : o.cell = 102
  · rw [h2, findOp_mts] at ho
    obtain rfl := Option.some.inj ho
    exact cellOf_mkMts (mts_oa_ne_s hoa)
  exact cellOf_build_plain f hm h1 h2

/-! ## From a word to its instruction and back -/

/-- The word of an instruction of the opcode map: its head and its three fields. -/
theorem encode_of_cellOf {i : Instr} {cell : Nat} {f : Form} (h : cellOf i = some (cell, f)) :
    encode i = some (headBits cell f.md f.guard f.hints ++ encodeField f.od ++ encodeField f.oa ++ encodeField f.ob) := by
  unfold encode
  split
  · simp [cellOf] at h
  · simp [cellOf] at h
  · simp only [h]

/-- An instruction that the operation of its cell admits and builds is well formed. -/
theorem wellFormed_of_cellOf {i : Instr} {cell : Nat} {o : Op} {f : Form} (hc : cellOf i = some (cell, f)) (ho : findOp cell = some o)
    (ha : o.admits f = true) (hb : o.build f = i) : i.wellFormed = true := by
  unfold Instr.wellFormed
  split
  · simp [cellOf] at hc
  · simp [cellOf] at hc
  · simp [hc, ho, ha, hb]

theorem Guard.ok_of_not_never {g : Guard} (h : ¬(g.neg && g.p == 0) = true) : g.ok = true := by
  rw [Guard.ok, Bool.eq_false_iff.mpr h]; rfl

/-- The form that steps 4 and 5 read from a word of an operation. -/
def formOf (o : Op) (w : IWord) : Form :=
  let sl := o.shape.slots (w.extractLsb' 82 3) (w.extractLsb' 48 24) (w.extractLsb' 24 24)
  ⟨guardOf w, hintsOf w, w.extractLsb' 82 3, operandOf sl.od (w.extractLsb' 48 24), operandOf sl.oa (w.extractLsb' 24 24),
    operandOf sl.ob (w.extractLsb' 0 24)⟩

/-- Step 5 passes a word when no position that is used refuses its field. -/
theorem firstRefused_none {sl : Slots} {od oa ob : BitVec 24} (h : firstRefused sl od oa ob = none) :
    (sl.od.used && slotRefuses sl.od od) = false ∧ (sl.oa.used && slotRefuses sl.oa oa) = false ∧
      (sl.ob.used && slotRefuses sl.ob ob) = false := by
  unfold firstRefused at h
  split_ifs at h with h1 h2 h3
  exact ⟨Bool.eq_false_iff.mpr h1, Bool.eq_false_iff.mpr h2, Bool.eq_false_iff.mpr h3⟩

/-- What it says of a word that steps 4 and 5 pass it: the instruction is built from the form read, bits 73:72 are zero, the guard can
hold, and the fields of the form are those of the word, each in a position that takes it. -/
theorem decodeForm_ok {o : Op} {w : IWord} {i : Instr} (h : decodeForm o w = .ok i) :
    i = o.build (formOf o w) ∧ w.extractLsb' 72 2 = 0 ∧ (guardOf w).ok = true ∧ encodeField (formOf o w).od = w.extractLsb' 48 24 ∧
      encodeField (formOf o w).oa = w.extractLsb' 24 24 ∧ encodeField (formOf o w).ob = w.extractLsb' 0 24 ∧
      (o.shape.slots (w.extractLsb' 82 3) (w.extractLsb' 48 24) (w.extractLsb' 24 24)).accept (formOf o w) = true := by
  unfold decodeForm at h
  simp only at h
  split_ifs at h with hg hr
  split at h
  · simp at h
  case h_2 hf =>
  simp only [Bool.or_eq_true, not_or, Bool.not_eq_true, bne_eq_false_iff_eq] at hr
  obtain ⟨⟨⟨hz, hod⟩, hoa⟩, hob⟩ := hr
  obtain ⟨fod, foa, fob⟩ := firstRefused_none hf
  obtain ⟨eod, aod⟩ := operandOf_passed hod fod
  obtain ⟨eoa, aoa⟩ := operandOf_passed hoa foa
  obtain ⟨eob, aob⟩ := operandOf_passed hob fob
  exact ⟨(Except.ok.inj h).symm, hz, Guard.ok_of_not_never hg, eod, eoa, eob, by simp [Slots.accept, formOf, aod, aoa, aob]⟩

/-- An ordinary word that decodes is the word of its instruction, which is well formed. -/
theorem encode_of_decodeForm {o : Op} {w : IWord} {i : Instr} (ho : findOp (cellOfWord w) = some o)
    (hm : o.mods.contains (w.extractLsb' 82 3).toNat = true) (h : decodeForm o w = .ok i) : encode i = some w ∧ i.wellFormed = true := by
  obtain ⟨rfl, hz, hg, eod, eoa, eob, ha⟩ := decodeForm_ok h
  have hslots : (o.shape.slots (formOf o w).md (encodeField (formOf o w).od) (encodeField (formOf o w).oa)).accept (formOf o w) = true := by
    rw [eod, eoa]; exact ha
  have hc := cellOf_build ho hslots
  constructor
  · rw [encode_of_cellOf hc, eod, eoa, eob]
    exact congrArg some (word_eq_fields w hz)
  · exact wellFormed_of_cellOf hc ho (by rw [Op.admits, hslots]; simpa [formOf, hg] using hm) rfl

/-- A word with bits 73:72 zero is its head, its destination and one raw value of 48 bits (R28, R104). -/
theorem word_eq_raw (w : IWord) (h : w.extractLsb' 72 2 = 0) :
    headBits (cellOfWord w) (w.extractLsb' 82 3) (guardOf w) (hintsOf w) ++ w.extractLsb' 48 24 ++ w.extractLsb' 0 48 = w := by
  simp only [headBits, guardOf, hintsOf, ofNat_cellOfWord, ofBool_getLsbD, ← h, extractLsb'_append_next, BitVec.extractLsb'_eq_self]

/-- A `LIMM.hi` word is its head, its destination and its value between reserved bits that are zero (R104). -/
theorem word_eq_rawHi (w : IWord) (h : w.extractLsb' 72 2 = 0) (h1 : w.extractLsb' 40 8 = 0) (h0 : w.extractLsb' 0 24 = 0) :
    headBits (cellOfWord w) (w.extractLsb' 82 3) (guardOf w) (hintsOf w) ++ w.extractLsb' 48 24 ++ (0 : BitVec 8) ++
      w.extractLsb' 24 16 ++ (0 : BitVec 24) = w := by
  simp only [headBits, guardOf, hintsOf, ofNat_cellOfWord, ofBool_getLsbD, ← h, ← h1, ← h0, extractLsb'_append_next,
    BitVec.extractLsb'_eq_self]

/-- A `LIMM` word that decodes is the word of its instruction, which is well formed. -/
theorem encode_of_decodeLimm {w : IWord} {i : Instr} (hc : cellOfWord w = limmCell) (h : decodeLimm w = .ok i) :
    encode i = some w ∧ i.wellFormed = true := by
  unfold decodeLimm at h
  simp only at h
  have hok := @Guard.ok_of_not_never (guardOf w)
  split_ifs at h with hmd hg hhi hr hs hr hs
  · have hm : w.extractLsb' 82 3 = 1 := by simpa using hhi
    simp only [hhi, Bool.true_and, Bool.or_eq_true, not_or, Bool.not_eq_true, bne_eq_false_iff_eq] at hr
    obtain ⟨⟨hz, hod⟩, h1, h0⟩ := hr
    obtain ⟨eod, aod⟩ := operandOf_passed hod (by simpa [Slot.g] using hs)
    obtain rfl := Except.ok.inj h
    refine ⟨?_, by simp [Instr.wellFormed, hok hg, aod]⟩
    have hw := word_eq_rawHi w hz h1 h0
    rw [hc, hm] at hw
    rw [encode, eod]
    exact congrArg some hw
  · have hm : w.extractLsb' 82 3 = 0 := by simp_all
    simp only [hhi, Bool.or_eq_true, not_or, Bool.not_eq_true, bne_eq_false_iff_eq] at hr
    obtain ⟨⟨hz, hod⟩, -⟩ := hr
    obtain ⟨eod, aod⟩ := operandOf_passed hod (by simpa [Slot.gD] using hs)
    obtain rfl := Except.ok.inj h
    refine ⟨?_, by simp [Instr.wellFormed, hok hg, aod]⟩
    have hw := word_eq_raw w hz
    rw [hc, hm] at hw
    rw [encode, eod]
    exact congrArg some hw

/-- A word that decodes is the word of its instruction, which is well formed: no bit of it is dropped. -/
theorem encode_of_decode {w : IWord} {i : Instr} (h : decode w = .ok i) : encode i = some w ∧ i.wellFormed = true := by
  unfold decode at h
  split_ifs at h with hz
  simp only [beq_iff_eq] at h
  split_ifs at h with hl
  · exact encode_of_decodeLimm hl h
  · split at h
    · simp at h
    case h_2 o ho =>
      split_ifs at h with hm
      exact encode_of_decodeForm ho hm h

/-! ## From an instruction to its word and back -/

/-- The cell of a word is the number in its bits 95:85. -/
theorem cellOfWord_eq (w : IWord) : cellOfWord w = (w.extractLsb' 85 11).toNat := by
  have h1 := (w.extractLsb' 94 2).isLt
  have h2 := (w.extractLsb' 90 4).isLt
  have h3 := (w.extractLsb' 85 5).isLt
  rw [← ofNat_cellOfWord, BitVec.toNat_ofNat, Nat.mod_eq_of_lt]
  simp only [cellOfWord, cellNum]
  omega

/-- What the head of a word says: its cell, modifier, guard and hints, and that bits 73:72 are zero, whatever its fields are. -/
theorem headBits_read {cell : Nat} (hc : cell < 2048) (md : BitVec 3) (g : Guard) (h : Hints) (fields : BitVec 72) :
    let w : IWord := headBits cell md g h ++ fields
    cellOfWord w = cell ∧ w.extractLsb' 82 3 = md ∧ guardOf w = g ∧ hintsOf w = h ∧ w.extractLsb' 72 2 = 0 := by
  simp only [cellOfWord_eq, headBits, guardOf, hintsOf, BitVec.extractLsb'_append_eq_of_le, BitVec.extractLsb'_append_eq_of_add_le,
    BitVec.getLsbD_append, Nat.reduceLeDiff, Nat.reduceLT, Nat.reduceSub, Nat.zero_add, BitVec.extractLsb'_eq_self]
  simp [Nat.mod_eq_of_lt hc]

/-- A cell with an operation fits the 11 bits of a word. -/
theorem findOp_lt {cell : Nat} {o : Op} (h : findOp cell = some o) : cell < 2048 := by
  obtain ⟨rfl, hm⟩ := findOp_some h
  have table : ∀ o ∈ scalarOps ++ vectorOps ++ memoryOps ++ controlOps, o.cell < 2048 := by decide +kernel
  exact table o hm

theorem findOp_limm : findOp limmCell = none := rfl

/-- Steps 1 to 3 give a word of the opcode map with a modifier of its operation to steps 4 and 5. -/
theorem decode_of_findOp {w : IWord} (hw : w ≠ 0) {o : Op} (ho : findOp (cellOfWord w) = some o)
    (hm : o.mods.contains (w.extractLsb' 82 3).toNat = true) : decode w = decodeForm o w := by
  have hl : ¬cellOfWord w = limmCell := fun e => by rw [e, findOp_limm] at ho; simp at ho
  simp only [cellOfWord] at ho hl
  simp only [decode, beq_iff_eq, hw, hl, ho, hm, if_true, if_false]

/-- The words of cell `LIMM` are read by their own rules (R104). -/
theorem decode_of_limm {w : IWord} (hw : w ≠ 0) (hc : cellOfWord w = limmCell) : decode w = decodeLimm w := by
  simp only [cellOfWord] at hc
  simp only [decode, beq_iff_eq, hw, hc, if_true, if_false]

/-- Steps 4 and 5 pass a word whose pieces are those of a form that its positions accept, and build the instruction of that form. -/
theorem decodeForm_of_passed {o : Op} {w : IWord} {f : Form} (hg : f.guard.ok = true)
    (ha : (o.shape.slots f.md (encodeField f.od) (encodeField f.oa)).accept f = true)
    (h1 : w.extractLsb' 82 3 = f.md) (h2 : guardOf w = f.guard) (h3 : hintsOf w = f.hints) (h4 : w.extractLsb' 72 2 = 0)
    (h5 : w.extractLsb' 48 24 = encodeField f.od) (h6 : w.extractLsb' 24 24 = encodeField f.oa) (h7 : w.extractLsb' 0 24 = encodeField f.ob) :
  decodeForm o w = .ok (o.build f) := by
  simp only [Slots.accept, Bool.and_eq_true] at ha
  obtain ⟨⟨hod, hoa⟩, hob⟩ := ha
  obtain ⟨rod, sod, eod⟩ := passed_of_fits hod
  obtain ⟨roa, soa, eoa⟩ := passed_of_fits hoa
  obtain ⟨rob, sob, eob⟩ := passed_of_fits hob
  have hg' : (f.guard.neg && f.guard.p == 0) = false := (Bool.not_eq_true' _).mp hg
  simp only [decodeForm, firstRefused, h1, h2, h3, h4, h5, h6, h7, hg', rod, roa, rob, sod, soa, sob, eod, eoa, eob, bne_self_eq_false,
    Bool.or_self, Bool.false_eq_true, if_false]

/-- A word of three fields is its head before the 72 bits of the fields. -/
theorem word_eq_head (h a b c : BitVec 24) : (h ++ a ++ b ++ c : IWord) = (h ++ (a ++ b ++ c) : BitVec (24 + 72)) := by
  simp only [BitVec.append_assoc, BitVec.cast_eq]

/-- The three fields are read back from a word. -/
theorem fields_read (h a b c : BitVec 24) :
    let w : IWord := h ++ (a ++ b ++ c)
    w.extractLsb' 48 24 = a ∧ w.extractLsb' 24 24 = b ∧ w.extractLsb' 0 24 = c := by
  simp only [← word_eq_head, BitVec.extractLsb'_append_eq_of_le, BitVec.extractLsb'_append_eq_of_add_le, Nat.reduceLeDiff, Nat.reduceSub,
    BitVec.extractLsb'_eq_self, Nat.zero_add, and_self, Nat.le_refl]

/-- An instruction that has a word is `LIMM`, `LIMM.hi` or one of the opcode map with a form. -/
theorem cellOf_of_encode {i : Instr} {w : IWord} (h : encode i = some w) : (∃ g h od v, i = .limm g h od v) ∨ (∃ g h od v, i = .limmHi g h od v) ∨
    ∃ cell f, cellOf i = some (cell, f) ∧ headBits cell f.md f.guard f.hints ++ encodeField f.od ++ encodeField f.oa ++ encodeField f.ob = w := by
  unfold encode at h
  split at h
  · exact .inl ⟨_, _, _, _, rfl⟩
  · exact .inr (.inl ⟨_, _, _, _, rfl⟩)
  · split at h
    case h_1 cell f hc => exact .inr (.inr ⟨cell, f, hc, Option.some.inj h⟩)
    · simp at h

/-- An instruction of the opcode map is read back from its word. -/
theorem decode_encode_form {i : Instr} {cell : Nat} {f : Form} (hc : cellOf i = some (cell, f)) (hwf : i.wellFormed = true) {w : IWord}
    (he : headBits cell f.md f.guard f.hints ++ encodeField f.od ++ encodeField f.oa ++ encodeField f.ob = w) (hw : w ≠ 0) :
    decode w = .ok i := by
  have hl : ¬((∃ g h od v, i = .limm g h od v) ∨ ∃ g h od v, i = .limmHi g h od v) := by
    rintro (⟨g, h, od, v, rfl⟩ | ⟨g, h, od, v, rfl⟩) <;> simp [cellOf] at hc
  unfold Instr.wellFormed at hwf
  split at hwf
  · simp at hl
  · simp at hl
  rw [hc] at hwf
  simp only at hwf
  split at hwf
  · simp at hwf
  rename_i o ho
  simp only [Bool.and_eq_true, beq_iff_eq, Op.admits] at hwf
  obtain ⟨⟨⟨hm, hg⟩, ha⟩, rfl⟩ := hwf
  rw [word_eq_head] at he
  obtain ⟨rc, rm, rg, rh, rz⟩ := headBits_read (findOp_lt ho) f.md f.guard f.hints (encodeField f.od ++ encodeField f.oa ++ encodeField f.ob)
  obtain ⟨fa, fb, fc⟩ := fields_read (headBits cell f.md f.guard f.hints) (encodeField f.od) (encodeField f.oa) (encodeField f.ob)
  simp only [he] at *
  rw [decode_of_findOp hw (rc ▸ ho) (rm ▸ hm)]
  exact decodeForm_of_passed hg ha rm rg rh rz fa fb fc

/-- A word with one raw value is its head before the 72 bits of its destination and its value (R104). -/
theorem raw_eq_head (h a : BitVec 24) (v : BitVec 48) : (h ++ a ++ v : IWord) = (h ++ (a ++ v) : BitVec (24 + 72)) := by
  simp only [BitVec.append_assoc, BitVec.cast_eq]

/-- The destination and the raw value are read back from the word of `LIMM`. -/
theorem raw_read (h a : BitVec 24) (v : BitVec 48) :
    let w : IWord := h ++ (a ++ v)
    w.extractLsb' 48 24 = a ∧ w.extractLsb' 0 48 = v := by
  simp only [← raw_eq_head, BitVec.extractLsb'_append_eq_of_le, BitVec.extractLsb'_append_eq_of_add_le, Nat.reduceSub,
    BitVec.extractLsb'_eq_self, Nat.zero_add, and_self, Nat.le_refl]

/-- The word of `LIMM.hi` is its head before the 72 bits of its destination and its value. -/
theorem rawHi_eq_head (h a : BitVec 24) (v : BitVec 16) : (h ++ a ++ (0 : BitVec 8) ++ v ++ (0 : BitVec 24) : IWord) =
    (h ++ (a ++ (0 : BitVec 8) ++ v ++ (0 : BitVec 24)) : BitVec (24 + 72)) := by
  simp only [BitVec.append_assoc, BitVec.cast_eq]

/-- The destination, the raw value and the zeros around it are read back from the word of `LIMM.hi`. -/
theorem rawHi_read (h a : BitVec 24) (v : BitVec 16) :
    let w : IWord := h ++ (a ++ (0 : BitVec 8) ++ v ++ (0 : BitVec 24))
    w.extractLsb' 48 24 = a ∧ w.extractLsb' 40 8 = 0 ∧ w.extractLsb' 24 16 = v ∧ w.extractLsb' 0 24 = 0 := by
  simp only [← rawHi_eq_head, BitVec.extractLsb'_append_eq_of_le, BitVec.extractLsb'_append_eq_of_add_le, Nat.reduceLeDiff, Nat.reduceSub,
    BitVec.extractLsb'_eq_self, Nat.zero_add, and_self, Nat.le_refl]

/-- `LIMM` is read back from its word. -/
theorem decode_encode_limm {g : Guard} {h : Hints} {od : Operand} {v : BitVec 48} (hwf : (Instr.limm g h od v).wellFormed = true) {w : IWord}
    (he : headBits limmCell 0 g h ++ encodeField od ++ v = w) (hw : w ≠ 0) : decode w = .ok (.limm g h od v) := by
  obtain ⟨hg, hod⟩ := Bool.and_eq_true_iff.mp hwf
  obtain ⟨rod, sod, eod⟩ := passed_of_fits hod
  have hg' : (g.neg && g.p == 0) = false := (Bool.not_eq_true' _).mp hg
  have sod' : slotRefuses .gD (encodeField od) = false := by simpa [Slot.gD] using sod
  rw [raw_eq_head] at he
  obtain ⟨rc, rm, rg, rh, rz⟩ := headBits_read (by decide : limmCell < 2048) 0 g h (encodeField od ++ v)
  obtain ⟨fod, fraw⟩ := raw_read (headBits limmCell 0 g h) (encodeField od) v
  simp only [he] at *
  have e01 : ((0 : BitVec 3) == 1) = false := rfl
  simp only [decode_of_limm hw rc, decodeLimm, rm, rg, rh, rz, hg', fod, fraw, e01, rod, sod', eod, bne_self_eq_false, Bool.false_and, Bool.or_self,
    Bool.false_eq_true, if_false]

/-- `LIMM.hi` is read back from its word. -/
theorem decode_encode_limmHi {g : Guard} {h : Hints} {od : Operand} {v : BitVec 16} (hwf : (Instr.limmHi g h od v).wellFormed = true) {w : IWord}
    (he : headBits limmCell 1 g h ++ encodeField od ++ (0 : BitVec 8) ++ v ++ (0 : BitVec 24) = w) (hw : w ≠ 0) : decode w = .ok (.limmHi g h od v) := by
  obtain ⟨hg, hod⟩ := Bool.and_eq_true_iff.mp hwf
  obtain ⟨rod, sod, eod⟩ := passed_of_fits hod
  have hg' : (g.neg && g.p == 0) = false := (Bool.not_eq_true' _).mp hg
  have sod' : slotRefuses .g (encodeField od) = false := by simpa [Slot.g] using sod
  rw [rawHi_eq_head] at he
  obtain ⟨rc, rm, rg, rh, rz⟩ := headBits_read (by decide : limmCell < 2048) 1 g h (encodeField od ++ (0 : BitVec 8) ++ v ++ (0 : BitVec 24))
  obtain ⟨fod, f40, f24, f0⟩ := rawHi_read (headBits limmCell 1 g h) (encodeField od) v
  simp only [he] at *
  simp only [decode_of_limm hw rc, decodeLimm, rm, rg, rh, rz, hg', fod, f40, f24, f0, rod, sod', eod, bne_self_eq_false, beq_self_eq_true,
    Bool.not_true, Bool.and_false, Bool.or_self, Bool.false_eq_true, if_false, if_true]

/-- Every well-formed instruction is read back from its word, unless the word is zero, which decodes to no instruction (R37). -/
theorem decode_encode {i : Instr} {w : IWord} (hwf : i.wellFormed = true) (he : encode i = some w) (hw : w ≠ 0) : decode w = .ok i := by
  rcases cellOf_of_encode he with ⟨g, h, od, v, rfl⟩ | ⟨g, h, od, v, rfl⟩ | ⟨cell, f, hc, hf⟩
  · exact decode_encode_limm hwf (Option.some.inj he) hw
  · exact decode_encode_limmHi hwf (Option.some.inj he) hw
  · exact decode_encode_form hc hwf hf hw

/-! ## The obligations about the decoder -/

/-- Settles O51: every step of the decoder that passes a word keeps all of its bits. -/
theorem encodeDecode : Obligations.EncodeDecode := by
  unfold Obligations.EncodeDecode
  exact fun _ _ h => encode_of_decode h

/-- The instruction whose word is zero: `ADD g0, g0, g0` at 64 bits under the guard p0 with no hint. -/
def zeroAdd : Instr := .add ⟨⟨false, 0⟩, ⟨false, false, 0⟩, 0, .g 0 false, .g 0 false, .g 0 false⟩

/-- It is well formed, and its word is the one that R37 keeps out of the decoder. -/
theorem zeroAdd_word : zeroAdd.wellFormed = true ∧ encode zeroAdd = some 0 ∧ decode 0 = .error (.illegalOp .zeroWord) := by decide

/-- Refutes O50: `zeroAdd` is well formed, and its word is the zero word, which decodes to no instruction (R37). Every other well-formed
instruction is read back (`decode_encode`). -/
theorem not_decodeEncode : ¬ Obligations.DecodeEncode := by
  unfold Obligations.DecodeEncode
  intro h
  obtain ⟨hwf, hword, hzero⟩ := zeroAdd_word
  have hback : decode 0 = .ok zeroAdd := h zeroAdd 0 hwf hword
  rw [hzero] at hback
  exact absurd hback (by simp)

/-- Settles O49: the words are closed values, and the decoder computes. -/
theorem decodeWords : Obligations.DecodeWords := by
  unfold Obligations.DecodeWords
  decide +kernel

end Sys2Proof

end

/-! # The turn of a core and the word it issues (R23, R33 to R36, R63, R64, R223, R348, R382) -/
section

namespace Sys2Proof.Machine

/-! ## One turn (R63, R64, R382, log 3) -/

theorem nextTurn_of_agenda {s : State} {t : Turn} {rest : List Turn} (h : s.agenda = t :: rest) :
    nextTurn s = (some t, { s with agenda := rest }) := by
  simp only [nextTurn, h]

/-- A turn of the device is its step, which without power only a reset is (R382). -/
theorem step_event {s : State} {n : Nat} {i : Instr} {rest : List Turn} (ha : s.agenda = .event n i :: rest)
    (h : s.powered = true ∨ i = .deviceReset) : step s = exec i (advance n { s with agenda := rest }) := by
  simp only [step, stepWith, nextTurn_of_agenda ha]
  rw [if_pos (by simpa using h)]

theorem step_event_off {s : State} {n : Nat} {i : Instr} {rest : List Turn} (ha : s.agenda = .event n i :: rest)
    (hp : s.powered = false) (hi : i ≠ .deviceReset) : step s = .fault .noPower := by
  simp only [step, stepWith, nextTurn_of_agenda ha]
  rw [if_neg (by simp [hp, hi])]

/-- A turn of a core is its issue slot. -/
theorem step_issue {s : State} {n core : Nat} {rest : List Turn} (hp : s.powered = true) (ha : s.agenda = .issue n core :: rest) :
    step s = issueSlot exec core (advance n { s with agenda := rest }) := by
  simp only [step, stepWith, nextTurn_of_agenda ha, hp, if_true]

theorem step_issue_off {s : State} {n core : Nat} {rest : List Turn} (hp : s.powered = false) (ha : s.agenda = .issue n core :: rest) :
    step s = .fault .noPower := by
  simp only [step, stepWith, nextTurn_of_agenda ha, hp, Bool.false_eq_true, if_false]

theorem step_default_off {s : State} (hp : s.powered = false) (ha : s.agenda = []) : step s = .fault .noPower := by
  cases hd : defaultCore s <;>
    simp only [step, stepWith, nextTurn, ha, hd, Option.map_none, Option.map_some, hp, Bool.false_eq_true, if_false]

/-- Thread sets that may not issue are passed over. -/
theorem issueFrom_skip (ex : Instr → State → Outcome) {core : Nat} {s : State} {before : List Nat} (rest : List Nat)
    (h : ∀ k ∈ before, mayIssue s core k = false) : issueFrom ex core (before ++ rest) s = issueFrom ex core rest s := by
  induction before with
  | nil => rfl
  | cons k before ih =>
    rw [List.cons_append, issueFrom, h k List.mem_cons_self]
    exact ih (fun j hj => h j (List.mem_cons_of_mem _ hj))

/-- The state in which thread set `ts` of a core tries to issue. -/
def tries (s : State) (core ts : Nat) : State :=
  (s.modCore core (fun c => { c with pass := false })).modTset core ts (fun t => { t with stalled := false })

theorem breakDue_false {s : State} {core ts : Nat}
    (h : featureOpen s (s.partitionOf (s.ctxOf core ts)) 3 = false ∨ atBreakpoint s core ts = false) : breakDue s core ts = false :=
  Bool.and_eq_false_iff.mpr h

/-- What the first thread set that may issue makes of the slot: its instruction is issued, or it stalls and the others try. -/
theorem issueFrom_next {ex : Instr → State → Outcome} {core ts : Nat} {s t : State} (rest : List Nat) (hm : mayIssue s core ts = true)
    (hb : breakDue s core ts = false) (h : issueOne ex core ts (tries s core ts) = .next t) :
    issueFrom ex core (ts :: rest) s = if (t.tset core ts).stalled then issueFrom ex core rest t else .next (afterIssue t core ts) := by
  simp only [tries] at h
  simp only [issueFrom, hm, hb, h, Bool.not_true, Bool.false_eq_true, if_false]

theorem issueFrom_fault {ex : Instr → State → Outcome} {core ts : Nat} {s : State} {r : Fault} (rest : List Nat)
    (hm : mayIssue s core ts = true) (hb : breakDue s core ts = false) (h : issueOne ex core ts (tries s core ts) = .fault r) :
    issueFrom ex core (ts :: rest) s = .fault r := by
  simp only [tries] at h
  simp only [issueFrom, hm, hb, h, Bool.not_true, Bool.false_eq_true, if_false]

theorem issueFrom_refused {ex : Instr → State → Outcome} {core ts : Nat} {s : State} {r : Refusal} (rest : List Nat)
    (hm : mayIssue s core ts = true) (hb : breakDue s core ts = false) (h : issueOne ex core ts (tries s core ts) = .refused r) :
    issueFrom ex core (ts :: rest) s = .refused r := by
  simp only [tries] at h
  simp only [issueFrom, hm, hb, h, Bool.not_true, Bool.false_eq_true, if_false]

/-- A core that has issued in this cycle only makes the aborts that are due (R223). -/
theorem issueSlot_busy (ex : Instr → State → Outcome) {core : Nat} {s : State}
    (h : (dueAborts s core).cycle core < ((dueAborts s core).core core).nextIssue) : issueSlot ex core s = .next (dueAborts s core) :=
  if_pos h

/-- The slot goes to the first thread set that may issue, after the aborts that are due. -/
theorem issueSlot_first (ex : Instr → State → Outcome) {core ts : Nat} {s : State} {before others : List Nat}
    (hn : ((dueAborts s core).core core).nextIssue ≤ (dueAborts s core).cycle core)
    (ho : issueOrder ((dueAborts s core).core core) = before ++ ts :: others)
    (hbefore : ∀ k ∈ before, mayIssue (dueAborts s core) core k = false) :
    issueSlot ex core s = issueFrom ex core (ts :: others) (dueAborts s core) := by
  rw [← issueFrom_skip ex (ts :: others) hbefore, ← ho]
  exact if_neg (Nat.not_lt.mpr hn)

/-- A word that decodes is issued as its instruction. -/
theorem issueOne_decoded (ex : Instr → State → Outcome) {core ts : Nat} {s : State} {w : IWord} {v : State} {i : Instr}
    (hw : nextWord { s with curCore := core, curTs := ts } = .ok (w, v)) (hd : decode w = .ok i) : issueOne ex core ts s = ex i v := by
  simp only [issueOne, hw, hd]

/-- A word that the decoder refuses traps with its cause (R36). -/
theorem issueOne_refused (ex : Instr → State → Outcome) {core ts : Nat} {s : State} {w : IWord} {v : State} {e : DecodeError}
    (hw : nextWord { s with curCore := core, curTs := ts } = .ok (w, v)) (hd : decode w = .error e) :
    issueOne ex core ts s = .next (takeTrap (decodeTrap w e).1 (decodeTrap w e).2 ({ s with curCore := core, curTs := ts } : State).me.pc
      { v with ia := ({ s with curCore := core, curTs := ts } : State).me.pc }) := by
  simp only [issueOne, hw, hd]

/-- A word that cannot be fetched traps with the cause of its fetch. -/
theorem issueOne_trap (ex : Instr → State → Outcome) {s : State} {cause : Nat} {tval : Word}
    (hw : nextWord s = .error (.trap cause tval)) :
    issueOne ex s.curCore s.curTs s = .next (takeTrap cause tval s.me.pc { s with ia := s.me.pc }) := by
  simp only [issueOne, hw]

/-- An instruction that waits keeps its word. -/
theorem nextWord_waiting {s : State} (h : s.me.wait ≠ .none) : nextWord s = .ok (s.me.word, s) := by
  rw [nextWord, if_pos (by simpa [Wait.isOwn] using h)]

/-- Otherwise the word is the one fetched at the pc. -/
theorem nextWord_fetched {s : State} {w : IWord} {v : State} (h : s.me.wait = .none) (hf : fetch s = .ok (w, v)) :
    nextWord s = .ok (w, v.modMe (fun t => { t with word := w })) := by
  rw [nextWord, if_neg (by simp [Wait.isOwn, h]), hf]
  rfl
/-- Settles O52: the turn selects the slot, the slot its first thread set that may issue, and that one's word the instruction. -/
theorem stepRuns : Obligations.StepRuns := by
  unfold Obligations.StepRuns
  refine ⟨?_, ?_, ?_, ?_, ?_⟩
  · intro s n core ts rest before others w v u x at_ hp ha hn ho hbefore hm hb hw
    have hstep : step s = issueFrom exec core (ts :: others) u := by
      rw [step_issue hp ha, issueSlot_first exec hn ho hbefore]
    have hbd : breakDue u core ts = false := breakDue_false hb
    rw [hstep]
    constructor
    · intro i hd
      have hone : issueOne exec core ts (tries u core ts) = exec i v := issueOne_decoded exec hw hd
      refine ⟨fun t he ht => ?_, fun t he ht hl => ?_, fun r he => issueFrom_fault others hm hbd (hone.trans he),
        fun r he => issueFrom_refused others hm hbd (hone.trans he)⟩
      · rw [issueFrom_next others hm hbd (hone.trans he), ht]
        rfl
      · rw [issueFrom_next others hm hbd (hone.trans he), ht, hl]
        rfl
    · intro e hd t ht
      have hone : issueOne exec core ts (tries u core ts) = .next t := issueOne_refused exec hw hd
      rw [issueFrom_next others hm hbd hone, ht]
      rfl
  · intro s n core rest u hp ha hn
    rw [step_issue hp ha]
    exact issueSlot_busy exec hn
  · intro s
    refine ⟨nextWord_waiting, fun w v => nextWord_fetched, ?_⟩
    rintro ex core ts cause tval rfl rfl h
    exact issueOne_trap ex h
  · intro s n i rest ha
    exact ⟨fun hp => step_event ha (.inl hp), step_event_off ha⟩
  · rintro s n core rest hp (ha | ha)
    · exact step_issue_off hp ha
    · exact step_default_off hp ha

end Sys2Proof.Machine

end


/-! # What keeps a word from its effect (R28 to R30, R53 to R57, R63, R98, R138, R354) -/
section

namespace Sys2Proof.Machine

/-! ## Words that run in the shared frame -/

/-- A meaning is the shared frame of a form with some effect of its own: the guard is read over `lanes`, and OD is used as `use`. -/
def RunsAs (f : Form) (lanes : Option Nat) (use : OdUse) (ex : State → Outcome) : Prop := ∃ body, ∀ s, ex s = run f lanes use body s

/-- A word whose meaning is a shared operation runs as that does. -/
theorem RunsAs.congr {f : Form} {lanes : Option Nat} {use : OdUse} {ex ex' : State → Outcome} (h : RunsAs f lanes use ex')
    (e : ∀ s, ex s = ex' s) : RunsAs f lanes use ex := by
  obtain ⟨body, hb⟩ := h
  exact ⟨body, fun s => (e s).trans (hb s)⟩

theorem runToG_run {f : Form} {use : OdUse} {result : TSet → Word} : RunsAs f none use (runToG f use result) := ⟨_, fun _ => rfl⟩
theorem runToP_run {f : Form} {result : TSet → Word} : RunsAs f none .none (runToP f result) := ⟨_, fun _ => rfl⟩
theorem intOp_run {f : Form} {op : Nat → Word → Word → Word} : RunsAs f none .write (intOp op f) := runToG_run
theorem intOp1_run {f : Form} {op : Nat → Word → Word} : RunsAs f none .write (intOp1 op f) := runToG_run
theorem mulOp_run {f : Form} {op : Nat → Word → Word → Word} : RunsAs f none .write (mulOp op f) := ⟨_, fun _ => rfl⟩
theorem divOp_run {f : Form} {op : Nat → Word → Word → Word} : RunsAs f none .write (divOp op f) := ⟨_, fun _ => rfl⟩
theorem fpOp_run {f : Form} {use : OdUse} {op : Fmt → FVal → FVal → FVal → Nat × BitVec 5} : RunsAs f none use (fpOp use op f) :=
  ⟨_, fun _ => rfl⟩
theorem fpLong_run {f : Form} {n : Nat} {op : Fmt → FVal → FVal → FVal → Nat × BitVec 5} : RunsAs f none .write (fpLong n op f) :=
  ⟨_, fun _ => rfl⟩
theorem atomicOp_run {f : Form} {op : Nat} (h : op ≠ 10) : RunsAs f none .write (atomicOp op f) :=
  ⟨_, fun s => by rw [atomicOp, if_neg h]⟩
theorem acasOp_run {f : Form} : RunsAs f none .both (atomicOp 10 f) := ⟨_, fun _ => rfl⟩
theorem rightsOp_run {f : Form} {effect : State → Word → Word → Word × State} : RunsAs f none .write (rightsOp f effect) := ⟨_, fun _ => rfl⟩
theorem anvilOp_run {f : Form} {op : AnvilOp} : RunsAs f none .read (anvilOp f op) := ⟨_, fun _ => rfl⟩
theorem eventOp_run {f : Form} {op : Word → Word → Word} : RunsAs f none .none (eventOp f op) := ⟨_, fun _ => rfl⟩
theorem runLanesOpt_run {f : Form} {ty n : Nat} (readsOD : Bool) {res : State → List Nat → List Nat → List Nat → List (Option Nat)} :
    RunsAs f (some (laneCount ty)) (if readsOD then .both else .write) (runLanesOpt f ty readsOD n res) := ⟨_, fun _ => rfl⟩
theorem runLanes_run {f : Form} {ty n : Nat} (readsOD : Bool) {res : State → List Nat → List Nat → List Nat → List Nat} :
    RunsAs f (some (laneCount ty)) (if readsOD then .both else .write) (runLanes f ty readsOD n res) :=
  runLanesOpt_run readsOD (res := fun s d a b => (res s d a b).map some)
theorem runLanewise_run {f : Form} {ty n : Nat} (readsOD : Bool) {op : Nat → Nat → Nat → Nat} :
    RunsAs f (some (laneCount ty)) (if readsOD then .both else .write) (runLanewise f ty readsOD n op) :=
  runLanes_run readsOD (res := fun _ d a b => List.zipWith (fun d (p : Nat × Nat) => op d p.1 p.2) d (a.zip b))
theorem runLanesToG_run {f : Form} {ty n : Nat} {res : List Bool → List Nat → List Nat → Word} :
    RunsAs f (some (laneCount ty)) .write (runLanesToG f ty n res) := ⟨_, fun _ => rfl⟩
theorem runLaneCompare_run {f : Form} {ty n : Nat} {test : Nat → Nat → Bool} :
    RunsAs f (some (laneCount ty)) .none (runLaneCompare f ty n test) := ⟨_, fun _ => rfl⟩
theorem vfOp_run {f : Form} {n : Nat} {op : FVal → FVal → FVal} : RunsAs f (some (laneCount (tyOf f))) .write (vfOp n op f) := runLanewise_run false
theorem viOp_run {f : Form} {op : Int → Int → Int} : RunsAs f (some (laneCount (tyOf f))) .write (viOp op f) := runLanewise_run false
theorem viBits_run {f : Form} {op : Nat → Nat → Nat → Nat} : RunsAs f (some (laneCount (tyOf f))) .write (viBits op f) :=
  runLanewise_run false (op := fun _ a b => op (laneBits (tyOf f)) a b % 2 ^ laneBits (tyOf f))
theorem vfCmp_run {f : Form} {test : FVal → FVal → Bool} : RunsAs f (some (laneCount (tyOf f))) .none (vfCmp test f) := runLaneCompare_run
theorem lanesLoad_run {f : Form} {off : State → Nat → Int} : RunsAs f (some (laneCount (tyOf f))) .write (lanesLoad f off) := ⟨_, fun _ => rfl⟩
theorem lanesStore_run {f : Form} {off : State → Nat → Int} : RunsAs f (some (laneCount (tyOf f))) .read (lanesStore f off) := ⟨_, fun _ => rfl⟩

/-- Every word of `formWords` runs in the shared frame, with the lanes of its guard and the use of OD listed there. -/
theorem formWords_run (f : Form) : ∀ x ∈ formWords f, RunsAs f x.2.1 x.2.2 (exec x.1) := by
  simp only [formWords, List.forall_mem_append, List.forall_mem_map, List.forall_mem_cons, List.not_mem_nil,
    false_imp_iff, implies_true, and_true]
  refine ⟨⟨⟨⟨⟨⟨⟨⟨?_, ?_⟩, ?_⟩, ?_⟩, ?_⟩, ?_⟩, ?_⟩, ?_⟩, ?_⟩
  · exact ⟨intOp_run.congr (exec_add f), intOp_run.congr (exec_sub f), mulOp_run.congr (exec_mul f), mulOp_run.congr (exec_mulh f),
      divOp_run.congr (exec_div f), divOp_run.congr (exec_divu f), divOp_run.congr (exec_rem f), divOp_run.congr (exec_remu f),
      intOp1_run.congr (exec_neg f), intOp1_run.congr (exec_abs f), intOp_run.congr (exec_min f), intOp_run.congr (exec_max f),
      intOp_run.congr (exec_minu f), intOp_run.congr (exec_maxu f), intOp_run.congr (exec_and f), intOp_run.congr (exec_or f),
      intOp_run.congr (exec_xor f), intOp_run.congr (exec_andn f), intOp_run.congr (exec_shl f), intOp_run.congr (exec_shr f),
      intOp_run.congr (exec_sar f), intOp_run.congr (exec_ror f), intOp1_run.congr (exec_clz f), intOp1_run.congr (exec_ctz f),
      intOp1_run.congr (exec_popc f), intOp_run.congr (exec_extr f), runToG_run.congr (exec_mov f), runToG_run.congr (exec_lea f),
      runToG_run.congr (exec_ptrg f), runToG_run.congr (exec_ptrs f), runToG_run.congr (exec_curg f), runToG_run.congr (exec_ptog f),
      fpOp_run.congr (exec_fadd f), fpOp_run.congr (exec_fsub f), fpOp_run.congr (exec_fmul f), fpOp_run.congr (exec_fmin f),
      fpOp_run.congr (exec_fmax f), fpLong_run.congr (exec_fdiv f), fpLong_run.congr (exec_fsqrt f), ⟨_, exec_fcvt f⟩⟩
  · exact ⟨⟨_, exec_ld f⟩, ⟨_, exec_sld f⟩, ⟨_, exec_ldl f⟩, (atomicOp_run (by decide)).congr (exec_aadd f),
      (atomicOp_run (by decide)).congr (exec_afadd f), (atomicOp_run (by decide)).congr (exec_amax f),
      (atomicOp_run (by decide)).congr (exec_amaxu f), (atomicOp_run (by decide)).congr (exec_afmax f),
      (atomicOp_run (by decide)).congr (exec_amin f), (atomicOp_run (by decide)).congr (exec_aand f),
      (atomicOp_run (by decide)).congr (exec_aor f), (atomicOp_run (by decide)).congr (exec_axor f),
      (atomicOp_run (by decide)).congr (exec_axchg f), ⟨_, exec_unbind f⟩, ⟨_, exec_spinw f⟩, ⟨_, exec_barmax f⟩,
      rightsOp_run.congr (exec_grant f), rightsOp_run.congr (exec_rchk f), ⟨_, exec_revoke f⟩, ⟨_, exec_genadv f⟩, ⟨_, exec_twait f⟩,
      ⟨_, exec_gnode f⟩, ⟨_, exec_gseal f⟩, ⟨_, exec_call f⟩, ⟨_, exec_tagpnd f⟩, ⟨_, exec_qpost f⟩, ⟨_, exec_resolve f⟩⟩
  · exact ⟨runToG_run.congr (exec_ins f), runToG_run.congr (exec_sel f), fpOp_run.congr (exec_ffma f), acasOp_run.congr (exec_acas f),
      ⟨_, exec_bind f⟩, ⟨_, exec_loop f⟩⟩
  · exact ⟨⟨_, exec_st f⟩, ⟨_, exec_sst f⟩, ⟨_, exec_stu f⟩, anvilOp_run.congr (exec_mma f), anvilOp_run.congr (exec_mmas f),
      anvilOp_run.congr (exec_mrot f), anvilOp_run.congr (exec_mrot2 f), ⟨_, exec_cclr f⟩, ⟨_, exec_tld f⟩, ⟨_, exec_tst f⟩,
      ⟨_, exec_tcvt f⟩, ⟨_, exec_esend f⟩, ⟨_, exec_endw f⟩⟩
  · exact ⟨runToP_run.congr (exec_cmp f), runToP_run.congr (exec_pand f), runToP_run.congr (exec_por f), runToP_run.congr (exec_pxor f),
      runToP_run.congr (exec_pnot f), runToP_run.congr (exec_gtop f), ⟨_, exec_curs f⟩, ⟨_, exec_fcmp f⟩, ⟨_, exec_ulk f⟩,
      ⟨_, exec_acq f⟩, ⟨_, exec_rel f⟩, ⟨_, exec_fence f⟩, ⟨_, exec_xfence f⟩, ⟨_, exec_barsync f⟩, ⟨_, exec_br f⟩, ⟨_, exec_bri f⟩,
      ⟨_, exec_ret f⟩, ⟨_, exec_endAct f⟩, ⟨_, exec_yieldAct f⟩, ⟨_, exec_rread f⟩, ⟨_, exec_htset f⟩, ⟨_, exec_tagen f⟩,
      ⟨_, exec_join f⟩, eventOp_run.congr (exec_evset f), eventOp_run.congr (exec_evclr f), ⟨_, exec_fail f⟩, ⟨_, exec_cut f⟩,
      ⟨_, exec_trail f⟩, ⟨_, exec_nop f⟩, ⟨_, exec_trap f⟩, ⟨_, exec_tret f⟩, ⟨_, exec_tabort f⟩, ⟨_, exec_brk f⟩⟩
  · exact ⟨vfOp_run.congr (exec_vfadd f), vfOp_run.congr (exec_vfsub f), vfOp_run.congr (exec_vfmul f), vfOp_run.congr (exec_vfmin f),
      vfOp_run.congr (exec_vfmax f), vfOp_run.congr (exec_vfabs f), vfOp_run.congr (exec_vfneg f), vfOp_run.congr (exec_vfrcp f),
      vfOp_run.congr (exec_vfrsq f), vfOp_run.congr (exec_vfexp2 f), viOp_run.congr (exec_vadd f), viOp_run.congr (exec_vsub f),
      viOp_run.congr (exec_vmul f), viOp_run.congr (exec_vmulh f), viOp_run.congr (exec_vmin f), viOp_run.congr (exec_vmax f),
      viOp_run.congr (exec_vabs f), viOp_run.congr (exec_vadds f), viBits_run.congr (exec_vand f), viBits_run.congr (exec_vor f),
      viBits_run.congr (exec_vxor f), viBits_run.congr (exec_vshl f), viBits_run.congr (exec_vshr f), viBits_run.congr (exec_vsar f),
      (runLanewise_run false).congr (exec_vscl f), ⟨_, exec_vcvt f⟩, ⟨_, exec_vqnt f⟩, ⟨_, exec_vdqnt f⟩,
      runLanesToG_run.congr (exec_vamax f), runLanesToG_run.congr (exec_vrsum f), runLanesToG_run.congr (exec_vrmax f),
      runLanesToG_run.congr (exec_vrmin f), (runLanes_run false).congr (exec_vperm f), (runLanes_run false).congr (exec_vbcast f),
      (runLanes_run false).congr (exec_vrot f), (runLanes_run false).congr (exec_vcomp f), (runLanes_run false).congr (exec_vexpd f),
      ⟨_, exec_vext f⟩, ⟨_, exec_vld f⟩, lanesLoad_run.congr (exec_vlds f), lanesLoad_run.congr (exec_vgth f), ⟨_, exec_vgld f⟩⟩
  · exact ⟨(runLanewise_run true).congr (exec_vffma f), (runLanesOpt_run true).congr (exec_vsel f),
      (runLanesOpt_run true).congr (exec_vins f)⟩
  · exact ⟨⟨_, exec_vst f⟩, lanesStore_run.congr (exec_vsts f), lanesStore_run.congr (exec_vsct f), ⟨_, exec_vgst f⟩⟩
  · exact ⟨vfCmp_run.congr (exec_vfcmpeq f), vfCmp_run.congr (exec_vfcmplt f), vfCmp_run.congr (exec_vfcmple f),
      runLaneCompare_run.congr (exec_vcmpeq f), runLaneCompare_run.congr (exec_vcmplt f)⟩

/-! ## What keeps a word from its effect (R28 to R30, R53 to R57, R63, R98, R354) -/

@[simp] theorem begin_ia (s : State) : (begin s).ia = s.me.pc := rfl

/-- A word that stalls: it will issue again at the same address, with its registers and the memory as they are (R63). -/
def Stalls (s : State) (out : Outcome) : Prop :=
  ∃ t, out = .next t ∧ t.me.pc = s.me.pc ∧ t.me.stalled = true ∧ t.me.g = s.me.g ∧ t.home = s.home

/-- A word that its registers hold back, and that has changed nothing yet, stalls. -/
theorem conclude_stall (h : Hints) (s : State) : Stalls s (conclude h s (.error (.stall (begin s)))) :=
  ⟨markStall (begin s), rfl, by simp [markStall, begin_ia], by simp [markStall], by simp [markStall], rfl⟩

/-- The trap of a word is taken on the state before it (R36). -/
theorem conclude_trap (h : Hints) (s : State) (cause : Nat) (tval : Word) :
    conclude h s (.error (.trap cause tval)) = traps s cause tval := rfl

section Run
variable {f : Form} {lanes : Option Nat} {use : OdUse} {body : State → Except Stop State} {s : State}

/-- A guard predicate that is not ready stalls its word. -/
theorem run_predLate (hp : s.powered = true) (hl : predsLate s [f.guard.p.toNat] = true) : Stalls s (run f lanes use body s) := by
  simp only [run, runWith, hp, hl, if_true]
  exact conclude_stall f.hints s

/-- A guard whose parity fails traps `DATA_UC` (R354; its TVAL is log 42). -/
theorem run_guardFails (hp : s.powered = true) (hl : predsLate s [f.guard.p.toNat] = false) (hf : guardFails s.me f.guard = true) :
    run f lanes use body s = traps s 0x14 (guardTval f.guard) := by
  simp only [run, runWith, hp, hl, hf, Bool.false_eq_true, if_true, if_false, conclude_trap]

/-- A guard that does not hold leaves the word its hints alone (R28). -/
theorem run_skipped (hp : s.powered = true) (hl : predsLate s [f.guard.p.toNat] = false) (hf : guardFails s.me f.guard = false)
    (hg : guardHolds s.me f.guard lanes = false) : run f lanes use body s = .next (applyHints f.hints (begin s)) := by
  simp only [run, runWith, hp, hl, hf, hg, Bool.false_eq_true, if_false]

/-- A predicate operand that is not ready stalls its word. -/
theorem run_predsLate (hp : s.powered = true) (hl : predsLate s [f.guard.p.toNat] = false) (hf : guardFails s.me f.guard = false)
    (hg : guardHolds s.me f.guard lanes = true) (hq : predsLate s (formPreds f) = true) : Stalls s (run f lanes use body s) := by
  simp only [run, runWith, hp, hl, hf, hg, hq, Bool.false_eq_true, if_true, if_false]
  exact conclude_stall f.hints s

/-- A word past its guard whose registers stop it concludes with their stop. -/
theorem run_checkRegs (hp : s.powered = true) (hr : predsReady s f = true) (hg : guardHolds s.me f.guard lanes = true) {e : Stop}
    (h : checkRegs (begin s) s.me (formSrcs s.me use f) (formDsts s.me use f) = .error e) :
    run f lanes use body s = conclude f.hints s (.error e) := by
  simp only [predsReady, Bool.and_eq_true, Bool.not_eq_true'] at hr
  obtain ⟨⟨hl, hf⟩, hq⟩ := hr
  simp only [run, runWith, hp, hl, hf, hg, hq, h, Bool.false_eq_true, if_true, if_false]

end Run

section CheckRegs
variable {s : State} {srcs : List Src} {dsts : List (Bool × Nat)}

/-- The first empty source with TE traps `EMPTY_READ` with its position (R30, R53). -/
theorem checkRegs_empty {x : Src} (h : srcs.find? (fun x => x.te && s.me.isEmpty x.isV x.reg) = some x) :
    checkRegs (begin s) s.me srcs dsts = .error (.trap 0x04 (posTval x.pos x.field)) := by
  simp only [checkRegs, h]

/-- A source that is empty without TE, or not ready yet, stalls the word. -/
theorem checkRegs_busy (hte : ∀ x ∈ srcs, x.te = true → s.me.isEmpty x.isV x.reg = false)
    (h : ∃ x ∈ srcs, s.me.isBusy (s.cycle s.curCore) x.isV x.reg = true) :
    checkRegs (begin s) s.me srcs dsts = .error (.stall (begin s)) := by
  have h1 : srcs.find? (fun x => x.te && s.me.isEmpty x.isV x.reg) = none := by
    rw [List.find?_eq_none]
    intro x hx
    simpa using hte x hx
  have h2 : srcs.any (fun x => s.me.isBusy (s.cycle s.curCore) x.isV x.reg) = true := List.any_eq_true.mpr h
  simp only [checkRegs, begin_cycle, begin_curCore, h1, h2, if_true]

/-- Sources that are not busy go to the check of their errors, and after it to that of the destinations. -/
theorem checkRegs_free (h : ∀ x ∈ srcs, s.me.isBusy (s.cycle s.curCore) x.isV x.reg = false) :
    (∀ a, srcs.findSome? (srcError s.me) = some a → checkRegs (begin s) s.me srcs dsts = .error (.trap 0x14 a)) ∧
    (srcs.findSome? (srcError s.me) = none →
      (∃ d ∈ dsts, (s.me.isBusy (s.cycle s.curCore) d.1 d.2 || s.me.isLocked d.1 d.2) = true) →
      checkRegs (begin s) s.me srcs dsts = .error (.stall (begin s))) := by
  have h1 : srcs.find? (fun x => x.te && s.me.isEmpty x.isV x.reg) = none := by
    rw [List.find?_eq_none]
    intro x hx
    simp [not_busy_not_empty (h x hx)]
  have h2 : srcs.any (fun x => s.me.isBusy (s.cycle s.curCore) x.isV x.reg) = false := by
    rw [List.any_eq_false]
    intro x hx
    simp [h x hx]
  refine ⟨fun a ha => ?_, fun hn hd => ?_⟩
  · simp only [checkRegs, begin_cycle, begin_curCore, h1, h2, ha, Bool.false_eq_true, if_false]
  · have h4 : dsts.any (fun d => s.me.isBusy (s.cycle s.curCore) d.1 d.2 || s.me.isLocked d.1 d.2) = true := List.any_eq_true.mpr hd
    simp only [checkRegs, begin_cycle, begin_curCore, h1, h2, hn, h4, Bool.false_eq_true, if_false, if_true]

end CheckRegs

/-! ## Alignment (R138, Table 8.1) -/

theorem checkAccess_misaligned {s : State} {ea : Word} {n align : Nat} {need : BitVec 5} (h : ea.toNat % align ≠ 0) :
    checkAccess s ea n align need = .error (.trap 0x05 ea) := if_pos h

theorem checkScratch_misaligned {s : State} {ea : Word} {n : Nat} (h : ea.toNat % n ≠ 0) :
    checkScratch s ea n = .error (.trap 0x05 ea) := if_pos h

@[simp] theorem begin_effAddr (s : State) (base off : Operand) : effAddr (begin s) base off = s.me.value base + s.me.value off := by
  simp [effAddr]

/-- A ready word whose effect is a trap traps. -/
theorem run_ready_trap {f : Form} {s : State} {lanes : Option Nat} {use : OdUse} {body : State → Except Stop State} {cause : Nat} {tval : Word}
    (hf : formReady s f lanes use = true) (hb : body (begin s) = .error (.trap cause tval)) : run f lanes use body s = traps s cause tval := by
  rw [run_ready _ _ _ _ _ hf, hb, conclude_trap]

/-- A word that begins with the check of a global access traps `MISALIGN` with its address. -/
theorem run_access_misaligned {f : Form} {s : State} {lanes : Option Nat} {use : OdUse} (base off : Operand) (n align : Nat) (need : BitVec 5)
    (rest : State → Xlat → Except Stop State) (h : formReady s f lanes use = true)
    (ha : (s.me.value base + s.me.value off).toNat % align ≠ 0) :
    run f lanes use (fun u => checkAccess u (effAddr u base off) n align need >>= rest u) s = traps s 0x05 (s.me.value base + s.me.value off) :=
  run_ready_trap h (by rw [begin_effAddr, checkAccess_misaligned ha]; rfl)

/-- The same for an access of a scratchpad. -/
theorem run_scratch_misaligned {f : Form} {s : State} {lanes : Option Nat} {use : OdUse} (base off : Operand) (n : Nat)
    (rest : State → SAddr → Except Stop State) (h : formReady s f lanes use = true)
    (ha : (s.me.value base + s.me.value off).toNat % n ≠ 0) :
    run f lanes use (fun u => checkScratch u (effAddr u base off) n >>= rest u) s = traps s 0x05 (s.me.value base + s.me.value off) :=
  run_ready_trap h (by rw [begin_effAddr, checkScratch_misaligned ha]; rfl)

/-- Every atomic traps `MISALIGN` with its address. -/
theorem atomicOp_misaligned {f : Form} {s : State} {op : Nat} (h : formReady s f none (if op = 10 then .both else .write) = true)
    (ha : (s.me.value f.oa).toNat % (if f.md.getLsbD 2 then 4 else 8) ≠ 0) :
    atomicOp op f s = traps s 0x05 (s.me.value f.oa) := by
  refine run_ready_trap h ?_
  simp only [begin_value, checkAccess_misaligned ha]
  rfl

/-- Settles O12: each word of `formWords` runs in the shared frame (`formWords_run`), whose checks are taken in order. -/
theorem notReady : Obligations.NotReady := by
  unfold Obligations.NotReady
  constructor
  · intro f s hp stalls busy x hx i lanes srcs
    obtain ⟨body, hrun⟩ := formWords_run f x hx
    have hi : exec i s = run f lanes x.2.2 body s := hrun s
    simp only [stalls, hi]
    refine ⟨run_predLate hp, run_guardFails hp, run_skipped hp, run_predsLate hp, fun hr hg => ?_⟩
    refine ⟨fun y hy => run_checkRegs hp hr hg (checkRegs_empty hy), fun hte hb => ?_, fun hfree => ?_⟩
    · rw [run_checkRegs hp hr hg (checkRegs_busy hte hb)]
      exact conclude_stall f.hints s
    · obtain ⟨herr, hdst⟩ := checkRegs_free hfree
      refine ⟨fun a ha => run_checkRegs hp hr hg (herr a ha), fun hn hd => ?_⟩
      rw [run_checkRegs hp hr hg (hdst hn hd)]
      exact conclude_stall f.hints s
  · intro f s n load store a an
    refine ⟨fun h => ⟨fun ha => ⟨?_, ?_⟩, fun ha => ?_, fun ha => ?_⟩, fun h ha => ?_, fun h => ⟨fun ha => ⟨?_, ?_⟩, fun ha => ?_⟩, fun h ha => ?_,
      fun h ha => ?_, fun h ha => ?_⟩
    · exact (exec_ld f s).trans (run_access_misaligned f.oa f.ob _ _ _ _ h ha)
    · exact (exec_sld f s).trans (run_scratch_misaligned f.oa f.ob _ _ h ha)
    · exact (exec_ldl f s).trans (run_scratch_misaligned f.oa f.ob _ _ h ha)
    · simp only [List.forall_mem_cons, List.not_mem_nil, false_imp_iff, implies_true, and_true]
      exact ⟨atomicOp_misaligned (op := 0) h ha, atomicOp_misaligned (op := 1) h ha, atomicOp_misaligned (op := 2) h ha,
        atomicOp_misaligned (op := 3) h ha, atomicOp_misaligned (op := 4) h ha, atomicOp_misaligned (op := 5) h ha,
        atomicOp_misaligned (op := 6) h ha, atomicOp_misaligned (op := 7) h ha, atomicOp_misaligned (op := 8) h ha,
        atomicOp_misaligned (op := 9) h ha⟩
    · exact atomicOp_misaligned (op := 10) h ha
    · exact (exec_st f s).trans (run_access_misaligned f.od f.ob _ _ _ _ h ha)
    · exact (exec_sst f s).trans (run_scratch_misaligned f.od f.ob _ _ h ha)
    · exact (exec_stu f s).trans (run_scratch_misaligned f.od f.ob _ _ h ha)
    · exact (exec_ulk f s).trans (run_scratch_misaligned f.oa f.ob _ _ h ha)
    · exact (exec_vgld f s).trans (run_access_misaligned f.oa f.ob _ _ _ _ h ha)
    · exact (exec_vgst f s).trans (run_access_misaligned f.od f.ob _ _ _ _ h ha)

end Sys2Proof.Machine

end


/-! # Transfers of control (R32, R33, R163, R164) -/
section

namespace Sys2Proof.Machine

/-! ## Two changes of one part -/

theorem mdel_mdel_self {α : Type} (m : List (Nat × α)) (k : Nat) : mdel (mdel m k) k = mdel m k := by
  induction m with
  | nil => rfl
  | cons e r ih =>
    obtain ⟨i, y⟩ := e
    by_cases h : i = k <;> simp [mdel, h, ih]

theorem mdel_mput_self {α : Type} (m : List (Nat × α)) (k : Nat) (x : α) : mdel (mput m k x) k = mdel m k := by
  induction m with
  | nil => simp [mput, mdel]
  | cons e r ih =>
    obtain ⟨i, y⟩ := e
    by_cases h : k < i
    · simp [mput, mdel, h]
    · by_cases hk : i = k <;> simp [mput, mdel, h, hk, ih]

/-- Of two writes to the same number the second stands. -/
theorem mset_mset_self {α : Type} [DecidableEq α] (d : α) (m : List (Nat × α)) (k : Nat) (x y : α) :
    mset d (mset d m k x) k y = mset d m k y := by
  have h : mdel (mset d m k x) k = mdel m k := by
    unfold mset
    split_ifs <;> simp [mdel_mput_self, mdel_mdel_self]
  rw [mset, h, ← mset]

/-- Two changes of one thread set are one. -/
theorem State.modTset_modTset (s : State) (c k : Nat) (f g : TSet → TSet) :
    (s.modTset c k f).modTset c k g = s.modTset c k (fun t => g (f t)) := by
  simp [State.modTset, mmod, mset_mset_self]

theorem State.modMe_modMe (s : State) (f g : TSet → TSet) : (s.modMe f).modMe g = s.modMe (fun t => g (f t)) :=
  State.modTset_modTset s _ _ f g

/-! ## The end of a word (R31) -/

@[simp] theorem applyHints_me_pc (h : Hints) (s : State) : (applyHints h s).me.pc = s.me.pc := by
  unfold applyHints
  split_ifs <;> simp

/-- The end of a word leaves the pc as the word set it. -/
theorem finished_me_pc (h : Hints) (s : State) : (finished h s).me.pc = s.me.pc := by
  simp [finished, TSet.settled]

/-! ## Transfers (R32, R33, R163, R164) -/

/-- A displacement is counted from the instruction's own address (R32). -/
theorem begin_relTarget (s : State) (o : Operand) : relTarget (begin s) o = s.me.pc + s.me.value o <<< 2 := by
  simp [relTarget]

/-- A target in a register is its bits 56:0 (R33). -/
theorem regTarget_aligned {x : Word} (h : x.extractLsb' 0 2 = 0) : regTarget x = .ok ((x.setWidth 57).setWidth 64) :=
  if_neg (not_not_intro h)

theorem regTarget_misaligned {x : Word} (h : x.extractLsb' 0 2 ≠ 0) : regTarget x = .error (.trap 0x05 x) := if_pos h

/-- The outcome of a word whose transfer to `target` is taken: besides its own change `upd` of the thread set, the pc is the target and the
next issue comes two cycles later, or `late` more. -/
def goesTo (f : Form) (s : State) (target : Word) (late : Nat) (upd : TSet → TSet) : Outcome :=
  .next (after f.hints s (fun t => { upd t with pc := target, readyAt := max t.readyAt (s.cycle s.curCore + 2 + late) }))

/-- A transfer after a change of the thread set that leaves its next issue alone. -/
theorem run_jump {f : Form} {s : State} {use : OdUse} {body : State → Except Stop State} {target : Word} {late : Nat} {upd : TSet → TSet}
    (hf : formReady s f none use = true) (hb : body (begin s) = .ok (jump ((begin s).modMe upd) target late))
    (hr : (upd (begin s).me).readyAt = (begin s).me.readyAt) : run f none use body s = goesTo f s target late upd := by
  rw [run_ready_ok f none use body s _ hf hb]
  have e : jump ((begin s).modMe upd) target late = (begin s).modMe (fun t => { upd t with
      pc := target, readyAt := max (upd t).readyAt (s.cycle s.curCore + 2 + late) }) := State.modMe_modMe _ _ _
  rw [e, goesTo, after]
  rw [State.modMe_congr _ _ (fun t => { upd t with pc := target, readyAt := max t.readyAt (s.cycle s.curCore + 2 + late) }) (by simp only [hr])]

/-- A transfer that changes nothing else. -/
theorem run_jump_id {f : Form} {s : State} {use : OdUse} {body : State → Except Stop State} {target : Word} {late : Nat}
    (hf : formReady s f none use = true) (hb : body (begin s) = .ok (jump (begin s) target late)) :
    run f none use body s = goesTo f s target late id := by
  rw [run_ready_ok f none use body s _ hf hb]; rfl

/-- BR goes to its displacement. -/
theorem exec_br_goes {f : Form} {s : State} (h : formReady s f none .none = true) :
    exec (.br f) s = goesTo f s (s.me.pc + s.me.value f.ob <<< 2) 0 id := by
  rw [exec_br, execBr]
  exact run_jump_id h (by rw [begin_relTarget])

/-- BRI goes to the target in its register, or traps `MISALIGN`. -/
theorem exec_bri_goes {f : Form} {s : State} (h : formReady s f none .none = true) (ha : (s.me.value f.oa).extractLsb' 0 2 = 0) :
    exec (.bri f) s = goesTo f s (((s.me.value f.oa).setWidth 57).setWidth 64) 0 id := by
  rw [exec_bri, execBri]
  exact run_jump_id h (by simp only [begin_value, regTarget_aligned ha]; rfl)

theorem exec_bri_misaligned {f : Form} {s : State} (h : formReady s f none .none = true) (ha : (s.me.value f.oa).extractLsb' 0 2 ≠ 0) :
    exec (.bri f) s = traps s 0x05 (s.me.value f.oa) := by
  rw [exec_bri, execBri]
  exact run_ready_trap h (by simp only [begin_value, regTarget_misaligned ha]; rfl)

/-- RET goes to the target in its register, two cycles later where the top of the return stack foretold another, or traps `MISALIGN`. -/
theorem exec_ret_goes {f : Form} {s : State} (h : formReady s f none .none = true) (ha : (s.me.value f.oa).extractLsb' 0 2 = 0) :
    exec (.ret f) s = goesTo f s (((s.me.value f.oa).setWidth 57).setWidth 64)
      (if s.me.retStack.head? = some (((s.me.value f.oa).setWidth 57).setWidth 64) then 0 else 2)
      (fun t => { t with retStack := t.retStack.tail }) := by
  rw [exec_ret, execRet]
  refine run_jump h ?_ rfl
  simp only [begin_value, regTarget_aligned ha, begin_me_retStack, bind, Except.bind, pure, Except.pure, beq_iff_eq]

theorem exec_ret_misaligned {f : Form} {s : State} (h : formReady s f none .none = true) (ha : (s.me.value f.oa).extractLsb' 0 2 ≠ 0) :
    exec (.ret f) s = traps s 0x05 (s.me.value f.oa) := by
  rw [exec_ret, execRet]
  exact run_ready_trap h (by simp only [begin_value, regTarget_misaligned ha]; rfl)

/-- What CALL writes: the address after it into g[OD] and onto the return stack of 8 entries (R163, R164). -/
def links (f : Form) (next : Word) (t : TSet) : TSet := { t.writeG (regOf f.od) next with retStack := next :: t.retStack.take 7 }

/-- CALL goes to its displacement unless a register stands in OB. -/
theorem exec_call_goes {f : Form} {s : State} (h : formReady s f none .write = true) (hb : ∀ i te, f.ob ≠ .g i te) :
    exec (.call f) s = goesTo f s (s.me.pc + s.me.value f.ob <<< 2) 0 (links f (s.me.pc + 12)) := by
  rw [exec_call, execCall]
  refine run_jump h ?_ (by simp [links])
  split
  · rename_i i te hg
    exact absurd hg (hb i te)
  · rw [begin_relTarget]
    rfl

/-- CALL with a register in OB goes to the target in it, or traps `MISALIGN`. -/
theorem exec_call_goes_g {f : Form} {s : State} {i : BitVec 5} {te : Bool} (h : formReady s f none .write = true) (hb : f.ob = .g i te)
    (ha : (s.me.value f.ob).extractLsb' 0 2 = 0) :
    exec (.call f) s = goesTo f s (((s.me.value f.ob).setWidth 57).setWidth 64) 0 (links f (s.me.pc + 12)) := by
  rw [exec_call, execCall]
  refine run_jump h ?_ (by simp [links])
  rw [hb] at ha ⊢
  simp only [begin_value, regTarget_aligned ha, bind, Except.bind, pure, Except.pure]
  rfl

theorem exec_call_misaligned {f : Form} {s : State} {i : BitVec 5} {te : Bool} (h : formReady s f none .write = true) (hb : f.ob = .g i te)
    (ha : (s.me.value f.ob).extractLsb' 0 2 ≠ 0) : exec (.call f) s = traps s 0x05 (s.me.value f.ob) := by
  rw [exec_call, execCall]
  refine run_ready_trap h ?_
  rw [hb] at ha ⊢
  simp only [begin_value, regTarget_misaligned ha]
  rfl

/-- LOOP counts g[OD] down and goes to its displacement until it is zero. -/
theorem exec_loop_ends {f : Form} {s : State} (h : formReady s f none .both = true) (hn : s.me.value f.od - 1 = 0) :
    exec (.loop f) s = givesG f s 0 := by
  rw [exec_loop, execLoop, run_ready _ _ _ _ _ h]
  simp only [begin_value, hn, if_true]
  rfl

theorem exec_loop_goes {f : Form} {s : State} (h : formReady s f none .both = true) (hn : s.me.value f.od - 1 ≠ 0) :
    exec (.loop f) s = goesTo f s (s.me.pc + s.me.value f.ob <<< 2) 0 (fun t => t.writeG (regOf f.od) (s.me.value f.od - 1)) := by
  rw [exec_loop, execLoop]
  refine run_jump h ?_ (by simp)
  simp only [begin_value, hn, if_false, begin_relTarget]

/-- Settles O25, transfer by transfer: a target computed or taken from a register is one `goesTo`, a misaligned register one trap (the
64 bits of the sum and the TVAL are log 62's). -/
theorem transfers : Obligations.Transfers := by
  unfold Obligations.Transfers
  intro f s
  refine ⟨fun h => ⟨exec_br_goes h, fun ha => ⟨exec_bri_goes h ha, exec_ret_goes h ha⟩, fun ha => ⟨exec_bri_misaligned h ha, exec_ret_misaligned h ha⟩⟩,
    fun h => ⟨exec_call_goes h, fun i te hb => ⟨exec_call_goes_g h hb, exec_call_misaligned h hb⟩⟩,
    fun h => ⟨exec_loop_ends h, exec_loop_goes h⟩⟩

/-- A taken transfer leaves its target in the pc, whatever its hints. -/
theorem goesTo_pc (f : Form) (s : State) (target : Word) (late : Nat) (upd : TSet → TSet) :
    ∃ t, goesTo f s target late upd = .next t ∧ t.me.pc = target :=
  ⟨_, rfl, by rw [after, finished_me_pc, State.me_modMe]⟩

/-- The displacement of a transfer in bytes is four times the sign-extended immediate (R32). -/
theorem displacement_value (t : TSet) (d : BitVec 21) : t.value (.i d) <<< 2 = 4 * d.signExtend 64 := by
  rw [TSet.value, BitVec.shiftLeft_eq_mul_twoPow, BitVec.mul_comm]
  rfl

/-- The bytes that a 21-bit count of 4-byte units reaches (R32). -/
theorem displacement_range (d : BitVec 21) : -4194304 ≤ 4 * d.toInt ∧ 4 * d.toInt ≤ 4194300 := by
  have lo := BitVec.le_toInt d
  have hi := BitVec.toInt_lt (x := d)
  norm_num at lo hi
  omega

/-- Settles O60: each transfer leaves its displacement's target in the pc. Where the sum leaves the 57 bits of an address, that it keeps
its 64 bits is the model's choice (log 62). -/
theorem displacements : Obligations.Displacements := by
  unfold Obligations.Displacements
  intro f s d hd
  refine ⟨displacement_range d, fun h => ?_, fun h => ?_, fun h hn => ?_⟩
  · rw [exec_br_goes h, hd, displacement_value]
    exact goesTo_pc _ _ _ _ _
  · rw [exec_call_goes h (by simp [hd]), hd, displacement_value]
    exact goesTo_pc _ _ _ _ _
  · have hn' : s.me.value f.od - 1 ≠ 0 := fun e => hn (sub_eq_zero.mp e)
    rw [exec_loop_goes h hn', hd, displacement_value]
    exact goesTo_pc _ _ _ _ _

end Sys2Proof.Machine

end

/-! # The frame of the lane instructions (R26, R31, R55, R59, R115 to R121, R354, R364) -/
section

namespace Sys2Proof.Machine

/-! ## Counters of events (R364) -/

/-- From `s` to `t` only the counters of events of clusters, and the issue slots they count, may change. -/
structure CountsChange (s t : State) : Prop where
  rest : t = { s with clusters := t.clusters }
  clusters : ∀ c, t.cluster c = { s.cluster c with counters := (t.cluster c).counters, issued := (t.cluster c).issued }

theorem CountsChange.refl (s : State) : CountsChange s s := ⟨rfl, fun _ => rfl⟩

theorem CountsChange.trans {s t u : State} (h : CountsChange s t) (h' : CountsChange t u) : CountsChange s u where
  rest := h'.rest.trans (by rw [h.rest])
  clusters c := (h'.clusters c).trans (by rw [h.clusters c])

theorem CountsChange.me {s t : State} (h : CountsChange s t) : t.me = s.me := by
  rw [h.rest]; rfl

/-- A change of one cluster that keeps to its counts. -/
theorem CountsChange.modCluster {s : State} {n : Nat} {f : Cluster → Cluster}
    (h : ∀ c, f c = { c with counters := (f c).counters, issued := (f c).issued }) : CountsChange s (s.modCluster n f) where
  rest := rfl
  clusters c := by
    by_cases hc : c = n
    · subst hc
      rw [State.cluster_modCluster_self]
      exact h _
    · rw [State.cluster_modCluster_ne s f hc]

theorem CountsChange.countEvent (s : State) (c id n : Nat) : CountsChange s (countEvent s c id n) := by
  unfold Machine.countEvent
  split_ifs
  · exact .refl s
  · refine List.foldlRecOn (motive := CountsChange s) _ _ (.refl s) fun u hu k _ => hu.trans ?_
    dsimp only
    split_ifs
    · exact .modCluster fun _ => rfl
    · exact .refl u

theorem CountsChange.countAt (s : State) (core id n : Nat) : CountsChange s (countAt s core id n) := by
  unfold Machine.countAt
  split_ifs
  · exact .countEvent s _ id n
  · exact .refl s

theorem CountsChange.slotsTaken (s : State) (core n : Nat) : CountsChange s (slotsTaken s core n) := by
  unfold Machine.slotsTaken
  split_ifs
  · exact .modCluster fun _ => rfl
  · exact .refl s

/-! ## Changes that stay with a core's issue and its counters (R31, R59) -/

/-- From `s` to `t` only these may change: the thread set under execution, the pass and the next issue of a core, the instruction's address,
and the counts of a cluster. -/
structure IssueChange (s t : State) : Prop where
  rest : t = { s with tsets := t.tsets, cores := t.cores, clusters := t.clusters, ia := t.ia }
  tsets : ∀ c k, c * 4 + k ≠ s.curCore * 4 + s.curTs → t.tset c k = s.tset c k
  cores : ∀ n, t.core n = { s.core n with pass := (t.core n).pass, nextIssue := (t.core n).nextIssue }
  clusters : ∀ c, t.cluster c = { s.cluster c with counters := (t.cluster c).counters, issued := (t.cluster c).issued }

theorem IssueChange.refl (s : State) : IssueChange s s := ⟨rfl, fun _ _ _ => rfl, fun _ => rfl, fun _ => rfl⟩

theorem IssueChange.trans {s t u : State} (h : IssueChange s t) (h' : IssueChange t u) : IssueChange s u where
  rest := h'.rest.trans (by rw [h.rest])
  tsets c k hk := by
    have hcur : t.curCore = s.curCore ∧ t.curTs = s.curTs := by rw [h.rest]; exact ⟨rfl, rfl⟩
    rw [h'.tsets c k (by rwa [hcur.1, hcur.2]), h.tsets c k hk]
  cores n := (h'.cores n).trans (by rw [h.cores n])
  clusters c := (h'.clusters c).trans (by rw [h.clusters c])

theorem CountsChange.issueChange {s t : State} (h : CountsChange s t) : IssueChange s t where
  rest := by rw [h.rest]
  tsets _ _ _ := by rw [h.rest]; rfl
  cores _ := by rw [h.rest]; rfl
  clusters := h.clusters

theorem IssueChange.modMe (s : State) (f : TSet → TSet) : IssueChange s (s.modMe f) :=
  ⟨rfl, fun _ _ hk => State.tset_modTset_ne s f hk, fun _ => rfl, fun _ => rfl⟩

theorem IssueChange.begin (s : State) : IssueChange s (begin s) :=
  ⟨rfl, fun _ _ hk => State.tset_modTset_ne s (fun t => { t with pc := t.pc + 12, stalled := false }) hk, fun _ => rfl, fun _ => rfl⟩

/-- A change of the own core that keeps to its issue turn. -/
theorem IssueChange.modMyCore {s : State} {f : Core → Core} (h : ∀ c, f c = { c with pass := (f c).pass, nextIssue := (f c).nextIssue }) :
    IssueChange s (s.modMyCore f) where
  rest := rfl
  tsets _ _ _ := rfl
  cores n := by
    by_cases hn : n = s.curCore
    · subst hn
      rw [State.modMyCore, State.core_modCore_self]
      exact h _
    · rw [State.modMyCore, State.core_modCore_ne s f hn]
  clusters _ := rfl

theorem IssueChange.holdSlot (n : Nat) (s : State) : IssueChange s (holdSlot n s) := by
  unfold Machine.holdSlot
  split_ifs
  · exact .refl s
  · exact (IssueChange.modMyCore fun _ => rfl).trans ((CountsChange.countAt _ _ _ n).trans (.slotsTaken _ _ n)).issueChange

theorem holdSlot_me (n : Nat) (s : State) : (holdSlot n s).me = s.me := by
  unfold holdSlot
  split_ifs
  · rfl
  · exact (((CountsChange.countAt _ _ _ n).trans (.slotsTaken _ _ n)).me).trans (State.me_modMyCore s _)

theorem IssueChange.readyIn (n : Nat) (o : Operand) (s : State) : IssueChange s (readyIn n o s) := by
  unfold Machine.readyIn
  split_ifs
  · exact .refl s
  · split
    · exact .modMe s _
    · exact .refl s

theorem IssueChange.applyHints (h : Hints) (s : State) : IssueChange s (applyHints h s) := by
  have hpass : IssueChange s (if h.ys then s.modMyCore (fun c => { c with pass := true }) else s) := by
    split_ifs
    · exact .modMyCore fun _ => rfl
    · exact .refl s
  unfold Machine.applyHints
  by_cases hsd : h.sd = 0
  · simpa only [hsd, if_true] using hpass
  · simp only [hsd, if_false]
    exact hpass.trans (.modMe _ _)

theorem IssueChange.finished (h : Hints) (s : State) : IssueChange s (finished h s) :=
  (IssueChange.modMe s _).trans (.applyHints h _)

theorem IssueChange.lanesEnd (f : Form) (n : Nat) (lines : List Nat) (s : State) : IssueChange s (lanesEnd f n lines s) :=
  ((IssueChange.holdSlot _ s).trans (.readyIn n f.od _)).trans (.modMe _ _)

/-- The counts of the clusters apart, an issue changes its own thread set alone. -/
theorem IssueChange.onlyMe {s t : State} (h : IssueChange s t) : OnlyMe { s with clusters := t.clusters } t :=
  ⟨h.rest, h.tsets, h.cores⟩

/-- An issue leaves every memory as it is. -/
theorem IssueChange.sameMemory {s t : State} (h : IssueChange s t) : SameMemory s t where
  home _ := by rw [h.rest]; rfl
  scratch _ _ := by rw [h.rest]; rfl
  host := by rw [h.rest]
  buffers := by rw [h.rest]; exact ⟨rfl, rfl, rfl, rfl, rfl⟩
  caches c := by rw [h.clusters c]

/-! ## The thread set at the end of a word (R31) -/

/-- The hints can only put off the next issue of a thread set. -/
theorem applyHints_me (h : Hints) (s : State) :
    ∃ at_, s.me.readyAt ≤ at_ ∧ (applyHints h s).me = { s.me with readyAt := at_ } := by
  have hpass : (if h.ys then s.modMyCore (fun c => { c with pass := true }) else s).me = s.me := by
    split_ifs <;> simp
  unfold applyHints
  by_cases hsd : h.sd = 0
  · exact ⟨_, le_refl _, by simp only [hsd, if_true, hpass]⟩
  · simp only [hsd, if_false, State.me_modMe, hpass]
    exact ⟨_, le_max_left _ _, rfl⟩

theorem finished_me (h : Hints) (s : State) :
    ∃ at_, s.me.readyAt ≤ at_ ∧ (finished h s).me = { s.me.settled with readyAt := at_ } := by
  have hend := applyHints_me h (s.modMe TSet.settled)
  rwa [State.me_modMe] at hend

/-- The time at which the result in a v register can be read is noted under the register's key (R98). -/
theorem readyIn_me_v (n : Nat) (d : BitVec 5) (te : Bool) (s : State) :
    ∃ late, (∀ j, j ≠ 64 + d.toNat → mget 0 late j = mget 0 s.me.late j) ∧ (readyIn n (.v d te) s).me = { s.me with late := late } := by
  unfold readyIn
  split_ifs
  · exact ⟨_, fun _ _ => rfl, rfl⟩
  · have hk : ¬64 + d.toNat = 0 := by omega
    simp only [operandKey, State.me_modMe, TSet.setLate, hk, if_false]
    exact ⟨_, fun j hj => mget_mset_ne 0 _ _ hj, rfl⟩

/-! ## Cursors that move (R26) -/

/-- Clearing one bit leaves the others. -/
theorem getLsbD_clear_ne {w : Nat} (x : BitVec w) {a b : Nat} (h : b ≠ a) : (x &&& ~~~(1#w <<< a)).getLsbD b = x.getLsbD b := by
  have hbit : ¬(¬b < a ∧ b - a = 0) := by omega
  by_cases hb : b < w
  · simp [hb]
    omega
  · simp [BitVec.getLsbD_of_ge _ _ (Nat.le_of_not_lt hb)]

/-- The thread set `u` with the cursors of `t` and their parities. -/
def TSet.withCursors (u t : TSet) : TSet := { u with c := t.c, gPar := t.gPar }

/-- The increment of an operand depends on cursors and their parities alone, and changes nothing else. -/
theorem bumpOperand_withCursors (o : Operand) (u t : TSet) : bumpOperand o (u.withCursors t) = u.withCursors (bumpOperand o t) := by
  unfold bumpOperand
  split <;> rfl

theorem bumpCursors_withCursors (f : Form) (u t : TSet) : bumpCursors f (u.withCursors t) = u.withCursors (bumpCursors f t) := by
  simp only [bumpCursors, bumpOperand_withCursors]

/-- A cursor that an operand does not move keeps its value and its parity. -/
theorem bumpOperand_other {o : Operand} {k : Nat} (h : ∀ i inc, o = .c i true inc → i.toNat ≠ k) (t : TSet) :
    (bumpOperand o t).readC k = t.readC k ∧ (bumpOperand o t).gPar.getLsbD (cursorNum k) = t.gPar.getLsbD (cursorNum k) := by
  unfold bumpOperand
  split
  case h_1 i inc =>
    have hk : k ≠ i.toNat := (h i inc rfl).symm
    exact ⟨by rw [TSet.readC_writeC, if_neg hk], getLsbD_clear_ne _ (by simp only [cursorNum]; omega)⟩
  case h_2 => exact ⟨rfl, rfl⟩

/-- The parities of registers and predicates stay. -/
theorem bumpOperand_gPar (o : Operand) {k : Nat} (h : k < 48) (t : TSet) : (bumpOperand o t).gPar.getLsbD k = t.gPar.getLsbD k := by
  unfold bumpOperand
  split
  · exact getLsbD_clear_ne _ (by simp only [cursorNum]; omega)
  · rfl

theorem bumpCursors_od_v {f : Form} {d : BitVec 5} {te : Bool} (hd : f.od = .v d te) (t : TSet) :
    bumpCursors f t = bumpOperand f.ob (bumpOperand f.oa t) := by
  rw [bumpCursors, hd]; rfl

/-! ## A lane instruction that writes a v register -/

/-- The outcome of a lane instruction with a v register in OD: its lanes are written, and it ends. -/
def lanesWrite (f : Form) (s : State) (n : Nat) (lines : List Nat) (d : Nat) (x : TSet → Line) : State :=
  finished f.hints (lanesEnd f n lines ((begin s).modMe (fun u => u.writeV d (x u))))

theorem exists_lanesWrite {f : Form} {s t : State} {d : BitVec 5} {te readsOD : Bool} {n : Nat} {act : List Bool} {new : List Nat} {out : Outcome}
    (hd : f.od = .v d te) (h : lanesDone f s n readsOD act new out) (ht : out = .next t) :
    ∃ lines x, t = lanesWrite f s n lines d.toNat x := by
  rw [lanesDone, hd] at h
  have hout := (h _ rfl).symm.trans ht
  exact ⟨_, _, (Host.Outcome.next.inj hout).symm⟩

theorem lanesWrite_issueChange (f : Form) (s : State) (n : Nat) (lines : List Nat) (d : Nat) (x : TSet → Line) :
    IssueChange s (lanesWrite f s n lines d x) :=
  (((IssueChange.begin s).trans (.modMe _ _)).trans (.lanesEnd f n lines _)).trans (.finished f.hints _)

/-- The thread set after a lane instruction: the write of its register, the moves of its cursors, and its end. -/
theorem lanesWrite_me {f : Form} {d : BitVec 5} {te : Bool} (hd : f.od = .v d te) (s : State) (n : Nat) (lines : List Nat) (x : TSet → Line) :
    ∃ y late at_, (∀ j, j ≠ 64 + d.toNat → mget 0 late j = mget 0 s.me.late j) ∧ s.me.readyAt ≤ at_ ∧
      (lanesWrite f s n lines d.toNat x).me =
        { s.me.writeV d.toNat y with c := (bumpCursors f s.me).c, gPar := (bumpCursors f s.me).gPar, pc := s.me.pc + 12, stalled := false,
                                     wait := .none, walk := .none, arrived := [], tried := none, readyAt := at_, late := late } := by
  set u := (begin s).modMe (fun u => u.writeV d.toNat (x u)) with hu
  have hu_me : u.me = { s.me.writeV d.toNat (x (begin s).me) with pc := s.me.pc + 12, stalled := false } := by
    rw [hu, State.me_modMe, begin_me]
    rfl
  obtain ⟨late, hlate, hready⟩ := readyIn_me_v n d te (holdSlot (collisions lines) u)
  rw [holdSlot_me, hu_me] at hready hlate
  have hend : (lanesEnd f n lines u).me = bumpCursors f (readyIn n (.v d te) (holdSlot (collisions lines) u)).me := by
    rw [lanesEnd, State.me_modMe, hd]
  set w : TSet := { s.me.writeV d.toNat (x (begin s).me) with pc := s.me.pc + 12, stalled := false, late := late }
  have hw : bumpCursors f w = w.withCursors (bumpCursors f s.me) := bumpCursors_withCursors f w s.me
  rw [hready, hw] at hend
  obtain ⟨at_, hat, hfin⟩ := finished_me f.hints (lanesEnd f n lines u)
  rw [hend] at hat hfin
  exact ⟨x (begin s).me, late, at_, hlate, hat, hfin⟩

/-- A write to one v register leaves the others with their marks and parities. -/
theorem TSet.writeV_other (t : TSet) {d k : Nat} (y : Line) (h : k ≠ d) : (t.writeV d y).readV k = t.readV k ∧
    mget none (t.writeV d y).vMark k = mget none t.vMark k ∧ (t.writeV d y).vPar.getLsbD k = t.vPar.getLsbD k :=
  ⟨by rw [TSet.readV_writeV, if_neg h], mget_mset_ne (none : Option Word) t.vMark none h, getLsbD_clear_ne _ h⟩

/-- A meaning is that of a lane instruction whose result lanes depend on the lanes at their place; it reads OD or does not. -/
def Lanewise (f : Form) (readsOD : Bool) (ex : State → Outcome) : Prop := ∃ n op, ∀ s, ex s = runLanewise f (tyOf f) readsOD n op s

theorem Lanewise.congr {f : Form} {readsOD : Bool} {ex ex' : State → Outcome} (h : Lanewise f readsOD ex') (e : ∀ s, ex s = ex' s) :
    Lanewise f readsOD ex := by
  obtain ⟨n, op, hex⟩ := h
  exact ⟨n, op, fun s => (e s).trans (hex s)⟩

theorem vfOp_lanewise {f : Form} {n : Nat} {op : FVal → FVal → FVal} : Lanewise f false (vfOp n op f) := ⟨_, _, fun _ => rfl⟩
theorem viOp_lanewise {f : Form} {op : Int → Int → Int} : Lanewise f false (viOp op f) := ⟨_, _, fun _ => rfl⟩
theorem viBits_lanewise {f : Form} {op : Nat → Nat → Nat → Nat} : Lanewise f false (viBits op f) :=
  ⟨2, fun _ a b => op (laneBits (tyOf f)) a b % 2 ^ laneBits (tyOf f), fun _ => rfl⟩
theorem vffma_lanewise (f : Form) : Lanewise f true (exec (.vffma f)) := ⟨_, _, exec_vffma f⟩

/-- The floating and integer operations on lanes are lanewise, and only `VFFMA` reads OD. -/
theorem lanewise_words (f : Form) : ∀ i ∈ [Instr.vfadd f, .vfsub f, .vfmul f, .vfmin f, .vfmax f, .vfabs f, .vfneg f, .vfrcp f, .vfrsq f,
    .vfexp2 f, .vadd f, .vsub f, .vmul f, .vmulh f, .vmin f, .vmax f, .vand f, .vor f, .vxor f, .vshl f, .vshr f, .vsar f, .vabs f, .vadds f],
    Lanewise f false (exec i) := by
  simp only [List.forall_mem_cons, List.not_mem_nil, false_imp_iff, implies_true, and_true]
  exact ⟨vfOp_lanewise.congr (exec_vfadd f), vfOp_lanewise.congr (exec_vfsub f), vfOp_lanewise.congr (exec_vfmul f),
    vfOp_lanewise.congr (exec_vfmin f), vfOp_lanewise.congr (exec_vfmax f), vfOp_lanewise.congr (exec_vfabs f),
    vfOp_lanewise.congr (exec_vfneg f), vfOp_lanewise.congr (exec_vfrcp f), vfOp_lanewise.congr (exec_vfrsq f),
    vfOp_lanewise.congr (exec_vfexp2 f), viOp_lanewise.congr (exec_vadd f), viOp_lanewise.congr (exec_vsub f),
    viOp_lanewise.congr (exec_vmul f), viOp_lanewise.congr (exec_vmulh f), viOp_lanewise.congr (exec_vmin f),
    viOp_lanewise.congr (exec_vmax f), viBits_lanewise.congr (exec_vand f), viBits_lanewise.congr (exec_vor f),
    viBits_lanewise.congr (exec_vxor f), viBits_lanewise.congr (exec_vshl f), viBits_lanewise.congr (exec_vshr f),
    viBits_lanewise.congr (exec_vsar f), viOp_lanewise.congr (exec_vabs f), viOp_lanewise.congr (exec_vadds f)⟩

/-- Settles O56: each of these instructions ends as `lanesWrite` (`exists_lanesWrite`), which changes the state as an issue does and the
thread set as its parts say. -/
theorem laneFrame : Obligations.LaneFrame := by
  unfold Obligations.LaneFrame
  intro f s t d te hd own
  have framed : (∃ n lines x, t = lanesWrite f s n lines d.toNat x) → own := by
    rintro ⟨n, lines, x, ht⟩
    have hissue : IssueChange s t := ht ▸ lanesWrite_issueChange f s n lines d.toNat x
    obtain ⟨y, late, at_, hlate, hat, hme⟩ := lanesWrite_me hd s n lines x
    rw [← ht] at hme
    simp only [own]
    rw [hme]
    refine ⟨hissue.onlyMe, hissue.sameMemory, hissue.clusters, rfl, fun k => TSet.writeV_other s.me y, fun k hk => ?_, fun k hk => ?_,
      hlate, hat⟩
    · simp only [List.forall_mem_cons, List.not_mem_nil, false_imp_iff, implies_true, and_true] at hk
      obtain ⟨hoa, hob⟩ := hk
      obtain ⟨ca, pa⟩ := bumpOperand_other hoa s.me
      obtain ⟨cb, pb⟩ := bumpOperand_other hob (bumpOperand f.oa s.me)
      simp only [bumpCursors_od_v hd]
      exact ⟨cb.trans ca, pb.trans pa⟩
    · simp only [bumpCursors_od_v hd]
      rw [bumpOperand_gPar f.ob hk, bumpOperand_gPar f.oa hk]
  have ends : ∀ {readsOD : Bool} {ex : State → Outcome}, lanesReady f s readsOD → Lanewise f readsOD ex → ex s = .next t → own := by
    rintro readsOD ex h ⟨n, op, hex⟩ ht
    obtain ⟨lines, x, e⟩ := exists_lanesWrite hd (runLanewise_ready f readsOD n op s h) ((hex s).symm.trans ht)
    exact framed ⟨n, lines, x, e⟩
  exact ⟨fun h i hi => ends h (lanewise_words f i hi), fun h => ends h (vffma_lanewise f)⟩

end Sys2Proof.Machine

end

/-! # Special registers, cursors, and the state after reset (R45, R48 to R50, R52, R66, R106 to R109, R227, R363, R380, R381) -/
section

namespace Sys2Proof.Machine

/-! ## The state after reset (R45, R52, R66, R227, R381) -/

@[simp] theorem lineByte_zero (k : Nat) : lineByte 0 k = 0 := by
  simp [lineByte]

/-- Settles O53: no part is listed, so each reads as its value after reset. -/
theorem resetValues : Obligations.ResetValues := by
  unfold Obligations.ResetValues
  refine ⟨fun n => ⟨rfl, rfl, rfl, rfl, rfl, rfl, rfl, rfl, rfl, rfl, rfl, rfl, rfl⟩,
    fun c ts => ⟨rfl, rfl, rfl, rfl, rfl, fun k => ⟨?_, rfl, rfl⟩, rfl, fun k hk => if_neg hk⟩, fun o => rfl,
    fun c => ⟨rfl, rfl, rfl⟩, fun a => rfl, fun c a => lineByte_zero _, State.reset_memoryWf⟩
  exact ite_self 0

/-! ## Cursors (R26, R48, R109) -/

/-- The mask of a cursor keeps every bit but 18 and 19 (R48). -/
theorem getLsbD_cursorMask (x : BitVec 25) (i : Nat) : (x &&& 0x1F3FFFF#25).getLsbD i = (x.getLsbD i && decide (i ≠ 18 ∧ i ≠ 19)) := by
  have hmask : ∀ i < 25, (0x1F3FFFF#25).getLsbD i = decide (i ≠ 18 ∧ i ≠ 19) := by decide
  rw [BitVec.getLsbD_and]
  by_cases hi : i < 25
  · rw [hmask i hi]
  · simp only [BitVec.getLsbD_of_ge x i (by omega), Bool.false_and]

/-- The end of a word leaves the cursors as the word set them. -/
theorem finished_readC (h : Hints) (s : State) (k : Nat) : (finished h s).me.readC k = s.me.readC k := by
  obtain ⟨_, -, hme⟩ := finished_me h s
  rw [hme]
  rfl

/-- The cursor that `CURS` makes of a register value (R109). -/
def cursorOf (x : Word) : BitVec 25 := x.extractLsb' 0 25 &&& 0x1F3FFFF#25

theorem getLsbD_cursorOf (x : Word) {i : Nat} (h : i < 25) : (cursorOf x).getLsbD i = (x.getLsbD i && decide (i ≠ 18 ∧ i ≠ 19)) := by
  rw [cursorOf, getLsbD_cursorMask, BitVec.getLsbD_extractLsb', Nat.zero_add, decide_eq_true h, Bool.true_and]

/-- A field of a cursor on either side of bits 19:18 is the one of the register value. -/
theorem cursorOf_field (x : Word) {lo len : Nat} (h : lo + len ≤ 18 ∨ (20 ≤ lo ∧ lo + len ≤ 25)) :
    (cursorOf x).extractLsb' lo len = x.extractLsb' lo len := by
  ext i hi
  have hkeep : decide (lo + i ≠ 18 ∧ lo + i ≠ 19) = true := decide_eq_true (by omega)
  rw [BitVec.getElem_extractLsb', BitVec.getElem_extractLsb', getLsbD_cursorOf x (by omega), hkeep, Bool.and_true]

/-- `CURS` writes its cursor. -/
theorem exec_curs_ready {f : Form} {s : State} (h : formReady s f none .none = true) :
    exec (.curs f) s = .next (after f.hints s (fun t => t.writeC (regOf f.od) ((t.value f.oa).extractLsb' 0 25))) := by
  rw [exec_curs, execCurs]
  exact run_ready_ok _ _ _ _ _ _ h rfl

/-- Settles O58, field by field of the cursor that `CURS` writes. -/
theorem cursors : Obligations.Cursors := by
  unfold Obligations.Cursors
  intro f s h
  refine ⟨_, exec_curs_ready h, ?_⟩
  have hc : (after f.hints s (fun t => t.writeC (regOf f.od) ((t.value f.oa).extractLsb' 0 25))).me.readC (regOf f.od) =
      cursorOf (s.me.value f.oa) := by
    rw [after, finished_readC, State.me_modMe, TSet.readC_writeC, if_pos rfl, begin_value, cursorOf]
  simp only [hc, saddrOf]
  have hlow : (cursorOf (s.me.value f.oa)).extractLsb' 0 18 = (s.me.value f.oa).extractLsb' 0 18 := cursorOf_field _ (by omega)
  have hcore : (cursorOf (s.me.value f.oa)).extractLsb' 20 4 = (s.me.value f.oa).extractLsb' 20 4 := cursorOf_field _ (by omega)
  have hremote : (cursorOf (s.me.value f.oa)).getLsbD 24 = (s.me.value f.oa).getLsbD 24 := (getLsbD_cursorOf _ (by omega)).trans (Bool.and_true _)
  have hzero : (cursorOf (s.me.value f.oa)).extractLsb' 18 2 = 0 := by
    ext i hi
    rw [BitVec.getElem_extractLsb', getLsbD_cursorOf _ (by omega)]
    have hcut : decide (18 + i ≠ 18 ∧ 18 + i ≠ 19) = false := decide_eq_false (by omega)
    rw [hcut, Bool.and_false]
    simp
  rw [hlow, hcore, hremote]
  refine ⟨hzero, rfl, rfl, rfl, rfl, rfl, fun hcompute hr => ?_, fun hr => ?_⟩
  · rw [hr, hcompute]; rfl
  · rw [hr]; rfl

/-! ## What `begin` leaves as it is -/

@[simp] theorem begin_myCtx (s : State) : (begin s).myCtx = s.myCtx := by
  have h : (begin s).me.act = s.me.act := by rw [begin_me]
  simp only [State.me] at h
  simp only [State.myCtx, State.ctxOf, begin_curCore, begin_curTs, begin_core] at h ⊢
  rw [h]
@[simp] theorem begin_context (s : State) (c : Nat) : (begin s).context c = s.context c := rfl
@[simp] theorem begin_floatPending (s : State) : floatPending (begin s) = floatPending s := by
  simp only [floatPending, begin_me, begin_cycle, begin_curCore]
  rfl
@[simp] theorem begin_temperedOf (s : State) (c : Nat) (u : Option Nat) : temperedOf (begin s) c u = temperedOf s c u := rfl
@[simp] theorem begin_statusValue (s : State) (rc : Bool) : statusValue (begin s).me rc = statusValue s.me rc := by
  rw [begin_me]; rfl

/-! ## Words on special registers, from step 6 on (Table 2.3, R94, R363) -/

/-- What a ready form says of the frame that adds registers and a privilege check. -/
theorem srRun_ready {f : Form} {s : State} {use : OdUse} {priv : Except Stop Unit} (x : Extra) (body : State → Except Stop State)
    (h : formReady s f none use = true) (hp : priv = .ok ()) (hx : regsClear s x.srcs x.dsts = true) :
    srRun f priv use x body s = conclude f.hints s (body (begin s)) := by
  simp only [formReady, predsReady, Bool.and_eq_true, Bool.not_eq_true'] at h
  obtain ⟨⟨⟨hpow, ⟨hl, hf⟩, hq⟩, hg⟩, hr⟩ := h
  subst hp
  refine runWith_ready _ _ _ _ _ _ _ s hpow hl hf hg hq ?_
  simp only [regsClear, List.all_append, Bool.and_eq_true] at hr hx ⊢
  exact ⟨⟨hr.1, hx.1⟩, hr.2, hx.2⟩

theorem srRun_ready_ok {f : Form} {s s' : State} {use : OdUse} {priv : Except Stop Unit} {x : Extra} {body : State → Except Stop State}
    (h : formReady s f none use = true) (hp : priv = .ok ()) (hx : regsClear s x.srcs x.dsts = true) (hb : body (begin s) = .ok s') :
    srRun f priv use x body s = .next (finished f.hints s') := by
  rw [srRun_ready x body h hp hx, hb, conclude_ok]

/-- A word whose privilege check fails traps, whatever its registers (step 6). -/
theorem srRun_refused {f : Form} {s : State} {use : OdUse} {cause : Nat} {tval : Word} (x : Extra) (body : State → Except Stop State)
    (hp : s.powered = true) : srRun f (.error (.trap cause tval)) use x body s = traps s cause tval := by
  simp only [srRun, runWith, hp, conclude_trap]

theorem regsClear_nil (s : State) : regsClear s [] [] = true := rfl

theorem powered_of_formReady {s : State} {f : Form} {lanes : Option Nat} {use : OdUse} (h : formReady s f lanes use = true) :
    s.powered = true := by
  simp only [formReady, Bool.and_eq_true] at h
  exact h.1.1.1

/-- The system registers pass the privilege check under system privilege alone. -/
theorem sysPriv_ok {s : State} {n : Nat} (h : n < 0x800 ∨ s.isSystem s.myCtx = true) : sysPriv s n = .ok () := by
  unfold sysPriv
  rw [if_neg]
  rcases h with h | h
  · simp [h]
  · simp [h]

theorem sysPriv_refused {s : State} {n : Nat} (h : 0x800 ≤ n) (hs : s.isSystem s.myCtx = false) :
    sysPriv s n = .error (.trap 0x03 (BitVec.ofNat 64 n)) := by
  unfold sysPriv
  rw [if_pos]
  simp [h, hs]

/-- The observation registers pass it where they are open. -/
theorem obsPriv_ok {s : State} {n : Nat} (h : n < 0x100 ∨ obsOpen s s.curCore s.myPartition n = true) : obsPriv s n = .ok () := by
  unfold obsPriv
  rw [if_neg]
  rcases h with h | h
  · simp [h]
  · simp [h]

/-! ## The bank of g28 to g31 (R50, Table 6.6) -/

/-- `MTS` of TBG28 to TBG31 at level 0 traps and names OD. -/
theorem exec_mts_tbg_level0 {f : Form} {s : State} {k : Nat} (hk : k < 4) (hn : srOf f.od = 0x06A + k) (h : formReady s f none .none = true)
    (hl : s.me.tlvl = 0) : exec (.mts f) s = traps s 0x02 (posTval 1 (encodeField f.od)) := by
  have htbg : isTbg (srOf f.od) = true := by simp [isTbg, hn]; omega
  rw [exec_mts, execMts, srRun_ready _ _ h (obsPriv_ok (by omega)) (by simp [hl, regsClear_nil])]
  simp only [htbg, begin_me_tlvl, hl, decide_true, Bool.and_self, if_true, badOperand]
  exact conclude_trap _ _ _ _

/-- The special registers TBG28 to TBG31 are the bank below (R49). -/
theorem TSet.writeSpecial_tbg (t : TSet) (x : Word) {k : Nat} (hk : k < 4) : t.writeSpecial (0x06A + k) x = t.writeGRaw (tbgIndex t.tlvl k) x := by
  interval_cases k <;> rfl

/-- No value of TBG28 to TBG31 is refused. -/
theorem valueRefused_tbg (t : TSet) (x : Word) {k : Nat} (hk : k < 4) : valueRefused t (0x06A + k) x = false := by
  interval_cases k <;> rfl

/-- `MTS` of TBG28 to TBG31 above level 0 writes the bank below. -/
theorem exec_mts_tbg {f : Form} {s : State} {k : Nat} (hk : k < 4) (hn : srOf f.od = 0x06A + k) (h : formReady s f none .none = true)
    (hl : s.me.tlvl ≠ 0) (hbusy : s.me.isBusy (s.cycle s.curCore) false (tbgIndex s.me.tlvl k) = false)
    (hlock : s.me.gLock.getLsbD (tbgIndex s.me.tlvl k) = false) :
    exec (.mts f) s = .next (after f.hints s (fun t => t.writeGRaw (tbgIndex s.me.tlvl k) (s.me.value f.oa))) := by
  have htbg : isTbg (0x06A + k) = true := by simp [isTbg]; omega
  have hbook : isCodebook (0x06A + k) = false := by simp [isCodebook]; omega
  have hscope : isCoreScope (0x06A + k) = false := by simp [isCoreScope]; omega
  have hdst : regsClear s [] [(false, tbgIndex s.me.tlvl k)] = true := by simp [regsClear, hbusy, TSet.isLocked, hlock]
  rw [exec_mts, execMts, hn]
  refine srRun_ready_ok h (obsPriv_ok (by omega)) (by simpa [htbg, hl] using hdst) ?_
  simp only [htbg, hbook, hscope, begin_me_tlvl, hl, valueRefused_tbg _ _ hk, begin_value, decide_false, Bool.and_false, Bool.false_and,
    Bool.or_self, Bool.false_eq_true, if_false, bind, Except.bind, pure, Except.pure]
  rw [State.modMe_congr _ _ (fun t => t.writeGRaw (tbgIndex s.me.tlvl k) (s.me.value f.oa))]
  rw [TSet.writeSpecial_tbg _ _ hk, begin_me_tlvl]

/-! ## OWNER and FPCTL (R75, R106, R108) -/

/-- `MTS` of OWNER takes an owner of the context's list, and traps for another. -/
theorem exec_mtsOwner_listed {f : Form} {s : State} {c : Context} (h : formReady s f none .none = true) (hc : s.context s.myCtx = some c)
    (ho : (s.me.value f.oa).setWidth 20 ∈ c.owners) :
    exec (.mtsOwner f) s = .next (after f.hints s (fun t => { t with owner := (s.me.value f.oa).setWidth 20 })) := by
  rw [exec_mtsOwner, execMtsOwner]
  exact run_ready_ok _ _ _ _ _ _ h (by simp [hc, ho])

theorem exec_mtsOwner_unlisted {f : Form} {s : State} {c : Context} (h : formReady s f none .none = true) (hc : s.context s.myCtx = some c)
    (ho : (s.me.value f.oa).setWidth 20 ∉ c.owners) :
    exec (.mtsOwner f) s = traps s 0x03 (((s.me.value f.oa).setWidth 20 : BitVec 20).setWidth 64) := by
  rw [exec_mtsOwner, execMtsOwner]
  exact run_ready_trap h (by simp [hc, ho])

/-- `MTS` of FPCTL replaces it once no floating result is in flight. -/
theorem exec_fpctlAccess_write {f : Form} {s : State} (h : formReady s f none .none = true) (ha : ∀ n, f.oa ≠ .s n)
    (hp : floatPending s = false) :
    exec (.fpctlAccess f) s = .next (after f.hints s (fun t => { t with fpctl := s.me.value f.oa &&& 0x1F1F })) := by
  rw [exec_fpctlAccess, execFpctlAccess]
  split
  · rename_i n hn
    exact absurd hn (ha n)
  · exact run_ready_ok _ _ _ _ _ _ h (by simp [hp])

/-- `MFS` of FPCTL reads it then. -/
theorem exec_fpctlAccess_read {f : Form} {s : State} {n : BitVec 12} (h : formReady s f none .write = true) (ha : f.oa = .s n)
    (hp : floatPending s = false) : exec (.fpctlAccess f) s = givesG f s s.me.fpctl := by
  rw [exec_fpctlAccess, execFpctlAccess]
  simp only [ha]
  rw [run_ready_ok f none .write _ s ((begin s).modMe (fun t => t.writeG (regOf f.od) t.fpctl)) h (by simp [hp]), givesG, after]
  rw [State.modMe_congr _ (fun t => t.writeG (regOf f.od) t.fpctl) (fun t => t.writeG (regOf f.od) s.me.fpctl) (by simp)]

/-! ## Tempered tiles and counters (R107, R363) -/

/-- `MFS` of TMSTAT or TMRC is long-latency: its result is known where no tempered tile of the activation is under way, and waits for
them otherwise. -/
theorem exec_mfsTmstat_ready {f : Form} {s : State} (h : formReady s f none .write = true) :
    exec (.mfsTmstat f) s = pendsG f s (if (temperedOf s s.curCore (s.me.act.map (·.uid))).isEmpty then .value (statusValue s.me (srOf f.oa == 0x033))
      else .temper (srOf f.oa == 0x033) (temperedOf s s.curCore (s.me.act.map (·.uid)))) := by
  rw [exec_mfsTmstat, execMfsTmstat, pendsG]
  refine run_ready_ok _ _ _ _ _ _ h ?_
  simp only [begin_curCore, begin_temperedOf, begin_me_act, begin_statusValue]

/-- `MFS` of an open counter is long-latency. -/
theorem exec_mfsCounter_ready {f : Form} {s : State} (h : formReady s f none .write = true)
    (ho : obsOpen s s.curCore s.myPartition (srOf f.oa) = true) :
    exec (.mfsCounter f) s = pendsG f s
      (if srOf f.oa = 0x110 then .value (s.me.dlysel.setWidth 64) else .counter (srOf f.oa) s.me.dlysel.toNat) := by
  rw [exec_mfsCounter, execMfsCounter, pendsG]
  exact srRun_ready_ok h (obsPriv_ok (.inr ho)) (regsClear_nil s) (by simp only [begin_me_dlysel])

/-- Neither the hints of a word nor its end touch a cluster. -/
@[simp] theorem finished_cluster (h : Hints) (s : State) (c : Nat) : (finished h s).cluster c = s.cluster c := by
  unfold finished applyHints
  split_ifs <;> rfl

/-- `MTS` of an open selector writes it and zeroes its counter. -/
theorem exec_mtsCsel_ready {f : Form} {s : State} (h : formReady s f none .none = true)
    (ho : obsOpen s s.curCore s.myPartition (srOf f.od) = true) :
    exec (.mtsCsel f) s = .next (finished f.hints ((begin s).modCluster (clusterOf s.curCore) (fun u => { u with
      counters := mset 0 (mset 0 u.counters (srOf f.od) (s.me.value f.oa &&& 0x1FFFF)) (srOf f.od - 8) 0 }))) := by
  rw [exec_mtsCsel, execMtsCsel]
  exact srRun_ready_ok h (obsPriv_ok (.inr ho)) (regsClear_nil s) (by simp only [begin_value, begin_curCore])

/-! ## The system registers (R94, R380) -/

/-- `MTS` of PGROOT and PWRCAP stores the value as written. -/
theorem exec_specialRegisterWrite_pgroot {f : Form} {s : State} (h : formReady s f none .none = true) (hn : srOf f.od = 0x800)
    (hs : s.isSystem s.myCtx = true) :
    exec (.specialRegisterWrite f) s = .next (finished f.hints { begin s with pgroot := s.me.value f.oa }) := by
  rw [exec_specialRegisterWrite, execSpecialRegisterWrite]
  exact srRun_ready_ok h (sysPriv_ok (.inr hs)) (regsClear_nil s) (by simp only [hn, begin_value])

theorem exec_specialRegisterWrite_pwrcap {f : Form} {s : State} (h : formReady s f none .none = true) (hn : srOf f.od = 0x802)
    (hs : s.isSystem s.myCtx = true) :
    exec (.specialRegisterWrite f) s = .next (finished f.hints { begin s with pwrcap := (s.me.value f.oa).setWidth 12 }) := by
  rw [exec_specialRegisterWrite, execSpecialRegisterWrite]
  exact srRun_ready_ok h (sysPriv_ok (.inr hs)) (regsClear_nil s) (by simp only [hn, begin_value])

/-- Without system privilege it traps. -/
theorem exec_specialRegisterWrite_refused {f : Form} {s : State} (hp : s.powered = true) (hn : 0x800 ≤ srOf f.od)
    (hs : s.isSystem s.myCtx = false) : exec (.specialRegisterWrite f) s = traps s 0x03 (BitVec.ofNat 64 (srOf f.od)) := by
  rw [exec_specialRegisterWrite, execSpecialRegisterWrite, sysPriv_refused hn hs]
  exact srRun_refused _ _ hp

/-- Settles O6, register by register. -/
theorem specialBanks : Obligations.SpecialBanks := by
  unfold Obligations.SpecialBanks
  refine ⟨fun f s k hk hn h => ⟨exec_mts_tbg_level0 hk hn h, exec_mts_tbg hk hn h⟩, fun f s => ⟨fun h => ⟨fun c => exec_mtsOwner_listed h,
    fun c => exec_mtsOwner_unlisted h, exec_fpctlAccess_write h, fun n hn hlo hhi ho => ?_, exec_specialRegisterWrite_pgroot h,
    exec_specialRegisterWrite_pwrcap h, exec_specialRegisterWrite_refused (powered_of_formReady h)⟩,
    fun h => ⟨fun n => exec_fpctlAccess_read h, fun he => ?_, fun he => ?_, exec_mfsCounter_ready h⟩⟩⟩
  · refine ⟨_, exec_mtsCsel_ready h (hn ▸ ho), ?_⟩
    rw [finished_cluster, State.cluster_modCluster_self, hn]
    exact ⟨by rw [mget_mset_ne _ _ _ (by omega), mget_mset_self], by rw [mget_mset_self]⟩
  · rw [exec_mfsTmstat_ready h, he]; rfl
  · rw [exec_mfsTmstat_ready h, if_neg (by simpa using he)]

/-! ## The frame of the scalar instructions (R98, R112) -/

/-- A form of `FCMP` with g5 in OD, where the operation has a predicate. -/
def fcmpToG5 : Form := ⟨⟨false, 0⟩, ⟨false, false, 0⟩, 0, .g 5 false, .g 1 false, .g 1 false⟩

/-- It is ready right after reset, and no word is an instruction of this form. -/
theorem fcmpToG5_ready : formReady State.reset fcmpToG5 none .none = true ∧ fpEnables State.reset.me.fpctl = 0 ∧
    (Instr.fcmp fcmpToG5).wellFormed = false := by decide

/-- It writes p5, but the time from which its result can be read is noted for g5, the register that OD names. -/
theorem fcmpToG5_late : ∃ t, exec (.fcmp fcmpToG5) State.reset = .next t ∧ mget 0 t.me.late 5 = 4 ∧ mget 0 State.reset.me.late 5 = 0 :=
  ⟨_, rfl, by decide, rfl⟩

/-- Refutes O55: the statement ranges over every form, also those that no word has. `fcmpToG5` leaves a time for g5, which is neither
that of a predicate nor that of the exception flags. -/
theorem not_scalarFrame : ¬ Obligations.ScalarFrame := by
  unfold Obligations.ScalarFrame
  intro h
  obtain ⟨hready, henables, -⟩ := fcmpToG5_ready
  obtain ⟨t, hexec, hafter, hbefore⟩ := fcmpToG5_late
  obtain ⟨-, -, -, -, hpred⟩ := h fcmpToG5 State.reset t
  obtain ⟨-, hfcmp, -⟩ := hpred hready
  obtain ⟨-, -, htimes⟩ := hfcmp henables hexec
  have h5 : mget 0 t.me.late 5 = mget 0 State.reset.me.late 5 := htimes 5 (by decide)
  omega

end Sys2Proof.Machine

end

/-! # Results in flight reach their registers (R52, R55, R111) -/
section

namespace Sys2Proof.Machine

/-! ## The register of a result (R52, R55) -/

/-- A bit that was cleared is clear. -/
theorem getLsbD_clear_self {w : Nat} (x : BitVec w) (a : Nat) : (x &&& ~~~(1#w <<< a)).getLsbD a = false := by
  by_cases h : a < w
  · simp [h]
  · simp [BitVec.getLsbD_of_ge _ _ (Nat.le_of_not_lt h)]

theorem TSet.fullG_gEmpty (t : TSet) (k : Nat) : (t.fullG k).gEmpty.getLsbD k = false := getLsbD_clear_self _ _
theorem TSet.fullV_vEmpty (t : TSet) (k : Nat) : (t.fullV k).vEmpty.getLsbD k = false := getLsbD_clear_self _ _

/-- A result that has arrived is in flight no more. -/
theorem deliver_pend (t : TSet) (p : Pend) (w : Word) (l : Line) (bad : Bool) : ∀ q ∈ (deliver t p w l bad).pend, q.seq ≠ p.seq := by
  have h : (deliver t p w l bad).pend = t.pend.filter (fun q => q.seq != p.seq) := by
    unfold deliver TSet.writeGRaw
    dsimp only
    split_ifs <;> rfl
  intro q hq
  rw [h, List.mem_filter] at hq
  simpa using hq.2

section Good
variable {p : Pend} (hposted : p.posted = false) (hdropped : p.dropped = false)
include hposted hdropped

/-- A good result of a g register writes it and makes it full. -/
theorem deliver_g (t : TSet) (w : Word) (l : Line) (hv : p.isV = false) : deliver t p w l false =
    (({ t with pend := t.pend.filter (fun q => q.seq != p.seq) } : TSet).writeGRaw p.reg w).fullG p.reg := by
  simp only [deliver, hposted, hdropped, hv, Bool.or_self, Bool.false_and, Bool.false_eq_true, if_false]

theorem deliver_v (t : TSet) (w : Word) (l : Line) (hv : p.isV = true) : deliver t p w l false =
    (({ t with pend := t.pend.filter (fun q => q.seq != p.seq) } : TSet).writeV p.reg l).fullV p.reg := by
  simp only [deliver, hposted, hdropped, hv, Bool.or_self, Bool.false_eq_true, if_false, if_true]

theorem deliver_gRaw (t : TSet) (w : Word) (l : Line) (hv : p.isV = false) (hr : p.reg ≠ 0) :
    (deliver t p w l false).gRaw p.reg = w ∧ (deliver t p w l false).gEmpty.getLsbD p.reg = false := by
  rw [deliver_g hposted hdropped t w l hv]
  refine ⟨?_, TSet.fullG_gEmpty _ _⟩
  exact (TSet.gRaw_writeGRaw _ p.reg p.reg w).trans (if_pos ⟨rfl, hr⟩)

theorem deliver_readV (t : TSet) (w : Word) (l : Line) (hv : p.isV = true) :
    (deliver t p w l false).readV p.reg = l ∧ (deliver t p w l false).vEmpty.getLsbD p.reg = false := by
  rw [deliver_v hposted hdropped t w l hv]
  refine ⟨?_, TSet.fullV_vEmpty _ _⟩
  exact (TSet.readV_writeV _ p.reg p.reg l).trans (if_pos rfl)

theorem deliver_fpctl (t : TSet) (w : Word) (l : Line) (hv : p.isV = false) : (deliver t p w l false).fpctl = t.fpctl := by
  rw [deliver_g hposted hdropped t w l hv]
  simp [TSet.fullG]

end Good

/-- The outcome of the arrival of result `p` of a thread set: from `u` on, its register holds `w`, or `l` in a v register, or an error
mark where the data was `bad`. -/
def arrives (u : State) (core ts : Nat) (p : Pend) (w : Word) (l : Line) (bad : Bool) : Outcome :=
  .next (u.modTset core ts (fun t => deliver t p w l bad))

/-! ## What arrives (R52, R111) -/

/-- The line of a load that is not of a peer's page comes from the cache or the home. -/
theorem loadedLine_here (s : State) (core ts k : Nat) (p : Pend) (va : Word) {x : Xlat} (need : List Nat) (hx : x.tier ≠ 3) :
    loadedLine s core ts k p va x need = .ok (loadLine s core (ptrAddr va) x true) := if_pos hx

@[simp] theorem anyBad_zero (need : List Nat) : anyBad 0 need = false := by
  simp [anyBad]

section Arrival
variable {s : State} {core ts k : Nat} {p : Pend} (hp : (s.tset core ts).pend[k]? = some p)
include hp

theorem exec_resultArrival_value {w : Word} (hk : p.kind = .value w) :
    exec (.resultArrival core ts k) s = arrives s core ts p w 0 p.bad := by
  simp only [exec_resultArrival, execResultArrival, hp, hk, arrives]

theorem exec_resultArrival_float {w : Word} {flags : BitVec 5} (hk : p.kind = .float w flags) : exec (.resultArrival core ts k) s =
    arrives (s.modTset core ts (fun t => { t with fpctl := t.fpctl ||| (flags.setWidth 64 <<< 8) })) core ts p w 0 p.bad := by
  simp only [exec_resultArrival, execResultArrival, hp, hk, arrives]

theorem exec_resultArrival_sload {a b n : Nat} {sx : Bool} (hk : p.kind = .sload a b n sx) : exec (.resultArrival core ts k) s =
    arrives s core ts p (extendTo n sx (seenReadOf s core ts a b n)) 0 (p.bad || s.scratchBad a ((List.range n).map (b + ·))) := by
  simp only [exec_resultArrival, execResultArrival, hp, hk, arrives]

theorem exec_resultArrival_svload {a : Nat} {bytes : List (Nat × Nat)} (hk : p.kind = .svload a bytes) : exec (.resultArrival core ts k) s =
    arrives s core ts p 0 (setLineBytes ((s.tset core ts).readV p.reg) (bytes.map (fun b => (b.1, seenByteOf s core ts a b.2))))
      (p.bad || s.scratchBad a (bytes.map (·.2))) := by
  simp only [exec_resultArrival, execResultArrival, hp, hk, arrives]

theorem exec_resultArrival_atomic {op sc n : Nat} {va b cm m : Word} {x : Xlat} (hk : p.kind = .atomic op sc n va x b cm (some m)) :
    exec (.resultArrival core ts k) s = arrives s core ts p (extendTo n (n == 4) m.toNat) 0 p.bad := by
  simp only [exec_resultArrival, execResultArrival, hp, hk, arrives]

/-- A global load that nothing holds back: each byte from the queued stores where they cover it, else from the line. -/
theorem exec_resultArrival_load {va : Word} {x : Xlat} {n : Nat} {sx : Bool} {fwd : List (Nat × Byte)} (hk : p.kind = .load va x n sx fwd)
    (hb : loadBlocked (s.tset core ts) p = false) (hx : x.tier ≠ 3) (hgood : (loadLine s core (ptrAddr va) x true).2.1 = 0) :
    exec (.resultArrival core ts k) s = arrives (loadLine s core (ptrAddr va) x true).2.2 core ts p
      (extendTo n sx (natOfBytes ((List.range n).map (fun j => ((fwd.find? (fun b => b.1 == j)).map (·.2)).getD
        (lineByte (loadLine s core (ptrAddr va) x true).1 (ptrAddr va % 64 + j)))))) 0 p.bad := by
  simp only [exec_resultArrival, execResultArrival, hp, hk, hb, loadedLine_here _ _ _ _ _ _ _ hx, arrives, hgood, anyBad_zero, Bool.false_or,
    Bool.false_eq_true, if_false]

theorem exec_resultArrival_vload {va : Word} {x : Xlat} {mask : List Nat} {fwd : List (Nat × Byte)} (hk : p.kind = .vload va x mask fwd)
    (hb : loadBlocked (s.tset core ts) p = false) (hx : x.tier ≠ 3) (hgood : (loadLine s core (ptrAddr va) x true).2.1 = 0) :
    exec (.resultArrival core ts k) s = arrives (loadLine s core (ptrAddr va) x true).2.2 core ts p 0
      (setLineBytes ((s.tset core ts).readV p.reg) (mask.map (fun j => (j, lineByte (setLineBytes (loadLine s core (ptrAddr va) x true).1 fwd) j))))
      p.bad := by
  simp only [exec_resultArrival, execResultArrival, hp, hk, hb, loadedLine_here _ _ _ _ _ _ _ hx, arrives, hgood, anyBad_zero, Bool.false_or,
    Bool.false_eq_true, if_false]

end Arrival

/-- Settles O15: each kind of result arrives in one `deliver`. -/
theorem resultArrives : Obligations.ResultArrives := by
  unfold Obligations.ResultArrives
  intro s c ts k p hp hposted hdropped hbad fills gives
  have fillsOf : ∀ {u : State} {w : Word} {l : Line}, p.isV = true → exec (.resultArrival c ts k) s = arrives u c ts p w l false → fills l := by
    intro u w l hv h
    obtain ⟨hr, he⟩ := deliver_readV hposted hdropped (u.tset c ts) w l hv
    refine ⟨_, h, ?_⟩
    rw [State.tset_modTset_self]
    exact ⟨hr, fun _ => he, deliver_pend _ _ _ _ _⟩
  have givesOf : ∀ {u : State} {w : Word} {l : Line}, exec (.resultArrival c ts k) s = arrives u c ts p w l false → gives w := by
    intro u w l h hv hne
    obtain ⟨hr, he⟩ := deliver_gRaw hposted hdropped (u.tset c ts) w l hv hne
    refine ⟨_, h, ?_⟩
    rw [State.tset_modTset_self]
    exact ⟨hr, fun _ => he, deliver_pend _ _ _ _ _⟩
  refine ⟨fun w hk => ?_, fun w fl hk hv _ => ?_, fun a b n sx hk hg => ?_, fun op sc n va x b cm m hk => ?_,
    fun va x n sx fwd hk hb hx hg => ?_, fun va x mask fwd hk hv hb hx hg => ?_, fun a bytes hk hv hg => ?_⟩
  · exact givesOf (hbad ▸ exec_resultArrival_value hp hk)
  · have h := hbad ▸ exec_resultArrival_float hp hk
    refine ⟨givesOf h, _, h, ?_⟩
    rw [State.tset_modTset_self, deliver_fpctl hposted hdropped _ _ _ hv, State.tset_modTset_self]
  · have h := exec_resultArrival_sload hp hk
    rw [hbad, hg] at h
    exact givesOf h
  · exact givesOf (hbad ▸ exec_resultArrival_atomic hp hk)
  · exact givesOf (hbad ▸ exec_resultArrival_load hp hk hb hx hg)
  · exact fillsOf hv (hbad ▸ exec_resultArrival_vload hp hk hb hx hg)
  · have h := exec_resultArrival_svload hp hk
    rw [hbad, hg] at h
    exact fillsOf hv h

end Sys2Proof.Machine

end

/-! # Bytes of lines and scratchpads, and the store queues (R60, R142, R145, R236, R250, R251) -/
section

namespace Sys2Proof.Machine

/-! ## Bytes of a line (R3) -/

theorem getLsbD_setLineByte (l : Line) (k : Nat) (b : Byte) {i : Nat} (hi : i < 512) :
    (setLineByte l k b).getLsbD i = if 8 * k ≤ i ∧ i < 8 * k + 8 then b.getLsbD (i - 8 * k) else l.getLsbD i := by
  have hmask : ∀ j, (0xFF#512).getLsbD j = decide (j < 8) := by
    intro j
    rw [BitVec.getLsbD_ofNat, show (255 : Nat) = 2 ^ 8 - 1 by norm_num, Nat.testBit_two_pow_sub_one]
    by_cases hj : j < 8
    · simp [hj, show j < 512 by omega]
    · simp [hj]
  simp only [setLineByte, BitVec.getLsbD_or, BitVec.getLsbD_and, BitVec.getLsbD_not, BitVec.getLsbD_shiftLeft, BitVec.getLsbD_setWidth, hmask, hi,
    decide_true, Bool.true_and]
  by_cases h1 : 8 * k ≤ i
  · by_cases h2 : i < 8 * k + 8
    · have h3 : i - 8 * k < 8 := by omega
      simp [h1, h2, h3, Nat.not_lt.mpr h1, show i - 8 * k < 512 by omega]
    · have h3 : ¬ i - 8 * k < 8 := by omega
      simp [h2, h3, BitVec.getLsbD_of_ge b _ (Nat.le_of_not_lt h3)]
  · simp [h1, Nat.lt_of_not_le h1]

/-- A byte read after a write of a byte of the line. -/
theorem lineByte_setLineByte (l : Line) (b : Byte) {k j : Nat} (hj : j < 64) :
    lineByte (setLineByte l k b) j = if j = k then b else lineByte l j := by
  ext i hi
  simp only [lineByte, BitVec.getElem_extractLsb', getLsbD_setLineByte l k b (show 8 * j + i < 512 by omega)]
  by_cases h : j = k
  · subst h
    simp [hi]
  · have hout : ¬(8 * k ≤ 8 * j + i ∧ 8 * j + i < 8 * k + 8) := by omega
    simp [h, hout, BitVec.getElem_extractLsb']

/-! ## Bytes of a scratchpad (R58, R60) -/

/-- One byte of a scratchpad written. -/
def State.putScratch (s : State) (core : Nat) (x : Nat × Byte) : State :=
  { s with scratch := mmod 0 s.scratch (core * 3072 + x.1 / 64) (fun l => setLineByte l (x.1 % 64) x.2) }

theorem State.scratchByte_putScratch (s : State) (core : Nat) {x : Nat × Byte} {d a : Nat} (hx : x.1 < 0x30000) (ha : a < 0x30000) :
    (s.putScratch core x).scratchByte d a = if d = core ∧ a = x.1 then x.2 else s.scratchByte d a := by
  simp only [State.putScratch, State.scratchByte, State.scratchLine]
  by_cases hline : d * 3072 + a / 64 = core * 3072 + x.1 / 64
  · rw [hline, mget_mmod_self, lineByte_setLineByte _ _ (Nat.mod_lt _ (by norm_num))]
    refine if_congr ?_ rfl rfl
    omega
  · have hne : ¬(d = core ∧ a = x.1) := by rintro ⟨rfl, rfl⟩; exact hline rfl
    rw [mget_mmod_ne _ _ _ hline, if_neg hne]

/-- The bytes of a list written at a bank, one after another. -/
def State.putScratches (s : State) (core : Nat) (bs : List (Nat × Byte)) : State := bs.foldl (fun s x => s.putScratch core x) s

theorem State.putScratches_cons (s : State) (core : Nat) (x : Nat × Byte) (bs : List (Nat × Byte)) :
    s.putScratches core (x :: bs) = (s.putScratch core x).putScratches core bs := rfl

/-- Writes to a scratchpad change nothing else. -/
theorem State.putScratches_rest (s : State) (core : Nat) (bs : List (Nat × Byte)) :
    s.putScratches core bs = { s with scratch := (s.putScratches core bs).scratch } := by
  induction bs generalizing s with
  | nil => rfl
  | cons x bs ih =>
    rw [State.putScratches_cons]
    exact (ih _).trans rfl

/-- A byte that is not written reads as before. -/
theorem State.scratchByte_putScratches_other (s : State) (core : Nat) {bs : List (Nat × Byte)} {d a : Nat} (hbs : ∀ b ∈ bs, b.1 < 0x30000)
    (ha : a < 0x30000) (h : d ≠ core ∨ ∀ b ∈ bs, b.1 ≠ a) : (s.putScratches core bs).scratchByte d a = s.scratchByte d a := by
  induction bs generalizing s with
  | nil => rfl
  | cons x bs ih =>
    obtain ⟨hx, hrest⟩ := List.forall_mem_cons.mp hbs
    have hne : ¬(d = core ∧ a = x.1) := fun e => h.elim (fun hd => hd e.1) (fun hall => hall x List.mem_cons_self e.2.symm)
    rw [State.putScratches_cons, ih _ hrest (h.imp id fun hall b hb => hall b (List.mem_cons_of_mem _ hb)),
      State.scratchByte_putScratch _ _ hx ha, if_neg hne]

/-- Each byte of a list without repeats reads as written. -/
theorem State.scratchByte_putScratches_self (s : State) (core : Nat) {bs : List (Nat × Byte)} (hbs : ∀ b ∈ bs, b.1 < 0x30000)
    (hnd : (bs.map (·.1)).Nodup) : ∀ b ∈ bs, (s.putScratches core bs).scratchByte core b.1 = b.2 := by
  induction bs generalizing s with
  | nil => simp
  | cons x bs ih =>
    obtain ⟨hx, hrest⟩ := List.forall_mem_cons.mp hbs
    obtain ⟨hfresh, hnd⟩ := List.nodup_cons.mp hnd
    refine List.forall_mem_cons.mpr ⟨?_, ih _ hrest hnd⟩
    have hother : ∀ b ∈ bs, b.1 ≠ x.1 := fun b hb e => hfresh (List.mem_map.mpr ⟨b, hb, e⟩)
    rw [State.putScratches_cons, State.scratchByte_putScratches_other _ _ hrest hx (.inr hother), State.scratchByte_putScratch _ _ hx hx,
      if_pos ⟨rfl, rfl⟩]

theorem State.scratchLand_eq (s : State) (core : Nat) (bs : List (Nat × Byte)) :
    s.scratchLand core bs = testBankWatches ((s.mendWords core bs).putScratches core bs) core (bs.map (·.1 / 64)) := rfl

/-- A write that lands changes the bytes of its scratchpad, the error marks of its words and the watches of the banks. -/
theorem State.scratchLand_rest (s : State) (core : Nat) (bs : List (Nat × Byte)) : s.scratchLand core bs =
    { s with scratch := (s.scratchLand core bs).scratch, sramBad := (s.scratchLand core bs).sramBad,
             bankWatches := (s.scratchLand core bs).bankWatches } := by
  rw [State.scratchLand_eq, State.putScratches_rest]
  rfl

theorem State.scratchByte_scratchLand_other (s : State) (core : Nat) {bs : List (Nat × Byte)} {d a : Nat} (hbs : ∀ b ∈ bs, b.1 < 0x30000)
    (ha : a < 0x30000) (h : d ≠ core ∨ ∀ b ∈ bs, b.1 ≠ a) : (s.scratchLand core bs).scratchByte d a = s.scratchByte d a :=
  State.scratchByte_putScratches_other (s.mendWords core bs) core hbs ha h

theorem State.scratchByte_scratchLand_self (s : State) (core : Nat) {bs : List (Nat × Byte)} (hbs : ∀ b ∈ bs, b.1 < 0x30000)
    (hnd : (bs.map (·.1)).Nodup) : ∀ b ∈ bs, (s.scratchLand core bs).scratchByte core b.1 = b.2 :=
  State.scratchByte_putScratches_self (s.mendWords core bs) core hbs hnd

/-! ## A scratchpad entry leaves its queue (R60, R145, R251) -/

/-- A core that owes no release settles nothing (R152). -/
theorem settleOwed_none {s : State} {core : Nat} (h : owesNothing s core) : settleOwed s core = s := by
  have hnone : s.owed.filter (fun o => o.core == core) = [] := by
    rw [List.filter_eq_nil_iff]
    intro o ho
    simpa using h o ho
  rw [settleOwed, hnone, List.foldl_nil]

/-- The thread set without the oldest entry of its store queue. -/
def popped (s : State) (c ts : Nat) (rest : List Queued) : State := s.modTset c ts (fun t => { t with storeq := rest })

/-- The state after a scratchpad entry has landed: in the remote form the write is another core's, and its acknowledgement is awaited. -/
def entryLanded (s : State) (c ts d : Nat) (bs : List (Nat × Byte)) (remote : Bool) (unlock : Option Nat) : State :=
  let s := s.scratchLand d bs
  let s := if remote then foreignLanded s d (bs.map (·.1 / 64)) else s
  let s := if remote then s.modTset c ts (fun t => { t with unacked := t.unacked ++ [d] }) else s
  match unlock with | some a => freeLock s a c ts | none => s

/-- A landed entry changes what it lands on, its thread set, the note of its bank, and the lock it frees. -/
theorem entryLanded_rest (s : State) (c ts d : Nat) (bs : List (Nat × Byte)) (remote : Bool) (unlock : Option Nat) :
    let u := entryLanded s c ts d bs remote unlock
    u = { s with tsets := u.tsets, scratch := (s.scratchLand d bs).scratch, sramBad := u.sramBad, bankWatches := u.bankWatches,
                 bankPort := u.bankPort, locks := u.locks } := by
  unfold entryLanded
  rw [State.scratchLand_rest s d bs]
  cases remote <;> cases unlock <;> rfl

/-- The thread set of a landed entry waits for the acknowledgement of a remote write. -/
theorem entryLanded_tset (s : State) (c ts d : Nat) (bs : List (Nat × Byte)) (remote : Bool) (unlock : Option Nat) :
    (entryLanded s c ts d bs remote unlock).tset c ts =
      { s.tset c ts with unacked := (s.tset c ts).unacked ++ if remote then [d] else [] } := by
  unfold entryLanded
  rw [State.scratchLand_rest s d bs]
  cases remote with
  | false => cases unlock <;> simp [State.tset, freeLock]
  | true =>
    have hset : ∀ u : State, u.tsets = (s.modTset c ts (fun t => { t with unacked := t.unacked ++ [d] })).tsets → u.tset c ts = { s.tset c ts with unacked := (s.tset c ts).unacked ++ [d] } := by
      intro u hu
      rw [State.tset, hu]
      exact State.tset_modTset_self _ _ _ _
    cases unlock <;> exact hset _ rfl

/-- A lock bit is freed where its thread set holds it. -/
theorem mem_freeLock (s : State) (a c ts : Nat) (l : LockBit) :
    l ∈ (freeLock s a c ts).locks ↔ l ∈ s.locks ∧ ¬(l.at_ = a ∧ l.core = c ∧ l.ts = ts) := by
  simp [freeLock, List.mem_filter, imp_iff_not_or, or_assoc]

theorem mem_entryLanded_locks (s : State) (c ts d : Nat) (bs : List (Nat × Byte)) (remote : Bool) (unlock : Option Nat) (l : LockBit) :
    l ∈ (entryLanded s c ts d bs remote unlock).locks ↔ l ∈ s.locks ∧ ¬(unlock = some l.at_ ∧ l.core = c ∧ l.ts = ts) := by
  have hlocks : ∀ {u : State}, u.locks = s.locks → (l ∈ (match unlock with | some a => freeLock u a c ts | none => u).locks ↔
      l ∈ s.locks ∧ ¬(unlock = some l.at_ ∧ l.core = c ∧ l.ts = ts)) := by
    intro u hu
    cases unlock with
    | none => simp [hu]
    | some a => simp only [mem_freeLock, hu, Option.some.injEq, eq_comm (a := a)]
  unfold entryLanded
  rw [State.scratchLand_rest s d bs]
  cases remote <;> exact hlocks rfl

/-- The oldest entry of a store queue may leave it: no earlier load is outstanding, and no `RREAD` (R250). -/
theorem storeHeld_false {s : State} {c ts : Nat} {q : Queued} (hpend : ∀ p ∈ (s.tset c ts).pend, p.holdsStores = false ∨ q.seq ≤ p.seq)
    (hread : rreadPending s c ts q.seq = false) :
    ((s.tset c ts).pend.any (fun p => p.holdsStores && decide (p.seq < q.seq)) || rreadPending s c ts q.seq) = false := by
  rw [hread, Bool.or_false, List.any_eq_false]
  intro p hp
  rcases hpend p hp with h | h
  · simp [h]
  · simp [Nat.not_lt.mpr h]

/-- A scratchpad entry that nothing holds back lands. -/
theorem exec_storeQueueDrain_scratch {s : State} {c ts : Nat} {q : Queued} {rest : List Queued} {d : Nat} {bs : List (Nat × Byte)}
    {remote : Bool} {unlock : Option Nat} (hq : (s.tset c ts).storeq = q :: rest) (hw : q.w = .scratch d bs remote unlock)
    (howes : owesNothing s c) (hpend : ∀ p ∈ (s.tset c ts).pend, p.holdsStores = false ∨ q.seq ≤ p.seq)
    (hread : rreadPending s c ts q.seq = false) (hcore : olderCoreWrite s c ts q = false) (hacks : (s.tset c ts).unacked = [])
    (hport : remote = false → portTaken s d bs = false) :
    exec (.storeQueueDrain c ts) s = .next (entryLanded (popped s c ts rest) c ts d bs remote unlock) := by
  have hheld := storeHeld_false hpend hread
  have hbank : (!remote && portTaken s d bs) = false := by
    cases remote with
    | true => rfl
    | false => exact hport rfl
  have howes' : owesNothing (entryLanded (popped s c ts rest) c ts d bs remote unlock) c := by
    rw [owesNothing, entryLanded_rest]
    exact howes
  simp only [exec_storeQueueDrain, execStoreQueueDrain, hq, hheld, hw, hcore, hacks, hbank, List.any_nil, Bool.and_false, Bool.or_self,
    Bool.false_eq_true, if_false]
  exact congrArg _ (settleOwed_none howes')

/-! ## Bits of the bytes and words of a line (R142, R236) -/

/-- A sum of distinct powers of two, the bits of a predicate below a bound. -/
theorem testBit_sum_two_pow (p : Nat → Bool) (n : Nat) : ((List.range n).map (fun k => if p k then 2 ^ k else 0)).sum < 2 ^ n ∧
    ∀ j, ((List.range n).map (fun k => if p k then 2 ^ k else 0)).sum.testBit j = (decide (j < n) && p j) := by
  induction n with
  | zero => simp
  | succ n ih =>
    obtain ⟨hlt, hbit⟩ := ih
    rw [List.sum_range_succ]
    generalize ((List.range n).map (fun k => if p k then 2 ^ k else 0)).sum = x at hlt hbit
    cases hp : p n with
    | false =>
      refine ⟨by simp; omega, fun j => ?_⟩
      rw [if_neg (by simp), Nat.add_zero, hbit]
      by_cases hj : j = n
      · simp [hj, hp]
      · simp [show j < n + 1 ↔ j < n by omega]
    | true =>
      rw [if_pos rfl]
      refine ⟨by omega, fun j => ?_⟩
      rcases lt_trichotomy j n with hj | rfl | hj
      · rw [Nat.add_comm, Nat.testBit_two_pow_add_gt hj, hbit]
        simp [hj, Nat.lt_succ_of_lt hj]
      · rw [Nat.add_comm, Nat.testBit_two_pow_add_eq, hbit]
        simp [hp]
      · rw [Nat.testBit_lt_two_pow (lt_of_lt_of_le (show x + 2 ^ n < 2 ^ (n + 1) by omega) (Nat.pow_le_pow_right (by norm_num) hj))]
        simp [Nat.not_lt.mpr (Nat.succ_le_of_lt hj)]

theorem getLsbD_bitWords (h : BitVec 64) {k : Nat} (hk : k < 8) : (bitWords h).getLsbD k = decide (h.extractLsb' (8 * k) 8 ≠ 0) := by
  have hsum := (testBit_sum_two_pow (fun k => decide (h.extractLsb' (8 * k) 8 ≠ 0)) 8).2 k
  rw [bitWords, BitVec.getLsbD_ofNat]
  simpa [hk] using hsum

theorem getLsbD_byteBits (bs : List (Nat × Byte)) {i : Nat} (hi : i < 64) : (byteBits bs).getLsbD i = bs.any (fun b => b.1 == i) := by
  have hfold : ∀ m : BitVec 64, (bs.foldl (fun (m : BitVec 64) b => m ||| (1#64 <<< b.1)) m).getLsbD i = (m.getLsbD i || bs.any (fun b => b.1 == i)) := by
    induction bs with
    | nil => simp
    | cons b bs ih =>
      intro m
      have hbit : (1#64 <<< b.1).getLsbD i = (b.1 == i) := by
        rw [BitVec.getLsbD_shiftLeft, BitVec.getLsbD_one]
        rcases lt_trichotomy b.1 i with hb | rfl | hb
        · simp [hb.ne, show i - b.1 ≠ 0 by omega]
        · simp [hi]
        · simp [hb, hb.ne']
      rw [List.foldl_cons, ih, BitVec.getLsbD_or, hbit, List.any_cons, Bool.or_assoc]
  exact (hfold 0).trans (by simp)

/-- The word of a byte is among the words that hold bytes. -/
theorem getLsbD_bitWords_byteBits {bs : List (Nat × Byte)} {b : Nat × Byte} (hb : b ∈ bs) (h : b.1 < 64) :
    (bitWords (byteBits bs)).getLsbD (b.1 / 8) = true := by
  rw [getLsbD_bitWords _ (by omega), decide_eq_true_eq]
  intro hzero
  have hbit : ((byteBits bs).extractLsb' (8 * (b.1 / 8)) 8).getLsbD (b.1 % 8) = true := by
    rw [BitVec.getLsbD_extractLsb', Nat.div_add_mod, getLsbD_byteBits _ h]
    simp only [Nat.mod_lt _ (show 0 < 8 by norm_num), decide_true, Bool.true_and, List.any_eq_true, beq_iff_eq]
    exact ⟨b, hb, rfl⟩
  simp [hzero] at hbit

/-! ## A global entry enters the cluster cache (R142, R236, R250) -/

/-- The line of an address after a line has been put in its place. -/
theorem Cluster.find_put {c : Cluster} {va : Nat} {l l' : CacheLine} (h : c.find va = some l) (hva : l'.va = l.va) :
    (c.put l').find va = some l' := by
  have hl : l'.va = va / 64 * 64 := by
    rw [hva]
    simpa using List.find?_some h
  have hany : c.lines.any (fun x => x.va == l'.va) = true := List.any_eq_true.mpr ⟨l, List.mem_of_find?_eq_some h, by simp [hva]⟩
  have hsame : (fun x : CacheLine => x.va == va / 64 * 64) ∘ (fun x => if x.va == l'.va then l' else x) = fun x => x.va == va / 64 * 64 := by
    funext x
    by_cases hx : x.va = l'.va
    · simp [hx, hl]
    · simp [hx]
  rw [Cluster.put, if_pos hany, Cluster.find, List.find?_map, hsame]
  rw [Cluster.find] at h
  simp [h, hva]

/-- What a line keeps of a write of bytes into it. -/
theorem CacheLine.written_dw (l : CacheLine) (core off seq : Nat) (x : Xlat) {bs : List (Nat × Byte)} {b : Nat × Byte} (hb : b ∈ bs)
    (h : off + b.1 < 64) : (l.written core off x bs seq).dw.getLsbD ((off + b.1) / 8) = true := by
  have hmem : (off + b.1, b.2) ∈ bs.map (fun b => (off + b.1, b.2)) := List.mem_map_of_mem hb
  rw [CacheLine.written, BitVec.getLsbD_or, getLsbD_bitWords_byteBits hmem h, Bool.or_true]

/-- The counts of a hit, and the pseudo-LRU tree of its set. -/
def lineHit (s : State) (c va way : Nat) : State :=
  (countCache s c 0x3001).modCluster c (fun k => { k with plru := mmod 0 k.plru (setOf va) (fun t => plruTouch t way) })

theorem CountsChange.countCache (s : State) (c id : Nat) : CountsChange s (countCache s c id) := by
  unfold Machine.countCache
  split_ifs
  · exact .countEvent s c id 1
  · exact .refl s

theorem lineHit_rest (s : State) (c va way : Nat) : lineHit s c va way = { s with clusters := (lineHit s c va way).clusters } := by
  rw [lineHit, (CountsChange.countCache s c 0x3001).rest]
  rfl

theorem lineHit_find (s : State) (c va way a : Nat) : ((lineHit s c va way).cluster c).find a = (s.cluster c).find a := by
  rw [lineHit, State.cluster_modCluster_self, (CountsChange.countCache s c 0x3001).clusters c]
  rfl

/-- A whole line that the cache holds is used as it stands. -/
theorem fillLine_hit {s : State} {c va : Nat} {l : CacheLine} (core : Nat) (x : Xlat) (byLoad : Bool) (h : (s.cluster c).find va = some l)
    (hwhole : l.hole = 0) : fillLine s c core va x byLoad = (l, lineHit s c va l.way) := by
  have hm : l.mended s = l := by simp [CacheLine.mended, hwhole]
  simp [fillLine, h, hm, lineHit]

/-- The state after bytes have entered a line that the cache holds. -/
def lineStored (s : State) (core va : Nat) (x : Xlat) (bs : List (Nat × Byte)) (l : CacheLine) : State :=
  let s := lineHit s (cacheOf core) va l.way
  s.fresh.2.modCluster (cacheOf core) (fun k => k.put (l.written core (va % 64) x bs s.fresh.1))

theorem storeLine_hit {s : State} {core va : Nat} {l : CacheLine} (x : Xlat) (bs : List (Nat × Byte))
    (h : (s.cluster (cacheOf core)).find va = some l) (hwhole : l.hole = 0) : storeLine s core va x bs = lineStored s core va x bs l := by
  rw [storeLine, fillLine_hit core x false h hwhole]
  rfl

theorem lineStored_find {s : State} {core va : Nat} {l : CacheLine} (x : Xlat) (bs : List (Nat × Byte))
    (h : (s.cluster (cacheOf core)).find va = some l) :
    ∃ n, ((lineStored s core va x bs l).cluster (cacheOf core)).find va = some (l.written core (va % 64) x bs n) := by
  refine ⟨(lineHit s (cacheOf core) va l.way).fresh.1, ?_⟩
  rw [lineStored, State.cluster_modCluster_self]
  exact Cluster.find_put ((lineHit_find s (cacheOf core) va l.way va).trans h) rfl

/-- A store into a cached line changes its cluster and the count of what has been issued. -/
theorem lineStored_rest (s : State) (core va : Nat) (x : Xlat) (bs : List (Nat × Byte)) (l : CacheLine) :
    lineStored s core va x bs l = { s with clusters := (lineStored s core va x bs l).clusters, uid := (lineStored s core va x bs l).uid } := by
  rw [lineStored, lineHit_rest]
  rfl

/-- A global entry whose line is cached and whose page is dirty enters the cache. -/
theorem exec_storeQueueDrain_global {s : State} {c ts : Nat} {q : Queued} {rest : List Queued} {va : Word} {x : Xlat} {bs : List (Nat × Byte)}
    {l : CacheLine} (hq : (s.tset c ts).storeq = q :: rest) (hw : q.w = .global va x bs)
    (hpend : ∀ p ∈ (s.tset c ts).pend, (p.holdsStores = false ∧ (p.posted = false ∨ p.atomicLine ≠ some (ptrAddr va / 64))) ∨ q.seq ≤ p.seq)
    (hread : rreadPending s c ts q.seq = false) (howes : owesNothing s c) (hwb : x.wb = false)
    (hheld : heldWord s c (ptrAddr va) bs = false) (hneed : needsLine s c (ptrAddr va) x bs = false)
    (hdirty : (currentXlat s c (ptrAddr va) x).dirty = true) (hline : (s.cluster (cacheOf c)).find (ptrAddr va) = some l) (hwhole : l.hole = 0) :
    exec (.storeQueueDrain c ts) s =
      .next (popped (answersTaken (lineStored s c (ptrAddr va) (dirtyNow s c (ptrAddr va) x) bs l) (.store c q.seq)) c ts rest) := by
  have hfree := storeHeld_false (fun p hp => (hpend p hp).imp And.left id) hread
  have hposted : (s.tset c ts).pend.any (fun p => p.posted && decide (p.seq < q.seq) && p.atomicLine == some (ptrAddr va / 64)) = false := by
    rw [List.any_eq_false]
    intro p hp
    rcases hpend p hp with ⟨-, h | h⟩ | h
    · simp [h]
    · simp [h]
    · simp [Nat.not_lt.mpr h]
  have hset : setDirty s c (ptrAddr va) (dirtyNow s c (ptrAddr va) x) = s := by simp [setDirty, dirtyNow, hdirty]
  have henters : storeEnters s (.store c q.seq) c q.seq q.owner (ptrAddr va) x bs =
      .ok (answersTaken (lineStored s c (ptrAddr va) (dirtyNow s c (ptrAddr va) x) bs l) (.store c q.seq)) := by
    simp [storeEnters, hwb, hheld, hneed, hset, storeLine_hit _ bs hline hwhole]
  have howes' : owesNothing (popped (answersTaken (lineStored s c (ptrAddr va) (dirtyNow s c (ptrAddr va) x) bs l) (.store c q.seq)) c ts rest) c := by
    rw [lineStored_rest]
    exact howes
  simp only [exec_storeQueueDrain, execStoreQueueDrain, hq, hfree, hw, hposted, henters, Bool.false_eq_true, if_false]
  exact congrArg _ (settleOwed_none howes')

/-! ## O16 -/

/-- Settles O16: an entry that nothing holds back leaves its queue, a scratchpad entry to its bank and a global one into the cached line. -/
theorem storesLand : Obligations.StoresLand := by
  unfold Obligations.StoresLand
  constructor
  · intro s c ts q rest d bs remote unlock hq hw howes hbs hnd hpend hread hcore hacks hport
    have hscratch : ∀ d' a, (entryLanded (popped s c ts rest) c ts d bs remote unlock).scratchByte d' a =
        ((popped s c ts rest).scratchLand d bs).scratchByte d' a := by
      intro d' a
      rw [entryLanded_rest]
      rfl
    have htset := entryLanded_tset (popped s c ts rest) c ts d bs remote unlock
    rw [popped, State.tset_modTset_self] at htset
    refine ⟨_, exec_storeQueueDrain_scratch hq hw howes hpend hread hcore hacks hport, ?_, ?_, ?_, ?_, ?_, ?_⟩
    · exact congrArg TSet.storeq htset
    · exact (congrArg TSet.unacked htset).trans (by rw [hacks, List.nil_append])
    · exact mem_entryLanded_locks (popped s c ts rest) c ts d bs remote unlock
    · intro b hb
      rw [hscratch]
      exact State.scratchByte_scratchLand_self _ d hbs hnd b hb
    · intro d' a ha hother
      rw [hscratch]
      exact State.scratchByte_scratchLand_other (popped s c ts rest) d hbs ha hother
    · intro a
      rw [entryLanded_rest]
      rfl
  · intro s c ts q rest va x bs l hq hw hbs hpend hread howes hwb hheld hneed hdirty hline hwhole
    obtain ⟨n, hfind⟩ := lineStored_find (dirtyNow s c (ptrAddr va) x) bs hline
    refine ⟨_, _, exec_storeQueueDrain_global hq hw hpend hread howes hwb hheld hneed hdirty hline hwhole, ?_, hfind, rfl, rfl, ?_, ?_⟩
    · rw [popped, State.tset_modTset_self]
    · exact fun b hb => CacheLine.written_dw l c _ n _ hb (hbs b hb)
    · intro a
      rw [lineStored_rest]
      rfl

end Sys2Proof.Machine

end

/-! # What the units of the device change: counters, notices, trace records (R175, R224, R304, R364, R367) -/
section

namespace Sys2Proof.Machine

/-! ## Writes at the homes -/

/-- From `s` to `t` only the memory of the homes and what follows its writes may change. -/
structure HomeChange (s t : State) : Prop where
  rest : t = { s with home := t.home, eccBad := t.eccBad, under := t.under, watches := t.watches }

theorem HomeChange.refl (s : State) : HomeChange s s := ⟨rfl⟩

theorem HomeChange.trans {s t u : State} (h : HomeChange s t) (h' : HomeChange t u) : HomeChange s u :=
  ⟨h'.rest.trans (by rw [h.rest])⟩

theorem HomeChange.homeWriteBytes (s : State) (bs : List (Nat × Byte)) : HomeChange s (s.homeWriteBytes bs) := ⟨rfl⟩

theorem HomeChange.homeWrite (s : State) (pa n x : Nat) : HomeChange s (s.homeWrite pa n x) := .homeWriteBytes s _

theorem HomeChange.rekeyed (s : State) (x : Xlat) : HomeChange s (s.rekeyed x) := by
  unfold State.rekeyed
  split
  · exact .refl s
  · dsimp only
    split_ifs <;> exact ⟨rfl⟩

theorem HomeChange.putAt (s : State) (x : Xlat) (n v : Nat) : HomeChange s (s.putAt x n v) := (HomeChange.rekeyed s x).trans (.homeWrite _ _ n v)

theorem HomeChange.writeAt (s : State) (x : Xlat) (bs : List (Nat × Byte)) : HomeChange s (s.writeAt x bs) :=
  (HomeChange.rekeyed s x).trans (.homeWriteBytes _ bs)

theorem HomeChange.setPteDirty (s : State) (x : Xlat) : HomeChange s (setPteDirty s x) := by
  unfold Machine.setPteDirty
  split_ifs
  · exact .refl s
  · exact .homeWrite s _ _ _

theorem HomeChange.unitWrite (s : State) (va n x : Nat) : HomeChange s (unitWrite s va n x) := by
  unfold Machine.unitWrite
  split
  · exact (HomeChange.setPteDirty s _).trans (.putAt _ _ n x)
  · exact .refl s

theorem HomeChange.raiseChain (s : State) (ctx off n : Nat) (launch : Option Nat) (chain : List Word) :
    HomeChange s (raiseChain s ctx off n launch chain) := by
  induction chain generalizing s with
  | nil => exact .refl s
  | cons r up ih =>
    have hadd := HomeChange.unitWrite s (ptrAddr r + off) 8 ((unitRead s (ptrAddr r + off) 8 + n) % 2 ^ (8 * 8))
    unfold Machine.raiseChain
    dsimp only
    split_ifs
    · exact hadd.trans (ih _)
    · exact hadd

theorem HomeChange.raiseCounter (s : State) (ctx : Nat) (rcb : Word) (off n : Nat) (launch : Option Nat) :
    HomeChange s (raiseCounter s ctx rcb off n launch) := by
  unfold Machine.raiseCounter
  split_ifs
  · exact .refl s
  · exact .raiseChain s ctx off n launch _

/-! ## Bookkeeping -/

/-- From `s` to `t` only these may change: the homes, the caches and counts of clusters, the mail under way, and of the cores their turns to
ask, their message numbers and their bound blocks. No cluster gains or loses a decision. -/
structure Bookkeeping (s t : State) : Prop where
  rest : t = { s with home := t.home, eccBad := t.eccBad, under := t.under, watches := t.watches, clusters := t.clusters, cores := t.cores,
                      mail := t.mail }
  cores : ∀ n, t.core n = { s.core n with seq := (t.core n).seq, nextSteal := (t.core n).nextSteal, nextTheft := (t.core n).nextTheft,
                                          rcb := (t.core n).rcb }
  decided : ∀ c, (t.cluster c).decisions.map (·.act) = (s.cluster c).decisions.map (·.act)

theorem Bookkeeping.refl (s : State) : Bookkeeping s s := ⟨rfl, fun _ => rfl, fun _ => rfl⟩

theorem Bookkeeping.trans {s t u : State} (h : Bookkeeping s t) (h' : Bookkeeping t u) : Bookkeeping s u where
  rest := h'.rest.trans (by rw [h.rest])
  cores n := (h'.cores n).trans (by rw [h.cores n])
  decided c := (h'.decided c).trans (h.decided c)

theorem Bookkeeping.tset {s t : State} (h : Bookkeeping s t) (c k : Nat) : t.tset c k = s.tset c k := by
  rw [h.rest]; rfl

theorem HomeChange.bookkeeping {s t : State} (h : HomeChange s t) : Bookkeeping s t where
  rest := by rw [h.rest]
  cores _ := by rw [h.rest]; rfl
  decided _ := by rw [h.rest]; rfl

theorem CountsChange.bookkeeping {s t : State} (h : CountsChange s t) : Bookkeeping s t where
  rest := by rw [h.rest]
  cores _ := by rw [h.rest]; rfl
  decided c := by rw [h.clusters c]

theorem Bookkeeping.modCluster {s : State} {n : Nat} {f : Cluster → Cluster}
    (h : ∀ c, (f c).decisions.map (·.act) = c.decisions.map (·.act)) : Bookkeeping s (s.modCluster n f) where
  rest := rfl
  cores _ := rfl
  decided c := by
    by_cases hc : c = n
    · subst hc
      rw [State.cluster_modCluster_self, h]
    · rw [State.cluster_modCluster_ne s f hc]

theorem Bookkeeping.modCore {s : State} {n : Nat} {f : Core → Core}
    (h : ∀ c, f c = { c with seq := (f c).seq, nextSteal := (f c).nextSteal, nextTheft := (f c).nextTheft, rcb := (f c).rcb }) :
    Bookkeeping s (s.modCore n f) where
  rest := rfl
  cores k := by
    by_cases hk : k = n
    · subst hk
      rw [State.core_modCore_self]
      exact h _
    · rw [State.core_modCore_ne s f hk]
  decided _ := rfl

theorem Bookkeeping.raiseCounter (s : State) (ctx : Nat) (rcb : Word) (off n : Nat) (launch : Option Nat) :
    Bookkeeping s (raiseCounter s ctx rcb off n launch) := (HomeChange.raiseCounter s ctx rcb off n launch).bookkeeping

theorem Bookkeeping.countAt (s : State) (core id n : Nat) : Bookkeeping s (countAt s core id n) := (CountsChange.countAt s core id n).bookkeeping

theorem Bookkeeping.emitTrace (s : State) (core kind : Nat) (words : List Word) : Bookkeeping s (emitTrace s core kind words) := by
  unfold Machine.emitTrace
  dsimp only
  split_ifs
  · exact .modCluster fun _ => rfl
  · exact .refl s
  · exact .refl s

theorem Bookkeeping.notIdle (s : State) (core : Nat) : Bookkeeping s (notIdle s core) := .modCore fun _ => rfl
theorem Bookkeeping.becameFree (s : State) (core : Nat) : Bookkeeping s (becameFree s core) := .modCore fun _ => rfl

/-- A unit's message takes a number of its core, and is on its way. -/
theorem Bookkeeping.postUnit (s : State) (core : Nat) (kind : BitVec 3) (tag : BitVec 12) (prio : BitVec 2) (ctx : Nat) (words : List Word) :
    Bookkeeping s (postUnit s core kind tag prio ctx words) :=
  (Bookkeeping.modCore (s := s) (n := core) (f := fun c => { c with seq := c.seq + 1 }) fun _ => rfl).trans ⟨rfl, fun _ => rfl, fun _ => rfl⟩

theorem Bookkeeping.faultNotice (s : State) (ctx code : Nat) (id : Word) (tag : BitVec 12) (core : Nat) (w3 : Word) :
    Bookkeeping s (faultNotice s ctx code id tag core w3) := by
  unfold Machine.faultNotice
  dsimp only
  split_ifs
  · exact .postUnit s _ _ _ _ _ _
  · exact .raiseCounter s _ _ _ _ _

theorem Bookkeeping.absentNotice (s : State) (core : Nat) (m : Msg) (e : Word) (before : Bool) : Bookkeeping s (absentNotice s core m e before) := by
  unfold Machine.absentNotice
  split_ifs
  · exact .faultNotice s _ _ _ _ _ _
  · exact .refl s

theorem Bookkeeping.crossPaths (s : State) (core : Nat) : Bookkeeping s (crossPaths s core) := .modCluster fun _ => rfl

/-- A change of a side of a decision leaves the decisions. -/
theorem decisions_map_sides (ds : List Decision) (id : Nat) (f : List Side → List Side) :
    (ds.map (fun d => if d.id == id then { d with sides := f d.sides } else d)).map (·.act) = ds.map (·.act) := by
  rw [List.map_map]
  refine List.map_congr_left fun d _ => ?_
  dsimp only [Function.comp]
  split_ifs <;> rfl

/-! ## The start of an activation (R45, R218) -/

/-- The activation that a start makes. -/
def startedAct (s : State) (core ts : Nat) (m : Msg) (origin : Origin) (entry : Word) (arrived : Nat) : Act :=
  let r := msgRegion s core m
  let (cb, ce, tb, te) := allotments r ts
  let (ex, ey, ez, edim) := elementOf s.fresh.2 m
  { uid := s.uid, msg := m, origin := origin, entry := (entry.setWidth 57).setWidth 64, rcb := rcbOf s core m, ex := ex, ey := ey, ez := ez,
    edim := edim, choiceBase := cb, choiceEnd := ce, trailBase := tb, trailEnd := te, launch := m.launch, spec := m.spec,
    start := s.fresh.2.now, arrived := arrived }

/-- The thread set of a start, before what the start counts and notes. -/
def startedOn (s : State) (core ts : Nat) (m : Msg) (origin : Origin) (entry : Word) (arrived : Nat) : State :=
  let r := msgRegion s core m
  s.fresh.2.modTset core ts (fun t => t.start (startedAct s core ts m origin entry arrived)
    (((s.fresh.2.context m.ctx.toNat).bind (fun c => c.owners.head?)).getD 0) r.tvec (s.fresh.2.cycle core + r.wdog) (s.fresh.2.cycle core + 6))

theorem startActivation_bookkeeping (s : State) (core ts : Nat) (m : Msg) (origin : Origin) (entry : Word) (arrived : Nat) :
    Bookkeeping (startedOn s core ts m origin entry arrived) (startActivation s core ts m origin entry arrived) := by
  have hcross : ∀ u : State, Bookkeeping u (if m.kind = 2 then crossPaths u core else u) := fun u => by
    split_ifs
    · exact .crossPaths u core
    · exact .refl u
  have hbound : ∀ (u : State) (rcb : Word), Bookkeeping u (notIdle (if m.kind = 1 then u.modCore core (fun c => { c with rcb := rcb }) else u) core) := by
    intro u rcb
    refine Bookkeeping.trans ?_ (.notIdle _ core)
    split_ifs
    · exact .modCore fun _ => rfl
    · exact .refl u
  have hside : ∀ (u : State) (uid : Nat), Bookkeeping u (match m.spec with
      | some (cl, id, side) => u.modCluster cl (fun u => { u with decisions := u.decisions.map (fun d =>
          if d.id == id then { d with sides := modAt (fun x => { x with core := core, act := some uid }) d.sides side } else d) })
      | none => u) := by
    intro u uid
    split
    · next cl id side _ =>
      exact .modCluster fun c => decisions_map_sides c.decisions id (fun l => modAt (fun x => { x with core := core, act := some uid }) l side)
    · exact .refl u
  exact (hcross _).trans ((hbound _ _).trans ((hside _ _).trans ((Bookkeeping.raiseCounter _ _ _ _ _ _).trans
    ((Bookkeeping.countAt _ _ _ _).trans (.emitTrace _ _ _ _)))))

theorem startActivation_tset (s : State) (core ts : Nat) (m : Msg) (origin : Origin) (entry : Word) (arrived : Nat) :
    ∃ owner tvec wdogEnd readyAt, (startActivation s core ts m origin entry arrived).tset core ts =
      (s.tset core ts).start (startedAct s core ts m origin entry arrived) owner tvec wdogEnd readyAt := by
  rw [(startActivation_bookkeeping s core ts m origin entry arrived).tset, startedOn, State.tset_modTset_self]
  exact ⟨_, _, _, _, rfl⟩

end Sys2Proof.Machine

end

/-! # Write-backs of a cluster cache (R142, R236, R254, R262) -/
section

namespace Sys2Proof.Machine

/-! ## What a write-back changes -/

/-- From `s` to `t` only the homes, the caches and counts of clusters, and what has been sent to peers may change. No cluster gains or loses
a decision. -/
structure CacheChange (s t : State) : Prop where
  rest : t = { s with home := t.home, eccBad := t.eccBad, under := t.under, watches := t.watches, clusters := t.clusters, countQ := t.countQ,
                      out := t.out, peerStores := t.peerStores, uid := t.uid }
  decided : ∀ c, (t.cluster c).decisions.map (·.act) = (s.cluster c).decisions.map (·.act)

theorem CacheChange.refl (s : State) : CacheChange s s := ⟨rfl, fun _ => rfl⟩

theorem CacheChange.trans {s t u : State} (h : CacheChange s t) (h' : CacheChange t u) : CacheChange s u where
  rest := h'.rest.trans (by rw [h.rest])
  decided c := (h'.decided c).trans (h.decided c)

theorem HomeChange.cacheChange {s t : State} (h : HomeChange s t) : CacheChange s t where
  rest := by rw [h.rest]
  decided _ := by rw [h.rest]; rfl

theorem CountsChange.cacheChange {s t : State} (h : CountsChange s t) : CacheChange s t where
  rest := by rw [h.rest]
  decided c := by rw [h.clusters c]

theorem CacheChange.modCluster {s : State} {n : Nat} {f : Cluster → Cluster} (h : ∀ c, (f c).decisions = c.decisions) :
    CacheChange s (s.modCluster n f) where
  rest := rfl
  decided := (Bookkeeping.modCluster fun c => by rw [h]).decided

theorem CacheChange.countRequest (s : State) (va : Nat) (x : Xlat) : CacheChange s (countRequest s va x) := by
  unfold Machine.countRequest
  split_ifs
  · exact ⟨rfl, fun _ => rfl⟩
  · exact .refl s

theorem CountsChange.foldl {s : State} {ks : List Nat} {f : State → Nat → State} (h : ∀ u k, CountsChange u (f u k)) :
    CountsChange s (ks.foldl f s) :=
  List.foldlRecOn (motive := CountsChange s) _ _ (.refl s) fun u hu k _ => hu.trans (h u k)

/-- A request at a home counts at the channel of its page (R334). -/
theorem homeRequest_counts (s : State) (c va : Nat) (x : Xlat) : CountsChange (countRequest s va x) (homeRequest s c va x) := by
  unfold homeRequest
  dsimp only
  split_ifs
  · exact .refl _
  · exact .countEvent _ _ _ _
  · exact .foldl fun u k => .countEvent u k _ _

theorem CacheChange.homeRequest (s : State) (c va : Nat) (x : Xlat) : CacheChange s (homeRequest s c va x) :=
  (CacheChange.countRequest s va x).trans (homeRequest_counts s c va x).cacheChange

theorem CacheChange.writeHome (s : State) (c va : Nat) (x : Xlat) (bs : List (Nat × Byte)) : CacheChange s (writeHome s c va x bs) := by
  unfold Machine.writeHome
  split_ifs
  · exact ⟨rfl, fun _ => rfl⟩
  · exact (HomeChange.writeAt s x bs).cacheChange.trans (.homeRequest _ c va x)

theorem Cluster.put_decisions (c : Cluster) (l : CacheLine) : (c.put l).decisions = c.decisions := by
  unfold Cluster.put
  split_ifs <;> rfl

theorem CacheChange.writeBackOne (s : State) (c : Nat) (l : CacheLine) : CacheChange s (writeBackOne s c l) := by
  unfold Machine.writeBackOne
  dsimp only
  split_ifs
  · exact .refl s
  · exact .modCluster fun k => k.put_decisions _
  · exact ((CountsChange.countCache s c 0x3003).cacheChange.trans (.writeHome _ c l.va l.x _)).trans (.modCluster fun k => k.put_decisions _)

theorem CacheChange.foldl {α : Type} {s : State} {ks : List α} {f : State → α → State} (h : ∀ u k, CacheChange u (f u k)) :
    CacheChange s (ks.foldl f s) :=
  List.foldlRecOn (motive := CacheChange s) _ _ (.refl s) fun u hu k _ => hu.trans (h u k)

theorem CacheChange.writeBack (s : State) (c va : Nat) : CacheChange s (writeBack s c va) := by
  unfold Machine.writeBack
  split
  · exact .refl s
  · exact .foldl fun u m => .writeBackOne u c m

theorem CacheChange.writeBackIf (s : State) (c : Nat) (p : CacheLine → Bool) : CacheChange s (writeBackIf s c p) :=
  .foldl fun u l => .writeBack u c l.va

theorem CacheChange.publishRegion (s : State) (cores : List Nat) : CacheChange s (publishRegion s cores) := .foldl fun u c => .writeBackIf u c _

/-! ## Write-backs that reach no peer -/

/-- No line of a cache is of a peer's page. -/
def ownLines (s : State) (c : Nat) : Prop := ∀ l ∈ (s.cluster c).lines, l.x.tier ≠ 3

/-- From `s` to `t` nothing has been sent to a peer, and no cache has gained a line of a peer's page. -/
structure KeepsOwn (s t : State) : Prop where
  peerStores : t.peerStores = s.peerStores
  lines : ∀ c, ownLines s c → ownLines t c

theorem KeepsOwn.refl (s : State) : KeepsOwn s s := ⟨rfl, fun _ h => h⟩

theorem KeepsOwn.trans {s t u : State} (h : KeepsOwn s t) (h' : KeepsOwn t u) : KeepsOwn s u :=
  ⟨h'.peerStores.trans h.peerStores, fun c hc => h'.lines c (h.lines c hc)⟩

theorem CountsChange.keepsOwn {s t : State} (h : CountsChange s t) : KeepsOwn s t where
  peerStores := by rw [h.rest]
  lines c hc := by
    unfold ownLines
    rw [h.clusters c]
    exact hc

theorem HomeChange.keepsOwn {s t : State} (h : HomeChange s t) : KeepsOwn s t where
  peerStores := by rw [h.rest]
  lines c hc := by rw [h.rest]; exact hc

theorem KeepsOwn.homeRequest (s : State) (c va : Nat) (x : Xlat) : KeepsOwn s (homeRequest s c va x) := by
  refine KeepsOwn.trans ?_ (homeRequest_counts s c va x).keepsOwn
  unfold countRequest
  split_ifs
  · exact ⟨rfl, fun _ h => h⟩
  · exact .refl s

theorem Cluster.mem_put {c : Cluster} {l m : CacheLine} (h : m ∈ (c.put l).lines) : m = l ∨ m ∈ c.lines := by
  unfold Cluster.put at h
  split_ifs at h
  · obtain ⟨k, hk, rfl⟩ := List.mem_map.mp h
    split_ifs
    · exact .inl rfl
    · exact .inr hk
  · rcases List.mem_append.mp h with h | h
    · exact .inr h
    · exact .inl (List.mem_singleton.mp h)

theorem KeepsOwn.put (s : State) (c : Nat) {l : CacheLine} (hl : l.x.tier ≠ 3) : KeepsOwn s (s.modCluster c (fun k => k.put l)) where
  peerStores := rfl
  lines d hd := by
    intro m hm
    by_cases h : d = c
    · subst h
      rw [State.cluster_modCluster_self] at hm
      rcases Cluster.mem_put hm with rfl | hm
      · exact hl
      · exact hd m hm
    · rw [State.cluster_modCluster_ne s _ h] at hm
      exact hd m hm

theorem KeepsOwn.writeBackOne (s : State) (c : Nat) {l : CacheLine} (hl : l.x.tier ≠ 3) : KeepsOwn s (writeBackOne s c l) := by
  have hhome : ∀ u bs, KeepsOwn u (writeHome u c l.va l.x bs) := fun u bs => by
    rw [writeHome, if_neg hl]
    exact (HomeChange.writeAt u l.x bs).keepsOwn.trans (.homeRequest _ c l.va l.x)
  unfold Machine.writeBackOne
  dsimp only
  split_ifs
  · exact .refl s
  · exact .put s c hl
  · exact ((CountsChange.countCache s c 0x3003).keepsOwn.trans (hhome _ _)).trans (.put _ c hl)

/-- The lines published with those of a list are theirs, or cached. -/
theorem mem_withEarlier {ls : List CacheLine} {n : Nat} {acc : List CacheLine} {m : CacheLine} (h : m ∈ withEarlier ls n acc) :
    m ∈ acc ∨ m ∈ ls := by
  induction n generalizing acc with
  | zero => exact .inl h
  | succ n ih =>
    unfold withEarlier at h
    split at h
    · next k hk =>
      rcases ih h with h | h
      · rcases List.mem_cons.mp h with rfl | h
        · exact .inr (List.mem_of_find?_eq_some hk)
        · exact .inl h
      · exact .inr h
    · exact .inl h

theorem KeepsOwn.writeBack {s : State} {c : Nat} (va : Nat) (h : ownLines s c) : KeepsOwn s (writeBack s c va) := by
  unfold Machine.writeBack
  split
  · exact .refl s
  · next l hl =>
    refine List.foldlRecOn (motive := KeepsOwn s) _ _ (.refl s) fun u hu m hm => hu.trans (.writeBackOne u c (h m ?_))
    rcases mem_withEarlier hm with hm | hm
    · rw [List.mem_singleton.mp hm]
      exact List.mem_of_find?_eq_some hl
    · exact hm

theorem KeepsOwn.writeBackIf {s : State} {c : Nat} (p : CacheLine → Bool) (h : ownLines s c) : KeepsOwn s (writeBackIf s c p) :=
  List.foldlRecOn (motive := KeepsOwn s) _ _ (.refl s) fun _ hu l _ => hu.trans (.writeBack l.va (hu.lines c h))

theorem mem_insertUniq {x y : Nat} {l : List Nat} (h : x ∈ insertUniq y l) : x = y ∨ x ∈ l := by
  induction l with
  | nil => exact .inl (List.mem_singleton.mp h)
  | cons z r ih =>
    unfold insertUniq at h
    split_ifs at h with h1 h2
    · exact List.mem_cons.mp h
    · exact .inr h
    · rcases List.mem_cons.mp h with rfl | h
      · exact .inr List.mem_cons_self
      · exact (ih h).imp id (List.mem_cons_of_mem z)

theorem mem_foldr_insertUniq {x : Nat} {l : List Nat} (h : x ∈ l.foldr insertUniq []) : x ∈ l := by
  induction l with
  | nil => exact h
  | cons y r ih =>
    rcases mem_insertUniq h with rfl | h
    · exact List.mem_cons_self
    · exact List.mem_cons_of_mem y (ih h)

/-- A region whose clusters hold no peer's line publishes to no peer (R262). -/
theorem KeepsOwn.publishRegion {s : State} {cores : List Nat} (h : ∀ c ∈ cores, ownLines s (cacheOf c)) : KeepsOwn s (publishRegion s cores) := by
  refine List.foldlRecOn (motive := KeepsOwn s) _ _ (.refl s) fun u hu c hc => hu.trans (.writeBackIf _ (hu.lines c ?_))
  obtain ⟨k, hk, rfl⟩ := List.mem_map.mp (mem_foldr_insertUniq hc)
  exact h k hk

end Sys2Proof.Machine

end

/-! # Launches: reservation, starts, ends, and what the fabric asks for (R46, R262, R298, R300, R306, R307, R309, R318, R378) -/
section

namespace Sys2Proof.Machine

/-! ## Lists by position -/

theorem dropAt_eq_eraseIdx {α : Type} (l : List α) (k : Nat) : dropAt l k = l.eraseIdx k := by
  induction l generalizing k with
  | nil => rfl
  | cons x r ih => cases k with
    | zero => rfl
    | succ k => exact congrArg (x :: ·) (ih k)

theorem takeAt_some {α : Type} {l : List α} {k : Nat} {x : α} (h : l[k]? = some x) : takeAt l k = some (x, l.eraseIdx k) := by
  rw [takeAt, h, dropAt_eq_eraseIdx]
  rfl

/-! ## A launch by its identity -/

theorem launchBy_id {s : State} {id : Nat} {l : Launch} (h : launchBy s id = some l) : l.id = id := by
  simpa using List.find?_some h

/-- A launch after a change of it that keeps its identity. -/
theorem launchBy_modLaunch {s : State} {id : Nat} {f : Launch → Launch} {l : Launch} (h : launchBy s id = some l) (hf : ∀ m, (f m).id = m.id) :
    launchBy (modLaunch s id f) id = some (f l) := by
  have hsame : (fun m : Launch => m.id == id) ∘ (fun m => if m.id == id then f m else m) = fun m => m.id == id := by
    funext m
    dsimp only [Function.comp]
    split_ifs
    · rw [hf]
    · rfl
  rw [launchBy] at h
  rw [launchBy, modLaunch, List.find?_map, hsame, h, Option.map_some, if_pos (List.find?_some h)]

theorem dropLaunch_absent (s : State) (id : Nat) : ∀ m ∈ (dropLaunch s id).launches, m.id ≠ id := by
  intro m hm
  simpa using (List.mem_filter.mp hm).2

/-! ## Reservation (R307) -/

/-- The thread set taken for a launch; with the last that it needs, its starts may be sent. -/
def reservedState (s : State) (id core ts : Nat) (l : Launch) : State :=
  let s := s.modTset core ts (fun t => { t with reserved := some id })
  if allReserved s l then modLaunch s id (fun l => { l with armed := true }) else s

theorem exec_coresidentReservation_takes {s : State} {id core ts p : Nat} {l : Launch} (hl : launchBy s id = some l) (hp : l.pos core = some p)
    (hserved : (servedLaunch s l.ctx).map (·.id) = some id) (hts : ts < 4) (hctx : (s.core core).ctx = some l.ctx)
    (hfree : (s.tset core ts).isFree = true) (hbudget : atBudget s l.ctx.toNat l.rcb (some l.id) = false)
    (hneed : reservedFor s core id < elementsAt l.region l.total p) :
    exec (.coresidentReservation id core ts) s = .next (reservedState s id core ts l) := by
  simp only [exec_coresidentReservation, execCoresidentReservation, hl, hp, hserved, hctx, hfree, hbudget, hneed, hts, beq_self_eq_true, decide_true,
    Bool.not_false, Bool.and_self, if_true]
  rfl

theorem reservedState_tset (s : State) (id core ts : Nat) (l : Launch) : ((reservedState s id core ts l).tset core ts).reserved = some id := by
  have hset := State.tset_modTset_self s core ts (fun t => { t with reserved := some id })
  unfold reservedState
  dsimp only
  split_ifs <;> exact congrArg TSet.reserved hset

theorem reservedState_armed (s : State) (id core ts : Nat) (l : Launch) (h : allReserved (reservedState s id core ts l) l = true) :
    ∀ m ∈ (reservedState s id core ts l).launches, m.id = id → m.armed = true := by
  unfold reservedState at h ⊢
  dsimp only at h ⊢
  split_ifs at h ⊢ with hall
  · intro m hm hid
    obtain ⟨k, -, rfl⟩ := List.mem_map.mp hm
    by_cases hk : k.id = id
    · simp [hk]
    · simp [hk] at hid
  · exact absurd h hall

/-! ## Element starts (R46, R306) -/

/-- The drop of stale lines changes caches, and of a launch what has been dropped for it. -/
theorem dropStale_launchBy {s : State} {id : Nat} {l : Launch} (h : launchBy s id = some l) (cl : Nat) :
    (∃ d, launchBy (dropStale s l cl) id = some { l with dropped := d }) ∧ (dropStale s l cl).mail = s.mail := by
  obtain rfl : l.id = id := launchBy_id h
  unfold dropStale
  split_ifs
  · exact ⟨⟨_, h⟩, rfl⟩
  · refine ⟨⟨l.dropped ++ [cl], ?_⟩, rfl⟩
    exact launchBy_modLaunch (s := dropCleanIf s cl _) (f := fun m => { m with dropped := m.dropped ++ [cl] }) h fun _ => rfl

/-- The message of the next element start of a launch at its position `p`, and the state in which its core has numbered it. -/
def elementStart (s : State) (core p : Nat) (l : Launch) : Msg × State :=
  unitMsg (dropStale s l (cacheOf core)) core 1 l.tag l.prio l.ctx.toNat
    (l.args ++ [BitVec.ofNat 64 (elementIndex l.region p (l.sentTo p)), l.rcb])

/-- The state in which it is on its way, and counted by its launch. -/
def elementSent (s : State) (id core p : Nat) (l : Launch) : State :=
  let u := modLaunch (elementStart s core p l).2 id (fun l => { l with sent := mset 0 l.sent p (l.sentTo p + 1) })
  { u with mail := u.mail ++ [(.core core, { (elementStart s core p l).1 with launch := some id })] }

theorem exec_elementStartDispatch_starts {s : State} {id core p : Nat} {l : Launch} (hl : launchBy s id = some l) (hp : l.pos core = some p)
    (hwait : startWaits s core l = true) (hfirst : goesFirst s core l = true) :
    ∃ t m l', exec (.elementStartDispatch id core) s = .next t ∧ t.mail = s.mail ++ [(.core core, m)] ∧ m.kind = 1 ∧ m.tag = l.tag ∧
      m.prio = l.prio ∧ m.ctx = l.ctx ∧ m.words = l.args ++ [BitVec.ofNat 64 (elementIndex l.region p (l.sentTo p)), l.rcb] ∧
      m.launch = some id ∧ launchBy t id = some l' ∧ l'.sentTo p = l.sentTo p + 1 := by
  obtain ⟨⟨d, hdropped⟩, hmail⟩ := dropStale_launchBy hl (cacheOf core)
  have hexec : exec (.elementStartDispatch id core) s = .next (elementSent s id core p l) := by
    simp only [exec_elementStartDispatch, execElementStartDispatch, hl, hp, hwait, hfirst, Bool.and_self, if_true]
    rfl
  refine ⟨_, _, _, hexec, congrArg (· ++ _) hmail, rfl, rfl, rfl, BitVec.ofNat_toNat 12 l.ctx, rfl, rfl,
    launchBy_modLaunch (s := (elementStart s core p l).2) hdropped fun _ => rfl, ?_⟩
  exact mget_mset_self 0 l.sent p (l.sentTo p + 1)

/-! ## The end of a launch (R262, R309) -/

/-- The publication of a launch whose region's writes are over and whose clusters owe no peer anything. -/
theorem publishLaunch_done {s : State} {id : Nat} {l : Launch} (hl : launchBy s id = some l) (hopen : l.published = false)
    (hleft : ∀ x ∈ l.left, writesOpen s x.1 x.2.1 x.2.2 = false) (hanswered : regionAnswered s l = true)
    (hown : ∀ c ∈ l.region.cores, ownLines s (cacheOf c)) :
    ∃ u, publishLaunch s l = (true, u) ∧ launchBy u id = some { l with published := true } := by
  obtain rfl : l.id = id := launchBy_id hl
  have hclosed : l.left.any (fun x => writesOpen s x.1 x.2.1 x.2.2) = false := by
    rw [List.any_eq_false]
    intro x hx
    simp [hleft x hx]
  have hpeers := (KeepsOwn.publishRegion hown).peerStores
  have hlaunches : launchBy (publishRegion s l.region.cores) l.id = some l := by
    rw [(CacheChange.publishRegion s l.region.cores).rest]
    exact hl
  refine ⟨modLaunch (publishRegion s l.region.cores) l.id (fun m => { m with published := true }), ?_, ?_⟩
  · have hstill : regionAnswered (modLaunch (publishRegion s l.region.cores) l.id (fun m => { m with published := true })) l = true := by
      unfold regionAnswered storesAway at hanswered ⊢
      rwa [modLaunch, hpeers]
    simp only [publishLaunch, hopen, hclosed, hstill, Bool.false_eq_true, if_false]
  · exact launchBy_modLaunch hlaunches fun _ => rfl

theorem exec_launchComplete_done {s : State} {id : Nat} {l : Launch} (hl : launchBy s id = some l) (hstatus : l.status = none)
    (harmed : l.armed = true) (hended : l.total ≤ l.ended) (hopen : l.published = false)
    (hleft : ∀ x ∈ l.left, writesOpen s x.1 x.2.1 x.2.2 = false) (hanswered : regionAnswered s l = true)
    (hown : ∀ c ∈ l.region.cores, ownLines s (cacheOf c)) :
    ∃ t, exec (.launchComplete id) s = .next t ∧ ∃ m, launchBy t id = some m ∧ m.status = some 0 := by
  obtain ⟨u, hpublish, hlu⟩ := publishLaunch_done hl hopen hleft hanswered hown
  have hexec : exec (.launchComplete id) s = .next (modLaunch u.fresh.2 id (fun l => { l with status := some 0, endSeq := u.fresh.1 })) := by
    simp only [exec_launchComplete, execLaunchComplete, hl, hstatus, harmed, hended, hpublish, Option.isNone_none, decide_true, Bool.and_self, if_true]
  exact ⟨_, hexec, _, launchBy_modLaunch (s := u.fresh.2) hlu fun _ => rfl, rfl⟩

theorem exec_launchComplete_waits {s : State} {id : Nat} {l : Launch} (hl : launchBy s id = some l) (hended : l.ended < l.total) :
    exec (.launchComplete id) s = .next s := by
  simp [exec_launchComplete, execLaunchComplete, hl, Nat.not_le.mpr hended]

/-! ## The completion of a fabric launch (R298, R378) -/

theorem publishLaunch_over {s : State} {l : Launch} (hover : l.published = true ∨ (l.left = [] ∧ l.region.cores = []))
    (hanswered : regionAnswered s l = true) : ∃ ls, publishLaunch s l = (true, { s with launches := ls }) := by
  rcases hover with hpub | ⟨hleft, hcores⟩
  · exact ⟨s.launches, by simp [publishLaunch, hpub, hanswered]⟩
  · cases hpub : l.published with
    | true => exact ⟨s.launches, by simp [publishLaunch, hpub, hanswered]⟩
    | false => exact ⟨_, by simp [publishLaunch, hpub, hleft, hcores, regionAnswered, publishRegion, modLaunch]; rfl⟩

/-- The SET bits of a launch change its context's events. -/
theorem setBits_rest (s : State) (l : Launch) (st : Nat) : setBits s l st = { s with contexts := (setBits s l st).contexts } := by
  unfold setBits
  split_ifs
  · exact List.foldlRecOn (motive := fun u : State => u = { s with contexts := u.contexts }) _ _ rfl fun u hu w _ => by rw [hu]; rfl
  · rfl

/-- The state after the completion record of a fabric launch has been sent. -/
def launchReturned (s : State) (l : Launch) (st : Nat) (o : Output) : State :=
  let s := setBits (dropLaunch s l.id) l st
  { s with out := s.out ++ [o] }

theorem exec_launchDone_returns {s : State} {id node st : Nat} {cookie : Word} {l : Launch} (hl : launchBy s id = some l)
    (hfabric : l.fabric = some (node, cookie)) (hstatus : l.status = some st) (hover : l.published = true ∨ (l.left = [] ∧ l.region.cores = []))
    (hanswered : regionAnswered s l = true) :
    ∃ t, exec (.launchDone id) s = .next t ∧ (∀ m ∈ t.launches, m.id ≠ id) ∧ t.out = s.out ++ [packetTo node 5
      (s.partitionOf l.ctx.toNat) cookie (wordBytes (completionWord l st) ++ wordBytes (BitVec.ofNat 64 s.now))] := by
  obtain rfl : l.id = id := launchBy_id hl
  obtain ⟨ls, hpublish⟩ := publishLaunch_over hover hanswered
  have hexec : exec (.launchDone l.id) s = .next (launchReturned { s with launches := ls } l st (packetTo node 5 (s.partitionOf l.ctx.toNat) cookie
      (wordBytes (completionWord l st) ++ wordBytes (BitVec.ofNat 64 s.now)))) := by
    simp only [exec_launchDone, execLaunchDone, hl, hfabric, hstatus, hpublish, Bool.not_true, Bool.false_eq_true, if_false]
    rfl
  refine ⟨_, hexec, ?_, ?_⟩
  · rw [launchReturned, setBits_rest]
    exact dropLaunch_absent _ l.id
  · rw [launchReturned, setBits_rest]
    rfl

/-! ## The direct path (R300, R318) -/

theorem exec_directRequest_down {die src tenant core : Nat} {cookie entry : Word} {ctx : BitVec 12} {args : List Word} {s : State}
    (h : portUp s (Config.portOf src) = false) : exec (.directRequest die src tenant cookie ctx core entry args) s = .next s := by
  simp [exec_directRequest, execDirectRequest, h]

theorem exec_directRequest_up {die src tenant core : Nat} {cookie entry : Word} {ctx : BitVec 12} {args : List Word} {s : State}
    (h : portUp s (Config.portOf src) = true) :
    exec (.directRequest die src tenant cookie ctx core entry args) s =
      .next (if !(s.tenant die tenant).valid || (s.tenant die tenant).ctx != ctx || (s.context ctx.toNat).isNone ||
          (s.partition (s.partitionOf ctx.toNat)).resetting.isSome
        then { s with out := s.out ++ [packetTo src 3 (s.partitionOf ctx.toNat) cookie [3]] }
        else { s with directs := s.directs ++ [⟨ctx, core, entry, args.take 2, none, 0, src, cookie, s.now⟩] }) := by
  simp only [exec_directRequest, execDirectRequest, h, Bool.not_true, Bool.false_eq_true, if_false]
  split_ifs <;> rfl

theorem directReply_fabric {s : State} {d : Direct} (st : Nat) (h : d.fn = none) :
    directReply s d st = { s with out := s.out ++ [packetTo d.node 3 (s.partitionOf d.ctx.toNat) d.cookie [BitVec.ofNat 8 st]] } := by
  simp [directReply, h]

/-- A direct request as it reaches the core that has its share now. -/
def arrivedDirect (s : State) (d : Direct) : Direct := { d with core := routedCore s d.ctx d.core }

theorem exec_directMessage_busy {s : State} {k : Nat} {d : Direct} (hk : s.directs[k]? = some d) (hfn : d.fn = none)
    (hnone : directTset { s with directs := s.directs.eraseIdx k } (arrivedDirect s d) = none) :
    exec (.directMessage k) s = .next { s with directs := s.directs.eraseIdx k,
                                               out := s.out ++ [packetTo d.node 3 (s.partitionOf d.ctx.toNat) d.cookie [2]] } := by
  have hreply := directReply_fabric (s := { s with directs := s.directs.eraseIdx k }) (d := arrivedDirect s d) 2 hfn
  simp only [exec_directMessage, execDirectMessage, takeAt_some hk]
  rw [show ({ d with core := routedCore { s with directs := s.directs.eraseIdx k } d.ctx d.core } : Direct) = arrivedDirect s d from rfl, hnone]
  exact congrArg _ hreply

theorem exec_directMessage_starts {s : State} {k ts : Nat} {d : Direct} (hk : s.directs[k]? = some d) (hfn : d.fn = none)
    (hsome : directTset { s with directs := s.directs.eraseIdx k } (arrivedDirect s d) = some ts) :
    ∃ t, exec (.directMessage k) s = .next t ∧ t.directs = s.directs.eraseIdx k ∧
      t.out = s.out ++ [packetTo d.node 3 (s.partitionOf d.ctx.toNat) d.cookie [4]] ∧
      ∃ a, (t.tset (routedCore s d.ctx d.core) ts).act = some a ∧ a.msg.kind = 7 ∧ a.msg.words = d.args ∧ a.msg.ctx = d.ctx ∧
        a.origin = .direct ∧ (t.tset (routedCore s d.ctx d.core) ts).pc = (d.entry.setWidth 57).setWidth 64 := by
  let core := routedCore s d.ctx d.core
  let m := unitMsg { s with directs := s.directs.eraseIdx k } core 7 0 0 d.ctx.toNat d.args
  let u := startActivation m.2 core ts m.1 .direct d.entry m.2.now
  have hkept : Bookkeeping _ u := startActivation_bookkeeping m.2 core ts m.1 .direct d.entry m.2.now
  obtain ⟨owner, tvec, wdogEnd, readyAt, htset⟩ := startActivation_tset m.2 core ts m.1 .direct d.entry m.2.now
  have hexec : exec (.directMessage k) s = .next (directReply u (arrivedDirect s d) 4) := by
    simp only [exec_directMessage, execDirectMessage, takeAt_some hk]
    rw [show ({ d with core := routedCore { s with directs := s.directs.eraseIdx k } d.ctx d.core } : Direct) = arrivedDirect s d from rfl, hsome]
    rfl
  rw [directReply_fabric 4 (show (arrivedDirect s d).fn = none from hfn)] at hexec
  refine ⟨_, hexec, ?_, ?_, startedAct m.2 core ts m.1 .direct d.entry m.2.now, ?_, rfl, rfl, BitVec.ofNat_toNat 12 d.ctx, rfl, ?_⟩
  · rw [hkept.rest]
    rfl
  · rw [hkept.rest]
    rfl
  · exact congrArg TSet.act htset
  · exact congrArg TSet.pc htset

/-! ## O40 -/

/-- Settles O40: each of the steps of a launch, and of a request of the fabric, by what it does when its conditions hold. -/
theorem launches : Obligations.Launches := by
  unfold Obligations.Launches
  refine ⟨⟨fun s id core ts p l hl hp => ⟨?_, ?_⟩, fun s id l hl hstatus => ⟨?_, exec_launchComplete_waits hl⟩⟩, ?_, ?_, ?_⟩
  · intro hserved hts hctx hfree hbudget hneed
    exact ⟨_, exec_coresidentReservation_takes hl hp hserved hts hctx hfree hbudget hneed, reservedState_tset s id core ts l,
      reservedState_armed s id core ts l⟩
  · exact exec_elementStartDispatch_starts hl hp
  · exact exec_launchComplete_done hl hstatus
  · exact fun s id node st cookie l => exec_launchDone_returns
  · intro s die src tenant core cookie entry ctx args
    refine ⟨exec_directRequest_down, fun hup => ⟨_, exec_directRequest_up hup, fun hrefused => ?_, fun haccepted => ?_⟩⟩
    · rw [if_pos hrefused]
      exact ⟨rfl, rfl⟩
    · rw [if_neg (by simp [haccepted])]
      exact ⟨_, rfl, rfl, rfl, rfl, rfl⟩
  · intro s k d hk hfn
    dsimp only
    cases hset : directTset { s with directs := s.directs.eraseIdx k } (arrivedDirect s d) with
    | none =>
      refine ⟨_, exec_directMessage_busy hk hfn hset, rfl, fun _ => rfl, fun ts hts => ?_⟩
      exact absurd (hset.symm.trans hts) (by simp)
    | some ts =>
      obtain ⟨t, hexec, hdirects, hout, hact⟩ := exec_directMessage_starts hk hfn hset
      refine ⟨t, hexec, hdirects, fun hnone => absurd (hset.symm.trans hnone) (by simp), fun ts' hts' => ?_⟩
      obtain rfl := Option.some.inj (hset.symm.trans hts')
      exact ⟨hout, hact⟩

end Sys2Proof.Machine

end

/-! # The ends of activations: what they leave alone (R146, R152, R169, R220 to R222, R348, R349) -/
section

namespace Sys2Proof.Machine

/-! ## Steps beside the thread sets -/

/-- From `s` to `t` the inboxes, the contexts and the partitions stand, and no cluster gains or loses a decision. -/
structure Beside (s t : State) : Prop where
  curCore : t.curCore = s.curCore := by rfl
  curTs : t.curTs = s.curTs := by rfl
  contexts : t.contexts = s.contexts := by rfl
  partitions : t.partitions = s.partitions := by rfl
  inbox : ∀ n, (t.core n).inbox = (s.core n).inbox := by exact fun _ => rfl
  decided : ∀ c, (t.cluster c).decisions.map (·.act) = (s.cluster c).decisions.map (·.act) := by exact fun _ => rfl

/-- The same, and the thread sets stand. -/
structure Steady (s t : State) : Prop extends Beside s t where
  tsets : t.tsets = s.tsets := by rfl

theorem Beside.trans {s t u : State} (h : Beside s t) (h' : Beside t u) : Beside s u :=
  ⟨h'.curCore.trans h.curCore, h'.curTs.trans h.curTs, h'.contexts.trans h.contexts, h'.partitions.trans h.partitions,
    fun n => (h'.inbox n).trans (h.inbox n), fun c => (h'.decided c).trans (h.decided c)⟩

theorem Steady.refl (s : State) : Steady s s := {}

theorem Steady.trans {s t u : State} (h : Steady s t) (h' : Steady t u) : Steady s u := ⟨h.toBeside.trans h'.toBeside, h'.tsets.trans h.tsets⟩

theorem Steady.foldl {α : Type} {s : State} {l : List α} {f : State → α → State} (h : ∀ u x, Steady u (f u x)) : Steady s (l.foldl f s) :=
  List.foldlRecOn (motive := Steady s) _ _ (.refl s) fun u hu x _ => hu.trans (h u x)

theorem Steady.tset {s t : State} (h : Steady s t) (c k : Nat) : t.tset c k = s.tset c k := by
  rw [State.tset, h.tsets]; rfl

theorem Bookkeeping.steady {s t : State} (h : Bookkeeping s t) : Steady s t where
  curCore := by rw [h.rest]
  curTs := by rw [h.rest]
  tsets := by rw [h.rest]
  contexts := by rw [h.rest]
  partitions := by rw [h.rest]
  inbox n := by rw [h.cores n]
  decided := h.decided

theorem CacheChange.steady {s t : State} (h : CacheChange s t) : Steady s t where
  curCore := by rw [h.rest]
  curTs := by rw [h.rest]
  tsets := by rw [h.rest]
  contexts := by rw [h.rest]
  partitions := by rw [h.rest]
  inbox _ := by rw [h.rest]; rfl
  decided := h.decided

theorem Steady.modCore {s : State} {n : Nat} {f : Core → Core} (h : ∀ c, (f c).inbox = c.inbox) : Steady s (s.modCore n f) where
  inbox k := by
    by_cases hk : k = n
    · subst hk
      rw [State.core_modCore_self, h]
    · rw [State.core_modCore_ne s f hk]

theorem Steady.modCluster {s : State} {n : Nat} {f : Cluster → Cluster} (h : ∀ c, (f c).decisions.map (·.act) = c.decisions.map (·.act)) :
    Steady s (s.modCluster n f) := (Bookkeeping.modCluster h).steady

theorem Steady.modSides (s : State) (n id : Nat) (f : List Side → List Side) : Steady s (s.modCluster n (fun u => { u with
    decisions := u.decisions.map (fun d => if d.id == id then { d with sides := f d.sides } else d) })) :=
  .modCluster fun u => decisions_map_sides u.decisions id f

theorem Steady.raiseCounter (s : State) (ctx : Nat) (rcb : Word) (off n : Nat) (launch : Option Nat) :
    Steady s (raiseCounter s ctx rcb off n launch) := (Bookkeeping.raiseCounter s ctx rcb off n launch).steady

theorem Steady.countAt (s : State) (core id n : Nat) : Steady s (countAt s core id n) := (Bookkeeping.countAt s core id n).steady

theorem Steady.emitTrace (s : State) (core kind : Nat) (words : List Word) : Steady s (emitTrace s core kind words) :=
  (Bookkeeping.emitTrace s core kind words).steady

theorem Steady.unitWrite (s : State) (va n x : Nat) : Steady s (unitWrite s va n x) := (HomeChange.unitWrite s va n x).cacheChange.steady

theorem Steady.homeWrite (s : State) (pa n x : Nat) : Steady s (s.homeWrite pa n x) := (HomeChange.homeWrite s pa n x).cacheChange.steady

/-! ## Holds and locks given back (R146, R152) -/

theorem Steady.setDirty (s : State) (core va : Nat) (x : Xlat) : Steady s (setDirty s core va x) := by
  unfold Machine.setDirty
  split_ifs
  · exact .refl s
  · exact (HomeChange.setPteDirty s x).cacheChange.steady.trans (.trans (.modCore (by intro; rfl)) (.modCluster (by intro; rfl)))

theorem Steady.objWrite (s : State) (core va pa n x : Nat) : Steady s (objWrite s core va pa n x) :=
  (Steady.setDirty s core va _).trans (HomeChange.putAt _ _ n x).cacheChange.steady

theorem Steady.publishBound (s : State) (core ctx pa : Nat) : Steady s (publishBound s core ctx pa) := by
  unfold Machine.publishBound
  split
  · exact (CacheChange.writeBackIf s _ _).steady
  · exact .refl s

theorem Steady.setObj (s : State) (core va pa shr : Nat) (exc : Bool) : Steady s (setObj s core va pa shr exc) :=
  (Steady.objWrite s core va pa 4 shr).trans (.objWrite _ core va (pa + 4) 1 _)

theorem Steady.giveBack (s : State) (core va pa : Nat) (exclusive last : Bool) : Steady s (giveBack s core va pa exclusive last) := by
  unfold Machine.giveBack
  split_ifs
  · exact .setObj s core va pa _ false
  · exact .refl s
  · exact .setObj s core va pa _ _

theorem Steady.settleOne (s : State) (o : Owed) : Steady s (settleOne s o) := by
  unfold Machine.settleOne
  dsimp only
  split_ifs
  · exact .refl s
  · exact .publishBound s _ _ _
  · refine (Steady.publishBound s o.core o.ctx.toNat o.hold.pa).trans (.trans (Steady.foldl fun u k => ?_) {})
    exact (Steady.objWrite u _ _ _ _ _).trans (.giveBack _ _ _ _ _ _)

theorem Steady.settleOwed (s : State) (core : Nat) : Steady s (settleOwed s core) := .foldl fun u o => .settleOne u o

theorem Steady.releaseLocks (s : State) (core ts : Nat) : Steady s (releaseLocks s core ts) := by
  unfold Machine.releaseLocks
  exact Steady.trans {} (.countAt _ core 0x0005 _)

theorem Steady.withdraw (s : State) (core ts : Nat) : Steady s (withdraw s core ts) :=
  Steady.trans (t := { s with acqs := s.acqs.filter (fun a => !(a.core == core && a.ts == ts)),
                              watches := s.watches.filter (fun w => match w.who with | .spin c t _ => !(c == core && t == ts) | _ => true) })
    {} (.trans (.modCore (by intro; rfl)) (.modCluster (by intro; rfl)))

/-! ## Records, notices and messages of an end (R174, R222, R275, R276) -/

theorem Steady.dequeRemove (s : State) (core k : Nat) : Steady s (dequeRemove s core k) :=
  (Steady.foldl fun _ _ => {}).trans (.modCore fun _ => rfl)

theorem Steady.dropRecords (s : State) (core uid : Nat) : Steady s (dropRecords s core uid) :=
  .foldl fun u k => by
    split_ifs
    · exact .dequeRemove u core k
    · exact .refl u

theorem Steady.unholdRecords (s : State) (core uid : Nat) : Steady s (unholdRecords s core uid) :=
  .foldl fun u k => by
    split_ifs
    · exact Steady.trans {} (Bookkeeping.notIdle _ core).steady
    · exact .refl u

theorem Steady.pruneFor (s : State) (core ts : Nat) (cps : List Nat) : Steady s (pruneFor s core ts cps) :=
  .foldl fun u cp => by
    dsimp only
    split_ifs
    · exact .modCluster fun _ => rfl
    · exact .refl u

theorem Steady.launchEnded (s : State) (core ts : Nat) (l : Option Nat) (dead : Bool) : Steady s (launchEnded s core ts l dead) := by
  unfold Machine.launchEnded
  split <;> exact {}

theorem Steady.faultNotice (s : State) (ctx code : Nat) (id : Word) (tag : BitVec 12) (core : Nat) (w3 : Word) :
    Steady s (faultNotice s ctx code id tag core w3) := (Bookkeeping.faultNotice s ctx code id tag core w3).steady

theorem Steady.deadMessage (s : State) (core ts : Nat) (m : Msg) : Steady s (deadMessage s core ts m) := by
  unfold Machine.deadMessage
  dsimp only
  refine Steady.trans (.launchEnded s core ts m.launch true) ?_
  split_ifs
  · exact .faultNotice _ _ _ _ _ _ _
  · exact Steady.trans (.foldl fun u p => .unitWrite u _ _ _) (.trans (.unitWrite _ _ _ _) (.faultNotice _ _ _ _ _ _ _))

theorem Steady.supervisorNotice (s : State) (p code reason ctx core ts count : Nat) (detail : Word) :
    Steady s (supervisorNotice s p code reason ctx core ts count detail) := by
  unfold Machine.supervisorNotice
  dsimp only
  split_ifs
  · exact .refl s
  · exact .homeWrite s _ _ _
  · have hnote : ∀ u c pr tg ws, Steady u (postUnit u c 0 tg pr (u.homeRead ((s.partition p).supBlock + 32) 4 % 4096) ws) := fun u c pr tg ws =>
      (Bookkeeping.postUnit u c 0 tg pr _ ws).steady
    have hrecord : ∀ u at_ w0 w1 w2 w3 at' x, Steady u ((Machine.unitWrite (Machine.unitWrite (Machine.unitWrite (Machine.unitWrite u at_ 8 w0)
        (at_ + 8) 8 w1) (at_ + 16) 8 w2) (at_ + 24) 8 w3).homeWrite at' 4 x) := fun u at_ w0 w1 w2 w3 at' x =>
      (Steady.unitWrite u at_ 8 w0).trans (.trans (.unitWrite _ _ 8 w1) (.trans (.unitWrite _ _ 8 w2) (.trans (.unitWrite _ _ 8 w3) (.homeWrite _ at' 4 x))))
    split
    · exact (hrecord _ _ _ _ _ _ _ _).trans (hnote _ _ _ _ _)
    · exact hrecord _ _ _ _ _ _ _ _

theorem Steady.tickQueues (s : State) : Steady s (tickQueues s) := .foldl fun _ _ => {}

end Sys2Proof.Machine

end

/-! # Aborts (R146, R152, R169, R184, R220 to R222, R280, R348, R349) -/
section

namespace Sys2Proof.Machine

/-! ## Thread sets and kills -/

/-- What a value of a list with its values mapped keeps. -/
theorem mget_map_keeps {α β : Type} (p : α → β) {g : α → α} (h : ∀ x, p (g x) = p x) (d : α) (l : List (Nat × α)) (k : Nat) :
    p (mget d (l.map (fun e => (e.1, g e.2))) k) = p (mget d l k) := by
  induction l with
  | nil => rfl
  | cons e r ih =>
    simp only [List.map_cons, mget]
    split_ifs
    · exact h e.2
    · exact ih

/-- Whether a context is killed, if it exists. -/
def killedOf (s : State) (n : Nat) : Option Bool := (s.context n).map (·.killed)

/-- From `s` to `t` the thread sets stand, and no context is killed or restarted. -/
structure Calm (s t : State) : Prop where
  curCore : t.curCore = s.curCore := by rfl
  curTs : t.curTs = s.curTs := by rfl
  tsets : t.tsets = s.tsets := by rfl
  killed : ∀ n, killedOf t n = killedOf s n := by exact fun _ => rfl

theorem Calm.refl (s : State) : Calm s s := {}

theorem Calm.trans {s t u : State} (h : Calm s t) (h' : Calm t u) : Calm s u :=
  ⟨h'.curCore.trans h.curCore, h'.curTs.trans h.curTs, h'.tsets.trans h.tsets, fun n => (h'.killed n).trans (h.killed n)⟩

theorem Calm.foldl {α : Type} {s : State} {l : List α} {f : State → α → State} (h : ∀ u x, Calm u (f u x)) : Calm s (l.foldl f s) :=
  List.foldlRecOn (motive := Calm s) _ _ (.refl s) fun u hu x _ => hu.trans (h u x)

theorem Calm.tset {s t : State} (h : Calm s t) (c k : Nat) : t.tset c k = s.tset c k := by
  rw [State.tset, h.tsets]; rfl

theorem Steady.calm {s t : State} (h : Steady s t) : Calm s t :=
  ⟨h.curCore, h.curTs, h.tsets, fun n => by rw [killedOf, State.context, h.contexts]; rfl⟩

theorem Bookkeeping.calm {s t : State} (h : Bookkeeping s t) : Calm s t := h.steady.calm

theorem Calm.modContext {s : State} {n : Nat} {f : Context → Context} (h : ∀ c, (f c).killed = c.killed) : Calm s (s.modContext n f) where
  killed k := by
    rw [killedOf, killedOf, State.context, State.context, State.modContext]
    by_cases hk : k = n
    · subst hk
      rw [mget_mmod_self, Option.map_map]
      exact congrArg (fun g => Option.map g _) (funext h)
    · rw [mget_mmod_ne _ _ _ hk]

theorem Calm.placeMsg (s : State) (core : Nat) (m : Msg) : Calm s (placeMsg s core m) := by
  unfold Machine.placeMsg
  dsimp only
  split_ifs
  · exact Calm.trans {} (Bookkeeping.absentNotice _ _ _ _ _).calm
  · exact {}

theorem Calm.admitArrivals (s : State) (core ctx : Nat) (ms : List Msg) : Calm s (admitArrivals s core ctx ms) := by
  induction ms generalizing s with
  | nil => exact .modContext fun _ => rfl
  | cons m rest ih =>
    unfold Machine.admitArrivals
    split_ifs
    · exact (Calm.placeMsg s core m).trans (ih _)
    · exact .modContext fun _ => rfl

theorem Calm.admitReturned (s : State) (core : Nat) : Calm s (admitReturned s core) := by
  unfold Machine.admitReturned
  split
  · split_ifs
    · exact .refl s
    · exact .admitArrivals s core _ _
  · by_cases hroom : slotsUsed (s.core core) false < Config.requestSlots
    · rw [if_pos hroom]
      exact {}
    · rw [if_neg hroom]
      exact .refl s

theorem Calm.freeSlot (s : State) (core ts : Nat) : Calm s (freeSlot s core ts) := by
  unfold Machine.freeSlot
  split
  · exact Calm.trans {} (.admitReturned _ core)
  · exact .refl s

theorem Calm.returnRecord (s : State) (core ts : Nat) (front : Bool) (x : Slot) : Calm s (returnRecord s core ts front x) :=
  Calm.trans (t := s.modCore core (fun c => { c with returned := c.returned ++ [⟨front, ts, x⟩] })) {} (.admitReturned _ core)

theorem Calm.returnMessage (s : State) (core ts : Nat) (a : Act) (counts : Bool) : Calm s (returnMessage s core ts a counts).2 := by
  unfold Machine.returnMessage
  split
  · split
    · exact .refl s
    · next x rest _ =>
      dsimp only
      generalize x.aborts + (if counts = true then 1 else 0) = n
      split_ifs
      · exact Calm.trans {} ((Calm.admitReturned _ core).trans (Steady.deadMessage _ _ _ _).calm)
      · exact {}
  · split
    · exact .returnRecord s core ts true _
    · exact .refl s

/-! ## A change of one thread set -/

/-- From `s` to `t` one thread set becomes `x`, the others stand, and no context is killed or restarted. -/
structure Sets (core ts : Nat) (x : TSet) (s t : State) : Prop where
  curCore : t.curCore = s.curCore
  curTs : t.curTs = s.curTs
  own : t.tset core ts = x
  others : ∀ c k, c * 4 + k ≠ core * 4 + ts → t.tset c k = s.tset c k
  killed : ∀ n, killedOf t n = killedOf s n

section OneTset
variable {core ts : Nat} {x y : TSet} {s t u : State}

theorem Sets.modTset (s : State) (core ts : Nat) (f : TSet → TSet) : Sets core ts (f (s.tset core ts)) s (s.modTset core ts f) :=
  ⟨rfl, rfl, State.tset_modTset_self s core ts f, fun _ _ h => State.tset_modTset_ne s f h, fun _ => rfl⟩

theorem Calm.sets (h : Calm s t) : Sets core ts (s.tset core ts) s t :=
  ⟨h.curCore, h.curTs, h.tset core ts, fun c k _ => h.tset c k, h.killed⟩

theorem Sets.trans (h : Sets core ts x s t) (h' : Sets core ts y t u) : Sets core ts y s u :=
  ⟨h'.curCore.trans h.curCore, h'.curTs.trans h.curTs, h'.own, fun c k hk => (h'.others c k hk).trans (h.others c k hk),
    fun n => (h'.killed n).trans (h.killed n)⟩

theorem Sets.calm (h : Sets core ts x s t) (h' : Calm t u) : Sets core ts x s u := by
  have hsame := h'.sets (core := core) (ts := ts)
  rw [h.own] at hsame
  exact h.trans hsame

theorem Sets.modTset_after (h : Sets core ts x s t) (f : TSet → TSet) : Sets core ts (f x) s (t.modTset core ts f) := by
  have hset := Sets.modTset t core ts f
  rw [h.own] at hset
  exact h.trans hset

end OneTset

/-! ## The parts of an abort -/

theorem Steady.releaseHolds_some (s : State) (core ts : Nat) (a : Act) (h : (s.tset core ts).holds.isEmpty = false) :
    ∃ u, Steady s u ∧ Steady (u.modTset core ts (fun t => { t with holds := [] })) (releaseHolds s core ts a) := by
  unfold releaseHolds
  rw [if_neg (by simp [h])]
  exact ⟨_, {}, (Steady.raiseCounter _ _ _ _ _ _).trans (.settleOwed _ core)⟩

theorem Sets.releaseHolds (s : State) (core ts : Nat) (a : Act) :
    Sets core ts { s.tset core ts with holds := [] } s (releaseHolds s core ts a) := by
  cases hempty : (s.tset core ts).holds.isEmpty with
  | true =>
    have hrefl := (Calm.refl s).sets (core := core) (ts := ts)
    rw [Machine.releaseHolds, if_pos hempty, ← List.isEmpty_iff.mp hempty]
    exact hrefl
  | false =>
    obtain ⟨u, hu, hset⟩ := Steady.releaseHolds_some s core ts a hempty
    exact (hu.calm.sets.modTset_after _).calm hset.calm

theorem Beside.releaseHolds (s : State) (core ts : Nat) (a : Act) : Beside s (releaseHolds s core ts a) := by
  cases hempty : (s.tset core ts).holds.isEmpty with
  | true =>
    rw [Machine.releaseHolds, if_pos hempty]
    exact {}
  | false =>
    obtain ⟨u, hu, hset⟩ := Steady.releaseHolds_some s core ts a hempty
    exact hu.toBeside.trans (Beside.trans {} hset.toBeside)

theorem Sets.queueWrites (s : State) (core ts : Nat) (ws : List QWrite) :
    ∃ q, Sets core ts { s.tset core ts with storeq := q } s (queueWrites s core ts ws) := by
  refine List.foldlRecOn (motive := fun u => ∃ q, Sets core ts { s.tset core ts with storeq := q } s u) _ _ ⟨_, (Calm.refl s).sets⟩ ?_
  rintro u ⟨q, hu⟩ w -
  exact ⟨_, (hu.calm (u := u.fresh.2) {}).modTset_after fun t => { t with storeq := t.storeq ++ [{ seq := u.fresh.1, w := w, owner := t.owner }] }⟩

/-- The undo of a thief's trail leaves its thread set but for the store queue and the top of the trail. -/
theorem Sets.undoTrail (s : State) (core ts : Nat) :
    ∃ q top, Sets core ts { s.tset core ts with storeq := q, trtop := top } s (undoTrail s core ts) := by
  obtain ⟨q, hq⟩ := Sets.queueWrites s core ts (undoWrites s core (s.tset core ts).storeq
    (((s.tset core ts).trtop.toNat - ((s.tset core ts).act.map (·.trailBase)).getD 0) / 16) (s.tset core ts).trtop.toNat none)
  exact ⟨q, _, hq.modTset_after fun t => { t with trtop := BitVec.ofNat 18 (((s.tset core ts).act.map (·.trailBase)).getD 0) }⟩

theorem Sets.settleTheft (s : State) (core ts : Nat) : ∃ g, Sets core ts { s.tset core ts with theftGrant := g } s (settleTheft s core ts) := by
  unfold Machine.settleTheft
  split
  · exact ⟨_, (Calm.refl s).sets⟩
  · split_ifs
    · exact ⟨_, (Calm.refl s).sets⟩
    · exact ⟨none, ((Calm.refl s).sets.calm {}).modTset_after fun t => { t with theftGrant := none }⟩

/-! ## One abort -/

/-- The records, requests, locks, holds and decision side of an activation given up, and its abort counted. -/
def abortSettled (s : State) (core ts : Nat) (a : Act) (cps : List Nat) : State :=
  let s := pruneFor s core ts cps
  let s := becameFree (releaseHolds (releaseLocks (withdraw (dropRecords s core a.uid) core ts) core ts) core ts a) core
  let s := match a.spec with
    | some (cl, id, side) => s.modCluster cl (fun u => { u with decisions := u.decisions.map (fun d => if d.id == id then
        { d with sides := modAt (fun x => { x with held := [], entries := [], watch := none, act := none }) d.sides side } else d) })
    | none => s
  countAt (raiseCounter s a.msg.ctx.toNat a.rcb 0xE8 1 a.launch) core 0x0004 1

/-- The same after the trail of a thief is undone. -/
def abortCleared (s : State) (core ts : Nat) (a : Act) : State :=
  abortSettled (if a.stolen.isSome then undoTrail s core ts else s) core ts a (choicePoints (s.tset core ts))

/-- The count of an abort's message, and the state once it is returned, or its slot freed. -/
def abortReturned (s : State) (core ts : Nat) (a : Act) (reason : Nat) (keep : Bool) : Nat × State :=
  if keep then returnMessage s core ts a (reasonCounts reason) else (0, freeSlot s core ts)

/-- The rest of an abort: its trace record, the end of the thread set, and the theft it was kept for. -/
def abortFinished (r : Nat × State) (core ts : Nat) (a : Act) (reason : Nat) (detail : Word) : State :=
  let s := emitTrace r.2 core 4
    [traceP a.msg core ts ||| (BitVec.ofNat 64 reason) <<< 40 ||| (BitVec.ofNat 64 (r.1 % 4)) <<< 48, detail]
  let s := s.modTset core ts TSet.ended
  if a.stolen.isSome then settleTheft s core ts else s

section OneAbort
variable {s : State} {core ts : Nat} {a : Act}

theorem abortPlain_idle (reason : Nat) (keep : Bool) (detail : Word) (h : (s.tset core ts).act = none) :
    abortPlain s core ts reason keep detail = s := by
  simp [abortPlain, h]

theorem abortPlain_running (reason : Nat) (keep : Bool) (detail : Word) (h : (s.tset core ts).act = some a) :
    abortPlain s core ts reason keep detail =
      abortFinished (abortReturned (abortCleared s core ts a) core ts a reason keep) core ts a reason detail := by
  unfold abortPlain
  simp only [h]
  rfl

/-- What an abort settles before the holds are released is beside the thread sets. -/
theorem Steady.beforeRelease (s : State) (core ts : Nat) (cps : List Nat) (uid : Nat) :
    Steady s (Machine.releaseLocks (Machine.withdraw (Machine.dropRecords (Machine.pruneFor s core ts cps) core uid) core ts) core ts) :=
  ((Steady.pruneFor s core ts cps).trans (.dropRecords _ core uid)).trans ((Steady.withdraw _ core ts).trans (.releaseLocks _ core ts))

/-- What it settles and counts after that. -/
theorem Steady.afterRelease (s : State) (core : Nat) (a : Act) : Steady s
    (Machine.countAt (Machine.raiseCounter (match a.spec with
      | some (cl, id, side) => (becameFree s core).modCluster cl (fun u => { u with decisions := u.decisions.map (fun d => if d.id == id then
          { d with sides := modAt (fun x => { x with held := [], entries := [], watch := none, act := none }) d.sides side } else d) })
      | none => becameFree s core) a.msg.ctx.toNat a.rcb 0xE8 1 a.launch) core 0x0004 1) := by
  refine Steady.trans ?_ ((Steady.raiseCounter _ _ _ _ _ _).trans (.countAt _ _ _ _))
  refine (Bookkeeping.becameFree s core).steady.trans ?_
  split
  · next cl id side _ =>
    exact .modSides _ cl id fun l => modAt (fun x => { x with held := [], entries := [], watch := none, act := none }) l side
  · exact .refl _

theorem Sets.abortSettled (s : State) (core ts : Nat) (a : Act) (cps : List Nat) :
    Sets core ts { s.tset core ts with holds := [] } s (abortSettled s core ts a cps) := by
  have hbefore := Steady.beforeRelease s core ts cps a.uid
  have hrelease := Sets.releaseHolds (Machine.releaseLocks (Machine.withdraw (Machine.dropRecords (Machine.pruneFor s core ts cps) core a.uid)
    core ts) core ts) core ts a
  rw [hbefore.tset] at hrelease
  exact (hbefore.calm.sets.trans hrelease).calm (Steady.afterRelease _ core a).calm

theorem Beside.abortSettled (s : State) (core ts : Nat) (a : Act) (cps : List Nat) : Beside s (abortSettled s core ts a cps) :=
  (Steady.beforeRelease s core ts cps a.uid).toBeside.trans ((Beside.releaseHolds _ core ts a).trans (Steady.afterRelease _ core a).toBeside)

theorem abortCleared_sets (s : State) (core ts : Nat) (a : Act) :
    ∃ q top, Sets core ts { s.tset core ts with storeq := q, trtop := top, holds := [] } s (abortCleared s core ts a) ∧
      (a.stolen = none → q = (s.tset core ts).storeq) := by
  cases hstolen : a.stolen with
  | none =>
    refine ⟨(s.tset core ts).storeq, (s.tset core ts).trtop, ?_, fun _ => rfl⟩
    rw [abortCleared, hstolen]
    exact .abortSettled s core ts a _
  | some x =>
    obtain ⟨q, top, hundo⟩ := Sets.undoTrail s core ts
    refine ⟨q, top, ?_, fun h => by simp at h⟩
    rw [abortCleared, hstolen]
    have hafter := Sets.abortSettled (undoTrail s core ts) core ts a (choicePoints (s.tset core ts))
    rw [hundo.own] at hafter
    exact hundo.trans hafter

theorem Calm.abortReturned (s : State) (core ts : Nat) (a : Act) (reason : Nat) (keep : Bool) :
    Calm s (abortReturned s core ts a reason keep).2 := by
  unfold Machine.abortReturned
  split_ifs
  · exact .returnMessage s core ts a _
  · exact .freeSlot s core ts

/-- An abort ends its thread set: its holds are given back, its queued stores stand unless a thief's trail is undone. -/
theorem Sets.abortPlain (reason : Nat) (keep : Bool) (detail : Word) (h : (s.tset core ts).act = some a) :
    ∃ q top g, Sets core ts { TSet.ended { s.tset core ts with storeq := q, trtop := top, holds := [] } with theftGrant := g } s
      (abortPlain s core ts reason keep detail) ∧ (a.stolen = none → q = (s.tset core ts).storeq) := by
  obtain ⟨q, top, hcleared, hq⟩ := abortCleared_sets s core ts a
  rw [abortPlain_running reason keep detail h]
  have hended := ((hcleared.calm (Calm.abortReturned _ core ts a reason keep)).calm (Bookkeeping.emitTrace _ core 4 [traceP a.msg core ts |||
    (BitVec.ofNat 64 reason) <<< 40 ||| (BitVec.ofNat 64 ((Machine.abortReturned (abortCleared s core ts a) core ts a reason keep).1 % 4)) <<< 48,
    detail]).calm).modTset_after TSet.ended
  cases hstolen : a.stolen with
  | none =>
    refine ⟨q, top, (s.tset core ts).theftGrant, ?_, fun _ => hq hstolen⟩
    rw [abortFinished, hstolen]
    exact hended
  | some x =>
    have hsettled := Sets.settleTheft ((emitTrace (Machine.abortReturned (abortCleared s core ts a) core ts a reason keep).2 core 4
      [traceP a.msg core ts ||| (BitVec.ofNat 64 reason) <<< 40 ||| (BitVec.ofNat 64 ((Machine.abortReturned (abortCleared s core ts a) core ts a
        reason keep).1 % 4)) <<< 48, detail]).modTset core ts TSet.ended) core ts
    rw [hended.own] at hsettled
    obtain ⟨g, hg⟩ := hsettled
    refine ⟨q, top, g, ?_, fun h => by simp at h⟩
    rw [abortFinished, hstolen]
    exact hended.trans hg

end OneAbort

/-! ## Aborts together -/

/-- From `s` to `t` every thread set without an activation stands, and no context is killed or restarted. -/
structure Aborts (s t : State) : Prop where
  curCore : t.curCore = s.curCore
  curTs : t.curTs = s.curTs
  idle : ∀ c k, (s.tset c k).act = none → t.tset c k = s.tset c k
  killed : ∀ n, killedOf t n = killedOf s n

theorem Aborts.refl (s : State) : Aborts s s := ⟨rfl, rfl, fun _ _ _ => rfl, fun _ => rfl⟩

theorem Aborts.trans {s t u : State} (h : Aborts s t) (h' : Aborts t u) : Aborts s u where
  curCore := h'.curCore.trans h.curCore
  curTs := h'.curTs.trans h.curTs
  idle c k hact := by
    have hstands := h.idle c k hact
    rw [h'.idle c k (by rw [hstands, hact]), hstands]
  killed n := (h'.killed n).trans (h.killed n)

theorem Aborts.foldl {α : Type} {s : State} {l : List α} {f : State → α → State} (h : ∀ u x, Aborts u (f u x)) : Aborts s (l.foldl f s) :=
  List.foldlRecOn (motive := Aborts s) _ _ (.refl s) fun u hu x _ => hu.trans (h u x)

theorem Calm.aborts {s t : State} (h : Calm s t) : Aborts s t := ⟨h.curCore, h.curTs, fun c k _ => h.tset c k, h.killed⟩

/-- A change of a thread set that runs an activation. -/
theorem Sets.aborts {core ts : Nat} {x : TSet} {s t : State} (h : Sets core ts x s t) (hact : (s.tset core ts).act ≠ none) : Aborts s t where
  curCore := h.curCore
  curTs := h.curTs
  idle c k hidle := by
    by_cases hkey : c * 4 + k = core * 4 + ts
    · rw [State.tset, hkey] at hidle
      exact absurd hidle hact
    · exact h.others c k hkey
  killed := h.killed

theorem Aborts.abortPlain (s : State) (core ts reason : Nat) (keep : Bool) (detail : Word) : Aborts s (abortPlain s core ts reason keep detail) := by
  cases hact : (s.tset core ts).act with
  | none =>
    rw [abortPlain_idle reason keep detail hact]
    exact .refl s
  | some a =>
    obtain ⟨q, top, g, hset, -⟩ := Sets.abortPlain reason keep detail hact
    exact hset.aborts (by simp [hact])

/-! ## The loser of a decision (R184, R280) -/

/-- The activation of a losing side aborted, or what it left in the deque removed. -/
def loserAborted (s : State) (x : Side) : State :=
  match x.act.bind (findAct s) with
  | some (c, t) => abortPlain s c t 0x42 false 0
  | none => (match x.act with | some u => dropRecords s x.core u | none => s)

/-- A context whose saved images are without some messages. -/
def savedWithout (gone : Msg → Bool) (k : Context) : Context :=
  { k with saved := k.saved.map (fun i =>
      (i.1, { i.2 with slots := i.2.slots.filter (fun y => !gone y.msg), arrivals := i.2.arrivals.filter (fun y => !gone y) })) }

/-- The messages and watches of a losing side discarded. -/
def loserDiscarded (s : State) (gone : Msg → Bool) (x : Side) : State :=
  { s with bankWatches := s.bankWatches.filter (fun r => !(x.watch.any (fun w => w.scratch && w.resv == r.resv))),
           mail := s.mail.filter (fun m => !gone m.2),
           cores := s.cores.map (fun c => (c.1, { c.2 with inbox := c.2.inbox.filter (fun y => !(gone y.msg)) })),
           contexts := s.contexts.map (fun c => (c.1, c.2.map (savedWithout gone))) }

theorem settleLoser_eq (s : State) (cl : Nat) (d : Decision) (side : Nat) : settleLoser s cl d side =
    let x := (d.sides[side]?).getD {}
    let u := modSide (loserAborted s x) (cl, d.id, side) (fun y => { y with held := [], entries := [], watch := none, act := none })
    ((u.cores.filter (fun c => c.2.inbox.any (fun y => isSide cl d.id side y.msg))).map (·.1)).foldl admitReturned
      (loserDiscarded u (isSide cl d.id side) x) := rfl

theorem Aborts.loserAborted (s : State) (x : Side) : Aborts s (loserAborted s x) := by
  unfold Machine.loserAborted
  split
  · exact .abortPlain s _ _ _ _ _
  · split
    · exact (Steady.dropRecords s _ _).calm.aborts
    · exact .refl s

theorem Calm.loserDiscarded (s : State) (gone : Msg → Bool) (x : Side) : Calm s (loserDiscarded s gone x) where
  killed n := mget_map_keeps (g := Option.map (savedWithout gone)) (Option.map Context.killed) (fun o => by cases o <;> rfl) none s.contexts n

theorem Aborts.settleLoser (s : State) (cl : Nat) (d : Decision) (side : Nat) : Aborts s (settleLoser s cl d side) := by
  rw [settleLoser_eq]
  refine (Aborts.loserAborted s _).trans (Calm.aborts (.trans (t := modSide (Machine.loserAborted s ((d.sides[side]?).getD {})) (cl, d.id, side)
    (fun y => { y with held := [], entries := [], watch := none, act := none })) {} ?_))
  exact (Calm.loserDiscarded _ _ _).trans (.foldl fun u c => .admitReturned u c)

theorem Aborts.squashDecisions (s : State) (core uid : Nat) : Aborts s (squashDecisions s core uid) := by
  unfold Machine.squashDecisions
  refine Aborts.trans (Aborts.foldl fun u d => ?_) (Calm.aborts {})
  exact (Aborts.settleLoser u _ d 0).trans (.settleLoser _ _ d 1)

theorem Aborts.abortActivation (core ts reason : Nat) (detail : Word) (s : State) : Aborts s (abortActivation core ts reason detail s) := by
  unfold Machine.abortActivation
  split
  · exact .refl s
  · exact (Aborts.abortPlain s core ts reason _ detail).trans (.squashDecisions _ core _)

/-- What an abort leaves of its thread set. -/
theorem abortActivation_ended {s : State} {core ts : Nat} {a : Act} (reason : Nat) (detail : Word) (h : (s.tset core ts).act = some a) :
    let t := (abortActivation core ts reason detail s).tset core ts
    t.act = none ∧ t.pc = (s.tset core ts).pc ∧ t.sendBuf = [] ∧ t.holds = [] ∧ (a.stolen = none → t.storeq = (s.tset core ts).storeq) := by
  obtain ⟨q, top, g, hset, hq⟩ := Sets.abortPlain reason (reason != 0x43) detail h
  have hown := hset.own
  have hstands := (Aborts.squashDecisions (Machine.abortPlain s core ts reason (reason != 0x43) detail) core a.uid).idle core ts (by rw [hown]; rfl)
  rw [hown] at hstands
  have heq : abortActivation core ts reason detail s = squashDecisions (Machine.abortPlain s core ts reason (reason != 0x43) detail) core a.uid := by
    simp only [abortActivation, h]
  dsimp only
  rw [heq, hstands]
  exact ⟨rfl, rfl, rfl, rfl, hq⟩

theorem abortActivation_act (core ts reason : Nat) (detail : Word) (s : State) :
    ((abortActivation core ts reason detail s).tset core ts).act = none := by
  cases hact : (s.tset core ts).act with
  | none => simp [abortActivation, hact]
  | some a => exact (abortActivation_ended reason detail hact).1

end Sys2Proof.Machine

end

/-! # Ends, kills and overruns (R169, R315, R317, R349) -/
section

namespace Sys2Proof.Machine

/-! ## Ends of activations -/

/-- From `s` to `t` no thread set begins an activation, and no context is killed or restarted. -/
structure Ends (s t : State) : Prop where
  curCore : t.curCore = s.curCore
  curTs : t.curTs = s.curTs
  acts : ∀ c k, (s.tset c k).act = none → (t.tset c k).act = none
  killed : ∀ n, killedOf t n = killedOf s n

theorem Ends.refl (s : State) : Ends s s := ⟨rfl, rfl, fun _ _ h => h, fun _ => rfl⟩

theorem Ends.trans {s t u : State} (h : Ends s t) (h' : Ends t u) : Ends s u :=
  ⟨h'.curCore.trans h.curCore, h'.curTs.trans h.curTs, fun c k hk => h'.acts c k (h.acts c k hk), fun n => (h'.killed n).trans (h.killed n)⟩

theorem Ends.foldl {α : Type} {s : State} {l : List α} {f : State → α → State} (h : ∀ u x, Ends u (f u x)) : Ends s (l.foldl f s) :=
  List.foldlRecOn (motive := Ends s) _ _ (.refl s) fun u hu x _ => hu.trans (h u x)

theorem Aborts.ends {s t : State} (h : Aborts s t) : Ends s t :=
  ⟨h.curCore, h.curTs, fun c k hk => by rw [h.idle c k hk, hk], h.killed⟩

theorem Calm.ends {s t : State} (h : Calm s t) : Ends s t := h.aborts.ends

theorem Sets.ends {core ts : Nat} {x : TSet} {s t : State} (h : Sets core ts x s t) (hact : (s.tset core ts).act = none → x.act = none) :
    Ends s t where
  curCore := h.curCore
  curTs := h.curTs
  acts c k hidle := by
    by_cases hkey : c * 4 + k = core * 4 + ts
    · have hsame : ∀ u : State, u.tset c k = u.tset core ts := fun u => by rw [State.tset, hkey]; rfl
      rw [hsame, h.own]
      rw [hsame] at hidle
      exact hact hidle
    · rw [h.others c k hkey, hidle]
  killed := h.killed

theorem Ends.modTset {s : State} {core ts : Nat} {f : TSet → TSet} (h : ∀ t, t.act = none → (f t).act = none) : Ends s (s.modTset core ts f) :=
  (Sets.modTset s core ts f).ends (h _)

/-- Where every element of a list ends its thread set and none is begun, all of them have ended. -/
theorem foldl_ends {α : Type} {f : State → α → State} {key : α → Nat × Nat} (hends : ∀ u x, Ends u (f u x))
    (hown : ∀ u x, ((f u x).tset (key x).1 (key x).2).act = none) (l : List α) (s : State) :
    ∀ x ∈ l, ((l.foldl f s).tset (key x).1 (key x).2).act = none := by
  induction l generalizing s with
  | nil => simp
  | cons y r ih => exact List.forall_mem_cons.mpr ⟨(Ends.foldl (s := f s y) hends).acts _ _ (hown s y), ih (f s y)⟩

/-! ## The last steps of an end (R169) -/

theorem Ends.settleTheft (s : State) (core ts : Nat) : Ends s (settleTheft s core ts) := by
  obtain ⟨g, h⟩ := Sets.settleTheft s core ts
  exact h.ends id

theorem Ends.releaseHolds (s : State) (core ts : Nat) (a : Act) : Ends s (releaseHolds s core ts a) := (Sets.releaseHolds s core ts a).ends id

theorem Calm.becameFree (s : State) (core : Nat) : Calm s (becameFree s core) := {}

theorem Ends.finishEnd (s : State) (core ts : Nat) : Ends s (finishEnd s core ts) := by
  unfold Machine.finishEnd
  split
  · exact .refl s
  · next code a _ =>
    have hslot : ∀ u, Calm u (if code = 2 then
        match runningSlot u core ts with
        | some k =>
          Machine.notIdle (u.modCore core (fun c => match takeAt c.inbox k with
            | some (x, rest) =>
              { c with inbox := rest ++ [{ x with state := .eligible, age := 0, since := u.cycle core, aborts := 0, arrival := u.now }] }
            | none => c)) core
        | none =>
          match a.origin with
          | .deque => returnRecord u core ts false { state := .eligible, msg := a.msg }
          | _ => u
      else launchEnded (freeSlot u core ts) core ts a.launch false) := fun u => by
      split_ifs
      · split
        · exact {}
        · split
          · exact .returnRecord u core ts false _
          · exact .refl u
      · exact (Calm.freeSlot u core ts).trans (Steady.launchEnded _ core ts _ false).calm
    have hlast : ∀ u : State, Ends u
        (Machine.settleTheft (Machine.becameFree (u.modTset core ts (fun t => { t with ending := none })) core) core ts) := fun u =>
      (Ends.modTset (s := u) (f := fun t => { t with ending := none }) fun _ h => h).trans
        ((Calm.becameFree _ core).ends.trans (.settleTheft _ core ts))
    exact ((Steady.releaseLocks s core ts).calm.ends.trans (.releaseHolds _ core ts a)).trans ((hslot _).ends.trans (hlast _))

/-! ## The kill of a context (R349) -/

theorem Calm.scrubCores (s : State) (cs : List Nat) : Calm s (scrubCores s cs) :=
  Calm.trans (t := { s with scratch := keepCores 3072 cs s.scratch, abuf := keepCores 2048 cs s.abuf, wbuf := keepCores 4096 cs s.wbuf,
                            cbuf := keepCores 1024 cs s.cbuf, sramBad := keepCores 24576 cs s.sramBad,
                            abufBad := keepCores 2048 cs s.abufBad, wbufBad := keepCores 4096 cs s.wbufBad, cbufBad := keepCores 1024 cs s.cbufBad,
                            aside := keepCores 32 cs s.aside, wside := keepCores 64 cs s.wside,
                            asideBad := keepCores 32 cs s.asideBad, wsideBad := keepCores 64 cs s.wsideBad,
                            locks := s.locks.filter (fun l => !cs.contains (l.at_ / 48)) }) {} (.foldl fun _ _ => {})

/-- A thread set once the reservations, thefts and releases of a killed context are dropped. -/
def TSet.withoutWork (s : State) (ctx : Nat) (t : TSet) : TSet :=
  let mine := fun (c : BitVec 12) => c.toNat == ctx
  let t' := if t.reserved.any (fun n => s.launches.any (fun l => l.id == n && mine l.ctx)) then { t with reserved := none } else t
  let t' := if t'.theftGrant.any (fun n => s.thefts.any (fun x => x.id == n && mine x.ctx)) then { t' with theftGrant := none } else t'
  if mine t'.relCtx then { t' with releasing := [], armAfter := none } else t'

theorem TSet.withoutWork_act (s : State) (ctx : Nat) (t : TSet) : (t.withoutWork s ctx).act = t.act := by
  unfold TSet.withoutWork
  dsimp only
  split_ifs <;> rfl

theorem Ends.dropWork (s : State) (ctx : Nat) : Ends s (dropWork s ctx) where
  curCore := rfl
  curTs := rfl
  acts c k h := (mget_map_keeps TSet.act (TSet.withoutWork_act s.fresh.2 ctx) TSet.reset s.tsets (c * 4 + k)).trans h
  killed _ := rfl

theorem Calm.endBindings (s : State) (ctx : Nat) : Calm s (endBindings s ctx) := {}

/-- The numbers of the thread sets that run activations of a context. -/
def runningSets (s : State) (ctx : Nat) : List Nat :=
  s.tsets.filterMap (fun p => match p.2.act with
    | some a => if a.msg.ctx.toNat = ctx then some p.1 else none
    | none => none)

/-- The activations of a killed context aborted. -/
def killAborted (s : State) (ctx : Nat) : State :=
  let s := s.modContext ctx (fun c => { c with killed := true })
  (runningSets s ctx).foldl (fun s k => abortActivation (k / 4) (k % 4) 0x43 0 s) s

/-- Its ends under way finished. -/
def killEnded (s : State) (ctx : Nat) : State :=
  let ending := s.tsets.filterMap (fun p => if p.2.ending.any (fun e => e.2.msg.ctx.toNat == ctx) then some p.1 else none)
  ending.foldl (fun s k => finishEnd (s.modTset (k / 4) (k % 4) (fun t => { t with releasing := [], armAfter := none })) (k / 4) (k % 4)) s

/-- Its work, its cores' memories and its bindings dropped, and the supervisor told. -/
def killDropped (s : State) (ctx p reason core ts : Nat) (id : Word) : State :=
  let here := (s.cores.filter (fun p => p.2.ctx == some (BitVec.ofNat 12 ctx) ||
    (p.2.ctx.isNone && p.2.last == some (BitVec.ofNat 12 ctx)))).map (·.1)
  let s := scrubCores (dropWork s ctx) here
  let s := endBindings (s.modContext ctx (fun c => { c with saved := [], moved := [], events := [], bindings := [] })) ctx
  supervisorNotice s p 1 reason ctx core ts 0 id

theorem killContext_live {s : State} {ctx : Nat} {c : Context} (reason core ts : Nat) (h : s.context ctx = some c) (hlive : c.killed = false) :
    killContext ctx reason core ts s =
      killDropped (killEnded (killAborted s ctx) ctx) ctx c.partition reason core ts (((s.tset core ts).act.map (fun a => a.msg.id)).getD 0) := by
  unfold killContext
  simp only [h, hlive, Bool.false_eq_true, if_false]
  rfl

theorem Ends.killEnded (s : State) (ctx : Nat) : Ends s (killEnded s ctx) :=
  Ends.foldl fun u k =>
    (Ends.modTset (s := u) (f := fun t => { t with releasing := [], armAfter := none }) fun _ h => h).trans (.finishEnd _ (k / 4) (k % 4))

theorem Ends.killDropped (s : State) (ctx p reason core ts : Nat) (id : Word) : Ends s (killDropped s ctx p reason core ts id) := by
  have hnotice : ∀ u : State, Calm u (Machine.supervisorNotice (Machine.endBindings (u.modContext ctx
      (fun c => { c with saved := [], moved := [], events := [], bindings := [] })) ctx) p 1 reason ctx core ts 0 id) := fun u =>
    (Calm.modContext (by intro; rfl)).trans ((Calm.endBindings _ ctx).trans (Steady.supervisorNotice _ _ _ _ _ _ _ _ _).calm)
  exact ((Ends.dropWork s ctx).trans (Calm.scrubCores _ _).ends).trans (hnotice _).ends

theorem Ends.abortActivation (core ts reason : Nat) (detail : Word) (s : State) : Ends s (abortActivation core ts reason detail s) :=
  (Aborts.abortActivation core ts reason detail s).ends

/-- The kill of a context ends its activations, and it is killed. -/
theorem killContext_kills {s : State} {ctx : Nat} {c : Context} (reason core ts : Nat) (h : s.context ctx = some c) (hlive : c.killed = false) :
    (∀ k ∈ runningSets s ctx, ((killContext ctx reason core ts s).tset (k / 4) (k % 4)).act = none) ∧
      killedOf (killContext ctx reason core ts s) ctx = some true := by
  rw [killContext_live reason core ts h hlive]
  have hdropped := (Ends.killEnded (killAborted s ctx) ctx).trans
    (.killDropped _ ctx c.partition reason core ts (((s.tset core ts).act.map (fun a => a.msg.id)).getD 0))
  constructor
  · intro k hk
    refine hdropped.acts _ _ ?_
    exact foldl_ends (key := fun k => (k / 4, k % 4)) (fun u k => Ends.abortActivation (k / 4) (k % 4) 0x43 0 u)
      (fun u k => abortActivation_act (k / 4) (k % 4) 0x43 0 u) _ _ k hk
  · rw [hdropped.killed]
    have haborted : Ends (s.modContext ctx (fun c => { c with killed := true })) (killAborted s ctx) :=
      Ends.foldl fun u k => Ends.abortActivation (k / 4) (k % 4) 0x43 0 u
    rw [haborted.killed, killedOf, State.context, State.modContext, mget_mmod_self]
    rw [State.context] at h
    rw [h]
    rfl

/-! ## An overrun (R315, R317) -/

/-- A running activation is among those of its context. -/
theorem mem_of_mget {α : Type} {d x : α} {l : List (Nat × α)} {k : Nat} (h : mget d l k = x) (hx : x ≠ d) : (k, x) ∈ l := by
  induction l with
  | nil => exact absurd h.symm hx
  | cons e r ih =>
    obtain ⟨k', y⟩ := e
    unfold mget at h
    split_ifs at h with hk
    · rw [← hk, ← h]
      exact List.mem_cons_self
    · exact List.mem_cons_of_mem _ (ih h)

theorem activationsOf_nonempty {s : State} {core ts : Nat} {a : Act} (h : (s.tset core ts).act = some a) :
    (activationsOf s a.msg.ctx).isEmpty = false := by
  have hmem : (core * 4 + ts, s.tset core ts) ∈ s.tsets := by
    refine mem_of_mget rfl fun hreset => ?_
    rw [hreset] at h
    exact absurd h (by simp [TSet.reset])
  have hin : ((core * 4 + ts) / 4, (core * 4 + ts) % 4) ∈ activationsOf s a.msg.ctx := by
    refine List.mem_filterMap.mpr ⟨_, hmem, ?_⟩
    simp [h]
  rw [List.isEmpty_eq_false_iff]
  exact List.ne_nil_of_mem hin

theorem mem_runningSets {s : State} {ctx : BitVec 12} {k : Nat × Nat} (h : k ∈ activationsOf s ctx) :
    ∃ n ∈ runningSets s ctx.toNat, k = (n / 4, n % 4) := by
  obtain ⟨p, hp, hk⟩ := List.mem_filterMap.mp h
  split_ifs at hk with hact
  cases ha : p.2.act with
  | none => simp [ha] at hact
  | some a =>
    have hctx : a.msg.ctx = ctx := by simpa [ha] using hact
    refine ⟨p.1, List.mem_filterMap.mpr ⟨p, hp, ?_⟩, (Option.some.inj hk).symm⟩
    simp [ha, hctx]

section Overrun
variable {s : State} {p d l : Nat} {ctx : BitVec 12} (hres : residentOf s p = some ctx) (hlate : d + l ≤ s.now)
  (hsome : (activationsOf s ctx).isEmpty = false) (hcommit : ∀ k ∈ activationsOf s ctx, committing s k.1 k.2 = false)
include hres hlate hsome hcommit

theorem overrun_forced {n : Bool} (hphase : (s.partition p).phase = .preempting d l true n) :
    overrun s p = killContext ctx.toNat 2 Config.noCore 0 s := by
  have hnone : (activationsOf s ctx).any (fun k => committing s k.1 k.2) = false := by
    rw [List.any_eq_false]
    exact fun k hk => by simp [hcommit k hk]
  simp only [overrun, hphase, hres, hsome, hnone, Nat.not_lt.mpr hlate, decide_false, Bool.or_self, Bool.false_eq_true, if_false, if_true]

theorem overrun_plain {n : Bool} (hphase : (s.partition p).phase = .preempting d l false n) :
    overrun s p = faultNotice (raiseRootFaults (((activationsOf s ctx).foldl (fun s k => abortActivation k.1 k.2 0x41 0 s) s).modPartition p
      (fun t => { t with phase := .preempting d l false true })) ctx.toNat) ctx.toNat 17 0 0 Config.noCore 0 := by
  have hnone : (activationsOf s ctx).any (fun k => committing s k.1 k.2) = false := by
    rw [List.any_eq_false]
    exact fun k hk => by simp [hcommit k hk]
  simp only [overrun, hphase, hres, hsome, hnone, Nat.not_lt.mpr hlate, decide_false, Bool.or_self, Bool.false_eq_true, if_false]

/-- A plain overrun ends every activation of the context, and notes it. -/
theorem overrun_plain_ends {n : Bool} (hphase : (s.partition p).phase = .preempting d l false n) :
    (∀ k ∈ activationsOf s ctx, ((overrun s p).tset k.1 k.2).act = none) ∧ ((overrun s p).partition p).phase = .preempting d l false true := by
  rw [overrun_plain hres hlate hsome hcommit hphase]
  have hnotice : ∀ u, Steady u (faultNotice (raiseRootFaults u ctx.toNat) ctx.toNat 17 0 0 Config.noCore 0) := fun u =>
    (Steady.raiseCounter u _ _ _ _ _).trans (.faultNotice _ _ _ _ _ _ _)
  constructor
  · intro k hk
    rw [(hnotice _).tset]
    exact foldl_ends (key := id) (fun u k => Ends.abortActivation k.1 k.2 0x41 0 u) (fun u k => abortActivation_act k.1 k.2 0x41 0 u) _ s k hk
  · rw [State.partition, (hnotice _).partitions, State.modPartition, mget_mmod_self]

end Overrun

end Sys2Proof.Machine

end

/-! # A core selects, starts and aborts activations (R45, R213, R215 to R218, R220 to R223, R226, R308, R315, R317, R348) -/
section

namespace Sys2Proof.Machine

/-! ## The choice of a slot (R217) -/

/-- Whether a slot can start now. -/
def startable (tsetOf : Slot → Option Nat) (y : Slot) : Prop := y.state = .eligible ∧ (tsetOf y).isSome = true

/-- What the best slot so far is, of the first `n` of a list: the earliest of those of lowest effective priority that can start. -/
def bestOfFirst (s : State) (core : Nat) (tsetOf : Slot → Option Nat) (l : List Slot) (n : Nat) : Option (Nat × Nat × Int) → Prop
  | none => ∀ k y, k < n → l[k]? = some y → ¬startable tsetOf y
  | some (j, t, e) => j < n ∧ (∃ x, l[j]? = some x ∧ x.state = .eligible ∧ tsetOf x = some t ∧ e = effPrio s core x) ∧
      ∀ k y, k < n → l[k]? = some y → startable tsetOf y → e ≤ effPrio s core y ∧ (k < j → e < effPrio s core y)

section Best
variable {s : State} {core : Nat} {tsetOf : Slot → Option Nat} {l : List Slot} {n : Nat} {x : Slot} {best : Option (Nat × Nat × Int)}

theorem bestOfFirst_skip (hn : l[n]? = some x) (hx : ¬startable tsetOf x) (h : bestOfFirst s core tsetOf l n best) :
    bestOfFirst s core tsetOf l (n + 1) best := by
  have hlast : ∀ k y, k < n + 1 → l[k]? = some y → startable tsetOf y → k < n := by
    intro k y hk hy hstart
    refine lt_of_le_of_ne (Nat.lt_succ_iff.mp hk) fun heq => ?_
    subst heq
    exact hx (Option.some.inj (hn.symm.trans hy) ▸ hstart)
  cases best with
  | none => exact fun k y hk hy hstart => h k y (hlast k y hk hy hstart) hy hstart
  | some b =>
    obtain ⟨hj, hb, hall⟩ := h
    exact ⟨Nat.lt_succ_of_lt hj, hb, fun k y hk hy hstart => hall k y (hlast k y hk hy hstart) hy hstart⟩

theorem bestOfFirst_take {t : Nat} (hn : l[n]? = some x) (hstate : x.state = .eligible) (ht : tsetOf x = some t) (h : bestOfFirst s core tsetOf l n best)
    (hbetter : ∀ b, best = some b → effPrio s core x < b.2.2) : bestOfFirst s core tsetOf l (n + 1) (some (n, t, effPrio s core x)) := by
  refine ⟨Nat.lt_succ_self n, ⟨x, hn, hstate, ht, rfl⟩, fun k y hk hy hstart => ?_⟩
  rcases Nat.lt_succ_iff_lt_or_eq.mp hk with hk | rfl
  · cases best with
    | none => exact absurd hstart (h k y hk hy)
    | some b =>
      have hlt := lt_of_lt_of_le (hbetter b rfl) (h.2.2 k y hk hy hstart).1
      exact ⟨hlt.le, fun _ => hlt⟩
  · rw [Option.some.inj (hn.symm.trans hy)]
    exact ⟨le_refl _, fun hlt => absurd hlt (lt_irrefl _)⟩

theorem bestOfFirst_keep {b : Nat × Nat × Int} (hn : l[n]? = some x) (h : bestOfFirst s core tsetOf l n (some b)) (hworse : ¬effPrio s core x < b.2.2) :
    bestOfFirst s core tsetOf l (n + 1) (some b) := by
  obtain ⟨hj, hb, hall⟩ := h
  refine ⟨Nat.lt_succ_of_lt hj, hb, fun k y hk hy hstart => ?_⟩
  rcases Nat.lt_succ_iff_lt_or_eq.mp hk with hk | rfl
  · exact hall k y hk hy hstart
  · rw [← Option.some.inj (hn.symm.trans hy)]
    exact ⟨not_lt.mp hworse, fun hlt => absurd (hlt.trans hj) (lt_irrefl _)⟩

theorem bestSlot_best (rest : List Slot) (hrest : l.drop n = rest) (h : bestOfFirst s core tsetOf l n best) :
    bestOfFirst s core tsetOf l l.length (bestSlot s core tsetOf rest n best) := by
  induction rest generalizing n best with
  | nil =>
    have hlen : l.length ≤ n := List.drop_eq_nil_iff.mp hrest
    cases best with
    | none => exact fun k y hk hy => h k y (lt_of_lt_of_le hk hlen) hy
    | some b =>
      obtain ⟨hj, ⟨x, hx, hprops⟩, hall⟩ := h
      exact ⟨(List.getElem?_eq_some_iff.mp hx).1, ⟨x, hx, hprops⟩, fun k y hk hy => hall k y (lt_of_lt_of_le hk hlen) hy⟩
  | cons x rest ih =>
    have hn : l[n]? = some x := by
      rw [← List.head?_drop, hrest]
      rfl
    have hdrop : l.drop (n + 1) = rest := by
      rw [← List.tail_drop, hrest]
      rfl
    unfold bestSlot
    refine ih hdrop ?_
    dsimp only
    split
    · next t hstate ht =>
      cases best with
      | none => exact bestOfFirst_take hn hstate ht h fun b hb => absurd hb (by simp)
      | some b =>
        dsimp only
        split_ifs with hlt
        · exact bestOfFirst_take hn hstate ht h fun b' hb' => Option.some.inj hb' ▸ hlt
        · exact bestOfFirst_keep hn h hlt
    · next hno =>
      refine bestOfFirst_skip hn ?_ h
      rintro ⟨hstate, hset⟩
      obtain ⟨t, ht⟩ := Option.isSome_iff_exists.mp hset
      exact hno t hstate ht

end Best

theorem selectBest_best {s : State} {core j ts : Nat} {e : Int} (h : selectBest s core = some (j, ts, e)) :
    (∃ x, (s.core core).inbox[j]? = some x ∧ x.state = .eligible ∧ slotTset s core x = some ts ∧ e = effPrio s core x) ∧
      ∀ (k : Nat) (y : Slot), (s.core core).inbox[k]? = some y → y.state = .eligible → (slotTset s core y).isSome = true →
        e ≤ effPrio s core y ∧ (k < j → e < effPrio s core y) := by
  have hbest := bestSlot_best (s := s) (core := core) (tsetOf := slotTset s core) (l := (s.core core).inbox) (n := 0) (best := none) _ rfl
    (fun _ _ hk => absurd hk (Nat.not_lt_zero _))
  rw [selectBest, ← List.drop_zero (l := (s.core core).inbox)] at h
  rw [h] at hbest
  obtain ⟨-, hx, hall⟩ := hbest
  exact ⟨hx, fun k y hy hstate hset => hall k y (List.getElem?_eq_some_iff.mp hy).1 hy ⟨hstate, hset⟩⟩

/-! ## The registers of a start (R45) -/

/-- Payload word `k` of a message, 0 past its length. -/
def payloadWord (m : Msg) (k : Nat) : Word := if k < m.len then (m.words[k]?).getD 0 else 0

theorem mget_startRegs (m : Msg) (k : Nat) :
    mget 0 (startRegs m) k = if k = 7 then m.id else if 1 ≤ k ∧ k ≤ 6 then payloadWord m (k - 1) else 0 := by
  have hsix : List.range 6 = [0, 1, 2, 3, 4, 5] := rfl
  simp only [startRegs, hsix, List.foldl_cons, List.foldl_nil, mget_mset]
  by_cases hk : k ≤ 7
  · interval_cases k <;> simp [payloadWord, mget]
  · simp [show k ≠ 7 by omega, show k ≠ 6 by omega, show k ≠ 5 by omega, show k ≠ 4 by omega, show k ≠ 3 by omega, show k ≠ 2 by omega,
      show k ≠ 1 by omega, show ¬(1 ≤ k ∧ k ≤ 6) by omega, mget]

/-- A thread set that an activation has just started on, from an entry and a message with a property. -/
def startedWith (t : TSet) (o : Origin) (entry : Word) (p : Msg → Prop) : Prop :=
  ∃ a, t.act = some a ∧ p a.msg ∧ a.origin = o ∧ t.pc = (entry.setWidth 57).setWidth 64 ∧ t.tlvl = 0 ∧
    (∀ k < 6, t.gRaw (k + 1) = if k < a.msg.len then (a.msg.words[k]?).getD 0 else 0) ∧ t.gRaw 7 = a.msg.id ∧
    (∀ k < 40, 8 ≤ k → t.gRaw k = 0) ∧ t.v = [] ∧ t.p = [] ∧ t.c = [] ∧ t.sendBuf = []

theorem startActivation_started (s : State) (core ts : Nat) (m : Msg) (o : Origin) (entry : Word) (arrived : Nat) {p : Msg → Prop} (hp : p m) :
    startedWith ((startActivation s core ts m o entry arrived).tset core ts) o entry p := by
  obtain ⟨owner, tvec, wdogEnd, readyAt, hset⟩ := startActivation_tset s core ts m o entry arrived
  rw [hset]
  have hg : ∀ k, k ≠ 0 → ((s.tset core ts).start (startedAct s core ts m o entry arrived) owner tvec wdogEnd readyAt).gRaw k =
      if k = 7 then m.id else if 1 ≤ k ∧ k ≤ 6 then payloadWord m (k - 1) else 0 := fun k hk =>
    (if_neg hk).trans (mget_startRegs m k)
  refine ⟨_, rfl, hp, rfl, rfl, rfl, fun k hk => ?_, ?_, fun k _ hk => ?_, rfl, rfl, rfl, rfl⟩
  · rw [hg _ (Nat.succ_ne_zero k), if_neg (by omega), if_pos (by omega)]
    rfl
  · rw [hg 7 (by norm_num), if_pos rfl]
    rfl
  · rw [hg k (by omega), if_neg (by omega), if_neg (by omega)]

theorem startActivation_core (s : State) (core ts : Nat) (m : Msg) (o : Origin) (entry : Word) (arrived n : Nat) :
    ((startActivation s core ts m o entry arrived).core n).inbox = (s.core n).inbox ∧
      ((startActivation s core ts m o entry arrived).core n).dqLen = (s.core n).dqLen := by
  rw [(startActivation_bookkeeping s core ts m o entry arrived).cores n]
  exact ⟨rfl, rfl⟩

/-! ## One selection (R213, R217, R218, R226) -/

theorem getElem?_modAt_self {α : Type} (f : α → α) {l : List α} {k : Nat} {x : α} (h : l[k]? = some x) : (modAt f l k)[k]? = some (f x) := by
  induction l generalizing k with
  | nil => simp at h
  | cons y r ih => cases k with
    | zero => exact congrArg (Option.map f) h
    | succ k => simpa [modAt] using ih (by simpa using h)

section Selection
variable {s : State} {core j k ts : Nat} {x : Slot} (hselects : coreSelects s core = true) (htag : (s.core core).tagCycle ≠ some (s.cycle core))
include hselects htag

theorem exec_messageSelection_slot (hsel : selected s core = some (.slot j ts)) (hx : (s.core core).inbox[j]? = some x) (htheft : x.theft = none) :
    exec (.messageSelection core) s = .next (startSlot s core j ts) := by
  simp [exec_messageSelection, execMessageSelection, hselects, htag, hsel, hx, htheft, startSelected]

theorem exec_messageSelection_record (hsel : selected s core = some (.record k ts)) :
    exec (.messageSelection core) s = .next (startRecord s core k ts) := by
  simp [exec_messageSelection, execMessageSelection, hselects, htag, hsel, startSelected]

end Selection

theorem exec_messageSelection_none {s : State} {core : Nat} (h : selected s core = none) : exec (.messageSelection core) s = .next s := by
  rw [exec_messageSelection, execMessageSelection, h]
  exact ite_self _

theorem startSlot_passes {s : State} {core j : Nat} (ts : Nat) {x : Slot} (hx : (s.core core).inbox[j]? = some x)
    (h : msgPasses s core x.msg (entryOf s core x.msg) = true) :
    startedWith ((startSlot s core j ts).tset core ts) .inbox (entryOf s core x.msg) (· = x.msg) ∧
      ∃ y, ((startSlot s core j ts).core core).inbox[j]? = some y ∧ y.state = .running ts ∧ y.msg = x.msg := by
  rw [startSlot, hx]
  dsimp only
  rw [if_pos h]
  refine ⟨startActivation_started _ core ts x.msg .inbox _ _ rfl, ?_⟩
  rw [(startActivation_core _ core ts x.msg .inbox _ _ core).1, State.core_modCore_self]
  exact ⟨_, getElem?_modAt_self _ hx, rfl, rfl⟩

theorem testSlot_fails {s : State} {core : Nat} {x : Slot} {e : Word} (h : msgPasses s core x.msg e = false) :
    (testSlot s core x e).state = .parked ∧ (testSlot s core x e).msg = x.msg := by
  rw [testSlot, if_neg (by simp [h])]
  exact ⟨rfl, rfl⟩

theorem startSlot_fails {s : State} {core j : Nat} (ts : Nat) {x : Slot} (hx : (s.core core).inbox[j]? = some x)
    (h : msgPasses s core x.msg (entryOf s core x.msg) = false) :
    (startSlot s core j ts).tset core ts = s.tset core ts ∧
      ∃ y, ((startSlot s core j ts).core core).inbox[j]? = some y ∧ y.state = .parked ∧ y.msg = x.msg := by
  rw [startSlot, hx]
  dsimp only
  rw [if_neg (by simp [h]), (Bookkeeping.absentNotice _ _ _ _ _).tset, (Bookkeeping.absentNotice _ _ _ _ _).cores core, State.core_modCore_self]
  exact ⟨rfl, _, getElem?_modAt_self _ hx, testSlot_fails h⟩

theorem dequeRemove_dqLen (s : State) (core k : Nat) : ((dequeRemove s core k).core core).dqLen = (s.core core).dqLen - 1 := by
  unfold dequeRemove
  dsimp only
  rw [State.core_modCore_self]

theorem startRecord_starts (s : State) (core k ts : Nat) :
    ((startRecord s core k ts).core core).dqLen = (s.core core).dqLen - 1 ∧
      ∃ e, startedWith ((startRecord s core k ts).tset core ts) .deque e (fun m => m.kind = 5 ∧ m.tag = (dequeRec s core k).extractLsb' 0 12 ∧
        m.prio = (dequeRec s core k).extractLsb' 12 2 ∧ m.len = 6 ∧ m.ctx = (dequeRec s core k).extractLsb' 20 12 ∧
        m.score = BitVec.ofNat 11 core ∧ m.words = (List.range 6).map (fun j => lineWord (dequeRec s core k) (j + 1))) := by
  have hnumbered : ((s.modCore core (fun c => { c with seq := c.seq + 1 })).core core).dqLen = (s.core core).dqLen := by
    rw [State.core_modCore_self]
  refine ⟨?_, _, startActivation_started _ core ts _ .deque _ _ ⟨rfl, rfl, rfl, rfl, rfl, rfl, rfl⟩⟩
  exact ((startActivation_core _ core ts _ .deque _ _ core).2.trans (dequeRemove_dqLen _ core k)).trans (congrArg (· - 1) hnumbered)

/-! ## The message of an aborted activation (R222) -/

theorem runningSlot_beside {s t : State} (h : Beside s t) (core ts : Nat) : runningSlot t core ts = runningSlot s core ts := by
  rw [runningSlot, h.inbox]
  rfl

/-- A slot whose message has come back from an abort, eligible again. -/
def slotBack (s : State) (core : Nat) (x : Slot) (n : Nat) : Slot := { x with state := .eligible, since := s.cycle core, aborts := n }

/-- A message returned to the front of an inbox from its slot. -/
def messageBack (s : State) (core k : Nat) (y : Slot) : State :=
  notIdle (s.modCore core (fun c => { c with inbox := y :: (s.core core).inbox.eraseIdx k })) core

theorem messageBack_inbox (s : State) (core k : Nat) (y : Slot) :
    ((messageBack s core k y).core core).inbox = y :: (s.core core).inbox.eraseIdx k := by
  simp [messageBack, notIdle]

theorem returnMessage_front {s : State} {core ts k : Nat} {x : Slot} {a : Act} (counts : Bool) (hk : runningSlot s core ts = some k)
    (hx : (s.core core).inbox[k]? = some x) (hfew : counts = true → x.aborts ≠ 2) :
    returnMessage s core ts a counts = (x.aborts + (if counts then 1 else 0),
      messageBack s core k (slotBack s core x (x.aborts + (if counts then 1 else 0)))) := by
  have hdead : (counts && x.aborts + (if counts then 1 else 0) == 3) = false := by
    cases counts with
    | false => rfl
    | true => simpa using hfew rfl
  simp only [returnMessage, hk, takeAt_some hx, hdead, Bool.false_eq_true, if_false]
  rfl

/-- The rest of an abort of an activation that was not stolen is beside the inboxes. -/
theorem Beside.abortFinished {a : Act} (hstolen : a.stolen = none) (r : Nat × State) (core ts reason : Nat) (detail : Word) :
    Beside r.2 (abortFinished r core ts a reason detail) := by
  rw [Machine.abortFinished, hstolen]
  exact (Steady.emitTrace r.2 core 4 _).toBeside.trans {}

/-- An activation that has made no open decision leaves none to squash. -/
theorem squashDecisions_none {s : State} {core uid : Nat} (h : uid ∉ (s.cluster (clusterOf core)).decisions.map (·.act)) (n : Nat) :
    (squashDecisions s core uid).core n = s.core n := by
  have hmine : (s.cluster (clusterOf core)).decisions.filter (fun d => d.act == uid && d.winner.isNone) = [] := by
    rw [List.filter_eq_nil_iff]
    intro d hd hact
    simp only [Bool.and_eq_true, beq_iff_eq] at hact
    exact h (List.mem_map.mpr ⟨d, hd, hact.1⟩)
  rw [squashDecisions, hmine]
  rfl

/-- The message of an aborted activation that runs from a slot and has speculated on nothing returns to the front of its inbox. -/
theorem abortActivation_inbox {s : State} {core ts k reason : Nat} {a : Act} {x : Slot} (detail : Word) (hact : (s.tset core ts).act = some a)
    (hstolen : a.stolen = none) (hk : runningSlot s core ts = some k) (hx : (s.core core).inbox[k]? = some x) (hkeep : reason ≠ 0x43)
    (hfew : reasonCounts reason = true → x.aborts ≠ 2) (hdec : a.uid ∉ (s.cluster (clusterOf core)).decisions.map (·.act)) :
    ∃ y, ((abortActivation core ts reason detail s).core core).inbox = y :: (s.core core).inbox.eraseIdx k ∧ y.msg = x.msg ∧ y.state = .eligible ∧
      y.aborts = x.aborts + (if reasonCounts reason then 1 else 0) := by
  have hsettled : Beside s (abortCleared s core ts a) := by
    rw [abortCleared, hstolen]
    exact .abortSettled s core ts a _
  have hreturned : abortReturned (abortCleared s core ts a) core ts a reason (reason != 0x43) = _ :=
    (if_pos (by simp [hkeep])).trans (returnMessage_front (reasonCounts reason) ((runningSlot_beside hsettled core ts).trans hk)
      ((congrArg (·[k]?) (hsettled.inbox core)).trans hx) hfew)
  have hfinished := Beside.abortFinished hstolen (abortReturned (abortCleared s core ts a) core ts a reason (reason != 0x43)) core ts reason detail
  rw [← abortPlain_running reason (reason != 0x43) detail hact, hreturned] at hfinished
  have hnodec : a.uid ∉ ((abortPlain s core ts reason (reason != 0x43) detail).cluster (clusterOf core)).decisions.map (·.act) := by
    rw [hfinished.decided]
    exact (hsettled.decided (clusterOf core)).symm ▸ hdec
  have hfinal : abortActivation core ts reason detail s = squashDecisions (abortPlain s core ts reason (reason != 0x43) detail) core a.uid := by
    simp only [abortActivation, hact]
  refine ⟨slotBack (abortCleared s core ts a) core x (x.aborts + (if reasonCounts reason then 1 else 0)), ?_, rfl, rfl, rfl⟩
  rw [hfinal, squashDecisions_none hnodec, hfinished.inbox, messageBack_inbox, hsettled.inbox]

/-! ## The first source of an abort (R223, R348) -/

theorem firstSource_running {s : State} {core ts : Nat} {a : Act} (h : (s.tset core ts).act = some a) :
    firstSource s core ts = if committing s core ts then none else [0x43, 0x42, 0x41, 0x28].find? (abortSource s core ts) := by
  rw [firstSource, h, Option.isNone_some, Bool.false_or]

theorem watchdogZero_running {s : State} {core ts : Nat} {a : Act} (h : (s.tset core ts).act = some a) (hstep : a.stepping = false) :
    watchdogZero s core ts = decide ((s.tset core ts).wdogEnd ≤ s.cycle core) := by
  simp [watchdogZero, h, hstep]

theorem firstSource_stands {s : State} {core ts r : Nat} (h : firstSource s core ts = some r) :
    r ∈ [0x43, 0x42, 0x41, 0x28] ∧ abortSource s core ts r = true := by
  unfold firstSource at h
  split_ifs at h
  exact ⟨List.mem_of_find?_eq_some h, List.find?_some h⟩

theorem firstSource_watchdog {s : State} {core ts : Nat} {a : Act} (hact : (s.tset core ts).act = some a) (hstep : a.stepping = false)
    (hzero : (s.tset core ts).wdogEnd ≤ s.cycle core) (hfirst : ∀ r ∈ [0x43, 0x42, 0x41], abortSource s core ts r = false)
    (hcommit : committing s core ts = false) : firstSource s core ts = some 0x28 := by
  have hsource : abortSource s core ts 0x28 = true := (watchdogZero_running hact hstep).trans (decide_eq_true hzero)
  simp [firstSource_running hact, hcommit, hfirst 0x43 (by simp), hfirst 0x42 (by simp), hfirst 0x41 (by simp), hsource, List.find?]

theorem exec_activationAbort_first {s : State} {core ts r : Nat} (h : firstSource s core ts = some r) :
    exec (.activationAbort core ts r) s = .next (abortFor s core ts r) := if_pos h

theorem exec_activationAbort_other {s : State} {core ts r : Nat} (h : firstSource s core ts ≠ some r) :
    exec (.activationAbort core ts r) s = .next s := if_neg h

theorem exec_watchdog_running {s : State} {core ts : Nat} {a : Act} (hact : (s.tset core ts).act = some a) (hstep : a.stepping = false)
    (hrun : s.cycle core < (s.tset core ts).wdogEnd) : exec (.watchdog core ts) s = .next s := by
  refine exec_activationAbort_other fun h => ?_
  have hzero : watchdogZero s core ts = true := (firstSource_stands h).2
  rw [watchdogZero_running hact hstep, decide_eq_true_eq] at hzero
  exact absurd hrun (Nat.not_lt.mpr hzero)

theorem overrunDue_late {s : State} {core : Nat} {forced : Bool} (h : overrunDue s core forced = true) :
    ∃ d l n, (s.partition (corePartition s core)).phase = .preempting d l forced n ∧ d + l ≤ s.now := by
  unfold overrunDue at h
  split at h
  · next d l f n hphase =>
    simp only [Bool.and_eq_true, beq_iff_eq, decide_eq_true_eq] at h
    exact ⟨d, l, n, h.1.2 ▸ hphase, h.2⟩
  · exact absurd h (by simp)

/-! ## Aborts by a source (R222, R348, R369) -/

/-- A state whose activation is noted at the trace port before the debugger stops it. -/
def stopNoted (s : State) (core ts code : Nat) (a : Act) : State := emitTrace s core 6 [traceP a.msg core ts ||| (BitVec.ofNat 64 code) <<< 40]

theorem stopTset_running {s : State} {core ts : Nat} {a : Act} (code : Nat) (h : (s.tset core ts).act = some a) :
    stopTset s core ts code = tickQueues ((abortActivation core ts 0x42 0 (stopNoted s core ts code a)).modCore core (fun c => { c with stopped := true })) := by
  simp only [stopTset, h]
  rfl

/-- After an abort by a single source, the state is that of the abort, with a change beside the thread sets before and after it. -/
theorem abortFor_single {s : State} {core ts r : Nat} {a : Act} (hact : (s.tset core ts).act = some a) (hr : r ∈ [0x43, 0x42, 0x41, 0x28])
    (hplain : r ≠ 0x41) (hforced : r = 0x43 → overrunDue s core true = false) :
    ∃ u, Steady s u ∧ Steady (abortActivation core ts r 0 u) (abortFor s core ts r) := by
  simp only [List.mem_cons, List.not_mem_nil, or_false] at hr
  rcases hr with rfl | rfl | rfl | rfl
  · refine ⟨s, .refl s, ?_⟩
    have heq : abortFor s core ts 0x43 = abortActivation core ts 0x43 0 s := by simp [abortFor, hforced rfl]
    rw [heq]
    exact .refl _
  · refine ⟨stopNoted s core ts (if breakDue s core ts then 2 else 3) a, .emitTrace s core 6 _, ?_⟩
    have heq : abortFor s core ts 0x42 = _ := stopTset_running (if breakDue s core ts then 2 else 3) hact
    rw [heq]
    exact (Steady.modCore (by intro; rfl)).trans (.tickQueues _)
  · exact absurd rfl hplain
  · exact ⟨s, .refl s, .refl _⟩

/-- What an abort by a single source leaves of its thread set. -/
theorem abortFor_ended {s : State} {core ts r : Nat} {a : Act} (hact : (s.tset core ts).act = some a) (hr : r ∈ [0x43, 0x42, 0x41, 0x28])
    (hplain : r ≠ 0x41) (hforced : r = 0x43 → overrunDue s core true = false) :
    let t := (abortFor s core ts r).tset core ts
    t.act = none ∧ t.pc = (s.tset core ts).pc ∧ t.sendBuf = [] ∧ t.holds = [] ∧ (a.stolen = none → t.storeq = (s.tset core ts).storeq) := by
  obtain ⟨u, hbefore, hafter⟩ := abortFor_single hact hr hplain hforced
  have hended := abortActivation_ended (s := u) r 0 ((congrArg TSet.act (hbefore.tset core ts)).trans hact)
  rw [hbefore.tset] at hended
  dsimp only
  rw [hafter.tset]
  exact hended

/-- Where it leaves the message. -/
theorem abortFor_inbox {s : State} {core ts r k : Nat} {a : Act} {x : Slot} (hact : (s.tset core ts).act = some a) (hr : r ∈ [0x43, 0x42, 0x41, 0x28])
    (hplain : r ≠ 0x41) (hkeep : r ≠ 0x43) (hk : runningSlot s core ts = some k) (hx : (s.core core).inbox[k]? = some x)
    (hfew : r = 0x28 → x.aborts ≠ 2) (hstolen : a.stolen = none) (hdec : ∀ d ∈ (s.cluster (clusterOf core)).decisions, d.act ≠ a.uid) :
    ∃ y, ((abortFor s core ts r).core core).inbox = y :: (s.core core).inbox.eraseIdx k ∧ y.msg = x.msg ∧ y.state = .eligible ∧
      y.aborts = x.aborts + (if r = 0x28 then 1 else 0) := by
  have hcounts : reasonCounts r = decide (r = 0x28) := by
    simp only [List.mem_cons, List.not_mem_nil, or_false] at hr
    rcases hr with rfl | rfl | rfl | rfl <;> rfl
  obtain ⟨u, hbefore, hafter⟩ := abortFor_single hact hr hplain (fun h => absurd h hkeep)
  have hnodec : a.uid ∉ (u.cluster (clusterOf core)).decisions.map (·.act) := by
    rw [hbefore.decided]
    rintro hmem
    obtain ⟨d, hd, hd'⟩ := List.mem_map.mp hmem
    exact hdec d hd hd'
  obtain ⟨y, hy, hmsg, hstate, haborts⟩ := abortActivation_inbox (s := u) 0 ((congrArg TSet.act (hbefore.tset core ts)).trans hact) hstolen
    ((runningSlot_beside hbefore.toBeside core ts).trans hk) ((congrArg (·[k]?) (hbefore.inbox core)).trans hx) hkeep
    (fun h => hfew (of_decide_eq_true (hcounts ▸ h))) hnodec
  refine ⟨y, ?_, hmsg, hstate, ?_⟩
  · rw [hafter.inbox, hy, hbefore.inbox]
  · rw [haborts, hcounts]
    simp

/-! ## Overruns of a core's partition (R315, R317) -/

section OfContext
variable {s : State} {core ts : Nat} {a : Act} (hact : (s.tset core ts).act = some a)
  (hres : residentOf s (corePartition s core) = some a.msg.ctx) (hcommit : ∀ k ∈ activationsOf s a.msg.ctx, committing s k.1 k.2 = false)
include hact hres hcommit

theorem exec_activationAbort_overrun {d l : Nat} {n : Bool} (hfirst : firstSource s core ts = some 0x41)
    (hphase : (s.partition (corePartition s core)).phase = .preempting d l false n) :
    ∃ t, exec (.activationAbort core ts 0x41) s = .next t ∧ (∀ k ∈ activationsOf s a.msg.ctx, (t.tset k.1 k.2).act = none) ∧
      (t.partition (corePartition s core)).phase = .preempting d l false true := by
  obtain ⟨d', l', n', hphase', hlate⟩ := overrunDue_late (forced := false) (firstSource_stands hfirst).2
  obtain ⟨rfl, rfl, rfl⟩ : d' = d ∧ l' = l ∧ n' = n := by simpa [hphase] using hphase'.symm
  exact ⟨_, exec_activationAbort_first hfirst, overrun_plain_ends hres hlate (activationsOf_nonempty hact) hcommit hphase⟩

theorem exec_activationAbort_kills {c : Context} (hfirst : firstSource s core ts = some 0x43) (hdue : overrunDue s core true = true)
    (hc : s.context a.msg.ctx.toNat = some c) (hlive : c.killed = false) :
    ∃ t, exec (.activationAbort core ts 0x43) s = .next t ∧ (∀ k ∈ activationsOf s a.msg.ctx, (t.tset k.1 k.2).act = none) ∧
      ∃ c', t.context a.msg.ctx.toNat = some c' ∧ c'.killed = true := by
  obtain ⟨d, l, n, hphase, hlate⟩ := overrunDue_late hdue
  obtain ⟨hends, hkilled⟩ := killContext_kills 2 Config.noCore 0 hc hlive
  have heq : abortFor s core ts 0x43 = killContext a.msg.ctx.toNat 2 Config.noCore 0 s := by
    rw [← overrun_forced hres hlate (activationsOf_nonempty hact) hcommit hphase]
    simp [abortFor, hdue]
  refine ⟨_, (exec_activationAbort_first hfirst).trans (congrArg _ heq), fun k hk => ?_, Option.map_eq_some_iff.mp hkilled⟩
  obtain ⟨m, hm, rfl⟩ := mem_runningSets hk
  exact hends m hm

end OfContext

/-! ## O38 -/

/-- Settles O38: the choice of a selection by the best slot so far, its start by the registers of a start, and an abort by what its parts
leave alone. -/
theorem queueRuns : Obligations.QueueRuns := by
  unfold Obligations.QueueRuns
  refine ⟨fun s core => ⟨?_, ?_, ?_, exec_messageSelection_none⟩, fun s core ts a hact => ⟨?_, ?_, firstSource_running hact, ?_, ?_, ?_⟩⟩
  · exact fun j ts e => selectBest_best
  · intro j ts x hselects htag hsel hx htheft
    have hexec := exec_messageSelection_slot hselects htag hsel hx htheft
    exact ⟨fun h => ⟨_, hexec, startSlot_passes ts hx h⟩, fun h => ⟨_, hexec, startSlot_fails ts hx h⟩⟩
  · intro k ts hselects htag hsel
    obtain ⟨hlen, e, hstarted⟩ := startRecord_starts s core k ts
    exact ⟨_, e, exec_messageSelection_record hselects htag hsel, hlen, hstarted⟩
  · intro hstep hzero hfirst hcommit
    obtain ⟨hnone, hpc, -⟩ := abortActivation_ended 0x28 0 hact
    exact ⟨_, exec_activationAbort_first (firstSource_watchdog hact hstep hzero hfirst hcommit), hnone, hpc⟩
  · exact exec_watchdog_running hact
  · exact fun r => exec_activationAbort_other
  · intro r hfirst hplain hforced
    have hr := (firstSource_stands hfirst).1
    obtain ⟨hnone, -, hsend, hholds, hstoreq⟩ := abortFor_ended hact hr hplain hforced
    exact ⟨_, exec_activationAbort_first hfirst, hnone, hsend, hholds, hstoreq, fun k x hkeep hk hx hfew hstolen hdec =>
      abortFor_inbox hact hr hplain hkeep hk hx hfew hstolen hdec⟩
  · rintro ctx hres rfl hcommit
    exact ⟨fun d l n hfirst hphase => exec_activationAbort_overrun hact hres hcommit hfirst hphase,
      fun c hfirst hdue hc hlive => exec_activationAbort_kills hact hres hcommit hfirst hdue hc hlive⟩

end Sys2Proof.Machine

end

/-! # What a thread set reads of its own scratchpad with writes queued (R60, R250) -/
section

namespace Sys2Proof.Machine

/-! ## Numbers as bytes -/

theorem natOfBytes_range (n x : Nat) : natOfBytes ((List.range n).map (fun k => BitVec.ofNat 8 (x / 2 ^ (8 * k)))) = x % 2 ^ (8 * n) := by
  induction n generalizing x with
  | zero => simp [natOfBytes, Nat.mod_one]
  | succ n ih =>
    have hshift : ∀ k, x / 2 ^ (8 * (k + 1)) = x / 256 / 2 ^ (8 * k) := fun k => by
      rw [Nat.div_div_eq_div_mul, Nat.mul_succ, Nat.pow_add, Nat.mul_comm]
    have htail : natOfBytes ((List.range n).map (fun k => BitVec.ofNat 8 (x / 2 ^ (8 * (k + 1))))) = x / 256 % 2 ^ (8 * n) := by
      simp only [hshift, ih]
    have hcons : natOfBytes ((List.range (n + 1)).map (fun k => BitVec.ofNat 8 (x / 2 ^ (8 * k)))) =
        (BitVec.ofNat 8 (x / 2 ^ (8 * 0))).toNat + 256 * natOfBytes ((List.range n).map (fun k => BitVec.ofNat 8 (x / 2 ^ (8 * (k + 1))))) := by
      rw [List.range_succ_eq_map, List.map_cons, List.map_map]
      rfl
    rw [hcons, htail, Nat.mul_succ, Nat.pow_add, Nat.mul_comm (2 ^ (8 * n)), show (2 : Nat) ^ 8 = 256 by norm_num, Nat.mod_mul]
    simp

theorem natOfBytes_lt (bs : List Byte) : natOfBytes bs < 2 ^ (8 * bs.length) := by
  induction bs with
  | nil => simp [natOfBytes]
  | cons b r ih =>
    have hcons : natOfBytes (b :: r) = b.toNat + 256 * natOfBytes r := rfl
    have hpow : 2 ^ (8 * (b :: r).length) = 256 * 2 ^ (8 * r.length) := by
      rw [List.length_cons, Nat.mul_succ, Nat.pow_add]
      omega
    have hb := b.isLt
    rw [hcons, hpow]
    omega

/-! ## Numbers in a list of bytes -/

/-- A list of bytes holds a number of `n` bytes at an offset, least significant first. -/
def holdsNat (l : List Byte) (off n w : Nat) : Prop := ∀ k < n, l[off + k]? = some (BitVec.ofNat 8 (w / 2 ^ (8 * k)))

theorem bytesOf_length (n x : Nat) : (bytesOf n x).length = n := by simp [bytesOf]

theorem holdsNat_bytesOf (n w : Nat) : holdsNat (bytesOf n w) 0 n w := fun k hk => by
  simp [bytesOf, List.getElem?_range hk]

theorem holdsNat.append_left {l : List Byte} {off n w : Nat} (h : holdsNat l off n w) (r : List Byte) : holdsNat (l ++ r) off n w := fun k hk => by
  have hlt := (List.getElem?_eq_some_iff.mp (h k hk)).1
  rw [List.getElem?_append_left hlt, h k hk]

theorem holdsNat.append_right {r : List Byte} {off n w : Nat} (h : holdsNat r off n w) (l : List Byte) {m : Nat} (hm : m = l.length + off) :
    holdsNat (l ++ r) m n w := fun k hk => by
  rw [hm, Nat.add_assoc, List.getElem?_append_right (Nat.le_add_right _ _), Nat.add_sub_cancel_left, h k hk]

theorem flatMap_bytesOf_length (m n : Nat) (w : Nat → Nat) : ((List.range m).flatMap (fun j => bytesOf n (w j))).length = m * n := by
  simp [List.length_flatMap, bytesOf_length]

theorem holdsNat_flatMap {m n k : Nat} (w : Nat → Nat) (hk : k < m) : holdsNat ((List.range m).flatMap (fun j => bytesOf n (w j))) (n * k) n (w k) := by
  induction m with
  | zero => exact absurd hk (Nat.not_lt_zero k)
  | succ m ih =>
    rw [List.range_succ, List.flatMap_append]
    rcases Nat.lt_succ_iff_lt_or_eq.mp hk with hk | rfl
    · exact (ih hk).append_left _
    · refine holdsNat.append_right (off := 0) ?_ _ (by rw [flatMap_bytesOf_length, Nat.mul_comm, Nat.add_zero])
      simpa using holdsNat_bytesOf n (w k)

/-- Some of the bytes of a number hold a part of it. -/
theorem holdsNat.part {l : List Byte} {off n w : Nat} (h : holdsNat l off n w) {j m : Nat} (hjm : j + m ≤ n) :
    holdsNat l (off + j) m (w / 2 ^ (8 * j)) := fun k hk => by
  rw [Nat.add_assoc, h (j + k) (by omega), Nat.div_div_eq_div_mul, ← Nat.pow_add, Nat.mul_add]

/-! ## Queued writes -/

/-- Where no address repeats, the last write of an address is the only one. -/
theorem find?_reverse_of_mem {bs : List (Nat × Byte)} {b : Nat × Byte} (hnd : (bs.map (·.1)).Nodup) (hb : b ∈ bs) :
    bs.reverse.find? (fun x => x.1 == b.1) = some b := by
  cases hfind : bs.reverse.find? (fun x => x.1 == b.1) with
  | none => exact absurd (List.find?_eq_none.mp hfind b (List.mem_reverse.mpr hb)) (by simp)
  | some y =>
    have hy : y ∈ bs := List.mem_reverse.mp (List.mem_of_find?_eq_some hfind)
    have heq : y.1 = b.1 := by simpa using List.find?_some hfind
    rw [List.inj_on_of_nodup_map hnd hy hb heq]

section Queued
variable {q : List Queued} {seq core a : Nat} {bs : List (Nat × Byte)} {remote : Bool} {unlock : Option Nat} {owner : BitVec 20}

/-- A byte that the youngest queued write covers reads as that write has it. -/
theorem overQueued_written {x : Byte} (old : Byte) (hnd : (bs.map (·.1)).Nodup) (h : (a, x) ∈ bs) :
    overQueued (q ++ [⟨seq, .scratch core bs remote unlock, owner⟩]) core a old = x := by
  have hfind := find?_reverse_of_mem hnd h
  simp only [overQueued, List.foldl_append, List.foldl_cons, List.foldl_nil, if_true]
  rw [hfind]
  rfl

/-- A byte that it does not cover reads as before it. -/
theorem overQueued_other (old : Byte) (h : ∀ b ∈ bs, b.1 ≠ a) :
    overQueued (q ++ [⟨seq, .scratch core bs remote unlock, owner⟩]) core a old = overQueued q core a old := by
  have hfind : bs.reverse.find? (fun x => x.1 == a) = none := by
    rw [List.find?_eq_none]
    exact fun b hb => by simpa using h b (List.mem_reverse.mp hb)
  simp only [overQueued, List.foldl_append, List.foldl_cons, List.foldl_nil, if_true]
  rw [hfind]
  rfl

end Queued

theorem mem_bytesFrom {addr : Nat} {bs : List Byte} {i : Nat} {b : Byte} (h : bs[i]? = some b) : (addr + i, b) ∈ bytesFrom addr bs := by
  have hlt := (List.getElem?_eq_some_iff.mp h).1
  refine List.mem_map.mpr ⟨(i, b), List.mem_of_getElem? (i := i) ?_, rfl⟩
  rw [List.getElem?_zip_eq_some]
  exact ⟨List.getElem?_range hlt, h⟩

theorem bytesFrom_bounds {addr : Nat} {bs : List Byte} {b : Nat × Byte} (h : b ∈ bytesFrom addr bs) : addr ≤ b.1 ∧ b.1 < addr + bs.length := by
  obtain ⟨p, hp, rfl⟩ := List.mem_map.mp h
  have hlt := List.mem_range.mp (List.of_mem_zip hp).1
  exact ⟨Nat.le_add_right _ _, Nat.add_lt_add_left hlt _⟩

theorem bytesFrom_nodup (addr : Nat) (bs : List Byte) : ((bytesFrom addr bs).map (·.1)).Nodup := by
  have hfst : (bytesFrom addr bs).map (·.1) = (List.range bs.length).map (addr + ·) := by
    rw [bytesFrom, List.map_map]
    have hcomp : (fun x : Nat × Byte => x.1) ∘ (fun p : Nat × Byte => (addr + p.1, p.2)) = (addr + ·) ∘ Prod.fst := rfl
    rw [hcomp, ← List.map_map, List.map_fst_zip (by simp)]
  rw [hfst]
  exact List.nodup_range.map fun _ _ => Nat.add_left_cancel

section OwnRead
variable {t : State} {core ts at_ seq : Nat} {q : List Queued} {bs : List Byte} {remote : Bool} {unlock : Option Nat} {owner : BitVec 20}

/-- A number in the bytes of the youngest queued write, as the thread set reads it. -/
theorem natOfBytes_written {off n w : Nat} (h : holdsNat bs off n w) (old : Nat → Byte) :
    natOfBytes ((List.range n).map (fun k => overQueued (q ++ [⟨seq, .scratch core (bytesFrom at_ bs) remote unlock, owner⟩]) core (at_ + off + k) (old k))) =
      w % 2 ^ (8 * n) := by
  rw [← natOfBytes_range]
  congr 1
  refine List.map_congr_left fun k hk => overQueued_written _ (bytesFrom_nodup at_ bs) ?_
  rw [Nat.add_assoc]
  exact mem_bytesFrom (h k (List.mem_range.mp hk))

theorem ownRead_written {off n w : Nat} (hq : (t.tset core ts).storeq = q ++ [⟨seq, .scratch core (bytesFrom at_ bs) remote unlock, owner⟩])
    (h : holdsNat bs off n w) : ownRead t core ts (at_ + off) n = w % 2 ^ (8 * n) := by
  rw [ownRead, hq]
  exact natOfBytes_written h _

end OwnRead

end Sys2Proof.Machine

end

/-! # Choice points, cuts and trails (R60, R178, R180 to R183, R271) -/
section

namespace Sys2Proof.Machine

/-! ## Checks that pass (R138, R140) -/

theorem checkAccess_ok {s : State} {ea : Word} {n : Nat} {need : BitVec 5} {x : Xlat} (h : accessOk s ea n need x) :
    checkAccess s ea n n need = .ok x := by
  obtain ⟨halign, hgen, ⟨e, he, hcovers, hpasses⟩, ⟨y, hy, rfl⟩, hpath⟩ := h
  have hany : (s.myCore.plb.any (fun e => e.covers s.me.owner (ptrAddr ea) n && e.passes (ptrGen ea) need false)) = true :=
    List.any_eq_true.mpr ⟨e, he, by rw [hcovers, hpasses]; rfl⟩
  have hrights : checkRights s ea n need false = .ok () := by
    simp only [checkRights, hany, bne_iff_ne.mpr hgen, Bool.or_true, Bool.and_self, if_true]
  simp [checkAccess, halign, hrights, checkXlat, hy, hpath, Except.map]

/-! ## The end of a word -/

theorem finished_curCore (h : Hints) (s : State) : (finished h s).curCore = s.curCore := by rw [(IssueChange.finished h s).rest]
theorem finished_curTs (h : Hints) (s : State) : (finished h s).curTs = s.curTs := by rw [(IssueChange.finished h s).rest]
theorem finished_scratch (h : Hints) (s : State) : (finished h s).scratch = s.scratch := by rw [(IssueChange.finished h s).rest]

/-- The thread set of a word at its end. -/
theorem finished_tset (h : Hints) (s : State) : (finished h s).tset s.curCore s.curTs = (finished h s).me := by
  rw [State.me, finished_curCore, finished_curTs]

/-- At its end only what a word waited for and its next issue change. -/
theorem finished_me_settled (h : Hints) (s : State) : ∃ at_, (finished h s).me = { s.me.settled with readyAt := at_ } := by
  obtain ⟨at_, -, hme⟩ := finished_me h s
  exact ⟨at_, hme⟩

/-- What neither a settled wait nor the next issue touches, a word keeps at its end. -/
theorem finished_keeps {β : Type} (p : TSet → β) (hp : ∀ (t : TSet) (n : Nat), p { t.settled with readyAt := n } = p t) (h : Hints) (s : State) :
    p (finished h s).me = p s.me := by
  obtain ⟨at_, hme⟩ := finished_me_settled h s
  rw [hme, hp]

theorem finished_me_g (h : Hints) (s : State) : (finished h s).me.g = s.me.g := finished_keeps (·.g) (fun _ _ => rfl) h s
theorem finished_me_act (h : Hints) (s : State) : (finished h s).me.act = s.me.act := finished_keeps (·.act) (fun _ _ => rfl) h s
theorem finished_me_cstop (h : Hints) (s : State) : (finished h s).me.cstop = s.me.cstop := finished_keeps (·.cstop) (fun _ _ => rfl) h s
theorem finished_me_trtop (h : Hints) (s : State) : (finished h s).me.trtop = s.me.trtop := finished_keeps (·.trtop) (fun _ _ => rfl) h s
theorem finished_me_pushCount (h : Hints) (s : State) : (finished h s).me.pushCount = s.me.pushCount := finished_keeps (·.pushCount) (fun _ _ => rfl) h s
theorem finished_me_pend (h : Hints) (s : State) : (finished h s).me.pend = s.me.pend := finished_keeps (·.pend) (fun _ _ => rfl) h s
theorem finished_me_storeq (h : Hints) (s : State) : (finished h s).me.storeq = s.me.storeq := finished_keeps (·.storeq) (fun _ _ => rfl) h s

/-! ## The bytes of a choice point (R178, Table 9.6) -/

section ChoicePoint
variable (t : TSet) (core ts od : Nat) (table : Word) (count : Nat) (resume : Word)

/-- The snapshot of a choice point. -/
def snapshotBytes (t : TSet) : List Byte :=
  (List.range 31).flatMap (fun k => bytesOf 8 (t.gRaw (k + 1)).toNat) ++ (List.range 7).flatMap (fun k => bytesOf 8 (t.readP (k + 1)).toNat) ++
    (List.range 8).flatMap (fun k => bytesOf 4 (t.readC k).toNat)

theorem snapshotBytes_length : (snapshotBytes t).length = 0x150 := by
  simp only [snapshotBytes, List.length_append, flatMap_bytesOf_length]

theorem choicePoint_eq : choicePoint t core ts od table count resume = snapshotBytes t ++ bytesOf 8 table.toNat ++ bytesOf 8 (1 + count * 2 ^ 32) ++
    bytesOf 8 (t.trtop.toNat + od * 2 ^ 24) ++ bytesOf 8 resume.toNat ++ bytesOf 8 0 ++
    bytesOf 8 (core % 1024 * 2 ^ 22 + ts * 2 ^ 20 + (t.pushCount + 1).toNat) := rfl

theorem choicePoint_snapshot {off n w : Nat} (h : holdsNat (snapshotBytes t) off n w) :
    holdsNat (choicePoint t core ts od table count resume) off n w := by
  rw [choicePoint_eq]
  exact (((((h.append_left _).append_left _).append_left _).append_left _).append_left _).append_left _

theorem choicePoint_g {k : Nat} (hk : k < 31) : holdsNat (choicePoint t core ts od table count resume) (8 * k) 8 (t.gRaw (k + 1)).toNat :=
  choicePoint_snapshot t core ts od table count resume (((holdsNat_flatMap _ hk).append_left _).append_left _)

theorem choicePoint_p {k : Nat} (hk : k < 7) : holdsNat (choicePoint t core ts od table count resume) (0xF8 + 8 * k) 8 (t.readP (k + 1)).toNat :=
  choicePoint_snapshot t core ts od table count resume
    (((holdsNat_flatMap _ hk).append_right _ (by rw [flatMap_bytesOf_length])).append_left _)

theorem choicePoint_table : holdsNat (choicePoint t core ts od table count resume) 0x150 8 table.toNat := by
  rw [choicePoint_eq]
  refine (((((holdsNat.append_right (holdsNat_bytesOf 8 _) _ ?_).append_left _).append_left _).append_left _).append_left _).append_left _
  rw [snapshotBytes_length]

theorem choicePoint_counts : holdsNat (choicePoint t core ts od table count resume) 0x158 8 (1 + count * 2 ^ 32) := by
  rw [choicePoint_eq]
  refine ((((holdsNat.append_right (holdsNat_bytesOf 8 _) _ ?_).append_left _).append_left _).append_left _).append_left _
  simp only [List.length_append, snapshotBytes_length, bytesOf_length]

theorem choicePoint_trail : holdsNat (choicePoint t core ts od table count resume) 0x160 8 (t.trtop.toNat + od * 2 ^ 24) := by
  rw [choicePoint_eq]
  refine (((holdsNat.append_right (holdsNat_bytesOf 8 _) _ ?_).append_left _).append_left _).append_left _
  simp only [List.length_append, snapshotBytes_length, bytesOf_length]

theorem choicePoint_resume : holdsNat (choicePoint t core ts od table count resume) 0x168 8 resume.toNat := by
  rw [choicePoint_eq]
  refine ((holdsNat.append_right (holdsNat_bytesOf 8 _) _ ?_).append_left _).append_left _
  simp only [List.length_append, snapshotBytes_length, bytesOf_length]

end ChoicePoint

/-- A thread set whose youngest queued write is a choice point at an address. -/
def choiceQueued (s : State) (core ts at_ : Nat) (t : TSet) (od : Nat) (table : Word) (count : Nat) (resume : Word) : Prop :=
  ∃ q seq owner, (s.tset core ts).storeq = q ++ [⟨seq, .scratch core (bytesFrom at_ (choicePoint t core ts od table count resume)) false none, owner⟩]

section Queued
variable {s : State} {core ts at_ od count : Nat} {t : TSet} {table resume : Word} (h : choiceQueued s core ts at_ t od table count resume)
include h

theorem cpRead_queued {off n w : Nat} (hw : holdsNat (choicePoint t core ts od table count resume) off n w) :
    ownRead s core ts (at_ + off) n = w % 2 ^ (8 * n) := by
  obtain ⟨q, seq, owner, hq⟩ := h
  exact ownRead_written hq hw

theorem cpWord_queued {off : Nat} {w : Word} (hw : holdsNat (choicePoint t core ts od table count resume) off 8 w.toNat) :
    cpWord s core ts at_ off = w.toNat := by
  rw [cpWord, cpRead_queued h hw, Nat.mod_eq_of_lt w.isLt]

theorem cpNext_queued : cpNext s core ts at_ = 1 := by
  have hpart := (choicePoint_counts t core ts od table count resume).part (j := 0) (m := 4) (by norm_num)
  rw [cpNext, cpRead_queued h hpart]
  omega

theorem cpCount_queued (hcount : count ≤ 65535) : cpCount s core ts at_ = count := by
  have hpart := (choicePoint_counts t core ts od table count resume).part (j := 4) (m := 4) (by norm_num)
  rw [cpCount, cpRead_queued h hpart]
  omega

theorem cpTrail_queued : cpTrail s core ts at_ = t.trtop.toNat := by
  have hpart := (choicePoint_trail t core ts od table count resume).part (j := 0) (m := 3) (by norm_num)
  rw [cpTrail, cpRead_queued h hpart]
  have := t.trtop.isLt
  omega

theorem cpOd_queued : cpOd s core ts at_ = od % 32 := by
  have hpart := (choicePoint_trail t core ts od table count resume).part (j := 3) (m := 1) (by norm_num)
  rw [cpOd, cpRead_queued h hpart]
  have := t.trtop.isLt
  omega

end Queued

/-! ## TRYE -/

/-- The choice point of a `TRYE` in the store queue. -/
def tryeQueued (f : Form) (u : State) : State :=
  u.fresh.2.modMe (fun t => { t with storeq := t.storeq ++ [⟨u.uid, .scratch u.curCore (bytesFrom u.me.cstop.toNat
    (choicePoint u.me u.curCore u.curTs (regOf f.od) (u.me.value f.oa) (u.me.value f.ob).toNat u.me.pc)) false none, t.owner⟩] })

/-- The push done, and entry 0 of its table on its way. -/
def tryePushed (f : Form) (u : State) (x : Xlat) : State :=
  let s := (tryeQueued f u).modMe (fun t => { t with cstop := BitVec.ofNat 18 (u.me.cstop.toNat + 384), pushCount := t.pushCount + 1 })
  pendG (s.used (u.me.value f.oa) 8 rightR false) (regOf f.od) true (u.me.value f.oa)
    (.load (u.me.value f.oa) x 8 false (forwardedTo s (ptrAddr (u.me.value f.oa)) 8))

/-- A word with further registers that has come to step 6 of Table 2.3 with nothing to stop it. -/
theorem runExtra_ready {f : Form} {s : State} {use : OdUse} {x : Extra} (body : State → Except Stop State) (hpow : s.powered = true)
    (hpreds : predsReady s f = true) (hguard : guardHolds s.me f.guard none = true)
    (hregs : regsClear s (formSrcs s.me use f ++ x.srcs) (formDsts s.me use f ++ x.dsts) = true) :
    runExtra f use x body s = conclude f.hints s (body (begin s)) := by
  simp only [predsReady, Bool.and_eq_true, Bool.not_eq_true'] at hpreds
  obtain ⟨⟨hlate, hfails⟩, hforms⟩ := hpreds
  exact runWith_ready _ _ _ _ _ _ _ _ hpow hlate hfails hguard hforms hregs

theorem begin_mySpec (s : State) : (begin s).mySpec = s.mySpec := by rw [State.mySpec, begin_me_act]; rfl

section Trye
variable {f : Form} {s : State} {x : Xlat} {a : Act} (hact : s.me.act = some a) (hpow : s.powered = true) (hpreds : predsReady s f = true)
  (hguard : guardHolds s.me f.guard none = true)
  (hregs : regsClear s (formSrcs s.me .write f ++ snapshotSrcs) (formDsts s.me .write f) = true) (hlvl : s.me.tlvl = 0)
  (hpos : 0 < (s.me.value f.ob).toNat) (hmax : (s.me.value f.ob).toNat ≤ 65535) (hok : accessOk (begin s) (s.me.value f.oa) 8 rightR x)
include hact hpow hpreds hguard hregs hlvl hpos hmax hok

theorem exec_trye_pushes (hroom : s.me.cstop.toNat + 384 ≤ a.choiceEnd) (hcredit : needCredit (begin s) = .ok ()) (hspec : s.mySpec = none)
    (hqueue : s.me.storeq.length < 16) : exec (.trye f) s = .next (finished f.hints (tryePushed f (begin s) x)) := by
  have hcheck := checkAccess_ok hok
  have hregs' : regsClear s (formSrcs s.me .write f ++ snapshotSrcs) (formDsts s.me .write f ++ []) = true := by rwa [List.append_nil]
  rw [exec_trye, execTrye]
  simp only [ne_eq, hpos.ne', not_false_eq_true, decide_true, hmax, hlvl, Bool.and_self, if_true, if_false, Nat.not_lt.mpr hmax]
  rw [runExtra_ready (x := { srcs := snapshotSrcs }) _ hpow hpreds hguard hregs']
  simp only [bind, Except.bind, needLevel0, begin_me_tlvl, hlvl, if_true, begin_value, hcheck, begin_me_act, hact, Option.map_some, Option.getD_some,
    begin_me_cstop, cpBytes, Nat.not_lt.mpr hroom, if_false, hcredit, queueLocal, begin_mySpec, hspec, Option.isSome_none, Bool.false_eq_true,
    begin_me_storeq, Config.storeEntries, Nat.not_le.mpr hqueue, pure, Except.pure]
  simp only [tryePushed, tryeQueued, begin_value, begin_me_cstop]
  rfl

theorem exec_trye_full (hfull : a.choiceEnd < s.me.cstop.toNat + 384) : exec (.trye f) s = traps s 0x21 (s.me.cstop.setWidth 64) := by
  have hcheck := checkAccess_ok hok
  have hregs' : regsClear s (formSrcs s.me .write f ++ snapshotSrcs) (formDsts s.me .write f ++ []) = true := by rwa [List.append_nil]
  rw [exec_trye, execTrye]
  simp only [ne_eq, hpos.ne', not_false_eq_true, decide_true, hmax, hlvl, Bool.and_self, if_true, if_false, Nat.not_lt.mpr hmax]
  rw [runExtra_ready (x := { srcs := snapshotSrcs }) _ hpow hpreds hguard hregs']
  simp only [bind, Except.bind, needLevel0, begin_me_tlvl, hlvl, if_true, begin_value, hcheck, begin_me_act, hact, Option.map_some, Option.getD_some,
    begin_me_cstop, cpBytes, hfull, if_true]
  rfl

end Trye

end Sys2Proof.Machine

end

/-! # What a `TRYE` leaves (R60, R178) -/
section

namespace Sys2Proof.Machine

theorem gIndex_level0 (i : Nat) : gIndex 0 i = i := by
  unfold gIndex
  split_ifs <;> omega

/-- The entry of a result in flight to a g register. -/
def newPend (s : State) (i : Nat) (credit : Bool) (addr : Word) (kind : PendKind) : Pend :=
  { seq := s.uid, isV := false, reg := gIndex s.me.tlvl i, credit := credit, addr := addr, owner := s.me.owner, kind := kind }

theorem pendG_me (s : State) (i : Nat) (credit : Bool) (addr : Word) (kind : PendKind) :
    (pendG s i credit addr kind).me = { s.me.emptyG (gIndex s.me.tlvl i) with pend := s.me.pend ++ [newPend s i credit addr kind] } := by
  rw [pendG, State.me_modMe]
  rfl

theorem pendG_curCore (s : State) (i : Nat) (credit : Bool) (addr : Word) (kind : PendKind) : (pendG s i credit addr kind).curCore = s.curCore := rfl
theorem pendG_curTs (s : State) (i : Nat) (credit : Bool) (addr : Word) (kind : PendKind) : (pendG s i credit addr kind).curTs = s.curTs := rfl
theorem pendG_scratch (s : State) (i : Nat) (credit : Bool) (addr : Word) (kind : PendKind) : (pendG s i credit addr kind).scratch = s.scratch := rfl

theorem used_me (s : State) (ea : Word) (n : Nat) (need : BitVec 5) (fetch : Bool) : (s.used ea n need fetch).me = s.me := rfl

theorem emptyG_cstop (t : TSet) (k : Nat) : (t.emptyG k).cstop = t.cstop := by unfold TSet.emptyG; split <;> rfl
theorem emptyG_trtop (t : TSet) (k : Nat) : (t.emptyG k).trtop = t.trtop := by unfold TSet.emptyG; split <;> rfl
theorem emptyG_pushCount (t : TSet) (k : Nat) : (t.emptyG k).pushCount = t.pushCount := by unfold TSet.emptyG; split <;> rfl
theorem emptyG_storeq (t : TSet) (k : Nat) : (t.emptyG k).storeq = t.storeq := by unfold TSet.emptyG; split <;> rfl
theorem emptyG_act (t : TSet) (k : Nat) : (t.emptyG k).act = t.act := by unfold TSet.emptyG; split <;> rfl
theorem emptyG_gRaw (t : TSet) (k i : Nat) : (t.emptyG k).gRaw i = t.gRaw i := by unfold TSet.emptyG; split <;> rfl
theorem emptyG_readP (t : TSet) (k i : Nat) : (t.emptyG k).readP i = t.readP i := by unfold TSet.emptyG; split <;> rfl

section Trye
variable (f : Form) (u : State) (x : Xlat)

theorem tryeQueued_me : (tryeQueued f u).me = { u.me with storeq := u.me.storeq ++ [⟨u.uid, .scratch u.curCore (bytesFrom u.me.cstop.toNat
    (choicePoint u.me u.curCore u.curTs (regOf f.od) (u.me.value f.oa) (u.me.value f.ob).toNat u.me.pc)) false none, u.me.owner⟩] } := by
  rw [tryeQueued, State.me_modMe]
  rfl

theorem tryePushed_curCore : (tryePushed f u x).curCore = u.curCore := rfl
theorem tryePushed_curTs : (tryePushed f u x).curTs = u.curTs := rfl
theorem tryePushed_scratch : (tryePushed f u x).scratch = u.scratch := rfl

theorem tryePushed_cstop : (tryePushed f u x).me.cstop = BitVec.ofNat 18 (u.me.cstop.toNat + 384) := by
  rw [tryePushed, pendG_me]
  simp only [emptyG_cstop, used_me, State.me_modMe]

theorem tryePushed_pushCount : (tryePushed f u x).me.pushCount = u.me.pushCount + 1 := by
  rw [tryePushed, pendG_me]
  simp only [emptyG_pushCount, used_me, State.me_modMe, tryeQueued_me]

theorem tryePushed_storeq : (tryePushed f u x).me.storeq = (tryeQueued f u).me.storeq := by
  rw [tryePushed, pendG_me]
  simp only [emptyG_storeq, used_me, State.me_modMe]

/-- Entry 0 of its table is on its way to OD. -/
theorem tryePushed_pend (hlvl : u.me.tlvl = 0) : ∃ p ∈ (tryePushed f u x).me.pend, u.uid ≤ p.seq ∧ p.reg = regOf f.od ∧ p.addr = u.me.value f.oa := by
  rw [tryePushed, pendG_me]
  refine ⟨_, List.mem_append_right _ (List.mem_singleton_self _), Nat.le_succ _, ?_, rfl⟩
  simp only [newPend, used_me, State.me_modMe, tryeQueued_me, hlvl, gIndex_level0]

/-- The choice point is its youngest queued write. -/
theorem tryePushed_choice : choiceQueued (finished f.hints (tryePushed f u x)) u.curCore u.curTs u.me.cstop.toNat u.me (regOf f.od) (u.me.value f.oa)
    (u.me.value f.ob).toNat u.me.pc := by
  have htset : (finished f.hints (tryePushed f u x)).tset u.curCore u.curTs = (finished f.hints (tryePushed f u x)).me := finished_tset _ (tryePushed f u x)
  refine ⟨u.me.storeq, u.uid, u.me.owner, ?_⟩
  rw [htset, finished_me_storeq, tryePushed_storeq, tryeQueued_me]

end Trye

/-! ## CUT (R183) -/

theorem Steady.me {s t : State} (h : Steady s t) : t.me = s.me := by
  rw [State.me, h.tset, h.curCore, h.curTs]
  rfl

theorem pruneFor_scratch (s : State) (core ts : Nat) (cps : List Nat) : (pruneFor s core ts cps).scratch = s.scratch := by
  induction cps generalizing s with
  | nil => rfl
  | cons cp cps ih =>
    rw [pruneFor, List.foldl_cons, ← pruneFor, ih]
    dsimp only
    split_ifs <;> rfl

/-- The choice points a `CUT` with a frontier of `keep` discards. -/
def cutGone (t : TSet) (keep : Nat) : List Nat := (choicePoints t).filter (fun cp => decide (keep ≤ cp))

/-- The effect of a `CUT`. -/
def cutDone (u : State) (keep : Nat) : State :=
  (pruneFor u u.curCore u.curTs (cutGone u.me keep)).modMe (fun t => { t with cstop := BitVec.ofNat 18 (min t.cstop.toNat keep) })

theorem exec_cut_ready {f : Form} {s : State} {a : Act} (hready : formReady s f none .none = true) (hact : s.me.act = some a) (hlvl : s.me.tlvl = 0)
    (hthefts : s.thefts = []) :
    exec (.cut f) s = .next (finished f.hints (cutDone (begin s) (a.choiceBase + 384 * (s.me.value f.oa).toNat))) := by
  have hnone : (begin s).thefts = [] := hthefts
  rw [exec_cut, execCut, run_ready_ok _ _ _ _ _ _ hready]
  simp only [bind, Except.bind, needLevel0, begin_me_tlvl, hlvl, if_true, begin_me_act, hact, Option.map_some, Option.getD_some, hnone, List.any_nil,
    Bool.false_eq_true, if_false, pure, Except.pure, begin_value, cpBytes]
  rfl

theorem cutDone_me (u : State) (keep : Nat) : (cutDone u keep).me = { u.me with cstop := BitVec.ofNat 18 (min u.me.cstop.toNat keep) } := by
  have hsteady := Steady.pruneFor u u.curCore u.curTs (cutGone u.me keep)
  have hme : (pruneFor u u.curCore u.curTs (cutGone u.me keep)).me = u.me := hsteady.me
  rw [cutDone, State.me_modMe, hme]

theorem cutDone_scratch (u : State) (keep : Nat) : (cutDone u keep).scratch = u.scratch := pruneFor_scratch u _ _ _

end Sys2Proof.Machine

end

/-! # What a `TRAIL` leaves (R60, R180) -/
section

namespace Sys2Proof.Machine

/-! ## A load that hits (R142, R255) -/

theorem lineHit_hold (s : State) (c va way : Nat) : ((lineHit s c va way).cluster c).hold = (s.cluster c).hold := by
  rw [lineHit, State.cluster_modCluster_self, (CountsChange.countCache s c 0x3001).clusters c]

theorem lineHit_me (s : State) (c va way : Nat) : (lineHit s c va way).me = s.me := by
  rw [lineHit_rest]
  rfl

/-- A whole sound line that the cache holds, under no held byte, is read as it stands. -/
theorem loadFor_hit {s : State} {core va : Nat} {who : Asker} {x : Xlat} {l : CacheLine} (byCore : Bool) (htier : x.tier < 2)
    (hasked : askedLine s (cacheOf core) who va = none) (hfind : (s.cluster (cacheOf core)).find va = some l) (hbad : l.bad = 0) (hwhole : l.hole = 0)
    (hhold : (s.cluster (cacheOf core)).hold = []) : loadFor s core who va x byCore = (l.data, 0, lineHit s (cacheOf core) va l.way) := by
  have hheld : heldAt ((lineHit s (cacheOf core) va l.way).cluster (cacheOf core)) va = [] := by rw [heldAt, lineHit_hold, hhold]; rfl
  have hwords : wordBits (0 : BitVec 8) = 0 := by decide
  have hline : loadLine s core va x byCore = (l.data, 0, lineHit s (cacheOf core) va l.way) := by
    simp only [loadLine, if_neg (show x.tier ≠ 2 by omega), fillLine_hit core x byCore hfind hwhole, hheld, hbad, hwords]
    rfl
  rw [loadFor, hasked]
  exact hline

/-! ## The bytes of trail entries (Table 9.7) -/

theorem trailBytes_pair (top e e' : Nat) : trailBytes top [e, e'] = bytesFrom top (bytesOf 16 e ++ bytesOf 16 e') := rfl

theorem trailEntry_zero (sz old : Nat) : trailEntry sz 0 old = old * 2 ^ 64 + sz * 2 ^ 24 := Nat.add_zero _

theorem trailEntry_lt {sz off old : Nat} (hsz : sz < 2 ^ 39) (hoff : off < 2 ^ 24) (hold : old < 2 ^ 64) : trailEntry sz off old < 2 ^ (8 * 16) := by
  unfold trailEntry
  omega

/-! ## TRAIL -/

/-- The state in which a `TRAIL` has read its word in a line. -/
def trailRead (u : State) (ea : Word) (l : CacheLine) : State :=
  answersTaken (lineHit (u.used ea 8 (rightR ||| rightW) false) (cacheOf u.curCore) (ptrAddr ea) l.way) u.asker

/-- The old value that a `TRAIL` keeps. -/
def trailOld (ea : Word) (l : CacheLine) : Nat := natOfBytes ((List.range 8).map (fun k => lineByte l.data (ptrAddr ea % 64 + k)))

/-- The two entries of a `TRAIL`. -/
def trailPair (ea : Word) (l : CacheLine) : List Nat := [trailEntry 6 0 ea.toNat, trailEntry 7 0 (trailOld ea l)]

theorem trailRead_me (u : State) (ea : Word) (l : CacheLine) : (trailRead u ea l).me = u.me := by
  change (lineHit (u.used ea 8 (rightR ||| rightW) false) (cacheOf u.curCore) (ptrAddr ea) l.way).me = u.me
  rw [lineHit_me, used_me]

theorem trailRead_curCore (u : State) (ea : Word) (l : CacheLine) : (trailRead u ea l).curCore = u.curCore := by
  change (lineHit (u.used ea 8 (rightR ||| rightW) false) (cacheOf u.curCore) (ptrAddr ea) l.way).curCore = u.curCore
  rw [lineHit_rest]
  rfl

/-- The state with the entries of a `TRAIL` in the store queue. -/
def trailPushed (u : State) (ea : Word) (l : CacheLine) : State :=
  let s := pushedTrail 2 (trailRead u ea l)
  s.fresh.2.modMe (fun t => { t with storeq := t.storeq ++
    [⟨s.uid, .scratch u.curCore (trailBytes u.me.trtop.toNat (trailPair ea l)) false none, t.owner⟩] })

theorem queueTrail_pair {u : State} {ea : Word} {l : CacheLine} (hqueue : u.me.storeq = []) :
    queueTrail (trailRead u ea l) (trailPair ea l) = .ok (trailPushed u ea l) := by
  have hroom : ¬ Config.storeEntries ≤ (trailRead u ea l).me.storeq.length := by rw [trailRead_me, hqueue]; decide
  have hcore : (pushedTrail 2 (trailRead u ea l)).fresh.2.curCore = u.curCore := trailRead_curCore u ea l
  rw [queueTrail, if_neg hroom]
  simp only [trailPair, List.length_cons, List.length_nil, Nat.zero_add, Nat.reduceAdd]
  rw [hcore, trailRead_me]
  rfl

theorem trailPushed_me {u : State} {ea : Word} {l : CacheLine} (hqueue : u.me.storeq = []) : ∃ seq, (trailPushed u ea l).me =
    { u.me with trtop := BitVec.ofNat 18 (u.me.trtop.toNat + 32),
                storeq := [⟨seq, .scratch u.curCore (trailBytes u.me.trtop.toNat (trailPair ea l)) false none, u.me.owner⟩] } := by
  have hpushed : (pushedTrail 2 (trailRead u ea l)).fresh.2.me = { u.me with trtop := BitVec.ofNat 18 (u.me.trtop.toNat + 32) } := by
    change (pushedTrail 2 (trailRead u ea l)).me = _
    rw [pushedTrail, if_neg (by decide), State.me_modMe, trailRead_me]
  refine ⟨(pushedTrail 2 (trailRead u ea l)).uid, ?_⟩
  rw [trailPushed, State.me_modMe, hpushed, hqueue]
  rfl

section Pushed
variable {u t : State} {core seq top : Nat} {owner : BitVec 20} {ea : Word} {l : CacheLine}
  (hqueue : t.me.storeq = [⟨seq, .scratch core (trailBytes top (trailPair ea l)) false none, owner⟩])
include hqueue

/-- Each entry of the pair reads as it was pushed. -/
theorem queuedRead_trailPair {off e : Nat} (hbytes : holdsNat (bytesOf 16 (trailEntry 6 0 ea.toNat) ++ bytesOf 16 (trailEntry 7 0 (trailOld ea l))) off 16 e) :
    t.queuedRead t.me.storeq core (top + off) 16 = e % 2 ^ (8 * 16) := by
  rw [hqueue, trailPair, trailBytes_pair]
  exact natOfBytes_written (q := []) hbytes _

theorem queuedRead_trailAddr : t.queuedRead t.me.storeq core top 16 = ea.toNat * 2 ^ 64 + 6 * 2 ^ 24 := by
  have hread := queuedRead_trailPair hqueue ((holdsNat_bytesOf 16 _).append_left _)
  rwa [Nat.mod_eq_of_lt (trailEntry_lt (by norm_num) (by norm_num) ea.isLt), trailEntry_zero] at hread

theorem queuedRead_trailOld : t.queuedRead t.me.storeq core (top + 16) 16 = trailOld ea l * 2 ^ 64 + 7 * 2 ^ 24 := by
  have hlt : trailOld ea l < 2 ^ 64 := by simpa [trailOld] using natOfBytes_lt ((List.range 8).map (fun k => lineByte l.data (ptrAddr ea % 64 + k)))
  have hread := queuedRead_trailPair hqueue ((holdsNat_bytesOf 16 _).append_right _ (m := 16) (by rw [bytesOf_length]))
  rwa [Nat.mod_eq_of_lt (trailEntry_lt (by norm_num) (by norm_num) hlt), trailEntry_zero] at hread

end Pushed

section Trail
variable {f : Form} {s : State} {x : Xlat} {a : Act} (hready : formReady s f none .none = true) (hact : s.me.act = some a) (hlvl : s.me.tlvl = 0)
  (hok : accessOk (begin s) (s.me.value f.oa) 8 (rightR ||| rightW) x) (hspec : s.mySpec = none) (hwait : s.me.wait = .none)
  (hcredit : needCredit (begin s) = .ok ())
include hready hlvl hok hspec hwait hcredit

theorem exec_trail_closed (hopen : s.me.choiceOpen = false) : exec (.trail f) s = .next (finished f.hints (begin s)) := by
  have hopen' : (begin s).me.choiceOpen = false := by rw [TSet.choiceOpen, begin_me_act, begin_me_cstop]; exact hopen
  rw [exec_trail, execTrail, run_ready_ok _ _ _ _ _ _ hready]
  simp only [bind, Except.bind, needLevel0, begin_me_tlvl, hlvl, if_true, needOrdinary, begin_mySpec, hspec, Option.isSome_none, Bool.false_eq_true,
    if_false, begin_value, checkAccess_ok hok, checkedOnce, begin_me_wait, hwait, hcredit, pure, Except.pure, hopen', Bool.not_false]

include hact

theorem exec_trail_full (hopen : s.me.choiceOpen = true) (hfull : a.trailEnd < s.me.trtop.toNat + 32) :
    exec (.trail f) s = traps s 0x20 (s.me.trtop.setWidth 64) := by
  have hopen' : (begin s).me.choiceOpen = true := by rw [TSet.choiceOpen, begin_me_act, begin_me_cstop]; exact hopen
  rw [exec_trail, execTrail, run_ready _ _ _ _ _ hready]
  simp only [bind, Except.bind, needLevel0, begin_me_tlvl, hlvl, if_true, needOrdinary, begin_mySpec, hspec, Option.isSome_none, Bool.false_eq_true,
    if_false, begin_value, checkAccess_ok hok, checkedOnce, begin_me_wait, hwait, hcredit, pure, Except.pure, hopen', Bool.not_true, begin_me_act, hact,
    Option.map_some, Option.getD_some, begin_me_trtop, hfull]
  rfl

theorem exec_trail_pushes {l : CacheLine} (hopen : s.me.choiceOpen = true) (hroom : s.me.trtop.toNat + 32 ≤ a.trailEnd) (hthefts : s.thefts = [])
    (hqueue : s.me.storeq = []) (hpend : s.me.pend = []) (htier : x.tier < 2)
    (hasked : askedLine s (cacheOf s.curCore) s.asker (ptrAddr (s.me.value f.oa)) = none)
    (hfind : (s.cluster (cacheOf s.curCore)).find (ptrAddr (s.me.value f.oa)) = some l) (hbad : l.bad = 0) (hwhole : l.hole = 0)
    (hhold : (s.cluster (cacheOf s.curCore)).hold = []) :
    exec (.trail f) s = .next (finished f.hints (trailPushed (begin s) (s.me.value f.oa) l)) := by
  have hopen' : (begin s).me.choiceOpen = true := by rw [TSet.choiceOpen, begin_me_act, begin_me_cstop]; exact hopen
  have hcopied : beingCopied (begin s) = false := by
    have hnone : (begin s).thefts = [] := hthefts
    rw [beingCopied, hnone]
    rfl
  have hblocked : ∀ p, loadBlocked (begin s).me p = false := fun p => by
    rw [loadBlocked, begin_me_pend, hpend]
    cases p.line <;> rfl
  have hhere : lineHere (begin s) (cacheOf s.curCore) (begin s).asker (ptrAddr (s.me.value f.oa)) x = true := by
    rw [lineHere, bne_iff_ne.mpr (show x.tier ≠ 3 by omega), Bool.true_or]
  have hfwd : forwarded (begin s).me (ptrAddr (s.me.value f.oa)) 8 = [] := by
    rw [forwarded, begin_me_storeq, hqueue]
    rfl
  have hwho : (begin s).asker = s.asker := by rw [State.asker, begin_me_act]; rfl
  have hload := loadFor_hit (s := (begin s).used (s.me.value f.oa) 8 (rightR ||| rightW) false) (core := s.curCore) (who := (begin s).asker) true htier (hwho ▸ hasked)
    hfind hbad hwhole hhold
  have hpushed := queueTrail_pair (u := begin s) (ea := s.me.value f.oa) (l := l) (by rw [begin_me_storeq, hqueue])
  have hasker : (lineHit ((begin s).used (s.me.value f.oa) 8 (rightR ||| rightW) false) (cacheOf s.curCore) (ptrAddr (s.me.value f.oa)) l.way).asker =
      (begin s).asker := by
    rw [State.asker, lineHit_me]
    rfl
  rw [exec_trail, execTrail, run_ready_ok _ _ _ _ _ _ hready]
  simp only [bind, Except.bind, needLevel0, begin_me_tlvl, hlvl, if_true, needOrdinary, begin_mySpec, hspec, Option.isSome_none, Bool.false_eq_true,
    if_false, begin_value, checkAccess_ok hok, checkedOnce, begin_me_wait, hwait, hcredit, pure, Except.pure, hopen', Bool.not_true, begin_me_act, hact,
    Option.map_some, Option.getD_some, begin_me_trtop, Nat.not_lt.mpr hroom, hcopied, hblocked, Bool.or_self, begin_curCore, hhere, hfwd, hload]
  have hsound : ((bytesAt (ptrAddr (s.me.value f.oa)) 8).any fun k => BitVec.getLsbD (0 : BitVec 64) k && !([] : List (Nat × Byte)).any
      fun b => ptrAddr (s.me.value f.oa) % 64 + b.1 == k) = false :=
    List.any_eq_false.mpr fun k _ => by simp
  simp only [hsound, Bool.false_eq_true, if_false, List.find?_nil, Option.map_none, Option.getD_none, hasker]
  exact hpushed

end Trail

end Sys2Proof.Machine

end

/-! # The normal end of an activation, and the end of a search (R169, R182) -/
section

namespace Sys2Proof.Machine

theorem Calm.inject (s : State) (core : Nat) (d : Dest) (m : Msg) : Calm s (inject s core d m) :=
  Calm.trans (t := s.modCore core (fun c => { c with inject := c.inject ++ [{ dest := d, msg := { m with stamp := BitVec.ofNat 64 s.now } }] })) {}
    (Bookkeeping.countAt _ core 0x4001 1).calm

theorem Calm.armWatch (s : State) (w : Watch) : Calm s (armWatch s w) := by
  unfold Machine.armWatch
  split <;> exact {}

theorem Ends.releaseFrom (s : State) (core ts : Nat) (l : List Held) : Ends s (releaseFrom s core ts l) := by
  have hkeeps : ∀ (u : State) (r : List Held), Ends u (u.modTset core ts (fun t => { t with releasing := r })) := fun u r => .modTset fun _ h => h
  induction l generalizing s with
  | nil =>
    have hfin : Ends s (Machine.finishEnd (s.modTset core ts (fun t => { t with releasing := [] })) core ts) := (hkeeps s []).trans (.finishEnd _ core ts)
    unfold Machine.releaseFrom
    dsimp only
    split
    · exact hfin.trans ((Calm.armWatch _ _).ends.trans (.modTset fun _ h => h))
    · exact hfin
  | cons e rest ih =>
    cases e with
    | send d m =>
      unfold Machine.releaseFrom
      split_ifs
      · exact (Calm.inject s core d m).ends.trans (ih _)
      · exact hkeeps s _
    | join va x => exact hkeeps s _

theorem Steady.delayUpdate (s : State) (core : Nat) (a : Act) : Steady s (delayUpdate s core a) :=
  Steady.trans (t := s.fresh.2) {} (.modCore fun c => by dsimp only; split <;> [rfl; (split <;> rfl)])

/-- What an end does before it takes the activation from its thread set. -/
def endTraced (s : State) (core ts code : Nat) (a : Act) : State :=
  emitTrace (delayUpdate (withdraw s core ts) core a) core 3
    [traceP a.msg core ts ||| (BitVec.ofNat 64 (if a.spec.isSome then 5 else code)) <<< 38]

theorem Steady.endTraced (s : State) (core ts code : Nat) (a : Act) : Steady s (endTraced s core ts code a) :=
  (Steady.withdraw s core ts).trans ((Steady.delayUpdate _ core a).trans (.emitTrace _ core 3 _))

/-- The thread set of an ordinary activation as its end leaves it, with what it has still to release. -/
def TSet.endedWith (t : TSet) (code : EndCode) (a : Act) (watch : Option Watch) : TSet :=
  { t.ended with releasing := t.sendBuf, armAfter := watch, ending := some (code, a), relCtx := a.msg.ctx }

/-- The state in which an ordinary activation has left its thread set, before the release. -/
def endCleared (s : State) (core ts : Nat) (code : EndCode) (a : Act) (watch : Option Watch) : State :=
  (unholdRecords (endTraced s core ts code a) core a.uid).modTset core ts (fun t => t.endedWith code a watch)

theorem endActivation_ordinary {s : State} {core ts : Nat} {a : Act} (code : EndCode) (watch : Option Watch) (hact : (s.tset core ts).act = some a)
    (hspec : a.spec = none) : endActivation s core ts code watch = releaseMore (endCleared s core ts code a watch) core ts := by
  simp only [endActivation, hact, hspec, endCleared, endTraced]
  rfl

/-- A normal end: the thread set has no activation, and none begins. -/
theorem endActivation_ends (s : State) (core ts : Nat) (code : EndCode) (watch : Option Watch)
    (hspec : (s.tset core ts).act.bind (·.spec) = none) :
    Ends s (endActivation s core ts code watch) ∧ ((endActivation s core ts code watch).tset core ts).act = none := by
  cases hact : (s.tset core ts).act with
  | none =>
    have hsame : endActivation s core ts code watch = s := by simp only [endActivation, hact]
    rw [hsame]
    exact ⟨.refl s, hact⟩
  | some a =>
    rw [hact] at hspec
    rw [endActivation_ordinary code watch hact hspec]
    have hbefore : Steady s (unholdRecords (endTraced s core ts code a) core a.uid) := (Steady.endTraced s core ts code a).trans (.unholdRecords _ core a.uid)
    have hended : Ends _ (endCleared s core ts code a watch) := .modTset fun _ _ => rfl
    have hidle : ((endCleared s core ts code a watch).tset core ts).act = none := by
      rw [endCleared, State.tset_modTset_self]
      rfl
    have hafter : Ends _ (releaseMore (endCleared s core ts code a watch) core ts) := .releaseFrom _ core ts _
    exact ⟨hbefore.calm.ends.trans (hended.trans hafter), hafter.acts core ts hidle⟩

/-- The notice of an exhausted search leaves its activation, if any, as it is. -/
theorem exhaustedNotice_ends (s : State) (core ts st : Nat) :
    Ends s (exhaustedNotice s core ts st) ∧ ((exhaustedNotice s core ts st).tset core ts).act = (s.tset core ts).act := by
  have hcalm : ∀ {u}, Calm s u → Ends s u ∧ (u.tset core ts).act = (s.tset core ts).act := fun h => ⟨h.ends, by rw [h.tset]⟩
  unfold exhaustedNotice
  dsimp only
  split
  · exact hcalm (.refl s)
  · split_ifs
    · exact hcalm (.refl s)
    · exact hcalm (Steady.raiseCounter s _ _ _ _ _).calm
    · refine ⟨Ends.trans (t := (nextSeq s core).2) (Calm.ends {}) (.modTset fun _ h => h), ?_⟩
      rw [State.tset_modTset_self]
      rfl

theorem endSearch_ends (s : State) (core ts st : Nat) (hspec : (s.tset core ts).act.bind (·.spec) = none) :
    Ends s (endSearch s core ts st) ∧ ((endSearch s core ts st).tset core ts).act = none := by
  obtain ⟨hnotice, hact⟩ := exhaustedNotice_ends s core ts st
  obtain ⟨hends, hidle⟩ := endActivation_ends (exhaustedNotice s core ts st) core ts (if st = 0 then 3 else 4) none (by rw [hact]; exact hspec)
  exact ⟨hnotice.trans hends, hidle⟩

end Sys2Proof.Machine

end

/-! # What a `FAIL` reads and restores (R60, R181) -/
section

namespace Sys2Proof.Machine

/-! ## Reads of an ordinary activation (R250) -/

theorem seenByteOf_plain {s : State} {core ts : Nat} (c addr : Nat) (hspec : (s.tset core ts).act.bind (·.spec) = none) :
    seenByteOf s core ts c addr = s.scratchByte c addr := by
  have hheld : heldOf s core ts true (addr / 64) = [] := by rw [heldOf, hspec]
  rw [seenByteOf, seenLineOf, hheld]
  split_ifs <;> rfl

theorem ownRead_plain {s : State} {core ts : Nat} (addr n : Nat) (hspec : (s.tset core ts).act.bind (·.spec) = none) :
    ownRead s core ts addr n = s.queuedRead (s.tset core ts).storeq core addr n := by
  simp only [ownRead, seenByteOf_plain _ _ hspec]
  rfl

theorem queuedRead_congr {s t : State} (h : t.scratch = s.scratch) (q : List Queued) (core addr n : Nat) :
    t.queuedRead q core addr n = s.queuedRead q core addr n := by
  simp only [State.queuedRead, State.queuedByte, State.scratchByte, State.scratchLine, h]

/-- A range that the youngest queued write does not cover reads as before it. -/
theorem queuedRead_other (s : State) {q : List Queued} {seq core addr n : Nat} {bs : List (Nat × Byte)} {remote : Bool} {unlock : Option Nat}
    {owner : BitVec 20} (h : ∀ b ∈ bs, b.1 < addr ∨ addr + n ≤ b.1) :
    s.queuedRead (q ++ [⟨seq, .scratch core bs remote unlock, owner⟩]) core addr n = s.queuedRead q core addr n := by
  rw [State.queuedRead, State.queuedRead]
  congr 1
  refine List.map_congr_left fun k hk => overQueued_other _ fun b hb => ?_
  have := List.mem_range.mp hk
  rcases h b hb with hlow | hhigh <;> omega

/-- A number in the bytes of the youngest queued write. -/
theorem queuedRead_written (s : State) {q : List Queued} {seq core addr off n w : Nat} {bs : List Byte} {remote : Bool} {unlock : Option Nat}
    {owner : BitVec 20} (h : holdsNat bs off n w) :
    s.queuedRead (q ++ [⟨seq, .scratch core (bytesFrom addr bs) remote unlock, owner⟩]) core (addr + off) n = w % 2 ^ (8 * n) :=
  natOfBytes_written h _

theorem seenRead_plain {s : State} (addr n : Nat) (hspec : s.mySpec = none) : seenRead s s.curCore addr n = s.scratchRead s.curCore addr n := by
  simp only [seenRead, seenReadOf, seenByteOf_plain (s := s) (core := s.curCore) (ts := s.curTs) _ _ hspec]
  rfl

/-! ## The snapshot restored (R181) -/

/-- From `t` to `u` only g, p and c registers with their marks and parity change. -/
def RegsChange (t u : TSet) : Prop := u = { t with g := u.g, p := u.p, c := u.c, gMark := u.gMark, gPar := u.gPar }

theorem RegsChange.trans {t u v : TSet} (h : RegsChange t u) (h' : RegsChange u v) : RegsChange t v :=
  Eq.trans h' (by rw [h])

theorem RegsChange.foldl {f : TSet → Nat → TSet} (h : ∀ t k, RegsChange t (f t k)) (l : List Nat) (t : TSet) : RegsChange t (l.foldl f t) :=
  List.foldlRecOn (motive := RegsChange t) _ _ rfl fun u hu k _ => hu.trans (h u k)

theorem RegsChange.writeGRaw (t : TSet) (k : Nat) (w : Word) : RegsChange t (t.writeGRaw k w) := by unfold TSet.writeGRaw; split <;> rfl
theorem RegsChange.writeP (t : TSet) (k : Nat) (w : Word) : RegsChange t (t.writeP k w) := by unfold TSet.writeP; split <;> rfl
theorem RegsChange.writeC (t : TSet) (k : Nat) (w : BitVec 25) : RegsChange t (t.writeC k w) := rfl

theorem restoreFrom_regs (s : State) (core ts cp : Nat) (t : TSet) : RegsChange t (restoreFrom s core ts cp t) :=
  (RegsChange.foldl (fun t _ => .writeGRaw t _ _) _ t).trans ((RegsChange.foldl (fun t _ => .writeP t _ _) _ _).trans
    (RegsChange.foldl (fun t _ => .writeC t _ _) _ _))

/-- What every step of a fold keeps, the fold keeps. -/
theorem foldl_keeps {α β σ : Type} {f : σ → α → σ} (p : σ → β) (h : ∀ t k, p (f t k) = p t) (l : List α) (t : σ) : p (l.foldl f t) = p t :=
  List.foldlRecOn (motive := fun u => p u = p t) _ _ rfl fun u hu k _ => (h u k).trans hu

theorem gRaw_foldl_writeGRaw (w : Nat → Word) (n : Nat) (t : TSet) {k : Nat} (hk : k < n) :
    ((List.range n).foldl (fun (t : TSet) j => t.writeGRaw (j + 1) (w j)) t).gRaw (k + 1) = w k := by
  induction n with
  | zero => exact absurd hk (Nat.not_lt_zero k)
  | succ n ih =>
    rw [List.range_succ, List.foldl_append, List.foldl_cons, List.foldl_nil, TSet.gRaw_writeGRaw]
    rcases Nat.lt_succ_iff_lt_or_eq.mp hk with hlt | rfl
    · rw [if_neg (by omega), ih hlt]
    · rw [if_pos ⟨rfl, by omega⟩]

theorem readP_foldl_writeP (w : Nat → Word) (n : Nat) (t : TSet) {k : Nat} (hk : k < n) :
    ((List.range n).foldl (fun (t : TSet) j => t.writeP (j + 1) (w j)) t).readP (k + 1) = w k := by
  induction n with
  | zero => exact absurd hk (Nat.not_lt_zero k)
  | succ n ih =>
    rw [List.range_succ, List.foldl_append, List.foldl_cons, List.foldl_nil, TSet.readP_writeP]
    rcases Nat.lt_succ_iff_lt_or_eq.mp hk with hlt | rfl
    · rw [if_neg (by omega), ih hlt]
    · rw [if_pos ⟨rfl, by omega⟩]

theorem restoreFrom_gRaw (s : State) (core ts cp : Nat) (t : TSet) {k : Nat} (hk : k < 31) :
    (restoreFrom s core ts cp t).gRaw (k + 1) = BitVec.ofNat 64 (cpWord s core ts cp (8 * k)) := by
  have hp : ∀ (t : TSet) (j : Nat) (w : Word), (t.writeP j w).gRaw (k + 1) = t.gRaw (k + 1) := fun t j w => by rw [TSet.gRaw, TSet.writeP_g]; rfl
  have hcursors := foldl_keeps (f := fun (t : TSet) j => t.writeC j (BitVec.ofNat 25 (ownRead s core ts (cp + 0x130 + 4 * j) 4))) (·.gRaw (k + 1)) fun _ _ => rfl
  have hpreds := foldl_keeps (f := fun (t : TSet) j => t.writeP (j + 1) (BitVec.ofNat 64 (cpWord s core ts cp (0xF8 + 8 * j)))) (·.gRaw (k + 1)) fun t _ => hp t _ _
  exact (hcursors _ _).trans ((hpreds _ _).trans (gRaw_foldl_writeGRaw _ 31 t hk))

theorem restoreFrom_readP (s : State) (core ts cp : Nat) (t : TSet) {k : Nat} (hk : k < 7) :
    (restoreFrom s core ts cp t).readP (k + 1) = BitVec.ofNat 64 (cpWord s core ts cp (0xF8 + 8 * k)) := by
  have hcursors := foldl_keeps (f := fun (t : TSet) j => t.writeC j (BitVec.ofNat 25 (ownRead s core ts (cp + 0x130 + 4 * j) 4))) (·.readP (k + 1)) fun _ _ => rfl
  exact (hcursors _ _).trans (readP_foldl_writeP _ 7 _ hk)

end Sys2Proof.Machine

end

/-! # `FAIL` (R60, R181, R182) -/
section

namespace Sys2Proof.Machine

/-! ## What stands at its begin -/

theorem ownRead_congr {s t : State} {core ts : Nat} (hscratch : t.scratch = s.scratch) (hqueue : (t.tset core ts).storeq = (s.tset core ts).storeq)
    (ht : (t.tset core ts).act.bind (·.spec) = none) (hs : (s.tset core ts).act.bind (·.spec) = none) : ownRead t core ts = ownRead s core ts := by
  funext addr n
  rw [ownRead_plain _ _ ht, ownRead_plain _ _ hs, hqueue, queuedRead_congr hscratch]

theorem begin_ownRead {s : State} (hspec : s.mySpec = none) : ownRead (begin s) s.curCore s.curTs = ownRead s s.curCore s.curTs :=
  ownRead_congr rfl (begin_me_storeq s) ((begin_mySpec s).trans hspec) hspec

theorem begin_snapshotBusy (s : State) : snapshotBusy (begin s).me = snapshotBusy s.me := by rw [begin_me]; rfl
theorem begin_queuedIn (s : State) (core from_ to_ : Nat) : queuedIn (begin s).me core from_ to_ = queuedIn s.me core from_ to_ := by rw [begin_me]; rfl

/-! ## Writes that a thread set makes (R60) -/

theorem queueWrites_two (s : State) (core ts : Nat) (w w' : QWrite) :
    queueWrites s core ts [w, w'] = queueWrites (queueWrites s core ts [w]) core ts [w'] := rfl

theorem queueWrites_tset (s : State) (core ts : Nat) (w : QWrite) : (queueWrites s core ts [w]).tset core ts =
    { s.tset core ts with storeq := (s.tset core ts).storeq ++ [⟨s.uid, w, (s.tset core ts).owner⟩] } := by
  change (s.fresh.2.modTset core ts _).tset core ts = _
  rw [State.tset_modTset_self]
  rfl

/-- The count of a choice point's entries taken, stepped. -/
def nextWrite (core cp next : Nat) : QWrite := .scratch core (bytesFrom (cp + 0x158) (bytesOf 4 (next + 1))) false none

theorem nextWrite_bounds {cp next : Nat} {b : Nat × Byte} (h : b ∈ bytesFrom (cp + 0x158) (bytesOf 4 (next + 1))) : cp + 0x158 ≤ b.1 ∧ b.1 < cp + 0x15C := by
  have hb := bytesFrom_bounds h
  rw [bytesOf_length] at hb
  omega

section Next
variable {s : State} {core ts : Nat} (cp next : Nat) (hspec : (s.tset core ts).act.bind (·.spec) = none)
include hspec

theorem nextQueued_spec : ((queueWrites s core ts [nextWrite core cp next]).tset core ts).act.bind (·.spec) = none := by
  rw [queueWrites_tset]
  exact hspec

theorem ownRead_nextQueued_other {addr n : Nat} (h : addr + n ≤ cp + 0x158 ∨ cp + 0x15C ≤ addr) :
    ownRead (queueWrites s core ts [nextWrite core cp next]) core ts addr n = ownRead s core ts addr n := by
  rw [ownRead_plain _ _ (nextQueued_spec cp next hspec), ownRead_plain _ _ hspec, queueWrites_tset]
  exact queuedRead_other (queueWrites s core ts [nextWrite core cp next]) fun b hb => by
    have := nextWrite_bounds hb
    omega

theorem cpNext_nextQueued (h : next + 1 < 2 ^ 32) : cpNext (queueWrites s core ts [nextWrite core cp next]) core ts cp = next + 1 := by
  rw [cpNext, ownRead_plain _ _ (nextQueued_spec cp next hspec), queueWrites_tset]
  exact (queuedRead_written _ (holdsNat_bytesOf 4 (next + 1))).trans (Nat.mod_eq_of_lt h)

end Next

/-! ## The next alternative (R181) -/

/-- A thread set with its choice stack and its trail cut back. -/
def TSet.cutBack (r : TSet) (cstop top : Nat) : TSet := { r with cstop := BitVec.ofNat 18 cstop, trtop := BitVec.ofNat 18 top }

section CutBack
variable (r : TSet) (cstop top : Nat)

theorem cutBack_cstop : (r.cutBack cstop top).cstop = BitVec.ofNat 18 cstop := rfl
theorem cutBack_trtop : (r.cutBack cstop top).trtop = BitVec.ofNat 18 top := rfl
theorem cutBack_storeq : (r.cutBack cstop top).storeq = r.storeq := rfl
theorem cutBack_act : (r.cutBack cstop top).act = r.act := rfl
theorem cutBack_tlvl : (r.cutBack cstop top).tlvl = r.tlvl := rfl
theorem cutBack_gRaw (i : Nat) : (r.cutBack cstop top).gRaw i = r.gRaw i := rfl
theorem cutBack_readP (i : Nat) : (r.cutBack cstop top).readP i = r.readP i := rfl

end CutBack

section Alternative
variable (w : State) (cp cstop top : Nat) (ea : Word) (x : Xlat)

/-- The snapshot restored, with the two stacks cut back. -/
@[irreducible] def restored : State :=
  w.modMe (fun t => (restoreFrom w w.curCore w.curTs cp t).cutBack cstop top)

theorem restored_me : (restored w cp cstop top).me = (restoreFrom w w.curCore w.curTs cp w.me).cutBack cstop top := by
  rw [restored, State.me_modMe]

theorem restored_curCore : (restored w cp cstop top).curCore = w.curCore := by rw [restored, State.modMe_curCore]
theorem restored_curTs : (restored w cp cstop top).curTs = w.curTs := by rw [restored, State.modMe_curTs]
theorem restored_scratch : (restored w cp cstop top).scratch = w.scratch := by rw [restored, State.modMe_scratch]
theorem restored_uid : (restored w cp cstop top).uid = w.uid := by rw [restored, State.modMe_uid]

theorem restored_tset : (restored w cp cstop top).tset w.curCore w.curTs = (restored w cp cstop top).me := by
  rw [State.me, restored_curCore, restored_curTs]

theorem restored_storeq : (restored w cp cstop top).me.storeq = w.me.storeq := by
  rw [restored_me, cutBack_storeq, restoreFrom_regs w w.curCore w.curTs cp w.me]

theorem restored_act : (restored w cp cstop top).me.act = w.me.act := by
  rw [restored_me, cutBack_act, restoreFrom_regs w w.curCore w.curTs cp w.me]

theorem restored_tlvl : (restored w cp cstop top).me.tlvl = w.me.tlvl := by
  rw [restored_me, cutBack_tlvl, restoreFrom_regs w w.curCore w.curTs cp w.me]

theorem restored_cstop : (restored w cp cstop top).me.cstop = BitVec.ofNat 18 cstop := by rw [restored_me, cutBack_cstop]

theorem restored_trtop : (restored w cp cstop top).me.trtop = BitVec.ofNat 18 top := by rw [restored_me, cutBack_trtop]

theorem restored_gRaw {k : Nat} (hk : k < 31) : (restored w cp cstop top).me.gRaw (k + 1) = BitVec.ofNat 64 (cpWord w w.curCore w.curTs cp (8 * k)) := by
  rw [restored_me, cutBack_gRaw, restoreFrom_gRaw _ _ _ _ _ hk]

theorem restored_readP {k : Nat} (hk : k < 7) :
    (restored w cp cstop top).me.readP (k + 1) = BitVec.ofNat 64 (cpWord w w.curCore w.curTs cp (0xF8 + 8 * k)) := by
  rw [restored_me, cutBack_readP, restoreFrom_readP _ _ _ _ _ hk]

/-- The next entry of the table on its way. -/
@[irreducible] def entryRequested : State :=
  let s := restored w cp cstop top
  pendG (s.used ea 8 rightR false) (cpOd s w.curCore w.curTs cp) true ea (.load ea x 8 false (forwardedTo s (ptrAddr ea) 8))

theorem entryRequested_curCore : (entryRequested w cp cstop top ea x).curCore = w.curCore := by
  rw [entryRequested, pendG_curCore, State.used, State.modMyCore_curCore, restored_curCore]

theorem entryRequested_curTs : (entryRequested w cp cstop top ea x).curTs = w.curTs := by
  rw [entryRequested, pendG_curTs, State.used, State.modMyCore_curTs, restored_curTs]

theorem entryRequested_scratch : (entryRequested w cp cstop top ea x).scratch = w.scratch := by
  rw [entryRequested, pendG_scratch, State.used, State.modMyCore_scratch, restored_scratch]

theorem entryRequested_tset : (entryRequested w cp cstop top ea x).tset w.curCore w.curTs = (entryRequested w cp cstop top ea x).me := by
  rw [State.me, entryRequested_curCore, entryRequested_curTs]

theorem takeAlternative_eq : takeAlternative w cp cstop top ea x =
    (entryRequested w cp cstop top ea x).modMe (fun t => { t with pc := resumeAt (entryRequested w cp cstop top ea x) w.curCore w.curTs cp }) := by
  simp only [takeAlternative, entryRequested, restored, TSet.cutBack, State.modMe_curTs, pendG_curTs, State.used, State.modMyCore_curTs]

/-- The load of an entry of the table. -/
def entryPend : Pend :=
  newPend ((restored w cp cstop top).used ea 8 rightR false) (cpOd (restored w cp cstop top) w.curCore w.curTs cp) true ea
    (.load ea x 8 false (forwardedTo (restored w cp cstop top) (ptrAddr ea) 8))

theorem entryPend_seq : (entryPend w cp cstop top ea x).seq = w.uid := by
  rw [entryPend, newPend, State.used, State.modMyCore_uid, restored_uid]

theorem entryPend_reg : (entryPend w cp cstop top ea x).reg = gIndex w.me.tlvl (cpOd (restored w cp cstop top) w.curCore w.curTs cp) := by
  rw [entryPend, newPend, used_me, restored_tlvl]

theorem entryPend_addr : (entryPend w cp cstop top ea x).addr = ea := rfl

theorem entryRequested_me : (entryRequested w cp cstop top ea x).me =
    { (restored w cp cstop top).me.emptyG (entryPend w cp cstop top ea x).reg with
      pend := (restored w cp cstop top).me.pend ++ [entryPend w cp cstop top ea x] } := by
  rw [entryRequested, pendG_me, used_me]
  rfl

theorem entryRequested_storeq : (entryRequested w cp cstop top ea x).me.storeq = w.me.storeq := by
  rw [entryRequested_me]
  exact (emptyG_storeq _ _).trans (restored_storeq w cp cstop top)

theorem entryRequested_act : (entryRequested w cp cstop top ea x).me.act = w.me.act := by
  rw [entryRequested_me]
  exact (emptyG_act _ _).trans (restored_act w cp cstop top)

variable {w} (hspec : w.mySpec = none)
include hspec

theorem restored_ownRead : ownRead (restored w cp cstop top) w.curCore w.curTs = ownRead w w.curCore w.curTs :=
  ownRead_congr (restored_scratch w cp cstop top) (by rw [restored_tset, restored_storeq]; rfl) (by rw [restored_tset, restored_act]; exact hspec) hspec

theorem entryRequested_ownRead : ownRead (entryRequested w cp cstop top ea x) w.curCore w.curTs = ownRead w w.curCore w.curTs :=
  ownRead_congr (entryRequested_scratch w cp cstop top ea x) (by rw [entryRequested_tset, entryRequested_storeq]; rfl)
    (by rw [entryRequested_tset, entryRequested_act]; exact hspec) hspec

/-- The thread set that has taken an alternative. -/
theorem takeAlternative_me : (takeAlternative w cp cstop top ea x).me =
    { (restored w cp cstop top).me.emptyG (entryPend w cp cstop top ea x).reg with
      pend := (restored w cp cstop top).me.pend ++ [entryPend w cp cstop top ea x], pc := resumeAt w w.curCore w.curTs cp } := by
  have hresume : resumeAt (entryRequested w cp cstop top ea x) w.curCore w.curTs cp = resumeAt w w.curCore w.curTs cp := by
    rw [resumeAt, cpWord, entryRequested_ownRead cp cstop top ea x hspec]
    rfl
  rw [takeAlternative_eq, State.me_modMe, entryRequested_me, hresume]

theorem entryPend_reg_level0 (hlvl : w.me.tlvl = 0) : (entryPend w cp cstop top ea x).reg = cpOd w w.curCore w.curTs cp := by
  rw [entryPend_reg, hlvl, gIndex_level0, cpOd, restored_ownRead cp cstop top hspec]
  rfl

end Alternative

end Sys2Proof.Machine

end

/-! # `FAIL` and the words of a search (R60, R178 to R183) -/
section

namespace Sys2Proof.Machine

/-! ## A `FAIL` that has taken an alternative (R181) -/

/-- A thread set with its registers restored that has asked for an entry, at a pc, and ended its word. -/
def TSet.resumed (r : TSet) (p : Pend) (pc : Word) (readyAt : Nat) (failedAt : Option Nat) : TSet :=
  { ({ r.emptyG p.reg with pend := r.pend ++ [p], pc := pc } : TSet).settled with readyAt := readyAt, failedAt := failedAt }

section Resumed
variable (r : TSet) (p : Pend) (pc : Word) (at_ : Nat) (n : Option Nat)

theorem resumed_pc : (r.resumed p pc at_ n).pc = pc := rfl
theorem resumed_pend : (r.resumed p pc at_ n).pend = r.pend ++ [p] := rfl
theorem resumed_cstop : (r.resumed p pc at_ n).cstop = r.cstop := emptyG_cstop r p.reg
theorem resumed_trtop : (r.resumed p pc at_ n).trtop = r.trtop := emptyG_trtop r p.reg
theorem resumed_storeq : (r.resumed p pc at_ n).storeq = r.storeq := emptyG_storeq r p.reg
theorem resumed_act : (r.resumed p pc at_ n).act = r.act := emptyG_act r p.reg
theorem resumed_gRaw (i : Nat) : (r.resumed p pc at_ n).gRaw i = r.gRaw i := emptyG_gRaw r p.reg i
theorem resumed_readP (i : Nat) : (r.resumed p pc at_ n).readP i = r.readP i := emptyG_readP r p.reg i

end Resumed

section Taken
variable (h : Hints) (w : State) (cp cstop top : Nat) (ea : Word) (x : Xlat)

/-- The state after a `FAIL` with an alternative left, from its writes on. -/
def alternativeTaken : State := finished h (failed (takeAlternative w cp cstop top ea x))

theorem takeAlternative_curCore : (takeAlternative w cp cstop top ea x).curCore = w.curCore := by
  rw [takeAlternative_eq, State.modMe_curCore, entryRequested_curCore]

theorem takeAlternative_curTs : (takeAlternative w cp cstop top ea x).curTs = w.curTs := by
  rw [takeAlternative_eq, State.modMe_curTs, entryRequested_curTs]

theorem alternativeTaken_scratch : (alternativeTaken h w cp cstop top ea x).scratch = w.scratch := by
  rw [alternativeTaken, finished_scratch, failed, State.modMe_scratch, takeAlternative_eq, State.modMe_scratch, entryRequested_scratch]

theorem alternativeTaken_tset : (alternativeTaken h w cp cstop top ea x).tset w.curCore w.curTs = (alternativeTaken h w cp cstop top ea x).me := by
  rw [State.me, alternativeTaken, finished_curCore, finished_curTs, failed, State.modMe_curCore, State.modMe_curTs, takeAlternative_curCore,
    takeAlternative_curTs]

variable {w} (hspec : w.mySpec = none)
include hspec

theorem alternativeTaken_me : ∃ at_ n, (alternativeTaken h w cp cstop top ea x).me =
    (restored w cp cstop top).me.resumed (entryPend w cp cstop top ea x) (resumeAt w w.curCore w.curTs cp) at_ n := by
  obtain ⟨at_, hme⟩ := finished_me_settled h (failed (takeAlternative w cp cstop top ea x))
  rw [failed, State.me_modMe, takeAlternative_me _ _ _ _ _ hspec] at hme
  exact ⟨at_, some ((takeAlternative w cp cstop top ea x).cycle (takeAlternative w cp cstop top ea x).curCore), hme⟩

theorem alternativeTaken_pc : (alternativeTaken h w cp cstop top ea x).me.pc = resumeAt w w.curCore w.curTs cp := by
  obtain ⟨at_, n, hme⟩ := alternativeTaken_me h cp cstop top ea x hspec
  rw [hme, resumed_pc]

theorem alternativeTaken_cstop : (alternativeTaken h w cp cstop top ea x).me.cstop = BitVec.ofNat 18 cstop := by
  obtain ⟨at_, n, hme⟩ := alternativeTaken_me h cp cstop top ea x hspec
  rw [hme, resumed_cstop, restored_cstop]

theorem alternativeTaken_trtop : (alternativeTaken h w cp cstop top ea x).me.trtop = BitVec.ofNat 18 top := by
  obtain ⟨at_, n, hme⟩ := alternativeTaken_me h cp cstop top ea x hspec
  rw [hme, resumed_trtop, restored_trtop]

theorem alternativeTaken_storeq : (alternativeTaken h w cp cstop top ea x).me.storeq = w.me.storeq := by
  obtain ⟨at_, n, hme⟩ := alternativeTaken_me h cp cstop top ea x hspec
  rw [hme, resumed_storeq, restored_storeq]

theorem alternativeTaken_act : (alternativeTaken h w cp cstop top ea x).me.act = w.me.act := by
  obtain ⟨at_, n, hme⟩ := alternativeTaken_me h cp cstop top ea x hspec
  rw [hme, resumed_act, restored_act]

theorem alternativeTaken_pend : entryPend w cp cstop top ea x ∈ (alternativeTaken h w cp cstop top ea x).me.pend := by
  obtain ⟨at_, n, hme⟩ := alternativeTaken_me h cp cstop top ea x hspec
  rw [hme, resumed_pend]
  exact List.mem_append_right _ (List.mem_singleton_self _)

theorem alternativeTaken_gRaw {k : Nat} (hk : k < 31) :
    (alternativeTaken h w cp cstop top ea x).me.gRaw (k + 1) = BitVec.ofNat 64 (cpWord w w.curCore w.curTs cp (8 * k)) := by
  obtain ⟨at_, n, hme⟩ := alternativeTaken_me h cp cstop top ea x hspec
  rw [hme, resumed_gRaw, restored_gRaw _ _ _ _ hk]

theorem alternativeTaken_readP {k : Nat} (hk : k < 7) :
    (alternativeTaken h w cp cstop top ea x).me.readP (k + 1) = BitVec.ofNat 64 (cpWord w w.curCore w.curTs cp (0xF8 + 8 * k)) := by
  obtain ⟨at_, n, hme⟩ := alternativeTaken_me h cp cstop top ea x hspec
  rw [hme, resumed_readP, restored_readP _ _ _ _ hk]

theorem alternativeTaken_ownRead : ownRead (alternativeTaken h w cp cstop top ea x) w.curCore w.curTs = ownRead w w.curCore w.curTs :=
  ownRead_congr (alternativeTaken_scratch h w cp cstop top ea x) (by rw [alternativeTaken_tset, alternativeTaken_storeq _ _ _ _ _ _ hspec]; rfl)
    (by rw [alternativeTaken_tset, alternativeTaken_act _ _ _ _ _ _ hspec]; exact hspec) hspec

end Taken

/-! ## FAIL (R181, R182) -/

/-- The newest choice point, where an alternative is left in it, is what a `FAIL` comes to. -/
theorem failTarget_newest {s : State} {core ts n cstop : Nat} (top : Nat) (hn : n ≠ 0)
    (hleft : cpNext s core ts (cstop - 384) < cpCount s core ts (cstop - 384)) :
    failTarget s core ts n cstop top = (some (cstop - 384), min top (cpTrail s core ts (cstop - 384)), cstop) := by
  obtain ⟨m, rfl⟩ := Nat.exists_eq_succ_of_ne_zero hn
  rw [failTarget]
  exact if_pos hleft

/-- What lets a `FAIL` go on to its choice points. -/
structure FailReady (f : Form) (s : State) (a : Act) : Prop where
  ready : formReady s f none .none = true
  act : s.me.act = some a
  ordinary : a.spec = none
  level : s.me.tlvl = 0
  full : snapshotBusy s.me = false
  landed : queuedIn s.me s.curCore a.choiceBase s.me.cstop.toNat = false

theorem failCheck_ok {α : Type} (s : State) (v : α) : failCheck s (.ok v) = .ok v := rfl

/-- The state in which a `FAIL` with no choice point left ends its search. -/
def searchEnded (s : State) : State :=
  (failed (begin s)).modMe (fun t => { t with cstop := BitVec.ofNat 18 s.me.cstop.toNat, trtop := BitVec.ofNat 18 s.me.trtop.toNat })

theorem searchEnded_act (s : State) : ((searchEnded s).tset s.curCore s.curTs).act = s.me.act := by
  change (searchEnded s).me.act = s.me.act
  rw [searchEnded, State.me_modMe, failed, State.me_modMe]
  exact begin_me_act s

section Fail
variable {f : Form} {s : State} {a : Act} (hfail : FailReady f s a)
include hfail

theorem FailReady.mySpec : s.mySpec = none := by rw [State.mySpec, hfail.act]; exact hfail.ordinary

/-- A `FAIL` with an alternative left, `n` trail entries above what it comes to. -/
theorem exec_fail_alternative {cp top cstop n : Nat} {us : List QWrite} {x : Xlat}
    (htarget : failTarget (begin s) s.curCore s.curTs ((s.me.cstop.toNat - a.choiceBase) / 384) s.me.cstop.toNat s.me.trtop.toNat = (some cp, top, cstop))
    (hn : (s.me.trtop.toNat - top) / 16 = n) (hmay : n = 0 ∨ undoWaits (begin s).me = false ∧ beingCopied (begin s) = false)
    (hundo : checkUndo (begin s) (undoList (seenRead (begin s) s.curCore) n s.me.trtop.toNat none) = .ok us)
    (hok : accessOk (begin s) (BitVec.ofNat 64 (cpWord s s.curCore s.curTs cp 0x150) + BitVec.ofNat 64 (8 * cpNext s s.curCore s.curTs cp)) 8 rightR x)
    (hcredit : needCredit (begin s) = .ok ()) (hqueue : s.me.storeq.length < 16) :
    exec (.fail f) s = .next (alternativeTaken f.hints
      (queueWrites (begin s) s.curCore s.curTs (us ++ [nextWrite s.curCore cp (cpNext s s.curCore s.curTs cp)])) cp cstop top
      (BitVec.ofNat 64 (cpWord s s.curCore s.curTs cp 0x150) + BitVec.ofNat 64 (8 * cpNext s s.curCore s.curTs cp)) x) := by
  have hnext : cpNext (begin s) s.curCore s.curTs cp = cpNext s s.curCore s.curTs cp := by rw [cpNext, begin_ownRead hfail.mySpec]; rfl
  have htable : cpWord (begin s) s.curCore s.curTs cp 0x150 = cpWord s s.curCore s.curTs cp 0x150 := by rw [cpWord, begin_ownRead hfail.mySpec]; rfl
  have hwait : (decide (n ≠ 0) && (undoWaits (begin s).me || beingCopied (begin s))) = false := by
    rcases hmay with rfl | ⟨hw, hc⟩
    · rfl
    · rw [hw, hc, Bool.or_self, Bool.and_false]
  have hroom : ¬ Config.storeEntries ≤ (begin s).me.storeq.length := by rw [begin_me_storeq]; exact Nat.not_le.mpr hqueue
  have hwrites : ∀ ws, failWrites (begin s) (us ++ [ws]) = .ok (queueWrites (begin s) s.curCore s.curTs (us ++ [ws])) := fun ws => by
    rw [failWrites, begin_mySpec, hfail.mySpec, if_neg (by simp), if_neg (by simp), if_neg hroom]
    rfl
  rw [exec_fail, execFail, alternativeTaken, run_ready_ok _ _ _ _ _ _ hfail.ready]
  simp only [failBody, bind, Except.bind, needLevel0, begin_me_tlvl, hfail.level, if_true, begin_me_act, hfail.act, Option.map_some, Option.getD_some,
    begin_snapshotBusy, hfail.full, begin_queuedIn, begin_curCore, begin_me_cstop, hfail.landed, Bool.or_self, Bool.false_eq_true, if_false, cpBytes,
    begin_curTs, begin_me_trtop, htarget, hn, pure, Except.pure]
  simp only [hwait, Bool.false_eq_true, if_false, hundo, failCheck_ok, hnext, htable, checkAccess_ok hok, hcredit, hwrites, nextWrite]

/-- With no choice point left a `FAIL` ends its activation. -/
theorem exec_fail_ends (hn : (s.me.cstop.toNat - a.choiceBase) / 384 = 0) : ∃ t, exec (.fail f) s = .next t ∧ t.me.act = none := by
  have hnone : failTarget (begin s) s.curCore s.curTs 0 s.me.cstop.toNat s.me.trtop.toNat = (none, s.me.trtop.toNat, s.me.cstop.toNat) := rfl
  have hspec : ((searchEnded s).tset s.curCore s.curTs).act.bind (·.spec) = none := by
    rw [searchEnded_act]
    exact hfail.mySpec
  obtain ⟨hends, hidle⟩ := endSearch_ends (searchEnded s) s.curCore s.curTs 0 hspec
  refine ⟨finished f.hints (endSearch (searchEnded s) s.curCore s.curTs 0), ?_, ?_⟩
  · rw [exec_fail, execFail, run_ready_ok _ _ _ _ _ _ hfail.ready]
    simp only [failBody, bind, Except.bind, needLevel0, begin_me_tlvl, hfail.level, if_true, begin_me_act, hfail.act, Option.map_some, Option.getD_some,
      begin_snapshotBusy, hfail.full, begin_queuedIn, begin_curCore, begin_me_cstop, hfail.landed, Bool.or_self, Bool.false_eq_true, if_false, cpBytes,
      begin_curTs, begin_me_trtop, hn, hnone, pure, Except.pure, Nat.sub_self, Nat.zero_div, ne_eq, not_true_eq_false, decide_false, Bool.false_and,
      undoList, checkUndo, failCheck_ok, failWrites, List.isEmpty_nil, searchEnded]
  · rw [finished_me_act, State.me, hends.curCore, hends.curTs]
    exact hidle

end Fail

end Sys2Proof.Machine

end

/-! # The words of a search (R60, R178, R180 to R183, R271) -/
section

namespace Sys2Proof.Machine

/-! ## What a `FAIL` with an alternative left leaves (R181) -/

/-- The newest choice point of the thread set under execution. -/
abbrev newestCp (s : State) : Nat := s.me.cstop.toNat - 384
/-- Its NEXT. -/
abbrev newestNext (s : State) : Nat := cpNext s s.curCore s.curTs (newestCp s)
/-- The trail top at its push. -/
abbrev newestTrail (s : State) : Nat := cpTrail s s.curCore s.curTs (newestCp s)
/-- The address of its next entry. -/
abbrev newestEntry (s : State) : Word := BitVec.ofNat 64 (cpWord s s.curCore s.curTs (newestCp s) 0x150) + BitVec.ofNat 64 (8 * newestNext s)

/-- Nothing keeps a `FAIL` from the alternative that its newest choice point has left. -/
structure Alternative (f : Form) (s : State) (a : Act) (x : Xlat) : Prop extends FailReady f s a where
  nonempty : (s.me.cstop.toNat - a.choiceBase) / 384 ≠ 0
  left : newestNext s < cpCount s s.curCore s.curTs (newestCp s)
  passes : accessOk (begin s) (newestEntry s) 8 rightR x
  credit : needCredit (begin s) = .ok ()
  room : s.me.storeq.length < 16

/-- The bytes that a trail entry of a local write restores (Table 9.7). -/
def undoneWrite (core e : Nat) : QWrite := .scratch core (bytesFrom (e % 2 ^ 18) (bytesOf (2 ^ (e / 2 ^ 24 % 8)) (e / 2 ^ 64))) false none

/-- The state with the writes of a `FAIL` queued: those it undoes, and NEXT stepped. -/
@[irreducible] def failQueued (s : State) (us : List QWrite) : State :=
  queueWrites (begin s) s.curCore s.curTs (us ++ [nextWrite s.curCore (newestCp s) (newestNext s)])

theorem queueWrites_uid (s : State) (core ts : Nat) (w : QWrite) : (queueWrites s core ts [w]).uid = s.uid + 1 := rfl

theorem queueWrites_cur (s : State) (core ts : Nat) (ws : List QWrite) :
    (queueWrites s core ts ws).curCore = s.curCore ∧ (queueWrites s core ts ws).curTs = s.curTs :=
  List.foldlRecOn (motive := fun u : State => u.curCore = s.curCore ∧ u.curTs = s.curTs) _ _ ⟨rfl, rfl⟩ fun _ hu _ _ => hu

theorem queueWrites_scratch (s : State) (core ts : Nat) (ws : List QWrite) : (queueWrites s core ts ws).scratch = s.scratch :=
  List.foldlRecOn (motive := fun u : State => u.scratch = s.scratch) _ _ rfl fun _ hu _ _ => hu

section Queued
variable (s : State) (us : List QWrite)

theorem failQueued_curCore : (failQueued s us).curCore = s.curCore := by
  rw [failQueued]
  exact (queueWrites_cur _ _ _ _).1

theorem failQueued_curTs : (failQueued s us).curTs = s.curTs := by
  rw [failQueued]
  exact (queueWrites_cur _ _ _ _).2

theorem failQueued_scratch : (failQueued s us).scratch = s.scratch := by
  rw [failQueued]
  exact queueWrites_scratch _ _ _ _

theorem failQueued_me : (failQueued s us).me = (failQueued s us).tset s.curCore s.curTs := by rw [State.me, failQueued_curCore, failQueued_curTs]

theorem failQueued_nil : failQueued s [] = queueWrites (begin s) s.curCore s.curTs [nextWrite s.curCore (newestCp s) (newestNext s)] := by
  rw [failQueued, List.nil_append]

theorem failQueued_one (u : QWrite) : failQueued s [u] =
    queueWrites (queueWrites (begin s) s.curCore s.curTs [u]) s.curCore s.curTs [nextWrite s.curCore (newestCp s) (newestNext s)] := by
  rw [failQueued, List.singleton_append, queueWrites_two]

end Queued

/-- The state after a `FAIL` with an alternative left that undoes some writes down to a trail top. -/
def failTaken (f : Form) (s : State) (us : List QWrite) (top : Nat) (x : Xlat) : State :=
  alternativeTaken f.hints (failQueued s us) (newestCp s) s.me.cstop.toNat top (newestEntry s) x

section Alternative
variable {f : Form} {s : State} {a : Act} {x : Xlat} (h : Alternative f s a x)
include h

theorem Alternative.target : failTarget (begin s) s.curCore s.curTs ((s.me.cstop.toNat - a.choiceBase) / 384) s.me.cstop.toNat s.me.trtop.toNat =
    (some (newestCp s), min s.me.trtop.toNat (newestTrail s), s.me.cstop.toNat) := by
  have hread := begin_ownRead h.mySpec
  have hleft : cpNext (begin s) s.curCore s.curTs (newestCp s) < cpCount (begin s) s.curCore s.curTs (newestCp s) := by
    rw [cpNext, cpCount, hread]
    exact h.left
  have htrail : cpTrail (begin s) s.curCore s.curTs (newestCp s) = newestTrail s := by
    rw [cpTrail, hread]
    rfl
  rw [failTarget_newest _ h.nonempty hleft, htrail]

theorem Alternative.beginSpec : ((begin s).tset s.curCore s.curTs).act.bind (·.spec) = none := (begin_mySpec s).trans h.mySpec

/-- NEXT does not overflow its 32 bits: it is below a COUNT of 32 bits. -/
theorem Alternative.next_lt : newestNext s + 1 < 2 ^ 32 := by
  have hcount : cpCount s s.curCore s.curTs (newestCp s) < 2 ^ (8 * 4) := by
    simpa [cpCount, ownRead] using natOfBytes_lt ((List.range 4).map fun k => overQueued (s.tset s.curCore s.curTs).storeq s.curCore
      (newestCp s + 0x15C + k) (seenByteOf s s.curCore s.curTs s.curCore (newestCp s + 0x15C + k)))
  have := h.left
  omega

/-- With nothing trailed since the push, NEXT is its only write. -/
theorem exec_fail_restores (htrail : s.me.trtop.toNat ≤ newestTrail s) : exec (.fail f) s = .next (failTaken f s [] s.me.trtop.toNat x) := by
  have htarget := h.target
  rw [Nat.min_eq_left htrail] at htarget
  rw [failTaken, failQueued]
  exact exec_fail_alternative h.toFailReady htarget (n := 0) (us := []) (by rw [Nat.sub_self]) (.inl rfl) rfl h.passes h.credit h.room

/-- One local write trailed since the push is undone before it. -/
theorem exec_fail_undoes {e : Nat} (he : s.scratchRead s.curCore (newestTrail s) 16 = e) (htrail : s.me.trtop.toNat = newestTrail s + 16)
    (hlocal : e / 2 ^ 24 % 8 ≤ 3) (hqueue : s.me.storeq = []) (hpend : s.me.pend = []) (hthefts : s.thefts = []) :
    exec (.fail f) s = .next (failTaken f s [undoneWrite s.curCore e] (newestTrail s) x) := by
  have htarget := h.target
  rw [Nat.min_eq_right (by omega)] at htarget
  have hcopied : beingCopied (begin s) = false := by
    have hnone : (begin s).thefts = [] := hthefts
    rw [beingCopied, hnone]
    rfl
  have hwaits : undoWaits (begin s).me = false := by
    rw [undoWaits, begin_me_storeq, begin_me_pend, hqueue, hpend]
    rfl
  have hentry : seenRead (begin s) s.curCore (s.me.trtop.toNat - 16) 16 = e := by
    rw [htrail, Nat.add_sub_cancel, ← he]
    exact seenRead_plain (s := begin s) _ 16 ((begin_mySpec s).trans h.mySpec)
  have hundo : checkUndo (begin s) (undoList (seenRead (begin s) s.curCore) 1 s.me.trtop.toNat none) = .ok [undoneWrite s.curCore e] := by
    simp only [undoList, hentry, hlocal, if_true, checkUndo]
    rfl
  rw [failTaken, failQueued]
  exact exec_fail_alternative h.toFailReady htarget (n := 1) (us := [undoneWrite s.curCore e]) (by omega) (.inr ⟨hwaits, hcopied⟩) hundo h.passes
    h.credit h.room

omit h in
/-- What a thread set that has taken an alternative reads is what it has queued. -/
theorem failTaken_ownRead {us : List QWrite} (top : Nat) (hspec : (failQueued s us).mySpec = none) :
    ownRead (failTaken f s us top x) s.curCore s.curTs = ownRead (failQueued s us) s.curCore s.curTs := by
  have hread := alternativeTaken_ownRead f.hints (newestCp s) s.me.cstop.toNat top (newestEntry s) x hspec
  rwa [failQueued_curCore, failQueued_curTs] at hread

omit h in
theorem failTaken_trtop {us : List QWrite} (top : Nat) (hspec : (failQueued s us).mySpec = none) :
    (failTaken f s us top x).me.trtop = BitVec.ofNat 18 top :=
  alternativeTaken_trtop f.hints (newestCp s) s.me.cstop.toNat top (newestEntry s) x hspec

/-! ### Nothing trailed -/

theorem failQueued_nil_spec : (failQueued s []).mySpec = none := by
  rw [State.mySpec, failQueued_me, failQueued_nil]
  exact nextQueued_spec _ _ h.beginSpec

/-- Beside NEXT, a choice point reads as before. -/
theorem failQueued_nil_ownRead {off n : Nat} (hoff : off + n ≤ 0x158 ∨ 0x15C ≤ off) :
    ownRead (failQueued s []) s.curCore s.curTs (newestCp s + off) n = ownRead s s.curCore s.curTs (newestCp s + off) n := by
  rw [failQueued_nil, ownRead_nextQueued_other _ _ h.beginSpec (by omega), begin_ownRead h.mySpec]

theorem failQueued_nil_cpWord {off : Nat} (hoff : off + 8 ≤ 0x158 ∨ 0x15C ≤ off) :
    cpWord (failQueued s []) s.curCore s.curTs (newestCp s) off = cpWord s s.curCore s.curTs (newestCp s) off := failQueued_nil_ownRead h hoff

theorem failTaken_next (top : Nat) : cpNext (failTaken f s [] top x) s.curCore s.curTs (newestCp s) = newestNext s + 1 := by
  rw [cpNext, failTaken_ownRead top (failQueued_nil_spec h), ← cpNext, failQueued_nil]
  exact cpNext_nextQueued _ _ h.beginSpec h.next_lt

theorem failTaken_pc (top : Nat) : (failTaken f s [] top x).me.pc = resumeAt s s.curCore s.curTs (newestCp s) := by
  rw [failTaken, alternativeTaken_pc _ _ _ _ _ _ (failQueued_nil_spec h), failQueued_curCore, failQueued_curTs, resumeAt,
    failQueued_nil_cpWord h (.inr (by norm_num))]
  rfl

theorem failTaken_gRaw (top : Nat) {k : Nat} (hk : k < 31) :
    (failTaken f s [] top x).me.gRaw (k + 1) = BitVec.ofNat 64 (cpWord s s.curCore s.curTs (newestCp s) (8 * k)) := by
  rw [failTaken, alternativeTaken_gRaw _ _ _ _ _ _ (failQueued_nil_spec h) hk, failQueued_curCore, failQueued_curTs,
    failQueued_nil_cpWord h (.inl (by omega))]

theorem failTaken_readP (top : Nat) {k : Nat} (hk : k < 7) :
    (failTaken f s [] top x).me.readP (k + 1) = BitVec.ofNat 64 (cpWord s s.curCore s.curTs (newestCp s) (0xF8 + 8 * k)) := by
  rw [failTaken, alternativeTaken_readP _ _ _ _ _ _ (failQueued_nil_spec h) hk, failQueued_curCore, failQueued_curTs,
    failQueued_nil_cpWord h (.inl (by omega))]

theorem failQueued_nil_cpOd : cpOd (failQueued s []) s.curCore s.curTs (newestCp s) = cpOd s s.curCore s.curTs (newestCp s) := by
  rw [cpOd, cpOd, failQueued_nil_ownRead h (.inr (by norm_num))]

/-- The next entry is on its way to OD. -/
theorem failTaken_pend (top : Nat) : ∃ p ∈ (failTaken f s [] top x).me.pend, s.uid ≤ p.seq ∧ p.reg = cpOd s s.curCore s.curTs (newestCp s) ∧
    p.addr = newestEntry s := by
  have hlvl : (failQueued s []).me.tlvl = 0 := by
    rw [failQueued_me, failQueued_nil, queueWrites_tset]
    exact (begin_me_tlvl s).trans h.level
  have hreg := entryPend_reg_level0 (newestCp s) s.me.cstop.toNat top (newestEntry s) x (failQueued_nil_spec h) hlvl
  rw [failQueued_curCore, failQueued_curTs, failQueued_nil_cpOd h] at hreg
  have hseq : s.uid ≤ (entryPend (failQueued s []) (newestCp s) s.me.cstop.toNat top (newestEntry s) x).seq := by
    rw [entryPend_seq, failQueued_nil, queueWrites_uid, begin_uid]
    exact Nat.le_succ s.uid
  exact ⟨_, alternativeTaken_pend f.hints (newestCp s) s.me.cstop.toNat top (newestEntry s) x (failQueued_nil_spec h), hseq, hreg, entryPend_addr _ _ _ _ _ _⟩

/-! ### One local write undone -/

theorem undoneQueued_spec (e : Nat) :
    ((queueWrites (begin s) s.curCore s.curTs [undoneWrite s.curCore e]).tset s.curCore s.curTs).act.bind (·.spec) = none := by
  rw [queueWrites_tset]
  exact h.beginSpec

theorem failQueued_one_spec (e : Nat) : (failQueued s [undoneWrite s.curCore e]).mySpec = none := by
  rw [State.mySpec, failQueued_me, failQueued_one]
  exact nextQueued_spec _ _ (undoneQueued_spec h e)

/-- The bytes of the undone write read as the entry has them, NEXT beside them. -/
theorem failTaken_undone {e : Nat} (top : Nat)
    (hbeside : e % 2 ^ 18 + 2 ^ (e / 2 ^ 24 % 8) ≤ newestCp s + 0x158 ∨ newestCp s + 0x15C ≤ e % 2 ^ 18) :
    ownRead (failTaken f s [undoneWrite s.curCore e] top x) s.curCore s.curTs (e % 2 ^ 18) (2 ^ (e / 2 ^ 24 % 8)) =
      e / 2 ^ 64 % 2 ^ (8 * 2 ^ (e / 2 ^ 24 % 8)) := by
  rw [failTaken_ownRead top (failQueued_one_spec h e), failQueued_one, ownRead_nextQueued_other _ _ (undoneQueued_spec h e) hbeside,
    ownRead_plain _ _ (undoneQueued_spec h e), queueWrites_tset]
  exact queuedRead_written (addr := e % 2 ^ 18) (off := 0) _ (holdsNat_bytesOf _ (e / 2 ^ 64))

end Alternative

end Sys2Proof.Machine

end

/-! # The statement of the words of a search (R60, R178, R180 to R183, R271) -/
section

namespace Sys2Proof.Machine

/-- What a `TRYE` that pushes leaves. -/
theorem searchWords_trye (f : Form) (s : State) (x : Xlat) (hlvl : s.me.tlvl = 0) (hmax : (s.me.value f.ob).toNat ≤ 65535) :
    let t := finished f.hints (tryePushed f (begin s) x)
    let at_ := s.me.cstop.toNat
    ∃ p, t.me.cstop = BitVec.ofNat 18 (at_ + 384) ∧ t.me.pushCount = s.me.pushCount + 1 ∧
      t.scratch = s.scratch ∧ t.me.storeq.length = s.me.storeq.length + 1 ∧
      (∀ k < 31, cpWord t s.curCore s.curTs at_ (8 * k) = (s.me.gRaw (k + 1)).toNat) ∧
      (∀ k < 7, cpWord t s.curCore s.curTs at_ (0xF8 + 8 * k) = (s.me.readP (k + 1)).toNat) ∧
      cpWord t s.curCore s.curTs at_ 0x150 = (s.me.value f.oa).toNat ∧ cpNext t s.curCore s.curTs at_ = 1 ∧
      cpCount t s.curCore s.curTs at_ = (s.me.value f.ob).toNat ∧ cpTrail t s.curCore s.curTs at_ = s.me.trtop.toNat ∧
      cpOd t s.curCore s.curTs at_ = regOf f.od % 32 ∧ cpWord t s.curCore s.curTs at_ 0x168 = (s.me.pc + 12).toNat ∧
      p ∈ t.me.pend ∧ s.uid ≤ p.seq ∧ p.reg = regOf f.od ∧ p.addr = s.me.value f.oa := by
  intro t at_
  have hchoice := tryePushed_choice f (begin s) x
  rw [begin_me_cstop, begin_value, begin_value, begin_me_pc] at hchoice
  obtain ⟨p, hp, hseq, hreg, haddr⟩ := tryePushed_pend f (begin s) x ((begin_me_tlvl s).trans hlvl)
  refine ⟨p, ?_, ?_, finished_scratch _ _, ?_, fun k hk => ?_, fun k hk => ?_, cpWord_queued hchoice (choicePoint_table _ _ _ _ _ _ _), cpNext_queued hchoice,
    cpCount_queued hchoice hmax, ?_, cpOd_queued hchoice, cpWord_queued hchoice (choicePoint_resume _ _ _ _ _ _ _), ?_, hseq, hreg, ?_⟩
  · rw [finished_me_cstop, tryePushed_cstop, begin_me_cstop]
  · rw [finished_me_pushCount, tryePushed_pushCount, begin_me_pushCount]
  · rw [finished_me_storeq, tryePushed_storeq, tryeQueued_me]
    exact (List.length_append ..).trans (by rw [begin_me_storeq]; rfl)
  · exact (cpWord_queued hchoice (choicePoint_g _ _ _ _ _ _ _ hk)).trans (by rw [begin_gRaw])
  · exact (cpWord_queued hchoice (choicePoint_p _ _ _ _ _ _ _ hk)).trans (by rw [begin_readP])
  · exact (cpTrail_queued hchoice).trans (by rw [begin_me_trtop])
  · rwa [finished_me_pend]
  · rw [haddr, begin_value]

/-- Settles O31: `TRYE`, `CUT` and `TRAIL` by what they queue, and `FAIL` by the writes it makes before it restores the snapshot, which leave
every other byte of the choice point as it was read. -/
theorem searchWords : Obligations.SearchWords := by
  unfold Obligations.SearchWords
  refine ⟨fun f s x a hact => ⟨?_, ?_, ?_⟩, fun f s a hready hact hspec hlvl hbusy hqueued => ⟨?_, ?_⟩⟩
  · intro hpow hpreds hguard hregs hlvl hpos hmax hok
    refine ⟨fun hroom hcredit hspec hqueue => ?_, exec_trye_full hact hpow hpreds hguard hregs hlvl hpos hmax hok⟩
    obtain ⟨p, h⟩ := searchWords_trye f s x hlvl hmax
    exact ⟨_, p, exec_trye_pushes hact hpow hpreds hguard hregs hlvl hpos hmax hok hroom hcredit hspec hqueue, h⟩
  · intro hready hlvl hthefts
    refine ⟨_, exec_cut_ready hready hact hlvl hthefts, ?_, ?_, ?_⟩
    · rw [finished_me_cstop, cutDone_me, begin_me_cstop]
    · rw [finished_me_g, cutDone_me, begin_me_g]
    · rw [finished_scratch, cutDone_scratch]
      rfl
  · intro hready hlvl hok hspec hwait hcredit
    refine ⟨exec_trail_closed hready hlvl hok hspec hwait hcredit, exec_trail_full hready hact hlvl hok hspec hwait hcredit,
      fun l hopen hroom _ hthefts hqueue hpend htier hasked hfind hbad hwhole hhold => ?_⟩
    obtain ⟨seq, hme⟩ := trailPushed_me (u := begin s) (ea := s.me.value f.oa) (l := l) ((begin_me_storeq s).trans hqueue)
    have hq : (finished f.hints (trailPushed (begin s) (s.me.value f.oa) l)).me.storeq =
        [⟨seq, .scratch s.curCore (trailBytes s.me.trtop.toNat (trailPair (s.me.value f.oa) l)) false none, (begin s).me.owner⟩] := by
      rw [finished_me_storeq, hme, begin_me_trtop]
      rfl
    refine ⟨_, exec_trail_pushes hready hact hlvl hok hspec hwait hcredit hopen hroom hthefts hqueue hpend htier hasked hfind hbad hwhole hhold, ?_,
      queuedRead_trailAddr hq, queuedRead_trailOld hq⟩
    rw [finished_me_trtop, hme, begin_me_trtop]
  · intro x hn hleft hok hcredit hroom
    have h : Alternative f s a x := ⟨⟨hready, hact, hspec, hlvl, hbusy, hqueued⟩, hn, hleft, hok, hcredit, hroom⟩
    refine ⟨fun htrail => ?_, fun htrail hlocal hqueue hpend hthefts hbeside => ?_⟩
    · have hplain := failQueued_nil_spec h
      refine ⟨_, exec_fail_restores h htrail, failTaken_pc h _, ?_, ?_, ?_, failTaken_next h _, fun k hk => failTaken_gRaw h _ hk,
        fun k hk => failTaken_readP h _ hk, failTaken_pend h _⟩
      · rw [failTaken, alternativeTaken_cstop _ _ _ _ _ _ hplain, BitVec.ofNat_toNat, BitVec.setWidth_eq]
      · rw [failTaken_trtop _ hplain, BitVec.ofNat_toNat, BitVec.setWidth_eq]
      · rw [failTaken, alternativeTaken_scratch, failQueued_scratch]
    · exact ⟨_, exec_fail_undoes h rfl htrail hlocal hqueue hpend hthefts, failTaken_undone h _ hbeside, failTaken_trtop _ (failQueued_one_spec h _)⟩
  · exact fun hn _ => exec_fail_ends ⟨hready, hact, hspec, hlvl, hbusy, hqueued⟩ hn

end Sys2Proof.Machine

end

/-! # A fresh sidecar is sound (R125, R353) -/
section

namespace Sys2Proof.Machine

theorem IssueChange.asideBad {s t : State} (h : IssueChange s t) : t.asideBad = s.asideBad := by rw [h.rest]

/-- A sidecar written at the end of a word leaves the marks. -/
theorem finished_aside_asideBad (h : Hints) (u : State) (written : Bool) (side : List (Nat × Sidecar)) :
    (finished h (if written then { u with aside := side } else u)).asideBad = u.asideBad :=
  (IssueChange.finished h _).asideBad.trans (by cases written <;> rfl)

/-- `VQNT.f32 v1, v2, g3`. -/
def quantiseV2 : Form := ⟨⟨false, 0⟩, ⟨false, false, 0⟩, 0, .v 1 false, .v 2 false, .g 3 false⟩

/-- The sidecar of block 0 of core 0 is marked uncorrectable, and g3 holds a Q with SCE and FRESH. -/
def markedSidecar : State := { State.reset with tsets := [(0, { TSet.reset with g := [(3, 0x180000)] })], asideBad := [(0, true)] }

theorem quantiseV2_ready : lanesReady quantiseV2 markedSidecar false ∧
    qRefused (tyOf quantiseV2) (qword (markedSidecar.me.value quantiseV2.ob)) true = false :=
  ⟨⟨by decide, by decide⟩, by decide⟩

/-- The sidecar written afresh carries the mark no more. -/
theorem quantiseV2_clears_mark : ∃ t, exec (.vqnt quantiseV2) markedSidecar = .next t ∧ t.asideBad = [] := ⟨_, rfl, by decide⟩

/-- Refutes O9: its clause of `VQNT` changes the sidecar alone, but with SCE and FRESH the model also clears the mark of the sidecar that is
written afresh. -/
theorem not_laneReductionsAndConversions : ¬ Obligations.LaneReductionsAndConversions := by
  unfold Obligations.LaneReductionsAndConversions
  rintro ⟨-, hconversions⟩
  obtain ⟨hready, haccepted⟩ := quantiseV2_ready
  obtain ⟨t, hexec, hclear⟩ := quantiseV2_clears_mark
  obtain ⟨-, -, -, -, hquantises, -⟩ := hconversions quantiseV2 markedSidecar
  have hnext := hexec.symm.trans (hquantises hready haccepted)
  injection hnext with hstate
  have hkept : t.asideBad = markedSidecar.asideBad := by
    rw [hstate]
    exact (finished_aside_asideBad _ _ _ _).trans ((IssueChange.lanesEnd _ _ _ _).asideBad.trans (State.modMe_asideBad _ _))
  rw [hclear] at hkept
  exact absurd hkept (by decide)

end Sys2Proof.Machine

end

/-! # The Anvil: what its steps change, and the tile (R191, R192, R195, R269) -/
section

namespace Sys2Proof.Machine

/-! ## Steps beside the Anvils -/

/-- From `s` to `t` the cores and the C buffers stand. -/
structure AnvilSteady (s t : State) : Prop where
  cores : t.cores = s.cores := by rfl
  cbuf : t.cbuf = s.cbuf := by rfl

theorem AnvilSteady.refl (s : State) : AnvilSteady s s := {}

theorem AnvilSteady.trans {s t u : State} (h : AnvilSteady s t) (h' : AnvilSteady t u) : AnvilSteady s u :=
  ⟨h'.cores.trans h.cores, h'.cbuf.trans h.cbuf⟩

theorem AnvilSteady.core {s t : State} (h : AnvilSteady s t) (n : Nat) : t.core n = s.core n := by
  rw [State.core, h.cores]
  rfl

theorem AnvilSteady.foldl {α : Type} {s : State} {l : List α} {f : State → α → State} (h : ∀ u x, AnvilSteady u (f u x)) :
    AnvilSteady s (l.foldl f s) :=
  List.foldlRecOn (motive := AnvilSteady s) _ _ (.refl s) fun u hu x _ => hu.trans (h u x)

theorem HomeChange.anvilSteady {s t : State} (h : HomeChange s t) : AnvilSteady s t := by
  constructor <;> rw [h.rest]

theorem CountsChange.anvilSteady {s t : State} (h : CountsChange s t) : AnvilSteady s t := by
  constructor <;> rw [h.rest]

theorem CacheChange.anvilSteady {s t : State} (h : CacheChange s t) : AnvilSteady s t := by
  constructor <;> rw [h.rest]

theorem AnvilSteady.noteFor (s : State) (core ts : Nat) (act : Option Nat) (bits : BitVec 4) (code : Nat) :
    AnvilSteady s (noteFor s core ts act bits code) := by
  unfold Machine.noteFor
  split_ifs
  · exact {}
  · exact .refl s

theorem AnvilSteady.graphEnded (s : State) (g : Option (Nat × Nat × Nat)) (ctx : BitVec 12) (result : Nat × Nat × Nat × Nat) :
    AnvilSteady s (graphEnded s g ctx result) := by
  unfold Machine.graphEnded
  split
  · exact .refl s
  · exact {}

theorem AnvilSteady.noteTile (s : State) (core : Nat) (c : AnvilCmd) (ceil err : Bool) : AnvilSteady s (noteTile s core c ceil err) := by
  have hnoted : ∀ f : TSet → TSet, AnvilSteady s (if c.act.isSome && (s.tset core c.ts).act.map (·.uid) == c.act then s.modTset core c.ts f else s) := by
    intro f
    split_ifs
    · exact {}
    · exact .refl s
  have hceil : ∀ u, AnvilSteady u (if ceil then countAt u core 0x1003 1 else u) := by
    intro u
    split_ifs
    · exact (CountsChange.countAt u core _ _).anvilSteady
    · exact .refl u
  exact (hnoted _).trans ((HomeChange.raiseCounter _ _ _ _ _ _).anvilSteady.trans ((hceil _).trans {}))

/-! ## The queue of an Anvil (R191) -/

/-- A core's first command replaced. -/
theorem modHead_anvil {s : State} {core : Nat} {c : AnvilCmd} {rest : List AnvilCmd} (f : AnvilCmd → AnvilCmd)
    (h : (s.core core).anvil = c :: rest) : ((modHead s core f).core core).anvil = f c :: rest := by
  rw [modHead, State.core_modCore_self, h]
  rfl

theorem modHead_anvil_ne {s : State} {core other : Nat} (f : AnvilCmd → AnvilCmd) (h : other ≠ core) :
    ((modHead s core f).core other).anvil = (s.core other).anvil := by
  rw [modHead, State.core_modCore_ne s _ h]

/-- The state without a command in a core's queue. -/
def anvilLeft (s : State) (core : Nat) (c : AnvilCmd) : State :=
  s.modCore core (fun k => { k with anvil := k.anvil.filter (fun a => a.id != c.id) })

theorem leaveAnvil_steady (s : State) (core : Nat) (c : AnvilCmd) (code : Nat) : AnvilSteady (anvilLeft s core c) (leaveAnvil s core c code) :=
  (CountsChange.countAt _ core _ _).anvilSteady.trans (.graphEnded _ _ _ _)

/-- No command of a core's queue has the number of `c`. -/
def AnvilGone (t : State) (core : Nat) (c : AnvilCmd) : Prop := ∀ a ∈ (t.core core).anvil, a.id ≠ c.id

theorem AnvilSteady.gone {s t : State} {core : Nat} {c : AnvilCmd} (h : AnvilSteady s t) (hgone : AnvilGone s core c) : AnvilGone t core c := by
  rwa [AnvilGone, h.core]

theorem anvilLeft_gone (s : State) (core : Nat) (c : AnvilCmd) : AnvilGone (anvilLeft s core c) core c := by
  intro a ha
  rw [anvilLeft, State.core_modCore_self] at ha
  simpa using (List.mem_filter.mp ha).2

theorem leaveAnvil_gone (s : State) (core : Nat) (c : AnvilCmd) (code : Nat) : AnvilGone (leaveAnvil s core c code) core c :=
  (leaveAnvil_steady s core c code).gone (anvilLeft_gone s core c)

theorem leaveAnvil_cbuf (s : State) (core : Nat) (c : AnvilCmd) (code : Nat) : (leaveAnvil s core c code).cbuf = s.cbuf :=
  (leaveAnvil_steady s core c code).cbuf

/-- A tile is read from the C buffers alone. -/
theorem cLine_congr {s t : State} (h : t.cbuf = s.cbuf) (core tile l : Nat) : t.cLine core tile l = s.cLine core tile l := by
  rw [State.cLine, h]
  rfl

/-! ## A tile written all at once (R192) -/

/-- Lines written one after another, from line `k` of a tile on. -/
def putLines (core tile k : Nat) (ls : List Line) (s : State) : State :=
  (ls.zipIdx k).foldl (fun s p => s.putLine 2 core (tile * 64 + p.2) p.1) s

theorem writeTile_eq (s : State) (core tile : Nat) (ls : List Line) : writeTile s core tile ls = putLines core tile 0 ls s := rfl

theorem putLines_cons (core tile k : Nat) (x : Line) (ls : List Line) (s : State) :
    putLines core tile k (x :: ls) s = putLines core tile (k + 1) ls (s.putLine 2 core (tile * 64 + k) x) := rfl

theorem cLine_putLine_self (s : State) (core tile k : Nat) (v : Line) : (s.putLine 2 core (tile * 64 + k) v).cLine core tile k = v := by
  rw [State.cLine, Nat.add_assoc]
  exact mget_mset_self 0 s.cbuf _ v

theorem cLine_putLine_ne (s : State) {core tile k tile' l : Nat} (v : Line) (h : tile' * 64 + l ≠ tile * 64 + k) :
    (s.putLine 2 core (tile * 64 + k) v).cLine core tile' l = s.cLine core tile' l :=
  mget_mset_ne 0 s.cbuf v (by omega)

/-- A line beside those written is kept. -/
theorem cLine_putLines_beside {core tile tile' l k : Nat} {ls : List Line} (s : State)
    (h : ∀ i, k ≤ i → i < k + ls.length → tile' * 64 + l ≠ tile * 64 + i) : (putLines core tile k ls s).cLine core tile' l = s.cLine core tile' l := by
  induction ls generalizing k s with
  | nil => rfl
  | cons x ls ih =>
    rw [List.length_cons] at h
    rw [putLines_cons, ih _ fun i hi hn => h i (by omega) (by omega), cLine_putLine_ne s x (h k le_rfl (by omega))]

theorem cLine_putLines {core tile k i : Nat} {ls : List Line} (s : State) {x : Line} (h : ls[i]? = some x) :
    (putLines core tile k ls s).cLine core tile (k + i) = x := by
  induction ls generalizing k i s with
  | nil => simp at h
  | cons y ls ih =>
    rw [putLines_cons]
    cases i with
    | zero =>
      obtain rfl : y = x := by simpa using h
      exact (cLine_putLines_beside _ fun i hi _ => by omega).trans (cLine_putLine_self s core tile k y)
    | succ i =>
      rw [show k + (i + 1) = k + 1 + i by omega]
      exact ih _ (by simpa using h)

theorem cLine_writeTile (s : State) {core tile l : Nat} {ls : List Line} {x : Line} (h : ls[l]? = some x) :
    (writeTile s core tile ls).cLine core tile l = x := by
  rw [writeTile_eq, ← Nat.zero_add l]
  exact cLine_putLines s h

/-- The other tiles are kept. -/
theorem cLine_writeTile_other (s : State) {core tile j l : Nat} {ls : List Line} (hls : ls.length ≤ 64) (hj : j ≠ tile) (hl : l < 64) :
    (writeTile s core tile ls).cLine core j l = s.cLine core j l := by
  rw [writeTile_eq]
  exact cLine_putLines_beside s fun i _ hi => by omega

/-- The lines of packed elements, one after another. -/
theorem linesOf_getElem? {w n l : Nat} (xs : List Nat) (h : l < n) :
    (linesOf w xs n)[l]? = some (packLanes w ((xs.drop (512 / w * l)).take (512 / w))) := by
  induction n generalizing xs l with
  | zero => omega
  | succ n ih =>
    cases l with
    | zero => simp [linesOf]
    | succ l =>
      rw [linesOf, List.getElem?_cons_succ, ih _ (by omega), List.drop_drop, Nat.mul_succ, Nat.add_comm]

/-! ## The start of the first command (R192, R195) -/

theorem isCompute_of_lt {core : Nat} (h : core < 1024) : isCompute core = true := decide_eq_true h

/-- A command at its start: the narrow evaluation, at the rung of its format. -/
def AnvilCmd.started (c : AnvilCmd) (s : State) : AnvilCmd :=
  { c with phase := .evaluating, startAt := s.periods, rung := (rungOf c.afmt.toNat).getD 0 }

theorem readX_y (s : State) (c : AnvilCmd) : (readX s c).y = c.y := rfl

section First
variable {s : State} {core : Nat} {c : AnvilCmd} {rest : List AnvilCmd} (hq : (s.core core).anvil = c :: rest)
include hq

theorem exec_anvilStart_cclr (hcore : core < 1024) (hphase : c.phase = .queued) (hop : c.op = .cclr) :
    exec (.anvilStart core) s = .next (leaveAnvil (writeTile s core c.tile (copies 64 0)) core c 0) := by
  rw [exec_anvilStart, execAnvilStart, hq]
  simp [isCompute_of_lt hcore, hphase, hop]

theorem exec_anvilStart_local (hcore : core < 1024) (hphase : c.phase = .queued) (hop : c.op ≠ .cclr) (hx : c.x.remote = false)
    (hy : c.y.remote = false) : exec (.anvilStart core) s = .next (modHead s core fun _ => readY s (readX s (c.started s))) := by
  rw [exec_anvilStart, execAnvilStart, hq]
  simp only [isCompute_of_lt hcore, hphase, hop, hx, hy, readX_y, Bool.not_true, ne_eq, not_true_eq_false, decide_false, Bool.or_self,
    Bool.false_eq_true, if_false]
  rfl

/-- `CCLR` clears its tile, and no other, and leaves. -/
theorem anvilStart_clears (hcore : core < 1024) (hphase : c.phase = .queued) (hop : c.op = .cclr) :
    ∃ t, exec (.anvilStart core) s = .next t ∧ AnvilGone t core c ∧ (∀ l < 64, t.cLine core c.tile l = 0) ∧
      ∀ j < 16, j ≠ c.tile → ∀ l < 64, t.cLine core j l = s.cLine core j l := by
  have hcbuf := leaveAnvil_cbuf (writeTile s core c.tile (copies 64 0)) core c 0
  refine ⟨_, exec_anvilStart_cclr hq hcore hphase hop, leaveAnvil_gone _ core c 0, fun l hl => ?_, fun j _ hj l hl => ?_⟩
  · rw [cLine_congr hcbuf]
    exact cLine_writeTile s (by rw [copies, List.getElem?_replicate, if_pos hl])
  · rw [cLine_congr hcbuf, cLine_writeTile_other s (by simp [copies]) hj hl]

end First

end Sys2Proof.Machine

end

/-! # The end of an evaluation (R87, R88, R192, R265, R266) -/
section

namespace Sys2Proof.Machine

/-! ## How an evaluation ends -/

/-- Without a rotation the tile is written, the status is noted, and the command leaves. -/
theorem endTile_some {s : State} {core : Nat} {c : AnvilCmd} (xs : List Nat) (bits : BitVec 4) (code : Nat) (hrot : c.rotates = false) :
    endTile s core c (some xs) bits code =
      leaveAnvil (noteFor (writeTile s core c.tile (linesOf 32 xs 64)) core c.ts c.act bits code) core c code := by
  unfold endTile
  simp only [hrot]
  rfl

theorem endTile_none {s : State} {core : Nat} {c : AnvilCmd} (bits : BitVec 4) (code : Nat) (hrot : c.rotates = false) :
    endTile s core c none bits code = leaveAnvil (noteFor s core c.ts c.act bits code) core c code := by
  unfold endTile
  simp only [hrot]
  rfl

/-- A command with the monitors of its narrow evaluation (R265). -/
def AnvilCmd.judged (c : AnvilCmd) (s : State) (core : Nat) : AnvilCmd :=
  { c with can := (evalNarrow s core c).2, sat := sideCounts c (fun x => x.satc.toNat), unf := sideCounts c (fun x => x.unfc.toNat) }

/-- A command squashed, to be replayed one rung wider (R266). -/
def AnvilCmd.squashed (c : AnvilCmd) : AnvilCmd :=
  { c with phase := .fetching, rung := c.rung + 1, nrep := c.nrep + 1, fetched := 0, fsat := 0, funf := 0, xWide := [], yWide := [] }

/-- The first command of a core, whose operands are read and sound, has come to the end of its narrow evaluation. -/
structure NarrowEnd (s : State) (core : Nat) (c : AnvilCmd) (rest : List AnvilCmd) : Prop where
  first : (s.core core).anvil = c :: rest
  phase : c.phase = .evaluating
  xGot : c.xGot = true
  yGot : c.yGot = true
  sound : c.bad = false
  narrow : c.nrep = 0
  tile : ∀ l < 64, s.lineBad 2 core (c.tile * 64 + l) = false

section Evaluation
variable {s : State} {core : Nat} {c : AnvilCmd} {rest : List AnvilCmd} (h : NarrowEnd s core c rest)
include h

theorem NarrowEnd.tileSound : ((List.range 64).any fun k => s.lineBad 2 core (c.tile * 64 + k)) = false := by
  rw [List.any_eq_false]
  intro k hk
  rw [h.tile k (List.mem_range.mp hk)]
  exact Bool.false_ne_true

/-- It is ready to end, no word it reads is uncorrectable, and its evaluation is the narrow one. -/
theorem NarrowEnd.passes : (decide (c.phase ≠ .evaluating) || !c.xGot || !c.yGot) = false ∧
    (c.bad || (!c.ow && (List.range 64).any fun k => s.lineBad 2 core (c.tile * 64 + k))) = false ∧ decide (c.nrep ≠ 0) = false := by
  simp [h.phase, h.xGot, h.yGot, h.sound, h.narrow, h.tileSound]

theorem exec_evaluationEnd_plain (htemper : c.tempered = false) :
    exec (.anvilEvaluationEnd core) s = .next (endTile s core c (some (evalNarrow s core c).1) 0 0) := by
  obtain ⟨hready, hsound, hnarrow⟩ := h.passes
  rw [exec_anvilEvaluationEnd, execAnvilEvaluationEnd, h.first]
  simp only [List.head?_cons, hready, hsound, hnarrow, htemper, Bool.not_false, Bool.false_eq_true, if_true, if_false]

theorem exec_evaluationEnd_squashes (htemper : c.tempered = true) (hcommit : c.tmpol.getLsbD 43 = false)
    (hover : withinBudget (c.judged s core) = false) (hceil : c.rung < (rungOf (fieldN c.tmpol 4 4)).getD 0) :
    exec (.anvilEvaluationEnd core) s = .next (countAt (modHead s core fun _ => (c.judged s core).squashed) core 0x1002 1) := by
  obtain ⟨hready, hsound, hnarrow⟩ := h.passes
  unfold AnvilCmd.judged at hover
  rw [exec_anvilEvaluationEnd, execAnvilEvaluationEnd, h.first]
  simp only [List.head?_cons, hready, hsound, hnarrow, htemper, hcommit, hover, Nat.not_le.mpr hceil, Bool.not_true, Bool.or_self, Bool.false_eq_true,
    if_false]
  rfl

end Evaluation
end Sys2Proof.Machine

end

/-! # The outputs of a narrow evaluation (R84, R87, R88) -/
section

namespace Sys2Proof.Machine

/-! ## Lists laid out in rows -/

/-- Of rows of one length laid end to end, the element at a place of a row. -/
theorem getElem?_flatMap_rows {α β : Type} {f : α → List β} {k n : Nat} (l : List α) (m : Nat) (hk : ∀ x ∈ l, (f x).length = k) (hn : n < k) :
    (l.flatMap f)[k * m + n]? = l[m]?.bind fun x => (f x)[n]? := by
  induction l generalizing m with
  | nil => rfl
  | cons x l ih =>
    have hx : (f x).length = k := hk x List.mem_cons_self
    rw [List.flatMap_cons]
    cases m with
    | zero =>
      rw [List.getElem?_append_left (by omega), Nat.mul_zero, Nat.zero_add]
      rfl
    | succ m =>
      have hpast : k * (m + 1) + n - (f x).length = k * m + n := by rw [hx, Nat.mul_succ]; omega
      rw [List.getElem?_append_right (by rw [hx, Nat.mul_succ]; omega), hpast, ih m fun y hy => hk y (List.mem_cons_of_mem x hy)]
      rfl

/-- Of the outputs of all pairs of 32 rows and 32 columns, the one at row `m` and column `n`. -/
theorem getElem?_outputs {α β γ : Type} (f : α × Nat → β × Nat → γ) (x : Nat → α) (y : Nat → β) {m n : Nat} (hm : m < 32) (hn : n < 32) :
    (((List.range 32).map x).zipIdx.flatMap fun p => ((List.range 32).map y).zipIdx.map fun q => f p q)[32 * m + n]? = some (f (x m, m) (y n, n)) := by
  rw [getElem?_flatMap_rows _ m (fun p _ => by simp) hn]
  simp [hm, hn]

theorem chunks32_getElem? {α : Type} {n g : Nat} (l : List α) (h : g < n) : (chunks32 n l)[g]? = some ((l.drop (32 * g)).take 32) := by
  induction n generalizing l g with
  | zero => omega
  | succ n ih =>
    cases g with
    | zero => rfl
    | succ g => rw [chunks32, List.getElem?_cons_succ, ih _ (by omega), List.drop_drop, Nat.mul_succ, Nat.add_comm]

/-- An element of a group of 32. -/
theorem group_getElem? {α : Type} {l : List α} {g k : Nat} {v : α} (hk : k < 32) (h : l[32 * g + k]? = some v) : ((l.drop (32 * g)).take 32)[k]? = some v := by
  rw [List.getElem?_take_of_lt hk, List.getElem?_drop, h]

/-! ## The scaled products of a group (R87) -/

/-- The product of two elements under the scales of their groups; a NaN scale makes it a NaN. -/
def scaledProduct (sx sy : Option Int) (u v : FVal) : FVal :=
  match sx, sy with
  | some a, some b => fScale (a + b) (fMul u v)
  | _, _ => .nan

theorem groupProducts_getElem? {xs ys : List FVal} {k : Nat} {u v : FVal} (sx sy : Option Int) (hx : xs[k]? = some u) (hy : ys[k]? = some v) :
    (groupProducts xs ys sx sy)[k]? = some (scaledProduct sx sy u v) := by
  cases sx <;> cases sy <;> simp [groupProducts, scaledProduct, List.getElem?_zipWith, hx, hy]

theorem outputProducts_getElem? {x y : ORow} {g : Nat} {sx sy : Option Int} (hx : x.scales[g]? = some sx) (hy : y.scales[g]? = some sy) :
    (outputProducts x y)[g]? = some (groupProducts ((x.vals.drop (32 * g)).take 32) ((y.vals.drop (32 * g)).take 32) sx sy) := by
  have hg : g < x.scales.length := (List.getElem?_eq_some_iff.mp hx).1
  simp [outputProducts, List.getElem?_zipWith, List.zip, chunks32_getElem? _ hg, hx, hy]

/-- The product of two elements, scaled by the powers of their groups. -/
theorem outputProducts_element {x y : ORow} {g k : Nat} {sx sy : Option Int} {u v : FVal} (hk : k < 32) (hx : x.scales[g]? = some sx)
    (hy : y.scales[g]? = some sy) (hu : x.vals[32 * g + k]? = some u) (hv : y.vals[32 * g + k]? = some v) :
    (((outputProducts x y)[g]?).getD [])[k]? = some (scaledProduct sx sy u v) := by
  rw [outputProducts_getElem? hx hy]
  exact groupProducts_getElem? sx sy (group_getElem? hk hu) (group_getElem? hk hv)

/-! ## The outputs (R87, R88) -/

section Outputs
variable (s : State) (core : Nat) (c : AnvilCmd) {m n : Nat} (hm : m < 32) (hn : n < 32)
include hm hn

theorem evalNarrow_int (hfmt : c.afmt = 6) : ((evalNarrow s core c).1)[32 * m + n]? = some (toBits 32 (outputInt
    (signedOf 32 (((startTile s core c)[32 * m + n]?).getD 0)) ((rowElems 8 c.xLines 0 m).map (signedOf 8))
    ((rowElems 8 c.yLines 0 n).map (signedOf 8)))) := by
  unfold evalNarrow
  simp only [hfmt, if_true]
  rw [getElem?_outputs _ _ _ hm hn]

theorem evalNarrow_float (hfmt : c.afmt ≠ 6) : ((evalNarrow s core c).1)[32 * m + n]? =
    some (outputValue (((startTile s core c)[32 * m + n]?).getD 0) (outputProducts (xRow c m) (yRow c n))) := by
  unfold evalNarrow tileFloat
  simp only [hfmt, if_false]
  rw [List.getElem?_map, getElem?_outputs _ _ _ hm hn, Option.map_some]

end Outputs

/-! ## What an evaluation leaves (R192, R266) -/

section Evaluation
variable {s : State} {core : Nat} {c : AnvilCmd} {rest : List AnvilCmd} (h : NarrowEnd s core c rest)
include h

/-- A tile that is not tempered is written all at once. -/
theorem evaluationEnd_writes (htemper : c.tempered = false) (hrot : c.rotates = false) :
    ∃ t, exec (.anvilEvaluationEnd core) s = .next t ∧ AnvilGone t core c ∧
      ∀ l < 64, t.cLine core c.tile l = packLanes 32 (((evalNarrow s core c).1.drop (16 * l)).take 16) := by
  refine ⟨_, exec_evaluationEnd_plain h htemper, ?_, fun l hl => ?_⟩ <;> rw [endTile_some _ 0 0 hrot]
  · exact leaveAnvil_gone _ core c 0
  · rw [cLine_congr ((leaveAnvil_cbuf _ core c 0).trans (AnvilSteady.noteFor _ core c.ts c.act 0 0).cbuf)]
    exact cLine_writeTile s (linesOf_getElem? _ hl)

/-- A tile over its budget and below its ceiling is as it was, and the command fetches wider operands. -/
theorem evaluationEnd_squashes (htemper : c.tempered = true) (hcommit : c.tmpol.getLsbD 43 = false)
    (hover : withinBudget (c.judged s core) = false) (hceil : c.rung < (rungOf (fieldN c.tmpol 4 4)).getD 0) :
    ∃ t, exec (.anvilEvaluationEnd core) s = .next t ∧ t.cbuf = s.cbuf ∧ (t.core core).anvil = (c.judged s core).squashed :: rest := by
  have hcount := (CountsChange.countAt (modHead s core fun _ => (c.judged s core).squashed) core 0x1002 1).anvilSteady
  exact ⟨_, exec_evaluationEnd_squashes h htemper hcommit hover hceil, hcount.cbuf, by rw [hcount.core]; exact modHead_anvil _ h.first⟩

end Evaluation

end Sys2Proof.Machine

end

/-! # Remote blocks fetched for the Anvils of a cluster (R194) -/
section

namespace Sys2Proof.Machine

/-! ## What the Anvils of a cluster wait for -/

/-- The wait of a core's first command for its Y operand. -/
def AnvilCmd.yWait (c : AnvilCmd) (core : Nat) : BlockWait := ⟨core, true, c.y.core, c.bases true, c.startAt⟩

/-- The waits of the cores of a cluster. -/
def clusterWaits (s : State) (cl : Nat) : List BlockWait := (List.range 16).flatMap fun k => waitsOf s (cl * 16 + k)

/-- The waits served together with that of a command for its Y operand. -/
def servedWaits (s : State) (core : Nat) (c : AnvilCmd) : List BlockWait :=
  linkedWaits (clusterWaits s (clusterOf core)) (clusterWaits s (clusterOf core)).length [c.yWait core]

theorem yBlocks_ne_zero (sparse n8 : Bool) : yBlocks sparse n8 ≠ 0 := by cases sparse <;> cases n8 <;> decide

theorem bases_true_ne_nil (c : AnvilCmd) : c.bases true ≠ [] := by
  simp [AnvilCmd.bases, yBlocks_ne_zero]

theorem yWait_shares_self (c : AnvilCmd) (core : Nat) : (c.yWait core).shares (c.yWait core) = true := by
  obtain ⟨b, hb⟩ := List.exists_mem_of_ne_nil _ (bases_true_ne_nil c)
  simpa [BlockWait.shares, AnvilCmd.yWait] using ⟨b, hb⟩

section Waiting
variable {s : State} {core : Nat} {c : AnvilCmd} {rest : List AnvilCmd} (hq : (s.core core).anvil = c :: rest) (hphase : c.phase = .evaluating)
  (hop : c.op ≠ .cclr) (hy : c.yGot = false)
include hq hphase hop hy

theorem waitsOf_yWait : waitsOf s core = (if c.xGot then [] else [⟨core, false, c.x.core, c.bases false, c.startAt⟩]) ++ [c.yWait core] := by
  simp [waitsOf, hq, hphase, hop, hy, AnvilCmd.yWait]

theorem find_yWait : (waitsOf s core).find? (fun w => w.isY == true) = some (c.yWait core) := by
  rw [waitsOf_yWait hq hphase hop hy]
  cases c.xGot <;> rfl

theorem yWait_mem_clusterWaits : c.yWait core ∈ clusterWaits s (clusterOf core) := by
  have hcore : clusterOf core * 16 + core % 16 = core := Nat.div_add_mod' core 16
  refine List.mem_flatMap.mpr ⟨core % 16, List.mem_range.mpr (Nat.mod_lt _ (by norm_num)), ?_⟩
  rw [hcore, waitsOf_yWait hq hphase hop hy]
  exact List.mem_append_right _ List.mem_cons_self

end Waiting

/-! ## Waits linked through common blocks -/

/-- A linked wait is one of the cluster's, for the same operand. -/
theorem mem_linkedWaits {all ws : List BlockWait} {n : Nat} {y : Bool} {v : BlockWait} (hws : ∀ w ∈ ws, w ∈ all ∧ w.isY = y)
    (hv : v ∈ linkedWaits all n ws) : v ∈ all ∧ v.isY = y := by
  induction n generalizing ws with
  | zero => exact hws v hv
  | succ n ih =>
    refine ih (fun w hw => ?_) hv
    obtain ⟨hall, hshares⟩ := List.mem_filter.mp hw
    obtain ⟨u, hu, hshare⟩ := List.any_eq_true.mp hshares
    simp only [BlockWait.shares, Bool.and_eq_true, beq_iff_eq] at hshare
    exact ⟨hall, by rw [hshare.1.1, (hws u hu).2]⟩

/-- A wait stays linked to itself. -/
theorem linkedWaits_self {all ws : List BlockWait} {w : BlockWait} (n : Nat) (hall : w ∈ all) (hself : w.shares w = true) (hw : w ∈ ws) :
    w ∈ linkedWaits all n ws := by
  induction n generalizing ws with
  | zero => exact hw
  | succ n ih => exact ih (List.mem_filter.mpr ⟨hall, List.any_eq_true.mpr ⟨w, hw, hself⟩⟩)

/-- The windows are over when that of each wait is. -/
theorem windowsOver_of_since {s : State} {ws : List BlockWait} (h : ∀ w ∈ ws, w.since + 32 ≤ s.periods) : windowsOver s ws = true := by
  refine List.all_eq_true.mpr fun w hw => List.all_eq_true.mpr fun b hb => List.any_eq_true.mpr ⟨w, hw, ?_⟩
  simp [hb, h w hw]

/-! ## The fetch -/

/-- Of a command under way, what its Y operand is read by. -/
structure SameY (c a : AnvilCmd) : Prop where
  id : a.id = c.id
  op : a.op = c.op
  y : a.y = c.y
  n8 : a.n8 = c.n8

/-- The Y operand of a command has been read. -/
structure YRead (s : State) (c a : AnvilCmd) : Prop where
  got : a.yGot = true
  lines : a.yLines = bufLines s false c.y.core c.y.base (256 * yBlocks (c.op == .mmas) c.n8)

theorem SameY.readY {c a : AnvilCmd} (h : SameY c a) (s : State) : SameY c (readY s a) ∧ YRead s c (readY s a) := by
  obtain ⟨hid, hop, hy, hn8⟩ := h
  refine ⟨⟨hid, hop, hy, hn8⟩, rfl, ?_⟩
  rw [← hop, ← hy, ← hn8]
  rfl

/-- Y read for the first commands of some cores, one after another. -/
def readAllY (s : State) (ws : List BlockWait) (u : State) : State := ws.foldl (fun t v => modHead t v.core (readY s)) u

/-- A core that is among them has its operand; the commands behind its first stand. -/
theorem readAllY_anvil {s u : State} {core : Nat} {c a : AnvilCmd} {rest : List AnvilCmd} {ws : List BlockWait}
    (hu : (u.core core).anvil = a :: rest) (ha : SameY c a) (hread : (∃ v ∈ ws, v.core = core) ∨ YRead s c a) :
    ∃ b, ((readAllY s ws u).core core).anvil = b :: rest ∧ SameY c b ∧ YRead s c b := by
  induction ws generalizing u a with
  | nil =>
    rcases hread with ⟨v, hv, -⟩ | hread
    · simp at hv
    · exact ⟨a, hu, ha, hread⟩
  | cons v ws ih =>
    by_cases hcore : v.core = core
    · subst hcore
      exact ih (modHead_anvil (readY s) hu) (ha.readY s).1 (.inr (ha.readY s).2)
    · refine ih (u := modHead u v.core (readY s)) ((modHead_anvil_ne (readY s) (Ne.symm hcore)).trans hu) ha (hread.imp_left ?_)
      rintro ⟨w, hw, hwcore⟩
      rcases List.mem_cons.mp hw with rfl | hw
      · exact absurd hwcore hcore
      · exact ⟨w, hw, hwcore⟩

section Waiting
variable {s : State} {core : Nat} {c : AnvilCmd} {rest : List AnvilCmd} (hq : (s.core core).anvil = c :: rest) (hphase : c.phase = .evaluating)
  (hop : c.op ≠ .cclr) (hy : c.yGot = false)
  (hwaits : ∀ k < 16, ∀ v ∈ waitsOf s (clusterOf core * 16 + k), v.isY = true → v.since + 32 ≤ s.periods ∧
    ∀ b ∈ v.bases, blockLanding (s.core v.owner) false b 256 = false)
include hq hphase hop hy hwaits

/-- Every wait that is served has its window over, and no landing is due in its blocks. -/
theorem servedWaits_ready {v : BlockWait} (hv : v ∈ servedWaits s core c) : v.since + 32 ≤ s.periods ∧
    ∀ b ∈ v.bases, blockLanding (s.core v.owner) false b 256 = false := by
  have hmem := yWait_mem_clusterWaits hq hphase hop hy
  obtain ⟨hall, hisY⟩ := mem_linkedWaits (y := true) (fun w hw => by rw [List.mem_singleton.mp hw]; exact ⟨hmem, rfl⟩) hv
  obtain ⟨k, hk, hwait⟩ := List.mem_flatMap.mp hall
  exact hwaits k (List.mem_range.mp hk) v hwait hisY

theorem exec_remoteBlockFetch_y : exec (.remoteBlockFetch core true) s = .next (readAllY s (servedWaits s core c) s) := by
  have hready := fun v => servedWaits_ready (v := v) hq hphase hop hy hwaits
  have hwindows : windowsOver s (servedWaits s core c) = true := windowsOver_of_since fun v hv => (hready v hv).1
  have hlandings : ((servedWaits s core c).any fun v => v.bases.any fun b => blockLanding (s.core v.owner) false b 256) = false := by
    refine List.any_eq_false.mpr fun v hv => ?_
    rw [Bool.not_eq_true]
    exact List.any_eq_false.mpr fun b hb => by rw [(hready v hv).2 b hb]; exact Bool.false_ne_true
  unfold servedWaits clusterWaits at hwindows hlandings
  rw [exec_remoteBlockFetch, execRemoteBlockFetch, find_yWait hq hphase hop hy]
  simp only [hwindows, hlandings, Bool.not_true, Bool.or_self, Bool.false_eq_true, if_false, if_true]
  rfl

theorem remoteBlockFetch_reads : ∃ t, exec (.remoteBlockFetch core true) s = .next t ∧
    ∃ b, (t.core core).anvil = b :: rest ∧ SameY c b ∧ YRead s c b := by
  have hserved : c.yWait core ∈ servedWaits s core c :=
    linkedWaits_self _ (yWait_mem_clusterWaits hq hphase hop hy) (yWait_shares_self c core) List.mem_cons_self
  exact ⟨_, exec_remoteBlockFetch_y hq hphase hop hy hwaits, readAllY_anvil hq ⟨rfl, rfl, rfl, rfl⟩ (.inl ⟨_, hserved, rfl⟩)⟩

end Waiting

end Sys2Proof.Machine

end

/-! # Lines read through a cluster's cache, and replay fetches (R142, R201, R253 to R255, R267, R268) -/
section

namespace Sys2Proof.Machine

/-! ## What a read through a cache changes -/

theorem CacheChange.flushLine (s : State) (c va : Nat) : CacheChange s (flushLine s c va) :=
  (CacheChange.writeBack s c va).trans (.modCluster fun _ => rfl)

theorem CacheChange.countCache (s : State) (c id : Nat) : CacheChange s (countCache s c id) := (CountsChange.countCache s c id).cacheChange

theorem CacheChange.makeRoom (s : State) (c va : Nat) : CacheChange s (makeRoom s c va).2 := by
  unfold Machine.makeRoom
  dsimp only
  split
  · exact .refl s
  · split
    · exact .flushLine s c _
    · exact .refl s

theorem CacheChange.put (s : State) (c : Nat) (l : CacheLine) : CacheChange s (s.modCluster c fun k => k.put l) :=
  .modCluster fun k => k.put_decisions l

theorem CacheChange.fillLine (s : State) (c core va : Nat) (x : Xlat) (byLoad : Bool) : CacheChange s (fillLine s c core va x byLoad).2 := by
  unfold Machine.fillLine
  split
  · next l _ =>
    dsimp only
    refine CacheChange.trans ?_ ((CacheChange.countCache _ c 0x3001).trans (.modCluster fun _ => rfl))
    split_ifs
    · exact .refl s
    · exact .put s c _
  · have hput : ∀ (u : State) (l : CacheLine), CacheChange u (if l.bad = 0 then u.modCluster c (fun k => k.put l) else u) := by
      intro u l
      split_ifs
      · exact .put u c l
      · exact .refl u
    exact (CacheChange.countCache s c 0x3002).trans ((CacheChange.makeRoom _ c va).trans ((CacheChange.homeRequest _ c va _).trans
      ((hput _ _).trans (.modCluster fun _ => rfl))))

theorem CacheChange.loadLine (s : State) (core va : Nat) (x : Xlat) (byCore : Bool) : CacheChange s (loadLine s core va x byCore).2.2 := by
  unfold Machine.loadLine
  dsimp only
  by_cases htier : x.tier = 2
  · rw [if_pos htier]
    exact (CacheChange.flushLine s _ va).trans (.homeRequest _ _ va x)
  · rw [if_neg htier]
    exact .fillLine s _ core va x byCore

theorem CacheChange.loadFor (s : State) (core : Nat) (who : Asker) (va : Nat) (x : Xlat) (byCore : Bool) :
    CacheChange s (loadFor s core who va x byCore).2.2 := by
  unfold Machine.loadFor
  split
  · exact .refl s
  · exact .loadLine s core va x byCore

theorem AnvilSteady.readLines (s : State) (core : Nat) (who : Asker) (ls : List (Nat × Xlat)) : AnvilSteady s (readLines s core who ls).2.2 := by
  have htaken : ∀ u : State, AnvilSteady u (answersTaken u who) := fun _ => {}
  unfold Machine.readLines
  refine AnvilSteady.trans ?_ (htaken _)
  refine List.foldlRecOn (motive := fun r : List Line × Bool × State => AnvilSteady s r.2.2) _ _ (.refl s) fun r hr p _ => hr.trans ?_
  exact (CacheChange.loadFor r.2.2 core who p.1 p.2 false).anvilSteady

/-! ## What the check of a row changes (R201, R324) -/

theorem AnvilSteady.markHolders (s : State) (c : Nat) (bits : BitVec 17) (new : List PlbEntry) : AnvilSteady s (markHolders s c bits new) :=
  .foldl fun u e => by
    dsimp only
    split_ifs <;> exact {}

theorem AnvilSteady.engineCheck (s : State) (c : Nat) (owner : BitVec 20) (ptr : Word) (n : Nat) (need : BitVec 5) :
    AnvilSteady s (engineCheck s c owner ptr n need).2 :=
  AnvilSteady.trans {} (.markHolders _ c 0 _)

/-! ## A replay fetch (R267, R268) -/

/-- The narrow format of a command's rung. -/
def AnvilCmd.rungFmt (c : AnvilCmd) : Storage := if c.rung = 1 then .e4m3 else .bf16

/-- A command with one more row of a replay; with the last the evaluation runs. -/
def AnvilCmd.rowTaken (c : AnvilCmd) (src : Storage) (ls : List Line) (byte0 : Nat) : AnvilCmd :=
  let a := takeRow c (replayRow c c.fetched) src ls byte0
  { a with phase := if decide (a.fetched = 64 * (a.kTotal / perRow c.rungFmt)) then .evaluating else .fetching }

/-- The elements of a row that has been read, brought to the rung, as lines. -/
def AnvilCmd.widened (c : AnvilCmd) (q : ReplayRow) (src : Storage) (ls : List Line) (byte0 : Nat) : List Line :=
  linesOf c.rungFmt.bits (((((elemsOf src.bits ls).drop (byte0 * 8 / src.bits)).take (perRow c.rungFmt)).zipIdx.map fun p =>
    (widen c q src (q.pass * perRow c.rungFmt + p.2) p.1).elem)) 6

/-- A row that is taken lengthens its operand, and nothing else of the command but its counts changes. -/
theorem takeRow_eq (c : AnvilCmd) (q : ReplayRow) (src : Storage) (ls : List Line) (byte0 : Nat) : ∃ sat unf, takeRow c q src ls byte0 =
    { c with fetched := c.fetched + 1, fsat := sat, funf := unf,
             xWide := if q.isX then c.xWide ++ c.widened q src ls byte0 else c.xWide,
             yWide := if q.isX then c.yWide else c.yWide ++ c.widened q src ls byte0 } := by
  unfold takeRow AnvilCmd.widened
  cases q.isX <;> exact ⟨_, _, by simp only [List.map_map]; rfl⟩

theorem rowTaken_eq (c : AnvilCmd) (src : Storage) (ls : List Line) (byte0 : Nat) : ∃ sat unf, c.rowTaken src ls byte0 =
    { c with fetched := c.fetched + 1, fsat := sat, funf := unf,
             phase := if c.fetched + 1 = 64 * (c.kTotal / perRow c.rungFmt) then .evaluating else .fetching,
             xWide := if (replayRow c c.fetched).isX then c.xWide ++ c.widened (replayRow c c.fetched) src ls byte0 else c.xWide,
             yWide := if (replayRow c c.fetched).isX then c.yWide else c.yWide ++ c.widened (replayRow c c.fetched) src ls byte0 } := by
  obtain ⟨sat, unf, h⟩ := takeRow_eq c (replayRow c c.fetched) src ls byte0
  refine ⟨sat, unf, ?_⟩
  rw [AnvilCmd.rowTaken, h]
  simp only [decide_eq_true_eq]
  rfl

/-- The pointer at which a row of a replay is read: 57 bits of address, and the generation and tag of the home. -/
def ReplayRow.ptr (q : ReplayRow) (bytes : Nat) : Word :=
  ((q.side.home + BitVec.ofNat 64 (q.row * q.side.hpitch.toNat + q.first * bytes)) &&& 0x1FFFFFFFFFFFFFF#64) |||
    (q.side.home &&& ~~~0x1FFFFFFFFFFFFFF#64)

theorem replayFails_eq {s : State} {core : Nat} {c : AnvilCmd} (code : Nat) (hrot : c.rotates = false) : replayFails s core c code =
    noteTile (leaveAnvil (noteFor s core c.ts c.act (bitErr ||| bitRpl) code) core c code) core c false true := by
  rw [replayFails, endTile_none _ code hrot]

/-- A replay that fails leaves the queue, and the tile as it was. -/
theorem replayFails_leaves (s : State) {core : Nat} {c : AnvilCmd} (code : Nat) (hrot : c.rotates = false) :
    AnvilGone (replayFails s core c code) core c ∧ (replayFails s core c code).cbuf = s.cbuf := by
  rw [replayFails_eq code hrot]
  have hnoted := AnvilSteady.noteTile (leaveAnvil (noteFor s core c.ts c.act (bitErr ||| bitRpl) code) core c code) core c false true
  exact ⟨hnoted.gone (leaveAnvil_gone _ core c code),
    hnoted.cbuf.trans ((leaveAnvil_cbuf _ core c code).trans (AnvilSteady.noteFor s core c.ts c.act _ code).cbuf)⟩

section Fetching
variable {s : State} {core : Nat} {c : AnvilCmd} {rest : List AnvilCmd} (hq : (s.core core).anvil = c :: rest) (hphase : c.phase = .fetching)
  (hfree : c.fetched ≠ 0 ∨ enginesTaken s (clusterOf core) < 2)
include hq hphase hfree

omit hq in
theorem fetch_ready : (decide (c.phase ≠ .fetching) || (c.fetched == 0 && decide (2 ≤ enginesTaken s (clusterOf core)))) = false := by
  rcases hfree with h | h
  · simp [hphase, h]
  · simp [hphase, Nat.not_le.mpr h]

theorem exec_replayFetch_homeless (hv : (replayRow c c.fetched).side.hv = false) :
    exec (.replayFetch core) s = .next (replayFails s core c 6) := by
  rw [exec_replayFetch, execReplayFetch, hq]
  simp only [List.head?_cons, fetch_ready hphase hfree, hv, Bool.false_eq_true, if_false]

theorem exec_replayFetch_takes {bytes : Nat} {ls : List (Nat × Xlat)} {s1 : State} (hv : (replayRow c c.fetched).side.hv = true)
    (hbytes : homeBytes (replayRow c c.fetched).side.hfmt.toNat = some bytes)
    (hcheck : engineCheck s (cacheOf core) c.owner ((replayRow c c.fetched).ptr bytes) (perRow c.rungFmt * bytes) rightR = (.ok ls, s1))
    (hhere : missingLine s1 (cacheOf core) (.anvil core c.id) ls = none) (hsound : (readLines s1 core (.anvil core c.id) ls).2.1 = false) :
    exec (.replayFetch core) s = .next (modHead (readLines s1 core (.anvil core c.id) ls).2.2 core fun _ =>
      c.rowTaken ((storageOf (replayRow c c.fetched).side.hfmt.toNat).getD .bf16) (readLines s1 core (.anvil core c.id) ls).1
        (ptrAddr ((replayRow c c.fetched).ptr bytes) % 64)) := by
  unfold AnvilCmd.rungFmt ReplayRow.ptr at hcheck
  rw [exec_replayFetch, execReplayFetch, hq]
  simp only [List.head?_cons, fetch_ready hphase hfree, hv, hbytes, hcheck, hhere, hsound, Bool.false_eq_true, if_false]
  rfl

/-- The row that is read joins its operand. -/
theorem replayFetch_takes {bytes : Nat} {ls : List (Nat × Xlat)} {s1 : State} (hv : (replayRow c c.fetched).side.hv = true)
    (hbytes : homeBytes (replayRow c c.fetched).side.hfmt.toNat = some bytes)
    (hcheck : engineCheck s (cacheOf core) c.owner ((replayRow c c.fetched).ptr bytes) (perRow c.rungFmt * bytes) rightR = (.ok ls, s1))
    (hhere : missingLine s1 (cacheOf core) (.anvil core c.id) ls = none) (hsound : (readLines s1 core (.anvil core c.id) ls).2.1 = false) :
    ∃ t, exec (.replayFetch core) s = .next t ∧ t.cbuf = s.cbuf ∧ (t.core core).anvil =
      c.rowTaken ((storageOf (replayRow c c.fetched).side.hfmt.toNat).getD .bf16) (readLines s1 core (.anvil core c.id) ls).1
        (ptrAddr ((replayRow c c.fetched).ptr bytes) % 64) :: rest := by
  have hchecked : AnvilSteady s s1 := by
    have := AnvilSteady.engineCheck s (cacheOf core) c.owner ((replayRow c c.fetched).ptr bytes) (perRow c.rungFmt * bytes) rightR
    rwa [hcheck] at this
  have hread := hchecked.trans (.readLines s1 core (.anvil core c.id) ls)
  exact ⟨_, exec_replayFetch_takes hq hphase hfree hv hbytes hcheck hhere hsound, hread.cbuf, modHead_anvil _ (by rw [hread.core, hq])⟩

end Fetching

end Sys2Proof.Machine

end

/-! # The statement of the Anvil's steps (R87, R88, R191 to R195, R265 to R268) -/
section

namespace Sys2Proof.Machine

/-- Settles O34, step by step of the first command: its start, the end of its narrow evaluation with the outputs of that, and what is fetched for
it. -/
theorem anvilSteps : Obligations.AnvilSteps := by
  unfold Obligations.AnvilSteps
  intro s core c rest hq hcore
  refine ⟨anvilStart_clears hq hcore, fun hphase hop hx hy => ?_, fun hphase hxGot hyGot hsound hnrep htile => ⟨?_, fun htemper hcommit hover hceil => ?_⟩,
    fun hfmt m hm n hn => evalNarrow_int s core c hm hn hfmt, fun hfmt m hm n hn => ⟨evalNarrow_float s core c hm hn hfmt, ?_⟩,
    fun hphase hy hop hwaits => ?_, fun hphase hfree => ⟨fun hv hrot => ?_, fun bytes ls s1 hv hbytes hcheck hhere hread => ?_⟩⟩
  · exact ⟨_, exec_anvilStart_local hq hcore hphase hop hx hy, _, modHead_anvil _ hq, rfl, rfl, rfl, rfl, rfl, rfl, rfl⟩
  · exact evaluationEnd_writes ⟨hq, hphase, hxGot, hyGot, hsound, hnrep, htile⟩
  · obtain ⟨t, hexec, hcbuf, hhead⟩ := evaluationEnd_squashes ⟨hq, hphase, hxGot, hyGot, hsound, hnrep, htile⟩ htemper hcommit hover hceil
    exact ⟨t, hexec, hcbuf, _, hhead, rfl, rfl, rfl, congrArg (· + 1) hnrep, rfl⟩
  · intro g k sx sy u v hk hx hy hu hv
    rw [outputProducts_element hk hx hy hu hv]
    cases sx <;> cases sy <;> rfl
  · obtain ⟨t, hexec, b, hhead, hsame, hread⟩ := remoteBlockFetch_reads hq hphase hop hy hwaits
    exact ⟨t, hexec, b, hhead, hsame.id, hread.got, hread.lines⟩
  · exact ⟨_, exec_replayFetch_homeless hq hphase hfree hv, replayFails_leaves s 6 hrot⟩
  · obtain ⟨t, hexec, hcbuf, hhead⟩ := replayFetch_takes hq hphase hfree hv hbytes hcheck hhere hread
    obtain ⟨sat, unf, htaken⟩ := rowTaken_eq c _ _ _
    rw [htaken] at hhead
    exact ⟨t, hexec, hcbuf, _, hhead, rfl, rfl, rfl, rfl, rfl⟩

end Sys2Proof.Machine

end

/-! # MFS and MTS of the special registers (R4, R50, R94, R105, Tables 3.2 and 6.6) -/
section

namespace Sys2Proof.Machine

/-! ## What an issue leaves of the special registers -/

/-- A special register does not depend on where a thread set is in its issue: its pc, its stall, what it waits for, its next issue. -/
theorem IssueChange.readSpecial {s u : State} (h : IssueChange s u)
    (hme : u.me = { s.me with pc := u.me.pc, stalled := u.me.stalled, wait := u.me.wait, walk := u.me.walk, arrived := u.me.arrived,
                              tried := u.me.tried, readyAt := u.me.readyAt }) (n : Nat) :
    readSpecial u s.curCore s.curTs n = readSpecial s s.curCore s.curTs n := by
  obtain ⟨hrest, -, hcores, hclusters⟩ := h
  have hset : u.tset s.curCore s.curTs = u.me := by rw [State.me, hrest]
  have hcycle : u.cycle s.curCore = s.cycle s.curCore := by
    rw [State.cycle, hclusters, hrest]
    rfl
  have hctx : u.ctxOf s.curCore s.curTs = s.ctxOf s.curCore s.curTs := by
    rw [State.ctxOf, hset, hme, hcores]
    rfl
  have hfix : u.now = s.now ∧ u.contexts = s.contexts ∧ u.pgroot = s.pgroot ∧ u.bupage = s.bupage ∧ u.pwrcap = s.pwrcap := by
    rw [hrest]
    exact ⟨rfl, rfl, rfl, rfl, rfl⟩
  obtain ⟨hnow, hcontexts, hpgroot, hbupage, hpwrcap⟩ := hfix
  unfold Machine.readSpecial hwdog State.context
  rw [hcycle, hctx, hset, hcores, hnow, hcontexts, hpgroot, hbupage, hpwrcap, hme]
  rfl

theorem begin_readSpecial (s : State) (n : Nat) : readSpecial (begin s) s.curCore s.curTs n = readSpecial s s.curCore s.curTs n :=
  (IssueChange.begin s).readSpecial (by rw [begin_me]) n

theorem finished_readSpecial (h : Hints) (s : State) (n : Nat) :
    readSpecial (finished h s) s.curCore s.curTs n = readSpecial s s.curCore s.curTs n := by
  obtain ⟨at_, hme⟩ := finished_me_settled h s
  exact (IssueChange.finished h s).readSpecial (by rw [hme]; rfl) n

/-! ## MFS (R94, R105) -/

/-- The special registers of Table 3.2 that an ordinary `MFS` reads into a g register. -/
def tableRegisters : List Nat :=
  [0x001, 0x002, 0x003, 0x004, 0x005, 0x006, 0x007, 0x008, 0x009, 0x00A, 0x00B, 0x00C, 0x00D, 0x010, 0x011, 0x020, 0x021, 0x022, 0x023, 0x024,
    0x025, 0x030, 0x031, 0x040, 0x041, 0x042, 0x043, 0x044, 0x045, 0x060, 0x061, 0x062, 0x063, 0x064, 0x065, 0x066, 0x067, 0x068, 0x069, 0x070,
    0x080, 0x081, 0x082, 0x083, 0x800, 0x801, 0x802]

/-- The table of values is the model's own read of each register. -/
theorem specialValues_eq (s : State) : specialValues s = tableRegisters.map (fun n => (n, readSpecial s s.curCore s.curTs n)) := rfl

/-- None of them is a register of the bank below, a codebook slot, or past the table. -/
theorem tableRegisters_plain : ∀ n ∈ tableRegisters, isTbg n = false ∧ isCodebook n = false ∧ n ≤ 0x802 := by decide

theorem tbgSrc_other {t : TSet} {o : Operand} (h : isTbg (srOf o) = false) : tbgSrc t o = [] := by
  rw [tbgSrc, h]
  rfl

/-- A ready `MFS` that no check stops writes the register's value: a codebook slot to a v register, any other to a g register. -/
theorem exec_mfs_ready {f : Form} {s : State} (h : formReady s f none .write = true) (hp : srOf f.oa < 0x800 ∨ s.isSystem s.myCtx = true)
    (hx : regsClear s (tbgSrc s.me f.oa) [] = true) (htbg : isTbg (srOf f.oa) = true → s.me.tlvl ≠ 0) (hn : srOf f.oa ≤ 0x802) :
    exec (.mfs f) s = .next (after f.hints s (fun t =>
      if isCodebook (srOf f.oa) then t.writeV (regOf f.od) ((mget 0 s.myCore.cbk (srOf f.oa - 0x028)).setWidth 512)
      else t.writeG (regOf f.od) (readSpecial s s.curCore s.curTs (srOf f.oa)))) := by
  rw [exec_mfs, execMfs]
  refine srRun_ready_ok h (sysPriv_ok hp) hx ?_
  have hlevel : (isTbg (srOf f.oa) && decide (s.me.tlvl = 0)) = false := by
    cases ht : isTbg (srOf f.oa)
    · rfl
    · simpa using htbg ht
  have hknown : ¬ 0x802 < srOf f.oa := by omega
  simp only [begin_me_tlvl, hlevel, hknown, begin_curCore, begin_curTs, begin_readSpecial, Bool.false_eq_true, if_false, bind, Except.bind,
    pure, Except.pure]
  split <;> rfl

/-- `MFS` of a register of the table. -/
theorem exec_mfs_table {f : Form} {s : State} (h : formReady s f none .write = true) (hmem : srOf f.oa ∈ tableRegisters)
    (hp : srOf f.oa < 0x800 ∨ s.isSystem s.myCtx = true) :
    exec (.mfs f) s = givesG f s (readSpecial s s.curCore s.curTs (srOf f.oa)) := by
  obtain ⟨htbg, hbook, hn⟩ := tableRegisters_plain _ hmem
  rw [exec_mfs_ready h hp (by rw [tbgSrc_other htbg]; rfl) (by simp [htbg]) hn, hbook]
  rfl

/-- `MFS` of a codebook slot fills the low half of a v register. -/
theorem exec_mfs_codebook {f : Form} {s : State} {k : Nat} (h : formReady s f none .write = true) (hk : k < 8) (hn : srOf f.oa = 0x028 + k) :
    exec (.mfs f) s = .next (after f.hints s (fun t => t.writeV (regOf f.od) ((mget 0 s.myCore.cbk k).setWidth 512))) := by
  have htbg : isTbg (srOf f.oa) = false := by simp [isTbg]; omega
  have hbook : isCodebook (srOf f.oa) = true := by simp [isCodebook]; omega
  have hslot : srOf f.oa - 0x028 = k := by omega
  rw [exec_mfs_ready h (.inl (by omega)) (by rw [tbgSrc_other htbg]; rfl) (by simp [htbg]) (by omega), hbook, hslot]
  rfl

/-- TBG28 to TBG31 read as the registers of the bank below (R49). -/
theorem readSpecial_tbg (s : State) (core ts : Nat) {k : Nat} (hk : k < 4) :
    readSpecial s core ts (0x06A + k) = (s.tset core ts).gRaw (tbgIndex (s.tset core ts).tlvl k) := by
  interval_cases k <;> rfl

/-- `MFS` of TBG28 to TBG31 above level 0. -/
theorem exec_mfs_tbg {f : Form} {s : State} {k : Nat} (h : formReady s f none .write = true) (hk : k < 4) (hn : srOf f.oa = 0x06A + k)
    (hl : s.me.tlvl ≠ 0) (hx : regsClear s (tbgSrc s.me f.oa) [] = true) :
    exec (.mfs f) s = givesG f s (s.me.gRaw (tbgIndex s.me.tlvl k)) := by
  have hbook : isCodebook (srOf f.oa) = false := by simp [isCodebook]; omega
  rw [exec_mfs_ready h (.inl (by omega)) hx (fun _ => hl) (by omega), hbook, hn, readSpecial_tbg s _ _ hk]
  rfl

/-- Without system privilege `MFS` of a system register traps. -/
theorem exec_mfs_refused {f : Form} {s : State} (hp : s.powered = true) (hn : 0x800 ≤ srOf f.oa) (hs : s.isSystem s.myCtx = false) :
    exec (.mfs f) s = traps s 0x03 (BitVec.ofNat 64 (srOf f.oa)) := by
  rw [exec_mfs, execMfs, sysPriv_refused hn hs]
  exact srRun_refused _ _ hp

/-! ## MTS: its own checks (R50, R105, Table 6.6) -/

/-- The codebook that `MTS` takes from the low half of a v register. -/
def codebookIn (s : State) (f : Form) : BitVec 256 := (s.me.readV (regOf f.oa)).setWidth 256

/-- A ready `MTS` past its privilege check, of a register other than TBG28 to TBG31: a bad value traps, another is stored in the register's scope. -/
theorem exec_mts_ready {f : Form} {s : State} (h : formReady s f none .none = true) (htbg : isTbg (srOf f.od) = false)
    (hp : srOf f.od < 0x100 ∨ obsOpen s s.curCore s.myPartition (srOf f.od) = true) :
    exec (.mts f) s = conclude f.hints s
      (if isCodebook (srOf f.od) && bookHasNaN (codebookIn s f) || valueRefused s.me (srOf f.od) (s.me.value f.oa) then badOperand 2 f.oa
      else .ok (if isCoreScope (srOf f.od) then
          (begin s).modMyCore (fun c => c.writeSpecial (srOf f.od) (s.me.value f.oa) (codebookIn s f))
        else (begin s).modMe (fun t => t.writeSpecial (srOf f.od) (s.me.value f.oa)))) := by
  have hrefused (x : Word) : valueRefused (begin s).me (srOf f.od) x = valueRefused s.me (srOf f.od) x := by
    rw [begin_me]
    rfl
  rw [exec_mts, execMts, srRun_ready _ _ h (obsPriv_ok hp) (by rw [htbg]; rfl)]
  simp only [htbg, Bool.false_and, Bool.false_eq_true, if_false, begin_value, begin_readV, hrefused, codebookIn, bind, Except.bind, pure, Except.pure]
  split_ifs <;> rfl

/-- A refused value traps and names OA. -/
theorem exec_mts_refused {f : Form} {s : State} (h : formReady s f none .none = true) (htbg : isTbg (srOf f.od) = false)
    (hp : srOf f.od < 0x100 ∨ obsOpen s s.curCore s.myPartition (srOf f.od) = true)
    (hv : valueRefused s.me (srOf f.od) (s.me.value f.oa) = true) : exec (.mts f) s = traps s 0x02 (posTval 2 (encodeField f.oa)) := by
  rw [exec_mts_ready h htbg hp, hv, Bool.or_true, if_pos rfl]
  exact conclude_trap _ _ _ _

/-! ## MTS: what the register then reads as (R4, Table 6.6) -/

/-- The bits of the value written that a special register keeps. -/
def keptBits (n : Nat) : Word :=
  match n with
  | 0x020 | 0x021 | 0x022 | 0x023 | 0x024 | 0x025 => 0xF
  | 0x030 => 0x0000FFFF0FFF07FF
  | 0x031 => 0x00000FFFFFFFFFFF
  | 0x040 => 0x3FFFF
  | 0x044 => 1
  | 0x061 => 0x01FF_FFFF_FFFF_FFFC
  | 0x110 => 0x1F
  | _ => BitVec.allOnes 64

/-- The registers of scope core, codebooks apart, that `MTS` writes. -/
def coreRegisters : List Nat := [0x020, 0x021, 0x022, 0x023, 0x024, 0x025, 0x030]

/-- The registers of scope thread set that `MTS` writes. -/
def threadRegisters : List Nat :=
  [0x031, 0x040, 0x041, 0x044, 0x045, 0x061, 0x062, 0x063, 0x064, 0x065, 0x066, 0x067, 0x068, 0x069, 0x110]

theorem coreRegisters_scope : ∀ n ∈ coreRegisters, isCodebook n = false ∧ isCoreScope n = true := by decide
theorem threadRegisters_scope : ∀ n ∈ threadRegisters, isCodebook n = false ∧ isCoreScope n = false := by decide

/-- A word cut to its low bits and extended again is its mask. -/
theorem setWidth_setWidth_eq_and (x : Word) {w : Nat} (hw : w ≤ 64) : (x.setWidth w).setWidth 64 = x &&& BitVec.ofNat 64 (2 ^ w - 1) := by
  have hpow : 2 ^ w ≤ 2 ^ 64 := Nat.pow_le_pow_right (by omega) hw
  have hpos : 0 < 2 ^ w := Nat.two_pow_pos w
  apply BitVec.eq_of_toNat_eq
  rw [BitVec.toNat_and, BitVec.toNat_ofNat, Nat.mod_eq_of_lt (by omega), Nat.and_two_pow_sub_one_eq_mod, BitVec.toNat_setWidth,
    BitVec.toNat_setWidth, Nat.mod_eq_of_lt (by have := Nat.mod_lt x.toNat hpos; omega)]

/-- TVEC keeps an address of the 57-bit space on a boundary of 4 bytes. -/
theorem tvec_kept (x : Word) : (x.setWidth 57 &&& ~~~3#57).setWidth 64 = x &&& 0x01FF_FFFF_FFFF_FFFC := by
  rw [BitVec.setWidth_and, setWidth_setWidth_eq_and x (by omega), BitVec.and_assoc]
  rfl

theorem State.core_modMyCore (s : State) (g : Core → Core) : (s.modMyCore g).core s.curCore = g (s.core s.curCore) :=
  State.core_modCore_self s _ g

/-- A register of scope core reads as the bits it keeps of the value written. -/
theorem readSpecial_writeSpecial_core (s : State) (ts : Nat) (x : Word) (book : BitVec 256) :
    ∀ n ∈ coreRegisters, readSpecial (s.modMyCore (fun c => c.writeSpecial n x book)) s.curCore ts n = x &&& keptBits n := by
  have hfmt : (x.setWidth 4).setWidth 64 = x &&& 0xF := setWidth_setWidth_eq_and x (by omega)
  simp only [coreRegisters, List.forall_mem_cons, readSpecial, State.core_modMyCore]
  exact ⟨hfmt, hfmt, hfmt, hfmt, hfmt, hfmt, rfl, by simp⟩

/-- A register of scope thread set reads as the bits it keeps of the value written. -/
theorem readSpecial_writeSpecial_thread (s : State) (x : Word) :
    ∀ n ∈ threadRegisters, readSpecial (s.modMe (fun t => t.writeSpecial n x)) s.curCore s.curTs n = x &&& keptBits n := by
  have hset (g : TSet → TSet) : (s.modMe g).tset s.curCore s.curTs = g s.me := State.tset_modTset_self s _ _ g
  have hall : x = x &&& BitVec.allOnes 64 := (BitVec.and_allOnes).symm
  simp only [threadRegisters, List.forall_mem_cons, readSpecial, hset]
  exact ⟨rfl, rfl, hall, rfl, hall, tvec_kept x, hall, hall, hall, hall, hall, hall, hall, hall,
    setWidth_setWidth_eq_and x (by omega), by simp⟩

/-- The format fields keep their low 4 bits. -/
theorem formatRegister_kept {n : Nat} (hlo : 0x020 ≤ n) (hhi : n ≤ 0x025) : n ∈ coreRegisters ∧ keptBits n = 0xF := by
  interval_cases n <;> decide

/-- SRCHDONE and the save registers of an exception keep every bit, and take every value. -/
theorem wholeRegister_kept {n : Nat} (hn : n = 0x045 ∨ (0x062 ≤ n ∧ n ≤ 0x069)) :
    n ∈ threadRegisters ∧ keptBits n = BitVec.allOnes 64 ∧ ∀ t x, valueRefused t n x = false := by
  rcases hn with rfl | ⟨hlo, hhi⟩
  · exact ⟨by decide, rfl, fun _ _ => rfl⟩
  · interval_cases n <;> exact ⟨by decide, rfl, fun _ _ => rfl⟩

/-- A value that no check refuses is stored, and the register reads as the bits it keeps. -/
theorem exec_mts_reads {f : Form} {s : State} {n : Nat} (h : formReady s f none .none = true) (htbg : isTbg (srOf f.od) = false)
    (hn : srOf f.od = n) (hmem : n ∈ coreRegisters ∨ n ∈ threadRegisters) (hp : n < 0x100 ∨ obsOpen s s.curCore s.myPartition n = true)
    (hv : valueRefused s.me n (s.me.value f.oa) = false) :
    ∃ t, exec (.mts f) s = .next t ∧ readSpecial t s.curCore s.curTs (srOf f.od) = s.me.value f.oa &&& keptBits n := by
  subst hn
  rw [exec_mts_ready h htbg hp, hv]
  rcases hmem with hmem | hmem
  · obtain ⟨hbook, hscope⟩ := coreRegisters_scope _ hmem
    rw [hbook, hscope]
    exact ⟨_, rfl, (finished_readSpecial f.hints ((begin s).modMyCore _) _).trans (readSpecial_writeSpecial_core (begin s) _ _ _ _ hmem)⟩
  · obtain ⟨hbook, hscope⟩ := threadRegisters_scope _ hmem
    rw [hbook, hscope]
    exact ⟨_, rfl, (finished_readSpecial f.hints ((begin s).modMe _) _).trans (readSpecial_writeSpecial_thread (begin s) _ _ hmem)⟩

/-- A codebook slot holds the codebook written. -/
theorem codebook_writeSpecial (s : State) (x : Word) (book : BitVec 256) {k : Nat} (hk : k < 8) :
    mget 0 ((s.modMyCore (fun c => c.writeSpecial (0x028 + k) x book)).core s.curCore).cbk k = book := by
  have hslot (c : Core) : c.writeSpecial (0x028 + k) x book = { c with cbk := mset 0 c.cbk k book } := by interval_cases k <;> rfl
  rw [State.core_modMyCore, hslot, mget_mset_self]

/-- No word that stands beside a codebook is refused. -/
theorem valueRefused_codebook (t : TSet) (x : Word) {k : Nat} (hk : k < 8) : valueRefused t (0x028 + k) x = false := by
  interval_cases k <;> rfl

/-- `MTS` stores a codebook without a NaN in its slot (R50). -/
theorem exec_mts_codebook {f : Form} {s : State} {k : Nat} (h : formReady s f none .none = true) (htbg : isTbg (srOf f.od) = false) (hk : k < 8)
    (hn : srOf f.od = 0x028 + k) (hbook : bookHasNaN (codebookIn s f) = false) :
    ∃ t, exec (.mts f) s = .next t ∧ mget 0 (t.core s.curCore).cbk k = codebookIn s f := by
  have hscope : isCoreScope (0x028 + k) = true := by simp [isCoreScope]; omega
  rw [exec_mts_ready h htbg (.inl (by omega)), hn, hbook, valueRefused_codebook _ _ hk, Bool.and_false, hscope]
  refine ⟨finished f.hints ((begin s).modMyCore fun c => c.writeSpecial (0x028 + k) (s.me.value f.oa) (codebookIn s f)), rfl, ?_⟩
  rw [(IssueChange.finished _ _).cores]
  exact codebook_writeSpecial (begin s) _ _ hk

/-! ## Values that are taken (Table 6.6) -/

/-- A format field names one of nine formats. -/
theorem valueRefused_format (t : TSet) (x : Word) {n : Nat} (hlo : 0x020 ≤ n) (hhi : n ≤ 0x025) :
    valueRefused t n x = decide (8 < x.toNat % 16) := by
  interval_cases n <;> simp [valueRefused, fieldN]

theorem frameFits_iff (base len : Nat) : frameFits base len = true ↔ len = 0 ∨ base / 65536 = (base + len - 1) / 65536 := by
  simp [frameFits]

/-- A base of the search frame: aligned, below the fourth bank, and the frame of SFLEN lies in one bank. -/
theorem valueRefused_sfbase {t : TSet} {x : Word} (halign : x &&& 7 = 0) (hbank : x.toNat / 65536 % 4 ≠ 3)
    (hfits : t.sflen = 0 ∨ x.toNat % 2 ^ 18 / 65536 = (x.toNat % 2 ^ 18 + t.sflen.toNat - 1) / 65536) : valueRefused t 0x040 x = false := by
  have hlow : fieldN x 0 3 = 0 := by
    have hnat : x.toNat &&& 2 ^ 3 - 1 = 0 := congrArg BitVec.toNat halign
    rwa [Nat.and_two_pow_sub_one_eq_mod, ← Nat.div_one x.toNat] at hnat
  have hframe : frameFits (fieldN x 0 18) t.sflen.toNat = true := by
    rw [frameFits_iff, fieldN, Nat.pow_zero, Nat.div_one]
    exact hfits.imp_left (congrArg BitVec.toNat)
  have hupper : fieldN x 16 2 ≠ 3 := hbank
  simp [valueRefused, hlow, hframe, hupper]

/-- A length of the search frame: at most 4096, whole words, and the frame at SFBASE lies in one bank. -/
theorem valueRefused_sflen {t : TSet} {x : Word} (hmax : x.toNat ≤ 4096) (halign : x.toNat % 8 = 0)
    (hfits : x = 0 ∨ t.sfbase.toNat / 65536 = (t.sfbase.toNat + x.toNat - 1) / 65536) : valueRefused t 0x041 x = false := by
  have hframe : frameFits t.sfbase.toNat x.toNat = true := (frameFits_iff _ _).mpr (hfits.imp_left (congrArg BitVec.toNat))
  simp [valueRefused, halign, hframe, hmax]

theorem valueRefused_dlysel {t : TSet} {x : Word} (hmax : x.toNat ≤ 16) : valueRefused t 0x110 x = false := by
  simp [valueRefused, hmax]

/-- A delay of at most 16 has no bit that DLYSEL drops. -/
theorem dlysel_kept {x : Word} (hmax : x.toNat ≤ 16) : x &&& 0x1F = x := by
  apply BitVec.eq_of_toNat_eq
  rw [BitVec.toNat_and]
  exact (Nat.and_two_pow_sub_one_eq_mod x.toNat 5).trans (Nat.mod_eq_of_lt (by omega))

/-! ## O5 -/

/-- Settles O5, register by register. -/
theorem specialRegisters : Obligations.SpecialRegisters := by
  unfold Obligations.SpecialRegisters
  refine ⟨fun f s h => ⟨fun p hmem hn hp => ?_, fun k hk hn => exec_mfs_codebook h hk hn, fun k hk hn hl hx => exec_mfs_tbg h hk hn hl hx,
    exec_mfs_refused (powered_of_formReady h)⟩, fun f s h htbg => ⟨fun hhi hlo hv => ?_,
    fun hn => exec_mts_reads h htbg hn (.inl (by decide)) (.inl (by omega)) rfl,
    fun hn => exec_mts_reads h htbg hn (.inr (by decide)) (.inl (by omega)) rfl,
    fun hn => exec_mts_reads h htbg hn (.inr (by decide)) (.inl (by omega)) rfl, fun hn => ?_,
    fun hn => exec_mts_reads h htbg hn (.inr (by decide)) (.inl (by omega)) rfl,
    fun hn halign hbank hfits => exec_mts_reads h htbg hn (.inr (by decide)) (.inl (by omega)) (valueRefused_sfbase halign hbank hfits),
    fun hn hmax halign hfits => ?_, fun hn hmax hopen => ?_,
    fun k hk hn => exec_mts_codebook h htbg hk hn, fun hhi hlo hv => ?_⟩⟩
  · rw [specialValues_eq, List.mem_map] at hmem
    obtain ⟨n, hmem, rfl⟩ := hmem
    obtain rfl := hn
    exact exec_mfs_table h hmem hp
  · obtain ⟨hmem, hkept⟩ := formatRegister_kept hlo hhi
    rw [← hkept]
    exact exec_mts_reads h htbg rfl (.inl hmem) (.inl (by omega)) (by rw [valueRefused_format _ _ hlo hhi, decide_eq_false (by omega)])
  · obtain ⟨hmem, hkept, hv⟩ := wholeRegister_kept hn
    simpa only [hkept, BitVec.and_allOnes] using exec_mts_reads h htbg rfl (.inr hmem) (.inl (by omega)) (hv _ _)
  · have hreads := exec_mts_reads h htbg hn (.inr (by decide)) (.inl (by omega)) (valueRefused_sflen hmax halign hfits)
    rwa [show keptBits 0x041 = BitVec.allOnes 64 from rfl, BitVec.and_allOnes] at hreads
  · have hreads := exec_mts_reads h htbg hn (.inr (by decide)) (.inr (hn ▸ hopen)) (valueRefused_dlysel hmax)
    rwa [show keptBits 0x110 = 0x1F from rfl, dlysel_kept hmax] at hreads
  · refine exec_mts_refused h htbg (.inl (by omega)) ?_
    rw [valueRefused_format _ _ hlo hhi, decide_eq_true hv]

end Sys2Proof.Machine

end

/-! # Integers: arithmetic, logic, shifts, counts, bit fields and division (R97, R99 to R102) -/
section

namespace Sys2Proof.Machine

/-! ## Values at a width (R97) -/

theorem widthOf_cases (md : BitVec 3) : md = 1 ∧ widthOf md = 32 ∨ md ≠ 1 ∧ widthOf md = 64 := by
  by_cases h : md = 1
  · exact .inl ⟨h, if_pos h⟩
  · exact .inr ⟨h, if_neg h⟩

theorem widthOf_le (md : BitVec 3) : widthOf md ≤ 64 := by
  have := widthOf_cases md
  omega

theorem wide_eq_signExtend (md : BitVec 3) (x : Word) : wide md x = (x.setWidth (widthOf md)).signExtend 64 := by
  obtain ⟨h, hw⟩ | ⟨h, hw⟩ := widthOf_cases md
  · rw [wide, if_pos h, hw, sextLow]
  · rw [wide, if_neg h, hw, BitVec.signExtend_eq, BitVec.setWidth_eq]

theorem wideU_eq_setWidth (md : BitVec 3) (x : Word) : wideU md x = (x.setWidth (widthOf md)).setWidth 64 := by
  obtain ⟨h, hw⟩ | ⟨h, hw⟩ := widthOf_cases md
  · rw [wideU, if_pos h, hw, zextLow]
  · rw [wideU, if_neg h, hw, BitVec.setWidth_eq, BitVec.setWidth_eq]

/-- Below the width, the value at a width has the bits of the word. -/
theorem getLsbD_wide (md : BitVec 3) (x : Word) {i : Nat} (h : i < widthOf md) : (wide md x).getLsbD i = x.getLsbD i := by
  have h64 : i < 64 := Nat.lt_of_lt_of_le h (widthOf_le md)
  simp only [wide_eq_signExtend, BitVec.getLsbD_signExtend, BitVec.getLsbD_setWidth, h, h64, decide_true, Bool.true_and, if_true]

theorem setWidth_wide (md : BitVec 3) (x : Word) : (wide md x).setWidth (widthOf md) = x.setWidth (widthOf md) := by
  apply BitVec.eq_of_getLsbD_eq
  intro i hi
  simp only [BitVec.getLsbD_setWidth, getLsbD_wide md x hi]

theorem setWidth_wideU (md : BitVec 3) (x : Word) : (wideU md x).setWidth (widthOf md) = x.setWidth (widthOf md) := by
  rw [wideU_eq_setWidth, BitVec.setWidth_setWidth_of_le _ (widthOf_le md), BitVec.setWidth_eq]

/-- Only the low bits of a value matter at a width. -/
theorem wide_congr {md : BitVec 3} {x y : Word} (h : x.setWidth (widthOf md) = y.setWidth (widthOf md)) : wide md x = wide md y := by
  rw [wide_eq_signExtend, wide_eq_signExtend, h]

@[simp] theorem wide_wide (md : BitVec 3) (x : Word) : wide md (wide md x) = wide md x := wide_congr (setWidth_wide md x)

theorem sval_eq_toInt (md : BitVec 3) (x : Word) : sval (widthOf md) x = (wide md x).toInt := by
  rw [wide_eq_signExtend, BitVec.toInt_signExtend_of_le (widthOf_le md), sval]

theorem uval_eq_toNat (md : BitVec 3) (x : Word) : uval (widthOf md) x = (wideU md x).toNat := by
  rw [wideU_eq_setWidth, BitVec.toNat_setWidth_of_le (widthOf_le md), uval]

theorem testBit_uval {w i : Nat} (x : Word) (h : i < w) : (uval w x).testBit i = x.getLsbD i := by
  rw [uval, BitVec.testBit_toNat, BitVec.getLsbD_setWidth, decide_eq_true h, Bool.true_and]

/-- A word whose exact value is known, at a width. -/
theorem narrow_eq_wide (md : BitVec 3) (i : Int) : narrow (widthOf md) i = wide md (BitVec.ofInt 64 i) := by
  have hdvd : ((2 ^ widthOf md : Nat) : Int) ∣ ((2 ^ 64 : Nat) : Int) := Int.natCast_dvd_natCast.mpr (Nat.pow_dvd_pow 2 (widthOf_le md))
  have hset : (BitVec.ofInt 64 i).setWidth (widthOf md) = BitVec.ofInt (widthOf md) i := by
    apply BitVec.eq_of_toInt_eq
    rw [BitVec.toInt_setWidth, BitVec.toNat_ofInt, BitVec.toInt_ofInt, Int.toNat_of_nonneg (Int.emod_nonneg _ (by decide)), Int.bmod_def,
      Int.bmod_def, Int.emod_emod_of_dvd _ hdvd]
  rw [wide_eq_signExtend, hset, narrow]

theorem narrowN_eq_wide (md : BitVec 3) (n : Nat) : narrowN (widthOf md) n = wide md (BitVec.ofNat 64 n) := by
  rw [wide_eq_signExtend, BitVec.setWidth_ofNat_of_le (widthOf_le md), narrowN]

theorem narrowN_toNat (md : BitVec 3) (x : Word) : narrowN (widthOf md) x.toNat = wide md x := by
  rw [narrowN_eq_wide, BitVec.ofNat_toNat, BitVec.setWidth_eq]

theorem narrowN_uval (md : BitVec 3) (x : Word) : narrowN (widthOf md) (uval (widthOf md) x) = wide md x := by
  rw [uval_eq_toNat, narrowN_toNat]
  exact wide_congr (setWidth_wideU md x)

theorem toNat_signExtend_32 (x : BitVec 32) : (x.signExtend 64).toNat = x.toNat + if 2 ^ 31 ≤ x.toNat then 2 ^ 64 - 2 ^ 32 else 0 := by
  rw [BitVec.toNat_signExtend, BitVec.toNat_setWidth_of_le (by decide), BitVec.msb_eq_decide]
  simp only [decide_eq_true_eq]

/-- The order of two values without sign is that of their sign-extensions without sign. -/
theorem ult_wide (md : BitVec 3) (x y : Word) : (wide md x).ult (wide md y) = decide (uval (widthOf md) x < uval (widthOf md) y) := by
  rw [wide_eq_signExtend, wide_eq_signExtend]
  obtain ⟨-, hw⟩ | ⟨-, hw⟩ := widthOf_cases md <;> rw [hw]
  · have hx := (x.setWidth 32).isLt
    have hy := (y.setWidth 32).isLt
    rw [BitVec.ult, decide_eq_decide, toNat_signExtend_32, toNat_signExtend_32, uval, uval]
    split_ifs <;> omega
  · rw [BitVec.signExtend_eq, BitVec.signExtend_eq]
    rfl

/-! ## Arithmetic (R99, Tables 6.1 and 6.2) -/

theorem addW_eq (md : BitVec 3) (a b : Word) : addW (widthOf md) a b = wide md (wide md a + wide md b) := by
  rw [addW, narrow_eq_wide, sval_eq_toInt, sval_eq_toInt, BitVec.ofInt_add, BitVec.ofInt_toInt, BitVec.ofInt_toInt]

theorem subW_eq (md : BitVec 3) (a b : Word) : subW (widthOf md) a b = wide md (wide md a - wide md b) := by
  rw [subW, narrow_eq_wide, sval_eq_toInt, sval_eq_toInt, Int.sub_eq_add_neg, BitVec.ofInt_add, BitVec.ofInt_neg, BitVec.ofInt_toInt,
    BitVec.ofInt_toInt, BitVec.sub_eq_add_neg]

theorem mulW_eq (md : BitVec 3) (a b : Word) : mulW (widthOf md) a b = wide md (wide md a * wide md b) := by
  rw [mulW, narrow_eq_wide, sval_eq_toInt, sval_eq_toInt, BitVec.ofInt_mul, BitVec.ofInt_toInt, BitVec.ofInt_toInt]

theorem negW_eq (md : BitVec 3) (a : Word) : negW (widthOf md) a = wide md (-wide md a) := by
  rw [negW, narrow_eq_wide, sval_eq_toInt, BitVec.ofInt_neg, BitVec.ofInt_toInt]

theorem ofInt_natAbs_toInt (x : Word) : BitVec.ofInt 64 x.toInt.natAbs = if x.msb then -x else x := by
  rw [BitVec.msb_eq_toInt]
  split_ifs with h
  · rw [Int.ofNat_natAbs_of_nonpos (by simpa using h : x.toInt < 0).le, BitVec.ofInt_neg, BitVec.ofInt_toInt]
  · rw [Int.natAbs_of_nonneg (by simpa using h), BitVec.ofInt_toInt]

theorem absW_eq (md : BitVec 3) (a : Word) : absW (widthOf md) a = wide md (if (wide md a).msb then -wide md a else wide md a) := by
  rw [absW, narrow_eq_wide, sval_eq_toInt, ofInt_natAbs_toInt]

theorem narrow_sval (md : BitVec 3) (a : Word) : narrow (widthOf md) (sval (widthOf md) a) = wide md a := by
  rw [narrow_eq_wide, sval_eq_toInt, BitVec.ofInt_toInt, wide_wide]

theorem minW_eq (md : BitVec 3) (a b : Word) : minW (widthOf md) a b = if (wide md b).slt (wide md a) then wide md b else wide md a := by
  rw [minW, min_comm, min_def_lt, BitVec.slt_eq_decide, ← sval_eq_toInt, ← sval_eq_toInt]
  simp only [decide_eq_true_eq, apply_ite (narrow (widthOf md)), narrow_sval]

theorem maxW_eq (md : BitVec 3) (a b : Word) : maxW (widthOf md) a b = if (wide md a).slt (wide md b) then wide md b else wide md a := by
  rw [maxW, max_def_lt, BitVec.slt_eq_decide, ← sval_eq_toInt, ← sval_eq_toInt]
  simp only [decide_eq_true_eq, apply_ite (narrow (widthOf md)), narrow_sval]

theorem minuW_eq (md : BitVec 3) (a b : Word) : minuW (widthOf md) a b = if (wide md b).ult (wide md a) then wide md b else wide md a := by
  rw [minuW, min_comm, min_def_lt, ult_wide]
  simp only [decide_eq_true_eq, apply_ite (narrowN (widthOf md)), narrowN_uval]

theorem maxuW_eq (md : BitVec 3) (a b : Word) : maxuW (widthOf md) a b = if (wide md a).ult (wide md b) then wide md b else wide md a := by
  rw [maxuW, max_def_lt, ult_wide]
  simp only [decide_eq_true_eq, apply_ite (narrowN (widthOf md)), narrowN_uval]

/-- The upper half of an exact value, from bit 32 or bit 64 on, read off its low 128 bits. -/
theorem ofInt_ediv_widthOf (md : BitVec 3) (i : Int) :
    BitVec.ofInt 64 (i / 2 ^ widthOf md) = (BitVec.ofInt 128 i >>> widthOf md).setWidth 64 := by
  apply BitVec.eq_of_toNat_eq
  rw [BitVec.toNat_setWidth, BitVec.toNat_ushiftRight, BitVec.toNat_ofInt, BitVec.toNat_ofInt, Nat.shiftRight_eq_div_pow]
  unfold widthOf
  split_ifs <;> omega

theorem mulhW_eq (md : BitVec 3) (a b : Word) : mulhW (widthOf md) a b =
    wide md ((((wide md a).signExtend 128 * (wide md b).signExtend 128) >>> widthOf md).setWidth 64) := by
  have hprod : BitVec.ofInt 128 ((wide md a).toInt * (wide md b).toInt) = (wide md a).signExtend 128 * (wide md b).signExtend 128 :=
    BitVec.ofInt_mul _ _
  rw [mulhW, narrow_eq_wide, sval_eq_toInt, sval_eq_toInt, ofInt_ediv_widthOf, hprod]

/-! ## Logic and shifts (R101, Table 6.3) -/

theorem andW_eq (md : BitVec 3) (a b : Word) : andW (widthOf md) a b = wide md (a &&& b) := narrowN_uval md _
theorem orW_eq (md : BitVec 3) (a b : Word) : orW (widthOf md) a b = wide md (a ||| b) := narrowN_uval md _
theorem xorW_eq (md : BitVec 3) (a b : Word) : xorW (widthOf md) a b = wide md (a ^^^ b) := narrowN_uval md _
theorem andnW_eq (md : BitVec 3) (a b : Word) : andnW (widthOf md) a b = wide md (a &&& ~~~b) := narrowN_uval md _

theorem ofNat_toNat_mul_two_pow {w : Nat} (x : BitVec w) (n : Nat) : BitVec.ofNat w (x.toNat * 2 ^ n) = x <<< n := by
  apply BitVec.eq_of_toNat_eq
  rw [BitVec.toNat_ofNat, BitVec.toNat_shiftLeft, Nat.shiftLeft_eq]

theorem ofInt_toInt_ediv_two_pow {w : Nat} (x : BitVec w) (n : Nat) : BitVec.ofInt w (x.toInt / 2 ^ n) = x.sshiftRight n := by
  have hdiv : x.toInt / 2 ^ n = (x.sshiftRight n).toInt := by
    rw [BitVec.toInt_sshiftRight, Int.shiftRight_eq_div_pow]; norm_cast
  rw [hdiv, BitVec.ofInt_toInt]

theorem shlW_eq (md : BitVec 3) (a b : Word) : shlW (widthOf md) a b = wide md (a <<< (b.toNat % widthOf md)) := by
  rw [wide_eq_signExtend, BitVec.setWidth_shiftLeft_of_le (widthOf_le md), ← ofNat_toNat_mul_two_pow]
  rfl

theorem shrW_eq (md : BitVec 3) (a b : Word) : shrW (widthOf md) a b = wide md (wideU md a >>> (b.toNat % widthOf md)) := by
  rw [← narrowN_toNat, BitVec.toNat_ushiftRight, Nat.shiftRight_eq_div_pow, ← uval_eq_toNat]
  rfl

theorem sarW_eq (md : BitVec 3) (a b : Word) : sarW (widthOf md) a b = (wide md a).sshiftRight (b.toNat % widthOf md) := by
  apply BitVec.eq_of_toInt_eq
  rw [BitVec.toInt_sshiftRight, wide_eq_signExtend, BitVec.toInt_signExtend_of_le (widthOf_le md), ← BitVec.toInt_sshiftRight,
    ← ofInt_toInt_ediv_two_pow, ← BitVec.toInt_signExtend_of_le (widthOf_le md)]
  rfl

theorem setWidth_wideU_ushiftRight (md : BitVec 3) (a : Word) (n : Nat) :
    (wideU md a >>> n).setWidth (widthOf md) = a.setWidth (widthOf md) >>> n := by
  rw [wideU_eq_setWidth, ← BitVec.setWidth_ushiftRight (widthOf_le md), BitVec.setWidth_setWidth_of_le _ (widthOf_le md), BitVec.setWidth_eq]

theorem rorW_eq (md : BitVec 3) (a b : Word) : rorW (widthOf md) a b =
    wide md (wideU md a >>> (b.toNat % widthOf md) ||| a <<< (widthOf md - b.toNat % widthOf md)) := by
  rw [wide_eq_signExtend, BitVec.setWidth_or, setWidth_wideU_ushiftRight, BitVec.setWidth_shiftLeft_of_le (widthOf_le md), rorW,
    BitVec.rotateRight_def, shiftCount, Nat.mod_mod]

/-! ## Counts (R101) -/

/-- The leading zeros of `n` bits: the value lies below the power of two that they leave, and not below the one before it. -/
theorem leadingZeros_spec {x n : Nat} (h : x < 2 ^ n) :
    leadingZeros x n ≤ n ∧ x < 2 ^ (n - leadingZeros x n) ∧ (leadingZeros x n < n → 2 ^ (n - leadingZeros x n - 1) ≤ x) := by
  induction n with
  | zero => exact ⟨Nat.le_refl 0, h, fun hlt => absurd hlt (Nat.not_lt_zero _)⟩
  | succ n ih =>
    rw [leadingZeros]
    split_ifs with hbit
    · exact ⟨Nat.zero_le _, h, fun _ => Nat.ge_two_pow_of_testBit hbit⟩
    · have hlow : x < 2 ^ n := Nat.lt_of_not_le fun hge => hbit (Nat.testBit_of_two_pow_le_and_two_pow_add_one_gt hge h)
      obtain ⟨hle, hlt, hge⟩ := ih hlow
      rw [Nat.add_sub_add_right]
      exact ⟨Nat.succ_le_succ hle, hlt, fun hn => hge (Nat.lt_of_succ_lt_succ hn)⟩

/-- The trailing zeros of `n` bits from bit `k` on: their power of two divides the value, and the next does not. -/
theorem trailingZeros_spec {x k : Nat} (n : Nat) (h : x % 2 ^ k = 0) :
    trailingZeros x k n ≤ n ∧ x % 2 ^ (k + trailingZeros x k n) = 0 ∧
      (trailingZeros x k n < n → x % 2 ^ (k + trailingZeros x k n + 1) ≠ 0) := by
  induction n generalizing k with
  | zero => exact ⟨Nat.le_refl 0, h, fun hlt => absurd hlt (Nat.not_lt_zero _)⟩
  | succ n ih =>
    have hnext : x % 2 ^ (k + 1) = 2 ^ k * (x.testBit k).toNat := by rw [Nat.mod_pow_succ, h, Nat.zero_add, Nat.toNat_testBit]
    rw [trailingZeros]
    split_ifs with hbit
    · exact ⟨Nat.zero_le _, h, fun _ => by simp [hnext, hbit]⟩
    · obtain ⟨hle, hzero, hne⟩ := ih (k := k + 1) (by simp [hnext, hbit])
      rw [Nat.add_assoc, Nat.add_comm 1] at hzero
      rw [Nat.add_right_comm k 1] at hne
      exact ⟨Nat.succ_le_succ hle, hzero, fun hn => hne (Nat.lt_of_succ_lt_succ hn)⟩

theorem onesCount_eq_length (x n : Nat) : onesCount x n = ((List.range n).filter x.testBit).length := by
  induction n with
  | zero => rfl
  | succ n ih =>
    rw [onesCount, ih, List.range_succ, List.filter_append, List.length_append]
    cases h : x.testBit n <;> simp [h]

theorem onesCount_uval (w : Nat) (a : Word) : onesCount (uval w a) w = ((List.range w).filter (fun k => a.getLsbD k)).length := by
  rw [onesCount_eq_length]
  exact congrArg List.length (List.filter_congr fun k hk => testBit_uval a (List.mem_range.mp hk))

/-! ## Bit fields (R102) -/

/-- The bits of a field that a width cuts at its last bit. -/
theorem getLsbD_field (w pos len i : Nat) (a : Word) (hi : i < 64) : (BitVec.ofNat 64 (uval w a / 2 ^ pos % 2 ^ len)).getLsbD i =
    (decide (i < len) && decide (pos + i < w) && a.getLsbD (pos + i)) := by
  rw [BitVec.getLsbD_ofNat, Nat.testBit_mod_two_pow, Nat.testBit_div_two_pow, uval, BitVec.testBit_toNat, BitVec.getLsbD_setWidth,
    decide_eq_true hi, Bool.true_and, Nat.add_comm i pos, Bool.and_assoc]

/-- The word `d` with the low `len` bits of `a` placed at `pos`. -/
def placed (d a : Word) (pos len : Nat) : Word :=
  let mask := BitVec.ofNat 64 ((2 ^ len - 1) * 2 ^ pos)
  (d &&& ~~~mask) ||| ((a <<< pos) &&& mask)

theorem getLsbD_placed (d a : Word) (pos len : Nat) {i : Nat} (hi : i < 64) :
    (placed d a pos len).getLsbD i = if pos ≤ i ∧ i < pos + len then a.getLsbD (i - pos) else d.getLsbD i := by
  have hmask : (BitVec.ofNat 64 ((2 ^ len - 1) * 2 ^ pos)).getLsbD i = decide (pos ≤ i ∧ i < pos + len) := by
    rw [BitVec.getLsbD_ofNat, Nat.testBit_mul_two_pow, Nat.testBit_two_pow_sub_one, decide_eq_true hi, Bool.true_and, ← Bool.decide_and]
    exact decide_eq_decide.mpr (by omega)
  simp only [placed, BitVec.getLsbD_or, BitVec.getLsbD_and, BitVec.getLsbD_not, BitVec.getLsbD_shiftLeft, hmask, decide_eq_true hi,
    Bool.true_and]
  by_cases h : pos ≤ i ∧ i < pos + len
  · rw [decide_eq_true h, if_pos h, decide_eq_false (by omega : ¬ i < pos)]; simp
  · rw [decide_eq_false h, if_neg h]; simp

theorem extrW_eq (md : BitVec 3) (a b : Word) : extrW (widthOf md) a b = wide md (BitVec.ofNat 64
    (uval (widthOf md) a / 2 ^ (fieldSpec (widthOf md) b).1 % 2 ^ (fieldSpec (widthOf md) b).2)) := narrowN_eq_wide md _

theorem insW_eq (md : BitVec 3) (d a b : Word) : insW (widthOf md) d a b =
    wide md (placed d a (fieldSpec (widthOf md) b).1 (fieldSpec (widthOf md) b).2) := narrowN_uval md _

/-! ## Division (R100) -/

theorem ofInt_tdiv_toInt (x y : Word) : BitVec.ofInt 64 (x.toInt.tdiv y.toInt) = x.sdiv y := by
  apply BitVec.eq_of_toInt_eq
  rw [BitVec.toInt_ofInt, BitVec.toInt_sdiv]

theorem divW_eq (md : BitVec 3) (a b : Word) : divW (widthOf md) a b = wide md ((wide md a).sdiv (wide md b)) := by
  rw [divW, narrow_eq_wide, sval_eq_toInt, sval_eq_toInt, ofInt_tdiv_toInt]

theorem remW_eq (md : BitVec 3) (a b : Word) : remW (widthOf md) a b = wide md ((wide md a).srem (wide md b)) := by
  rw [remW, narrow_eq_wide, sval_eq_toInt, sval_eq_toInt, ← Int.tmod_def, ← BitVec.toInt_srem, BitVec.ofInt_toInt]

theorem divuW_eq (md : BitVec 3) (a b : Word) : divuW (widthOf md) a b = wide md (wideU md a / wideU md b) := by
  rw [divuW, uval_eq_toNat, uval_eq_toNat, ← BitVec.toNat_udiv, narrowN_toNat]

theorem remuW_eq (md : BitVec 3) (a b : Word) : remuW (widthOf md) a b = wide md (wideU md a % wideU md b) := by
  rw [remuW, uval_eq_toNat, uval_eq_toNat, ← Nat.mod_def, ← BitVec.toNat_umod, narrowN_toNat]

theorem uval_eq_zero_iff (md : BitVec 3) (x : Word) : uval (widthOf md) x = 0 ↔ wideU md x = 0 := by
  rw [uval_eq_toNat, ← BitVec.toNat_inj]
  rfl

/-! ## Words of a form that is ready -/

section Ready

variable {f : Form} {s : State}

theorem intOp_gives {op : Nat → Word → Word → Word} {x : Word} (h : formReady s f none .write = true)
    (hx : op (widthOf f.md) (s.me.value f.oa) (s.me.value f.ob) = x) : intOp op f s = givesG f s x :=
  runToG_gives _ _ _ _ _ h (by simp only [begin_value, hx])

theorem intOp1_gives {op : Nat → Word → Word} {x : Word} (h : formReady s f none .write = true)
    (hx : op (widthOf f.md) (s.me.value f.oa) = x) : intOp1 op f s = givesG f s x :=
  runToG_gives _ _ _ _ _ h (by simp only [begin_value, hx])

theorem mulOp_gives {op : Nat → Word → Word → Word} {x : Word} (h : formReady s f none .write = true)
    (hx : op (widthOf f.md) (s.me.value f.oa) (s.me.value f.ob) = x) : mulOp op f s = givesGIn 3 f s x := by
  rw [mulOp, givesGIn, run_ready _ _ _ _ _ h, conclude_ok]
  rw [State.modMe_congr _ _ (fun t => t.writeG (regOf f.od) x) (by simp only [begin_value, hx])]

theorem execIns_gives {x : Word} (h : formReady s f none .both = true)
    (hx : insW (widthOf f.md) (s.me.value f.od) (s.me.value f.oa) (s.me.value f.ob) = x) : execIns f s = givesG f s x :=
  runToG_gives _ _ _ _ _ h (by simp only [begin_value, hx])

theorem divOp_zero (op : Nat → Word → Word → Word) (h : formReady s f none .write = true) (hb : wideU f.md (s.me.value f.ob) = 0) :
    divOp op f s = traps s 0x08 (s.me.value f.oa) :=
  run_ready_trap h (by simp only [begin_value, uval_eq_zero_iff, hb, if_true])

theorem divOp_nonzero {op : Nat → Word → Word → Word} {x : Word} (h : formReady s f none .write = true)
    (hb : wideU f.md (s.me.value f.ob) ≠ 0) (hx : op (widthOf f.md) (s.me.value f.oa) (s.me.value f.ob) = x) :
    divOp op f s = pendsG f s (.value x) :=
  run_ready_ok _ _ _ _ _ _ h (by simp only [begin_value, uval_eq_zero_iff, hb, if_false, hx])

end Ready

/-! ## O1 -/

/-- Settles O1, from the value that each operation gives at a width. -/
theorem integerArithmetic : Obligations.IntegerArithmetic := by
  unfold Obligations.IntegerArithmetic
  refine ⟨fun f s h => ?_, fun f s h => ?_, fun f s => ⟨fun h => ?_, fun h => ?_⟩⟩
  · exact ⟨(exec_add f s).trans (intOp_gives h (addW_eq ..)), (exec_sub f s).trans (intOp_gives h (subW_eq ..)),
      (exec_mul f s).trans (mulOp_gives h (mulW_eq ..)), (exec_mulh f s).trans (mulOp_gives h (mulhW_eq ..)),
      (exec_neg f s).trans (intOp1_gives h (negW_eq ..)), (exec_abs f s).trans (intOp1_gives h (absW_eq ..)),
      (exec_min f s).trans (intOp_gives h (minW_eq ..)), (exec_max f s).trans (intOp_gives h (maxW_eq ..)),
      (exec_minu f s).trans (intOp_gives h (minuW_eq ..)), (exec_maxu f s).trans (intOp_gives h (maxuW_eq ..))⟩
  · refine ⟨(exec_and f s).trans (intOp_gives h (andW_eq ..)), (exec_or f s).trans (intOp_gives h (orW_eq ..)),
      (exec_xor f s).trans (intOp_gives h (xorW_eq ..)), (exec_andn f s).trans (intOp_gives h (andnW_eq ..)),
      (exec_shl f s).trans (intOp_gives h (shlW_eq ..)), (exec_shr f s).trans (intOp_gives h (shrW_eq ..)),
      (exec_sar f s).trans (intOp_gives h (sarW_eq ..)), (exec_ror f s).trans (intOp_gives h (rorW_eq ..)),
      ⟨_, (exec_clz f s).trans (intOp1_gives h rfl), ?_⟩, ⟨_, (exec_ctz f s).trans (intOp1_gives h rfl), ?_⟩,
      (exec_popc f s).trans (intOp1_gives h (congrArg (BitVec.ofNat 64) (onesCount_uval ..)))⟩
    · rw [← uval_eq_toNat]
      exact leadingZeros_spec (BitVec.isLt _)
    · rw [← uval_eq_toNat]
      have hspec := trailingZeros_spec (k := 0) (widthOf f.md) (Nat.mod_one (uval (widthOf f.md) (s.me.value f.oa)))
      rwa [Nat.zero_add] at hspec
  · exact ⟨_, (exec_extr f s).trans (intOp_gives h (extrW_eq ..)), fun i hi => getLsbD_field _ _ _ _ _ (Nat.lt_of_lt_of_le hi (widthOf_le _))⟩
  · exact ⟨_, (exec_ins f s).trans (execIns_gives h (insW_eq ..)), fun i hi => getLsbD_placed _ _ _ _ (Nat.lt_of_lt_of_le hi (widthOf_le _))⟩

/-! ## O2 -/

/-- Settles O2, from the value that each division gives at a width. -/
theorem division : Obligations.Division := by
  unfold Obligations.Division
  intro f s h
  dsimp only
  split_ifs with hb
  · exact ⟨divOp_zero divW h hb, divOp_zero divuW h hb, divOp_zero remW h hb, divOp_zero remuW h hb⟩
  · exact ⟨(exec_div f s).trans (divOp_nonzero h hb (divW_eq ..)), (exec_divu f s).trans (divOp_nonzero h hb (divuW_eq ..)),
      (exec_rem f s).trans (divOp_nonzero h hb (remW_eq ..)), (exec_remu f s).trans (divOp_nonzero h hb (remuW_eq ..))⟩

end Sys2Proof.Machine

end

/-! # Compares, predicates, moves, immediates, pointers and cursors (R103, R104, R109, Tables 6.4 and 6.5) -/
section

namespace Sys2Proof.Machine

/-! ## Values -/

/-- The condition of a compare, by its modifier (Table 6.4). -/
theorem cmpHolds_eq (a b : Word) : cmpHolds 0 a b = decide (a = b) ∧ cmpHolds 1 a b = !decide (a = b) ∧
    cmpHolds 2 a b = decide (a.toInt < b.toInt) ∧ cmpHolds 3 a b = decide (a.toInt ≤ b.toInt) ∧
    cmpHolds 4 a b = decide (a.toNat < b.toNat) ∧ cmpHolds 5 a b = decide (a.toNat ≤ b.toNat) :=
  ⟨rfl, rfl, rfl, rfl, rfl, rfl⟩

@[simp] theorem predOf_decide (p : Prop) [Decidable p] : predOf (decide p) = if p then BitVec.allOnes 64 else 0 := by
  unfold predOf; simp only [decide_eq_true_eq]

@[simp] theorem predOf_not_decide (p : Prop) [Decidable p] : predOf (!decide p) = if p then 0 else BitVec.allOnes 64 := by
  by_cases h : p <;> simp [predOf, h]

theorem shiftLeft_eq_mul_ofNat (x : Word) (n : Nat) : x <<< n = x * BitVec.ofNat 64 (2 ^ n) := by
  apply BitVec.eq_of_toNat_eq
  rw [BitVec.toNat_shiftLeft, BitVec.toNat_mul, BitVec.toNat_ofNat, Nat.shiftLeft_eq, Nat.mul_mod_mod]

/-- The generation of a pointer stands in its upper seven bits. -/
theorem extractLsb'_57_setWidth (x : Word) : (x.extractLsb' 57 7).setWidth 64 = x >>> 57 := by
  apply BitVec.eq_of_toNat_eq
  rw [BitVec.toNat_setWidth, BitVec.extractLsb'_toNat, BitVec.toNat_ushiftRight, Nat.shiftRight_eq_div_pow]
  omega

/-- A vector put together from an upper part and the low bits of another. -/
theorem append_extractLsb'_zero {m n : Nat} (x : BitVec m) (y : BitVec (m + n)) :
    x ++ y.extractLsb' 0 n = x.setWidth (m + n) <<< n ||| (y.setWidth n).setWidth (m + n) := by
  apply BitVec.eq_of_getLsbD_eq
  intro i hi
  have hsub : i - n < m + n := by omega
  simp only [BitVec.getLsbD_append, BitVec.getLsbD_extractLsb', BitVec.getLsbD_or, BitVec.getLsbD_shiftLeft, BitVec.getLsbD_setWidth, hi,
    hsub, Nat.zero_add]
  by_cases h : i < n <;> simp [h]

theorem append_extractLsb'_48 (x : BitVec 16) (y : Word) :
    x ++ y.extractLsb' 0 48 = (y &&& (0xFFFF_FFFF_FFFF : Word)) ||| (x.setWidth 64 <<< 48) := by
  have hlow : (y.setWidth 48).setWidth 64 = y &&& 0xFFFF_FFFF_FFFF := setWidth_setWidth_eq_and y (w := 48) (by decide)
  rw [← hlow, BitVec.or_comm]
  exact append_extractLsb'_zero (n := 48) x y

/-- Seven bits shifted to the upper end of a word: what stands above them is lost. -/
theorem extractLsb'_setWidth_shiftLeft_57 (x : Word) : (x.extractLsb' 0 7).setWidth 64 <<< 57 = x <<< 57 := by
  apply BitVec.eq_of_toNat_eq
  rw [BitVec.toNat_shiftLeft, BitVec.toNat_shiftLeft, BitVec.toNat_setWidth, BitVec.extractLsb'_toNat, Nat.shiftLeft_eq, Nat.shiftLeft_eq]
  omega

theorem append_extractLsb'_57 (x y : Word) :
    x.extractLsb' 0 7 ++ y.extractLsb' 0 57 = (x <<< 57) ||| (y &&& 0x01FF_FFFF_FFFF_FFFF) := by
  have hlow : (y.setWidth 57).setWidth 64 = y &&& 0x01FF_FFFF_FFFF_FFFF := setWidth_setWidth_eq_and y (w := 57) (by decide)
  rw [← hlow, ← extractLsb'_setWidth_shiftLeft_57]
  exact append_extractLsb'_zero (n := 57) (x.extractLsb' 0 7) y

/-- A cursor keeps what it holds of a value masked before the write. -/
theorem TSet.writeC_masked (t : TSet) (i : Nat) (x : BitVec 25) : t.writeC i (x &&& 0x1F3FFFF) = t.writeC i x := by
  unfold TSet.writeC
  rw [BitVec.and_assoc]
  rfl

/-! ## Words of a form that is ready -/

section Ready

variable {f : Form} {s : State}

/-- `CMP` writes the whole predicate of its condition. -/
theorem execCmp_gives {md : BitVec 3} {x : Word} (h : formReady s f none .none = true) (hmd : f.md = md)
    (hx : predOf (cmpHolds md (s.me.value f.oa) (s.me.value f.ob)) = x) : execCmp f s = givesP f s x :=
  runToP_gives _ _ _ _ h (by simp only [begin_value, hmd, hx])

theorem execCurs_ready (h : formReady s f none .none = true) :
    execCurs f s = .next (after f.hints s (fun t => t.writeC (regOf f.od) ((s.me.value f.oa).setWidth 25 &&& 0x1F3FFFF))) := by
  rw [execCurs, run_ready _ _ _ _ _ h, conclude_ok, after]
  rw [State.modMe_congr _ _ (fun t => t.writeC (regOf f.od) ((s.me.value f.oa).setWidth 25 &&& 0x1F3FFFF))]
  rw [TSet.writeC_masked, begin_value, BitVec.setWidth_eq_extractLsb' (by decide)]

end Ready

/-! ## O3 -/

/-- Settles O3, from the value that each word writes; the immediates run as forms without sources. -/
theorem predicatesAndMoves : Obligations.PredicatesAndMoves := by
  unfold Obligations.PredicatesAndMoves
  refine ⟨fun f s => ⟨fun h => ?_, fun h => ?_, fun h => ?_⟩, fun f s n upper => ⟨fun h => ?_, fun h => ?_, fun h => ?_, fun h => ?_⟩⟩
  · obtain ⟨heq, hne, hlt, hle, hltu, hleu⟩ := cmpHolds_eq (s.me.value f.oa) (s.me.value f.ob)
    have hcmp := fun md x => execCmp_gives (md := md) (x := x) h
    exact ⟨fun hmd => hcmp 0 _ hmd (by rw [heq, predOf_decide]), fun hmd => hcmp 1 _ hmd (by rw [hne, predOf_not_decide]),
      fun hmd => hcmp 2 _ hmd (by rw [hlt, predOf_decide]), fun hmd => hcmp 3 _ hmd (by rw [hle, predOf_decide]),
      fun hmd => hcmp 4 _ hmd (by rw [hltu, predOf_decide]), fun hmd => hcmp 5 _ hmd (by rw [hleu, predOf_decide]),
      runToP_gives f _ s _ h (by simp only [begin_value]), runToP_gives f _ s _ h (by simp only [begin_value]),
      runToP_gives f _ s _ h (by simp only [begin_value]), runToP_gives f _ s _ h (by simp only [begin_value]),
      runToP_gives f _ s _ h (by simp only [begin_value])⟩
  · exact runToG_gives f .both _ s _ h (by simp only [begin_value])
  · exact runToG_gives f .write _ s _ h (by simp only [begin_value])
  · exact ⟨runToG_gives f .write _ s _ h (by simp only [begin_value]),
      fun _ => runToG_gives f .write _ s _ h (by simp only [begin_value, shiftLeft_eq_mul_ofNat]),
      runToG_gives f .write _ s _ h (by simp only [begin_value, extractLsb'_57_setWidth]),
      runToG_gives f .write _ s _ h (by simp only [begin_value, append_extractLsb'_57]),
      runToG_gives f .write _ s _ h (by simp only [begin_readC])⟩
  · exact (exec_curs f s).trans (execCurs_ready h)
  · exact runToG_gives ⟨f.guard, f.hints, 0, f.od, .unused, .unused⟩ .write _ s _ h rfl
  · exact runToG_gives ⟨f.guard, f.hints, 1, f.od, .unused, .unused⟩ .both _ s _ h
      (by simp only [begin_value, append_extractLsb'_48, Nat.cast_ofNat])

end Sys2Proof.Machine

end

/-! # Rounding of exact values (R69, R72) -/
section

namespace Sys2Proof.Machine

/-! ## Magnitudes (R72) -/

theorem bitLen_le {n k : Nat} (h : n < 2 ^ k) : bitLen n ≤ k := by
  unfold bitLen
  split_ifs with hn
  · exact Nat.zero_le k
  · exact (Nat.log2_lt hn).mpr h

theorem bitLen_eq {n k : Nat} (hge : 2 ^ k ≤ n) (hlt : n < 2 ^ (k + 1)) : bitLen n = k + 1 := by
  have hn : n ≠ 0 := (Nat.lt_of_lt_of_le (Nat.two_pow_pos k) hge).ne'
  rw [bitLen, if_neg hn, (Nat.log2_eq_iff hn).mpr ⟨hge, hlt⟩]

/-- A fraction at the least exponent is exact: it is its own pattern. -/
theorem roundMag_subnormal (f : Fmt) {m : Nat} (h : m < 2 ^ f.mb) : roundMag f m (1 - (f.bias : Int) - f.mb) = (m, false) := by
  have hlen := bitLen_le h
  unfold roundMag
  split_ifs with hm
  · rw [hm]
  · have hq : max (1 - (f.bias : Int) - f.mb + bitLen m - 1 - f.mb) (1 - (f.bias : Int) - f.mb) = 1 - (f.bias : Int) - f.mb := by omega
    simp only [hq, le_refl, if_true, Int.sub_self, Int.toNat_zero, Nat.pow_zero, Nat.mul_one, h]

/-- A fraction with its leading one is exact: its pattern has its exponent field. -/
theorem roundMag_normal (f : Fmt) {e fr : Nat} (he : 0 < e) (h : fr < 2 ^ f.mb) :
    roundMag f (2 ^ f.mb + fr) ((e : Int) - f.bias - f.mb) = (e * 2 ^ f.mb + fr, false) := by
  have hlen : bitLen (2 ^ f.mb + fr) = f.mb + 1 := bitLen_eq (Nat.le_add_right _ _) (by rw [Nat.pow_succ]; omega)
  have hm : 2 ^ f.mb + fr ≠ 0 := by have := Nat.two_pow_pos f.mb; omega
  have hq : max ((e : Int) - f.bias - f.mb + (f.mb + 1 : Nat) - 1 - f.mb) (1 - (f.bias : Int) - f.mb) = (e : Int) - f.bias - f.mb := by omega
  have hfield : ((e : Int) - f.bias - f.mb + f.bias + f.mb).toNat = e := by omega
  have hn : ¬ 2 ^ f.mb + fr < 2 ^ f.mb := by omega
  simp only [roundMag, hm, if_false, hlen, hq, le_refl, if_true, Int.sub_self, Int.toNat_zero, Nat.pow_zero, Nat.mul_one, hn, hfield,
    Nat.add_sub_cancel_left]

/-! ## Patterns (R69) -/

/-- An exact value within the range of a format raises nothing. -/
theorem roundF_fin_exact {f : Fmt} {neg : Bool} {m mag : Nat} {e : Int} (h : roundMag f m e = (mag, false)) (hmax : mag ≤ f.maxBits) :
    roundF f false (.fin neg m e) = ⟨withSign f neg mag, false, false, false⟩ := by
  simp only [roundF, h, Nat.not_lt.mpr hmax, if_false, Bool.false_and]

/-- A pattern is put together from its sign, its exponent field and its fraction. -/
theorem withSign_fields (f : Fmt) {x : Nat} (h : x < 2 ^ f.width) :
    withSign f (x / f.signBit % 2 == 1) (x / 2 ^ f.mb % 2 ^ f.eb * 2 ^ f.mb + x % 2 ^ f.mb) = x := by
  have hmag : x / 2 ^ f.mb % 2 ^ f.eb * 2 ^ f.mb + x % 2 ^ f.mb = x % f.signBit := by
    rw [Fmt.signBit, Nat.add_comm f.eb, Nat.pow_add, Nat.mod_mul, Nat.add_comm, Nat.mul_comm]
  have hsign : x / f.signBit < 2 := Nat.div_lt_of_lt_mul (by rw [Fmt.signBit, ← Nat.pow_succ]; exact h)
  have hsplit := Nat.div_add_mod x f.signBit
  rw [hmag, withSign, Nat.mod_eq_of_lt hsign]
  obtain h0 | h1 := Nat.le_one_iff_eq_zero_or_eq_one.mp (Nat.le_of_lt_succ hsign)
  · rw [h0] at hsplit ⊢
    simpa using hsplit
  · rw [h1] at hsplit ⊢
    simpa using hsplit

theorem magnitude_le_maxBits {f : Fmt} {e fr : Nat} (he : e < 2 ^ f.eb) (hfr : fr < 2 ^ f.mb) (hinf : f.fn = false → e ≠ 2 ^ f.eb - 1)
    (hnan : f.fn = true → e = 2 ^ f.eb - 1 → fr ≠ 2 ^ f.mb - 1) : e * 2 ^ f.mb + fr ≤ f.maxBits := by
  have hbelow : e ≠ 2 ^ f.eb - 1 → e * 2 ^ f.mb + fr < f.infBits := fun hne => by
    have hmul : (e + 1) * 2 ^ f.mb ≤ f.infBits := Nat.mul_le_mul_right _ (by omega)
    rw [Nat.add_one_mul] at hmul
    omega
  unfold Fmt.maxBits
  split_ifs with hfn
  · by_cases hmax : e = 2 ^ f.eb - 1
    · have hne := hnan hfn hmax
      have hinfBits : e * 2 ^ f.mb = f.infBits := by rw [hmax, Fmt.infBits]
      omega
    · have := hbelow hmax
      omega
  · have := hbelow (hinf (by simpa using hfn))
    omega

/-- In every format a pattern that is no NaN is the rounding of its own value, and raises nothing. -/
theorem roundF_decodeF (f : Fmt) {x : Nat} (h : x < 2 ^ f.width) (hnan : (decodeF f x).isNan = false) :
    roundF f false (decodeF f x) = ⟨x, false, false, false⟩ := by
  have hx := withSign_fields f h
  have he : x / 2 ^ f.mb % 2 ^ f.eb < 2 ^ f.eb := Nat.mod_lt _ (Nat.two_pow_pos _)
  have hfr : x % 2 ^ f.mb < 2 ^ f.mb := Nat.mod_lt _ (Nat.two_pow_pos _)
  unfold decodeF at hnan ⊢
  generalize (x / f.signBit % 2 == 1) = neg at *
  generalize x / 2 ^ f.mb % 2 ^ f.eb = e at *
  generalize x % 2 ^ f.mb = fr at *
  simp only [Bool.and_eq_true, beq_iff_eq, Bool.not_eq_true'] at hnan ⊢
  have hmag : ¬ (e = 2 ^ f.eb - 1 ∧ f.fn = false) → ¬ ((f.fn = true ∧ e = 2 ^ f.eb - 1) ∧ fr = 2 ^ f.mb - 1) → e * 2 ^ f.mb + fr ≤ f.maxBits :=
    fun hinf hmax => magnitude_le_maxBits he hfr (fun hfn hall => hinf ⟨hall, hfn⟩) (fun hfn hall hones => hmax ⟨⟨hfn, hall⟩, hones⟩)
  split_ifs at hnan ⊢ with hinf hzero hmax hsub
  · obtain ⟨hall, hfn⟩ := hinf
    rw [hall, hzero, Nat.add_zero] at hx
    simp only [roundF, hfn, Bool.or_self, Bool.false_eq_true, if_false, Fmt.infBits, hx]
  · cases hnan
  · cases hnan
  · have hle := hmag hinf hmax
    rw [hsub, Nat.zero_mul, Nat.zero_add] at hx hle
    rw [roundF_fin_exact (roundMag_subnormal f hfr) hle, hx]
  · rw [roundF_fin_exact (roundMag_normal f (Nat.pos_of_ne_zero hsub) hfr) (hmag hinf hmax), hx]

/-! ## Shifts (R72) -/

/-- A number whose double is an odd multiple of `2^k` lies halfway between two multiples. -/
theorem two_mul_mod_of_tie {m k : Nat} (h : (2 * m + 2 ^ k) % 2 ^ (k + 1) = 0) : 2 * (m % 2 ^ k) = 2 ^ k := by
  have hr : m % 2 ^ k < 2 ^ k := Nat.mod_lt m (Nat.two_pow_pos k)
  have hm : 2 ^ k * (m / 2 ^ k) + m % 2 ^ k = m := Nat.div_add_mod m (2 ^ k)
  have hsum : 2 * m + 2 ^ k = 2 ^ (k + 1) * (m / 2 ^ k) + (2 * (m % 2 ^ k) + 2 ^ k) := by rw [Nat.pow_succ]; linarith
  rw [hsum, Nat.mul_add_mod] at h
  have heq := Nat.eq_of_dvd_of_lt_two_mul (by omega) (Nat.dvd_of_mod_eq_zero h) (by rw [Nat.pow_succ]; omega)
  rw [Nat.pow_succ] at heq
  omega

/-- Division by a power of two rounds to the nearest number, and to the even one at a tie. -/
theorem shiftRne_spec (m k : Nat) : 2 * m ≤ 2 ^ k * (2 * shiftRne m k + 1) ∧ 2 ^ k * (2 * shiftRne m k) ≤ 2 * m + 2 ^ k ∧
    (0 < k → (2 * m + 2 ^ k) % 2 ^ (k + 1) = 0 → shiftRne m k % 2 = 0) := by
  have hr : m % 2 ^ k < 2 ^ k := Nat.mod_lt m (Nat.two_pow_pos k)
  have hm : 2 ^ k * (m / 2 ^ k) + m % 2 ^ k = m := Nat.div_add_mod m (2 ^ k)
  have hdown : 2 ^ k * (2 * (m / 2 ^ k)) = 2 * (2 ^ k * (m / 2 ^ k)) := by ring
  have hup : 2 ^ k * (2 * (m / 2 ^ k + 1)) = 2 * (2 ^ k * (m / 2 ^ k)) + 2 * 2 ^ k := by ring
  unfold shiftRne
  dsimp only
  split_ifs with h
  · rw [Nat.mul_add_one, hup]
    exact ⟨by omega, by omega, fun _ ht => by have := two_mul_mod_of_tie ht; omega⟩
  · rw [Nat.mul_add_one, hdown]
    exact ⟨by omega, by omega, fun _ ht => by have := two_mul_mod_of_tie ht; omega⟩

end Sys2Proof.Machine

end

/-! # Scalar floating point: the delivery of results, and the operations (R75, R76, R110 to R114, Tables 6.7 and 6.8) -/
section

namespace Sys2Proof.Machine

/-! ## Exceptions (R75, R76, R114) -/

theorem fpOutcome_merges {t : TSet} {exc : BitVec 5} (h : exc &&& fpEnables t.fpctl = 0) :
    fpOutcome t exc = .ok { t with fpctl := fpMerge t.fpctl exc } := if_pos h

theorem fpOutcome_traps {t : TSet} {exc : BitVec 5} (h : exc &&& fpEnables t.fpctl ≠ 0) :
    fpOutcome t exc = .error (.trap 0x09 ((exc &&& fpEnables t.fpctl).setWidth 64)) := if_neg h

/-- The flags stand beside the enables: a merge leaves these. -/
@[simp] theorem fpEnables_fpMerge (fpctl : Word) (exc : BitVec 5) : fpEnables (fpMerge fpctl exc) = fpEnables fpctl := by
  unfold fpEnables fpMerge
  apply BitVec.eq_of_getLsbD_eq
  intro i hi
  have h8 : i < 8 := by omega
  simp [BitVec.getLsbD_extractLsb', h8]

/-! ## Delivery (R110, R111) -/

/-- A result none of whose exceptions is enabled: they merge as the result is written, and both wait for the completion. -/
theorem fpDeliver_merges {n : Nat} {o : Operand} {exc : BitVec 5} {write : TSet → TSet} {s : State}
    (h : exc &&& fpEnables s.me.fpctl = 0) :
    fpDeliver n o exc write s = .ok (fpHold (readyIn n o (s.modMe (fun t =>
      (write { t with fpctl := fpMerge t.fpctl exc }).setLate 192 (s.cycle s.curCore + n)))) (fpEnables s.me.fpctl) n) := by
  rw [fpDeliver, fpOutcome_merges h]
  simp only [fpEnables_fpMerge]
  exact congrArg (fun u => Except.ok (fpHold (readyIn n o u) _ n)) (State.modMe_congr s _ _ rfl)

theorem fpDeliver_traps {n : Nat} {o : Operand} {exc : BitVec 5} {write : TSet → TSet} {s : State}
    (h : exc &&& fpEnables s.me.fpctl ≠ 0) :
    fpDeliver n o exc write s = .error (.trap 0x09 ((exc &&& fpEnables s.me.fpctl).setWidth 64)) := by
  rw [fpDeliver, fpOutcome_traps h]

section Delivers

variable {f : Form} {s : State}

/-- A ready word whose own effect is a delivery of a floating result does what R75, R76 and R114 say of one. -/
theorem run_delivers {use : OdUse} {body : State → Except Stop State} {n : Nat} {exc : BitVec 5} {write : TSet → TSet}
    (h : formReady s f none use = true) (hb : body (begin s) = fpDeliver n f.od exc write (begin s)) :
    deliversFloat f s n exc write (run f none use body s) := by
  have hon : fpEnables (begin s).me.fpctl = s.me.fpctl.extractLsb' 0 5 := by rw [begin_me_fpctl, fpEnables]
  constructor
  · intro hexc
    rw [← hon] at hexc ⊢
    exact run_ready_ok _ _ _ _ _ _ h (hb.trans (fpDeliver_merges hexc))
  · intro hexc
    rw [← hon] at hexc ⊢
    exact run_ready_trap h (hb.trans (fpDeliver_traps hexc))

/-! ## Operations (R110, R111) -/

theorem fpResult_begin (op : Fmt → FVal → FVal → FVal → Nat × BitVec 5) (f : Form) (s : State) :
    fpResult op f (begin s).me = fpResult op f s.me := by
  simp only [fpResult, begin_value]

theorem fpOp_delivers {use : OdUse} {op : Fmt → FVal → FVal → FVal → Nat × BitVec 5} {r : Nat × BitVec 5}
    (h : formReady s f none use = true) (hr : fpResult op f s.me = r) :
    deliversFloat f s 4 r.2 (fun t => t.writeG (regOf f.od) (BitVec.ofNat 64 r.1)) (fpOp use op f s) :=
  run_delivers h (by rw [fpResult_begin, hr])

/-- A long-latency operation while no exception is enabled: its result is on its way (R111). -/
theorem fpLong_pends {n : Nat} {op : Fmt → FVal → FVal → FVal → Nat × BitVec 5} {r : Nat × BitVec 5}
    (h : formReady s f none .write = true) (hr : fpResult op f s.me = r) (hen : s.me.fpctl.extractLsb' 0 5 = 0) :
    fpLong n op f s = pendsG f s (.float (BitVec.ofNat 64 r.1) r.2) := by
  refine run_ready_ok _ _ _ _ _ _ h ?_
  rw [fpResult_begin, hr, begin_me_fpctl, fpEnables, if_pos hen]

/-- And with one enabled it is delivered like the others, by its own latency. -/
theorem fpLong_delivers {n : Nat} {op : Fmt → FVal → FVal → FVal → Nat × BitVec 5} {r : Nat × BitVec 5}
    (h : formReady s f none .write = true) (hr : fpResult op f s.me = r) (hen : s.me.fpctl.extractLsb' 0 5 ≠ 0) :
    deliversFloat f s n r.2 (fun t => t.writeG (regOf f.od) (BitVec.ofNat 64 r.1)) (fpLong n op f s) := by
  refine run_delivers h ?_
  rw [fpResult_begin, hr, begin_me_fpctl, fpEnables, if_neg hen]

/-- The sources of an operation, in the precision that its modifier names. -/
theorem fpResult_eq (op : Fmt → FVal → FVal → FVal → Nat × BitVec 5) (f : Form) (t : TSet) :
    let p := if f.md = 1 then fp64 else fp32
    let v := fun o => decodeF p ((t.value o).toNat % 2 ^ p.width)
    fpResult op f t = op p (v f.od) (v f.oa) (v f.ob) := by
  have hp : precision (isD f) = if f.md = 1 then fp64 else fp32 := by simp only [precision, isD, beq_iff_eq]
  simp only [fpResult, fsrc, hp]

/-! ## Compares and conversions (R112, R113) -/

/-- The order conditions, `lt` and `le`, raise invalid on a NaN. -/
theorem fcmpExc_ordered {c : Nat} (h : c = 1 ∨ c = 2) (a b : FVal) : fcmpExc c a b = if a.isNan || b.isNan then 1 else 0 := by
  simp only [fcmpExc, h, true_and]

theorem fcmpExc_unordered {c : Nat} (h : ¬ (c = 1 ∨ c = 2)) (a b : FVal) : fcmpExc c a b = 0 := by
  simp only [fcmpExc, h, false_and, if_false]

theorem execFcmp_delivers {c : Nat} {a b : FVal} {exc : BitVec 5} (h : formReady s f none .none = true)
    (ha : fsrc (f.md.getLsbD 2) (s.me.value f.oa) = a) (hb : fsrc (f.md.getLsbD 2) (s.me.value f.ob) = b) (hc : f.md.toNat % 4 = c)
    (hexc : fcmpExc c a b = exc) :
    deliversFloat f s 4 exc (fun t => t.writeP (regOf f.od) (predOf (fcmpHolds c a b))) (execFcmp f s) :=
  run_delivers h (by simp only [begin_value, ha, hb, hc, hexc])

theorem execFcvt_delivers {md : BitVec 3} {r : Nat × BitVec 5} (h : formReady s f none .write = true) (hmd : f.md = md)
    (hr : fcvtResult md.toNat (s.me.value f.oa) = r) :
    deliversFloat f s 4 r.2 (fun t => t.writeG (regOf f.od) (BitVec.ofNat 64 r.1)) (execFcvt f s) :=
  run_delivers h (by simp only [begin_value, hmd, hr])

end Delivers

/-! ## Results and their invalid exceptions (R76, R110) -/

/-- An invalid exception stands for a NaN that no operand was. -/
theorem newNan_comm (v a b : Bool) : (v && !a && !b) = (!a && !b && v) := by
  rw [Bool.and_assoc, Bool.and_comm]

theorem opAdd_eq (p : Fmt) (a b : FVal) : opAdd p a b = finish p (!a.isNan && !b.isNan && (fAdd a b).isNan) false (fAdd a b) := by
  rw [opAdd, newNan_comm]

theorem opMul_eq (p : Fmt) (a b : FVal) : opMul p a b = finish p (!a.isNan && !b.isNan && (fMul a b).isNan) false (fMul a b) := by
  rw [opMul, newNan_comm]

theorem opFma_eq (p : Fmt) (d a b : FVal) : opFma p d a b = finish p ((!a.isNan && !b.isNan && (fMul a b).isNan) ||
    (!d.isNan && !(fMul a b).isNan && (fAdd d (fMul a b)).isNan)) false (fAdd d (fMul a b)) := by
  rw [opFma, newNan_comm, newNan_comm]

theorem opDiv_eq (p : Fmt) (a b : FVal) : opDiv p a b = finish p (!a.isNan && !b.isNan && (fDiv a b).isNan)
    (b.isZero && !a.isZero && !a.isNan && !a.isInf) (fDiv a b) := by
  rw [opDiv, newNan_comm]

theorem opSqrt_eq (p : Fmt) (a : FVal) : opSqrt p a = finish p (!a.isNan && (fSqrt a).isNan) false (fSqrt a) := by
  rw [opSqrt, Bool.and_comm]

@[simp] theorem fNeg_isNan (a : FVal) : (fNeg a).isNan = a.isNan := by cases a <;> rfl

/-! ## O4 -/

/-- Settles O4: each word delivers what its operation rounds to; and a pattern is the rounding of its own value in every format there can be. -/
theorem floatScalar : Obligations.FloatScalar := by
  unfold Obligations.FloatScalar
  refine ⟨fun f s => ⟨fun h => ?_, fun h => ?_⟩, ?_, fun p _ x hx hnan => roundF_decodeF p hx hnan, shiftRne_spec⟩
  · exact ⟨fpOp_delivers h ((fpResult_eq ..).trans (opAdd_eq ..)),
      fpOp_delivers h ((fpResult_eq ..).trans ((opAdd_eq ..).trans (by rw [fNeg_isNan]))),
      fpOp_delivers h ((fpResult_eq ..).trans (opMul_eq ..)), fpOp_delivers h (fpResult_eq ..), fpOp_delivers h (fpResult_eq ..),
      fun hen => ⟨fpLong_pends h ((fpResult_eq ..).trans (opDiv_eq ..)) hen, fpLong_pends h ((fpResult_eq ..).trans (opSqrt_eq ..)) hen⟩,
      fun hen => ⟨fpLong_delivers h ((fpResult_eq ..).trans (opDiv_eq ..)) hen,
        fpLong_delivers h ((fpResult_eq ..).trans (opSqrt_eq ..)) hen⟩⟩
  · exact fpOp_delivers h ((fpResult_eq ..).trans (opFma_eq ..))
  · intro f s x p v a b unordered holds single float int
    refine ⟨fun h => ?_, fun h => ?_⟩
    · have hcmp := fun c exc => execFcmp_delivers (c := c) (exc := exc) (a := a) (b := b) h rfl rfl
      exact ⟨fun hc => hcmp 0 0 hc (fcmpExc_unordered (by decide) a b), fun hc => hcmp 1 _ hc (fcmpExc_ordered (.inl rfl) a b),
        fun hc => hcmp 2 _ hc (fcmpExc_ordered (.inr rfl) a b), fun hc => hcmp 3 0 hc (fcmpExc_unordered (by decide) a b)⟩
    · have hcvt := fun md r => execFcvt_delivers (md := md) (r := r) h
      exact ⟨fun hmd => hcvt 0 _ hmd rfl, fun hmd => hcvt 1 _ hmd rfl, fun hmd => hcvt 2 _ hmd rfl, fun hmd => hcvt 3 _ hmd rfl,
        fun hmd => hcvt 4 _ hmd rfl, fun hmd => hcvt 5 _ hmd rfl, fun hmd => hcvt 6 _ hmd rfl, fun hmd => hcvt 7 _ hmd rfl⟩

end Sys2Proof.Machine

end

/-! # Operations on lanes (R117 to R119, R121) -/
section

namespace Sys2Proof.Machine

/-! ## Lanes that are ready -/

/-- A floating operation rounds its exact value once into the type of the lanes (R118). -/
theorem vfOp_ready {f : Form} {s : State} (n : Nat) (op : FVal → FVal → FVal) (h : lanesReady f s false) :
    lanesDone f s n false (activeOf s f) ((List.range (laneCount (tyOf f))).map (fun k => roundBits (laneFmt (tyOf f))
      (op (decodeF (laneFmt (tyOf f)) (laneOf s f f.oa k)) (decodeF (laneFmt (tyOf f)) (laneOf s f f.ob k))))) (vfOp n op f s) :=
  runLanewise_ready f false n (vfLane (tyOf f) (fun _ a b => op a b)) s h

/-- An integer operation wraps its exact value `v` to the width of the lanes (R121). -/
theorem viOp_ready {f : Form} {s : State} {op : Int → Int → Int} {v : Nat → Int} (h : lanesReady f s false)
    (hv : ∀ k, op (laneInt (tyOf f) (laneOf s f f.oa k)) (laneInt (tyOf f) (laneOf s f f.ob k)) = v k) :
    lanesDone f s 2 false (activeOf s f) ((List.range (laneCount (tyOf f))).map (fun k => (v k % 2 ^ laneBits (tyOf f)).toNat)) (viOp op f s) := by
  simp only [← hv]
  exact runLanewise_ready f false 2 (viLane (tyOf f) op) s h

/-- An operation on bit patterns keeps the bits `v` of the lane width (R121). -/
theorem viBits_ready {f : Form} {s : State} {op : Nat → Nat → Nat → Nat} {v : Nat → Nat} (h : lanesReady f s false)
    (hv : ∀ k, op (laneBits (tyOf f)) (laneOf s f f.oa k) (laneOf s f f.ob k) % 2 ^ laneBits (tyOf f) = v k) :
    lanesDone f s 2 false (activeOf s f) ((List.range (laneCount (tyOf f))).map v) (viBits op f s) := by
  obtain rfl := funext hv
  exact runLanewise_ready f false 2 (fun _ a b => op (laneBits (tyOf f)) a b % 2 ^ laneBits (tyOf f)) s h

/-! ## Values -/

/-- Bits already wrapped to a width stay. -/
theorem toBits_mod (w : Nat) (x : Int) : toBits w x % 2 ^ w = (x % 2 ^ w).toNat := by
  have hpos : (0 : Int) < 2 ^ w := by positivity
  refine Nat.mod_eq_of_lt ?_
  have hlt := Int.emod_lt_of_pos x hpos
  have hnn := Int.emod_nonneg x hpos.ne'
  zify
  rw [toBits, Int.toNat_of_nonneg hnn]
  exact hlt

theorem natAbs_eq_ite (a : Int) : (a.natAbs : Int) = if a < 0 then -a else a := by
  split_ifs <;> omega

/-- The range of an element type is not empty. -/
theorem laneMin_le_laneMax (ty : Nat) : laneMin ty ≤ laneMax ty := by
  have hw : (0 : Int) < 2 ^ laneBits ty := by positivity
  have hw' : (0 : Int) < 2 ^ (laneBits ty - 1) := by positivity
  unfold laneMin laneMax
  split_ifs <;> omega

theorem laneClamp_eq (ty : Nat) (x : Int) :
    laneClamp ty x = if laneMax ty < x then laneMax ty else if x < laneMin ty then laneMin ty else x := by
  have hrange := laneMin_le_laneMax ty
  unfold laneClamp
  split_ifs <;> omega

theorem laneMin_eq (ty : Nat) : laneMin ty = if ty = 4 then 0 else -2 ^ (laneBits ty - 1) := by
  simp only [laneMin, laneUnsigned, beq_iff_eq]

theorem laneMax_eq (ty : Nat) : laneMax ty = if ty = 4 then 2 ^ laneBits ty - 1 else 2 ^ (laneBits ty - 1) - 1 := by
  simp only [laneMax, laneUnsigned, beq_iff_eq]

/-! ## O7 -/

/-- Settles O7: each word is one operation on the lanes at their place (`vfOp_ready`, `viOp_ready`, `viBits_ready`), and its values are
those of the statement. -/
theorem lanes : Obligations.Lanes := by
  unfold Obligations.Lanes
  refine ⟨fun f s => ?_, fun f s h => ?_⟩
  · intro p a b d lanes
    simp only [exec_vfadd, exec_vfsub, exec_vfmul, exec_vfmin, exec_vfmax, exec_vfabs, exec_vfneg, exec_vfrcp, exec_vfrsq, exec_vfexp2, exec_vffma]
    refine ⟨fun h => ?_, fun h => runLanewise_ready f true 4 (vfLane (tyOf f) (fun d a b => fAdd d (fMul a b))) s h⟩
    exact ⟨vfOp_ready 4 fAdd h, vfOp_ready 4 (fun a b => fAdd a (fNeg b)) h, vfOp_ready 4 fMul h, vfOp_ready 4 fMin h, vfOp_ready 4 fMax h,
      vfOp_ready 4 (fun a _ => fAbs a) h, vfOp_ready 4 (fun a _ => fNeg a) h, vfOp_ready 8 (fun a _ => fDiv (.fin false 1 0) a) h,
      vfOp_ready 8 (fun a _ => fRsqrt a) h, vfOp_ready 8 (fun a _ => fExp2 a) h⟩
  · intro ty w ua ub a b wraps bits lo hi
    simp only [exec_vadd, exec_vsub, exec_vmul, exec_vmulh, exec_vmin, exec_vmax, exec_vabs, exec_vadds, exec_vand, exec_vor, exec_vxor, exec_vshl,
      exec_vshr, exec_vsar]
    exact ⟨viOp_ready h fun _ => rfl, viOp_ready h fun _ => rfl, viOp_ready h fun _ => rfl, viOp_ready h fun _ => rfl,
      viOp_ready h fun _ => rfl, viOp_ready h fun _ => rfl, viOp_ready h fun _ => natAbs_eq_ite _,
      viOp_ready h fun _ => (laneClamp_eq _ _).trans (by rw [laneMin_eq, laneMax_eq]), viBits_ready h fun _ => rfl,
      viBits_ready h fun _ => rfl, viBits_ready h fun _ => rfl, viBits_ready h fun _ => congrArg (· % _) (Nat.shiftLeft_eq _ _).symm,
      viBits_ready h fun _ => congrArg (· % _) (Nat.shiftRight_eq_div_pow _ _).symm, viBits_ready h fun _ => toBits_mod _ _⟩

end Sys2Proof.Machine

end

/-! # Lane compares, selects and permutes (R117, R120 to R122, R129, R130) -/
section

namespace Sys2Proof.Machine

/-! ## Lists over the lanes -/

theorem testBit_bitsOf (l : List Bool) (k : Nat) : (bitsOf l).testBit k = (l[k]?).getD false := by
  induction l generalizing k with
  | nil => simp [bitsOf]
  | cons b r ih =>
    have hcons : bitsOf (b :: r) = (if b then 1 else 0) + 2 * bitsOf r := rfl
    cases k with
    | zero => cases b <;> simp [hcons, Nat.testBit_zero]
    | succ k =>
      have hhalf : ((if b then 1 else 0) + 2 * bitsOf r) / 2 = bitsOf r := by split_ifs <;> omega
      rw [hcons, Nat.testBit_succ, hhalf, ih]
      rfl

theorem mergeLanes_range {α : Type} (n : Nat) (act : Nat → Bool) (new old : Nat → α) :
    List.zipWith (fun (a : Bool) (p : α × α) => if a then p.1 else p.2) ((List.range n).map act)
      (((List.range n).map new).zip ((List.range n).map old)) = (List.range n).map (fun k => if act k then new k else old k) := by
  rw [zip_range, zipWith_range]

theorem laneAt_range {n k : Nat} (a : Nat → Nat) (hk : k < n) : laneAt ((List.range n).map a) k = a k := by
  simp [laneAt, List.getElem?_range hk]

/-- A list filled up with zeros, lane by lane. -/
theorem append_copies (l : List Nat) {n : Nat} (h : l.length ≤ n) :
    l ++ copies (n - l.length) 0 = (List.range n).map (fun k => (l[k]?).getD 0) := by
  refine List.ext_getElem (by simp [copies, h]) fun k hk _ => ?_
  by_cases hlt : k < l.length
  · simp [List.getElem_append_left hlt, hlt]
  · simp [List.getElem_append_right (Nat.le_of_not_lt hlt), copies, hlt]

/-- Compression packs the selected lanes in their order (R130). -/
theorem compLanes_range (n : Nat) (sel : Nat → Bool) (a : Nat → Nat) : compLanes ((List.range n).map sel) ((List.range n).map a) =
    (List.range n).map (fun k => (((List.range n).filter sel)[k]?.map a).getD 0) := by
  have hkept : ((((List.range n).map sel).zip ((List.range n).map a)).filter (·.1)).map (·.2) = ((List.range n).filter sel).map a := by
    rw [zip_range, List.filter_map, List.map_map]
    rfl
  have hlen : (((List.range n).filter sel).map a).length ≤ n := by simpa using List.length_filter_le sel (List.range n)
  simp only [compLanes, hkept, List.length_map, List.length_range] at hlen ⊢
  simpa using append_copies (((List.range n).filter sel).map a) (by simpa using hlen)

/-- Expansion gives a selected lane the next of the low lanes (R130). -/
theorem expandLanes_range (n : Nat) (sel : Nat → Bool) (as : List Nat) : expandLanes ((List.range n).map sel) as =
    (List.range n).map (fun k => if sel k then (as[((List.range k).filter sel).length]?).getD 0 else 0) := by
  induction n generalizing sel as with
  | zero => rfl
  | succ n ih =>
    have hcount : ∀ k, ((List.range (k + 1)).filter sel).length =
        ((List.range k).filter (sel ∘ Nat.succ)).length + if sel 0 then 1 else 0 := fun k => by
      rw [List.range_succ_eq_map, List.filter_cons, List.filter_map]
      split_ifs <;> simp
    rw [List.range_succ_eq_map]
    simp only [List.map_cons, List.map_map, Function.comp_def, hcount, Nat.succ_eq_add_one]
    have hrest := ih (sel ∘ Nat.succ)
    simp only [Function.comp_def, Nat.succ_eq_add_one] at hrest
    cases hsel : sel 0 with
    | false => simp [expandLanes, hrest]
    | true => cases as <;> simp [expandLanes, hrest]

theorem copies_set (n j v : Nat) : (copies n (none : Option Nat)).set j (some v) =
    (List.range n).map (fun k => if k == j then some v else none) := by
  refine List.ext_getElem (by simp [copies]) fun k _ _ => ?_
  simp only [copies, List.getElem_set, List.getElem_replicate, List.getElem_map, List.getElem_range, beq_iff_eq, eq_comm (a := j)]

/-! ## Compares (R120) -/

theorem laneCount_pos (ty : Nat) : 0 < laneCount ty := by
  unfold laneCount laneBits
  split <;> norm_num

/-- A ready compare writes the bits of the active lanes, keeps the masked ones and clears those above the lanes. -/
theorem runLaneCompare_ready {f : Form} {s : State} (n : Nat) (test : Nat → Nat → Bool)
    (h : formReady s f (some (laneCount (tyOf f))) .none = true) (hc : checkCursors (begin s) f false = .ok ()) :
    ∃ x : Word, runLaneCompare f (tyOf f) n test s = lanesGive f s n (fun t => t.writeP (regOf f.od) x) ∧
      ∀ k < 64, x.getLsbD k = (decide (k < laneCount (tyOf f)) && if (guardMask s.me f.guard).getLsbD k then
        test (laneOf s f f.oa k) (laneOf s f f.ob k) else (s.me.readP (regOf f.od)).getLsbD k) := by
  refine ⟨BitVec.ofNat 64 (bitsOf ((List.range (laneCount (tyOf f))).map (fun k => if (guardMask s.me f.guard).getLsbD k then
    test (laneOf s f f.oa k) (laneOf s f f.ob k) else (s.me.readP (regOf f.od)).getLsbD k))), ?_, fun k hk => ?_⟩
  · refine run_ready_ok _ _ _ _ _ _ h ?_
    simp only [hc, laneOf_eq, begin_guardMask, begin_readP, activeLanes, zipWith_range, mergeLanes_range, bind, Except.bind, pure, Except.pure]
  · rw [BitVec.getLsbD_ofNat, testBit_bitsOf]
    by_cases hn : k < laneCount (tyOf f)
    · simp [hk, hn]
    · simp [hn]

/-! ## Lanes that stay (R122, R129) -/

/-- A ready word that writes only some of the lanes. -/
theorem runLanesOpt_only {f : Form} {s : State} (m : Nat) {res : State → List Nat → List Nat → List Nat → List (Option Nat)} {who : Nat → Bool}
    {op : Nat → Nat} {act : List Bool} {new : List Nat} (h : lanesReady f s true)
    (hres : res (begin s) ((List.range (laneCount (tyOf f))).map (laneOf s f f.od)) ((List.range (laneCount (tyOf f))).map (laneOf s f f.oa))
      ((List.range (laneCount (tyOf f))).map (laneOf s f f.ob)) =
      (List.range (laneCount (tyOf f))).map (fun k => if who k then some (op k) else none))
    (hal : act.length = laneCount (tyOf f)) (hnl : new.length = laneCount (tyOf f))
    (ha : ∀ k < laneCount (tyOf f), act[k]? = some ((guardMask s.me f.guard).getLsbD k && who k))
    (hin : ∀ k < laneCount (tyOf f), who k = true → new[k]? = some (op k))
    (hout : ∀ k < laneCount (tyOf f), who k = false → new[k]? = some 0) :
    lanesDone f s m true act new (runLanesOpt f (tyOf f) true m res s) := by
  have hact : List.zipWith (fun (a : Bool) (n : Option Nat) => a && n.isSome) (activeOf s f)
      ((List.range (laneCount (tyOf f))).map (fun k => if who k then some (op k) else none)) = act := by
    rw [activeOf, zipWith_range]
    refine List.ext_getElem? fun k => ?_
    by_cases hk : k < laneCount (tyOf f)
    · rw [ha k hk, List.getElem?_map, List.getElem?_range hk]
      cases hw : who k <;> simp [hw]
    · rw [List.getElem?_eq_none (by simpa using hk), List.getElem?_eq_none (by omega)]
  have hnew : ((List.range (laneCount (tyOf f))).map (fun k => if who k then some (op k) else none)).map (fun n => n.getD 0) = new := by
    refine List.ext_getElem? fun k => ?_
    by_cases hk : k < laneCount (tyOf f)
    · rw [List.getElem?_map, List.getElem?_map, List.getElem?_range hk]
      cases hw : who k
      · simp [hw, hout k hk hw]
      · simp [hw, hin k hk hw]
    · rw [List.getElem?_eq_none (by simpa using hk), List.getElem?_eq_none (by omega)]
  rw [← hnew]
  exact runLanesOpt_ready f true m res s _ act h hres hact

/-! ## Permutes (R129, R130) -/

section Ready
variable {f : Form} {s : State} (h : lanesReady f s false)
include h

/-- A word whose lanes are a list of the operands gives that list. -/
theorem runLanes_gives (m : Nat) {res : State → List Nat → List Nat → List Nat → List Nat} {v : Nat → Nat}
    (hres : res (begin s) ((List.range (laneCount (tyOf f))).map (laneOf s f f.od)) ((List.range (laneCount (tyOf f))).map (laneOf s f f.oa))
      ((List.range (laneCount (tyOf f))).map (laneOf s f f.ob)) = (List.range (laneCount (tyOf f))).map v) :
    lanesDone f s m false (activeOf s f) ((List.range (laneCount (tyOf f))).map v) (runLanes f (tyOf f) false m res s) :=
  runLanes_ready f false m res s _ h hres (by simp)

theorem execVperm_ready : lanesDone f s 3 false (activeOf s f) ((List.range (laneCount (tyOf f))).map (fun k =>
    laneOf s f f.oa (laneOf s f f.ob k % laneCount (tyOf f)))) (execVperm f s) := by
  refine runLanes_gives h 3 ?_
  rw [List.map_map]
  exact List.map_congr_left fun k _ => laneAt_range _ (Nat.mod_lt _ (laneCount_pos _))

theorem execVbcast_ready : lanesDone f s 3 false (activeOf s f) ((List.range (laneCount (tyOf f))).map (fun _ =>
    laneOf s f f.oa ((s.me.value f.ob).toNat % laneCount (tyOf f)))) (execVbcast f s) := by
  refine runLanes_gives h 3 ?_
  rw [begin_value, laneAt_range _ (Nat.mod_lt _ (laneCount_pos _)), copies, List.map_const', List.length_range]

theorem execVrot_ready : lanesDone f s 3 false (activeOf s f) ((List.range (laneCount (tyOf f))).map (fun k =>
    laneOf s f f.oa ((k + (s.me.value f.ob).toNat) % laneCount (tyOf f)))) (execVrot f s) := by
  refine runLanes_gives h 3 ?_
  rw [begin_value]
  exact List.map_congr_left fun k _ => laneAt_range _ (Nat.mod_lt _ (laneCount_pos _))

theorem execVcomp_ready : lanesDone f s 3 false (activeOf s f) ((List.range (laneCount (tyOf f))).map (fun k =>
    (((List.range (laneCount (tyOf f))).filter (fun k => (s.me.value f.ob).getLsbD k))[k]?.map (laneOf s f f.oa)).getD 0)) (execVcomp f s) := by
  refine runLanes_gives h 3 ?_
  rw [begin_value]
  exact compLanes_range _ _ _

theorem execVexpd_ready : lanesDone f s 3 false (activeOf s f) ((List.range (laneCount (tyOf f))).map (fun k =>
    if (s.me.value f.ob).getLsbD k then laneOf s f f.oa ((List.range k).filter (fun k => (s.me.value f.ob).getLsbD k)).length else 0))
    (execVexpd f s) := by
  refine runLanes_gives h 3 ?_
  rw [begin_value, activeLanes, expandLanes_range]
  refine List.map_congr_left fun k hk => ?_
  have hlow : ((List.range k).filter (fun k => (s.me.value f.ob).getLsbD k)).length < laneCount (tyOf f) :=
    lt_of_le_of_lt (by simpa using List.length_filter_le (fun k => (s.me.value f.ob).getLsbD k) (List.range k)) (List.mem_range.mp hk)
  exact if_congr Iff.rfl (laneAt_range (laneOf s f f.oa) hlow) rfl

theorem execVext_ready : execVext f s = lanesGive f s 3 (fun t => t.writeG (regOf f.od)
    (reducedWord (tyOf f) (laneOf s f f.oa ((s.me.value f.ob).toNat % laneCount (tyOf f))))) := by
  obtain ⟨hform, hcursors⟩ := h
  refine run_ready_ok _ _ _ _ _ _ hform ?_
  simp only [hcursors, laneOf_eq, begin_value, laneAt_range _ (Nat.mod_lt _ (laneCount_pos _)), bind, Except.bind, pure, Except.pure]

end Ready

/-! ## O8 -/

/-- Settles O8: a compare by the bits it writes (`runLaneCompare_ready`), a select and an insert by the lanes they keep (`runLanesOpt_only`),
and the permutes by the lists of their lanes. -/
theorem laneComparesAndMoves : Obligations.LaneComparesAndMoves := by
  unfold Obligations.LaneComparesAndMoves
  refine ⟨fun f s h hc => ?_, fun f s => ?_⟩
  · simp only [exec_vfcmpeq, exec_vfcmplt, exec_vfcmple, exec_vcmpeq, exec_vcmplt]
    exact ⟨runLaneCompare_ready 4 _ h hc, runLaneCompare_ready 4 _ h hc, runLaneCompare_ready 4 _ h hc, runLaneCompare_ready 2 _ h hc,
      runLaneCompare_ready 2 _ h hc⟩
  · intro n a b x sel lanes only
    simp only [exec_vperm, exec_vbcast, exec_vrot, exec_vcomp, exec_vexpd, exec_vext, exec_vsel, exec_vins]
    refine ⟨fun h => ⟨execVperm_ready h, execVbcast_ready h, execVrot_ready h, execVcomp_ready h, execVexpd_ready h, execVext_ready h⟩,
      fun h => ⟨fun act new hal hnl => runLanesOpt_only 2 h ?_ hal hnl, fun act new hal hnl => runLanesOpt_only 3 h ?_ hal hnl⟩⟩
    · rw [begin_value, activeLanes, zipWith_range]
    · simp only [begin_value]
      exact copies_set _ _ _

end Sys2Proof.Machine

end

/-! # Bytes of lanes, and stores to scratchpads (R60, R117, R250, R277) -/
section

namespace Sys2Proof.Machine

/-! ## Lanes of a line (R115) -/

/-- A field of bits that lies below the bits cut off. -/
theorem mod_field (x : Nat) {w a c : Nat} (h : a + c ≤ w) : x % 2 ^ w / 2 ^ a % 2 ^ c = x / 2 ^ a % 2 ^ c := by
  have hsplit : 2 ^ w = 2 ^ a * 2 ^ (w - a) := by rw [← Nat.pow_add, Nat.add_sub_cancel' (by omega)]
  rw [hsplit, Nat.mod_mul_right_div_self, Nat.mod_mod_of_dvd _ (Nat.pow_dvd_pow 2 (by omega))]

/-- Lane `k` of a number made of lanes, lane 0 least significant. -/
theorem packed_lane (w : Nat) (ls : List Nat) (k : Nat) :
    ls.foldr (fun x acc => x % 2 ^ w + 2 ^ w * acc) 0 / 2 ^ (w * k) % 2 ^ w = (ls[k]?).getD 0 % 2 ^ w := by
  have hpos : 0 < 2 ^ w := by positivity
  induction ls generalizing k with
  | nil => simp
  | cons x r ih =>
    rw [List.foldr_cons]
    cases k with
    | zero => simp
    | succ k =>
      rw [Nat.mul_succ, Nat.add_comm (w * k), Nat.pow_add, ← Nat.div_div_eq_div_mul, Nat.add_mul_div_left _ _ hpos,
        Nat.div_eq_of_lt (Nat.mod_lt _ hpos), Nat.zero_add, ih]
      rfl

theorem extract_ofNat {m a c : Nat} (n : Nat) (h : a + c ≤ m) : ((BitVec.ofNat m n).extractLsb' a c).toNat = n / 2 ^ a % 2 ^ c := by
  rw [BitVec.extractLsb'_toNat, BitVec.toNat_ofNat, Nat.shiftRight_eq_div_pow, mod_field _ h]

/-- A lane of a line of lanes. -/
theorem packLanes_lane {w k : Nat} (ls : List Nat) (hk : w * k + w ≤ 512) :
    ((packLanes w ls).extractLsb' (w * k) w).toNat = (ls[k]?).getD 0 % 2 ^ w := by
  rw [packLanes, extract_ofNat _ hk, packed_lane]

/-- The widths of lanes that hold whole bytes. -/
theorem lane_bytes {w : Nat} (hw : w = 8 ∨ w = 16 ∨ w = 32) : w = 8 * (w / 8) ∧ 0 < w / 8 ∧ 512 / w * (w / 8) = 64 := by
  obtain rfl | rfl | rfl := hw <;> decide

/-- Byte `k` of a line stands in lane `k / (w / 8)`. -/
theorem byte_lane {w k : Nat} (hw : w = 8 ∨ w = 16 ∨ w = 32) (hk : k < 64) :
    k / (w / 8) < 512 / w ∧ 8 * k = w * (k / (w / 8)) + 8 * (k % (w / 8)) ∧ 8 * (k % (w / 8)) + 8 ≤ w := by
  obtain rfl | rfl | rfl := hw <;> omega

/-- A byte of a line of lanes is that of the lane it stands in. -/
theorem lineByte_packLanes {w k : Nat} (hw : w = 8 ∨ w = 16 ∨ w = 32) (ls : List Nat) (hk : k < 64) :
    lineByte (packLanes w ls) k = BitVec.ofNat 8 ((ls[k / (w / 8)]?).getD 0 / 2 ^ (8 * (k % (w / 8)))) := by
  obtain ⟨hlane, hbit, hin⟩ := byte_lane hw hk
  have hfits : w * (k / (w / 8)) + w ≤ 512 := by obtain rfl | rfl | rfl := hw <;> omega
  have hpack := packLanes_lane ls hfits
  rw [BitVec.extractLsb'_toNat, Nat.shiftRight_eq_div_pow] at hpack
  refine BitVec.eq_of_toNat_eq ?_
  rw [lineByte, BitVec.extractLsb'_toNat, Nat.shiftRight_eq_div_pow, hbit, Nat.pow_add, ← Nat.div_div_eq_div_mul, ← mod_field _ hin, hpack,
    mod_field _ hin, BitVec.toNat_ofNat]

/-- The bytes that the active lanes of a line of lanes cover, each with its place behind an address. -/
theorem mem_laneBytes_packLanes {w : Nat} (hw : w = 8 ∨ w = 16 ∨ w = 32) (act : List Bool) (base : Nat) (ls : List Nat) (a : Nat) (x : Byte) :
    (a, x) ∈ laneBytes w act base (packLanes w ls) ↔ ∃ k < 64, act[k / (w / 8)]? = some true ∧ a = base + k ∧
      x = BitVec.ofNat 8 ((ls[k / (w / 8)]?).getD 0 / 2 ^ (8 * (k % (w / 8)))) := by
  have hon : ∀ k, (act[k / (w / 8)]?).getD false = true ↔ act[k / (w / 8)]? = some true := fun k => by
    cases act[k / (w / 8)]? <;> simp
  simp only [laneBytes, List.mem_filterMap, List.mem_range, hon, Option.ite_none_right_eq_some, Option.some.injEq, Prod.mk.injEq]
  refine exists_congr fun k => and_congr_right fun hk => and_congr_right fun _ => ?_
  rw [lineByte_packLanes hw ls hk, eq_comm, eq_comm (a := BitVec.ofNat 8 _)]

/-- Lanes cover bytes where some lane is active. -/
theorem laneBytes_eq_nil_iff {w : Nat} (hw : w = 8 ∨ w = 16 ∨ w = 32) {act : List Bool} (hlen : act.length = 512 / w) (base : Nat) (l : Line) :
    laneBytes w act base l = [] ↔ true ∉ act := by
  have hpos := (lane_bytes hw).2.1
  simp only [laneBytes, List.filterMap_eq_nil_iff, List.mem_range]
  constructor
  · intro hnone hmem
    obtain ⟨j, hj⟩ := List.getElem?_of_mem hmem
    have hlt : j * (w / 8) < 64 := by
      have := (List.getElem?_eq_some_iff.mp hj).1
      obtain rfl | rfl | rfl := hw <;> omega
    simpa [Nat.mul_div_cancel _ hpos, hj] using hnone _ hlt
  · intro hoff k _
    have : act[k / (w / 8)]? ≠ some true := fun h => hoff (List.mem_of_getElem? h)
    cases hget : act[k / (w / 8)]? with
    | none => simp
    | some b => cases b with
      | false => simp
      | true => exact absurd hget this

/-- A merged lane is new where it is active. -/
theorem mergeLanes_getElem? {act : List Bool} {new old : List Nat} {k : Nat} (ha : k < act.length) (hn : k < new.length) (ho : k < old.length) :
    (mergeLanes act new old)[k]? = some (if act[k]? = some true then (new[k]?).getD 0 else old[k]) := by
  simp [mergeLanes, ha, hn, ho]

theorem lanesOf_length (w : Nat) (l : Line) : (lanesOf w l).length = 512 / w := by simp [lanesOf]

/-- A v register after a write of some of its lanes (R117). -/
theorem packLanes_mergeLanes_lane {w k : Nat} (hk : w * k + w ≤ 512) {act : List Bool} {new : List Nat} (ha : act.length = 512 / w)
    (hn : new.length = 512 / w) (hlt : k < 512 / w) (old : Line) :
    ((packLanes w (mergeLanes act new (lanesOf w old))).extractLsb' (w * k) w).toNat =
      if act[k]? = some true then (new[k]?).getD 0 % 2 ^ w else (old.extractLsb' (w * k) w).toNat := by
  have hold : (lanesOf w old)[k]'(by rw [lanesOf_length]; exact hlt) = (old.extractLsb' (w * k) w).toNat := by simp [lanesOf]
  rw [packLanes_lane _ hk, mergeLanes_getElem? (by omega) (by omega) (by rw [lanesOf_length]; exact hlt), hold, Option.getD_some]
  split_ifs
  · rfl
  · exact Nat.mod_eq_of_lt (BitVec.isLt _)

/-! ## Stores to scratchpads (R60, R277) -/

/-- What a speculative activation holds back changes no thread set. -/
theorem holdBytes_me {s s' : State} {sp : Nat × Nat × Nat} {scratch : Bool} {at_ : Nat} {va : Word} {x : Xlat} {bs : List (Nat × Byte)}
    (h : holdBytes s sp scratch at_ va x bs = .ok s') : s'.me = s.me := by
  unfold holdBytes at h
  dsimp only at h
  split at h
  · cases h; rfl
  · split_ifs at h
    cases h; rfl

theorem foldlM_me {α : Type} {f : State → α → Except Stop State} (hf : ∀ u x u', f u x = .ok u' → u'.me = u.me) :
    ∀ (l : List α) (s s' : State), l.foldlM f s = .ok s' → s'.me = s.me := by
  intro l
  induction l with
  | nil => intro s s' h; cases h; rfl
  | cons x r ih =>
    intro s s' h
    rw [List.foldlM_cons] at h
    cases hx : f s x with
    | error e => rw [hx] at h; cases h
    | ok u => rw [hx] at h; exact (ih u s' h).trans (hf s x u hx)

theorem holdScratch_me {s s' : State} {bs : List (Nat × Byte)} (h : holdScratch s bs = .ok s') : s'.me = s.me :=
  foldlM_me (fun _ _ _ h => holdBytes_me h) _ _ _ h

/-- A store to a scratchpad outside any search: it has nothing to write, or is held back by a speculative activation, or enters the store
queue as one entry. -/
theorem scratchStore_ok {s s' : State} {a : SAddr} {bs : List (Nat × Byte)} {size unlock : Option Nat} (hopen : s.me.choiceOpen = false)
    (h : scratchStore s a bs size unlock = .ok s') :
    (bs = [] ∧ unlock = none ∧ s' = s) ∨ (s.mySpec ≠ none ∧ s'.me = s.me) ∨
      (¬(bs = [] ∧ unlock = none) ∧ s' = queued s (.scratch a.core bs a.remote unlock)) := by
  have hnone : ∀ c, trailBytes c [] = [] := fun _ => rfl
  have hpush : ∀ u, pushedTrail 0 u = u := fun _ => rfl
  simp only [scratchStore, hopen, Bool.false_and, Bool.false_eq_true, if_false, List.length_nil, hnone, hpush, List.nil_append] at h
  split_ifs at h with hempty _ _ _ hspec
  · cases h
    have hnothing : bs = [] ∧ unlock = none := by simpa using hempty
    exact .inl ⟨hnothing.1, hnothing.2, rfl⟩
  · right; left
    refine ⟨by intro e; simp [e] at hspec, ?_⟩
    split at h
    · next hhold => cases h; exact holdScratch_me hhold
    · cases h
  · right; right
    cases h
    exact ⟨by simpa using hempty, State.modMe_congr _ _ _ rfl⟩

end Sys2Proof.Machine
end

/-! # Lane results, lane loads and lane stores (R117, R132 to R136, R353) -/
section

namespace Sys2Proof.Machine

/-! ## Lane results (R117) -/

/-- At a cursor the bytes of the active lanes enter the store queue of an ordinary activation outside any search. -/
theorem writeLanes_cursor {s s' : State} {w : Nat} {act : List Bool} {new : List Nat} {c : BitVec 3} {post : Bool} {inc : BitVec 8}
    (hw : w = 8 ∨ w = 16 ∨ w = 32) (hact : act.length = 512 / w) (h : writeLanes s w act (.c c post inc) new = .ok s') (hspec : s.mySpec = none)
    (hopen : s.me.choiceOpen = false) :
    (true ∉ act → s' = s) ∧ (true ∈ act → s' = queued s (.scratch (cursorAddr s c.toNat).core
      (laneBytes w act (cursorAddr s c.toNat).addr (packLanes w new)) (cursorAddr s c.toNat).remote none)) := by
  have hnil := laneBytes_eq_nil_iff hw hact (cursorAddr s c.toNat).addr (packLanes w new)
  rcases scratchStore_ok hopen h with ⟨hnone, -, rfl⟩ | ⟨hno, -⟩ | ⟨hsome, rfl⟩
  · exact ⟨fun _ => rfl, fun hon => absurd hon (hnil.mp hnone)⟩
  · exact absurd hspec hno
  · exact ⟨fun hoff => absurd ⟨hnil.mpr hoff, rfl⟩ hsome, fun _ => rfl⟩

theorem queued_me (s : State) (w : QWrite) : (queued s w).me = { s.me with storeq := s.me.storeq ++ [⟨s.uid, w, s.me.owner⟩] } := by
  rw [queued, State.me_modMe]
  rfl

/-! ## Addresses of lines (R132) -/

theorem descScratch_ok (s : State) {off b : Nat} (h : 64 * (off + b) + 64 ≤ 0x2F000) :
    descScratch s off b = .ok ⟨s.curCore, false, 64 * (off + b)⟩ := by
  have hin : ¬(3072 ≤ off + b ∨ scratchRefused (64 * (off + b)) 64 = true) := by
    simp only [scratchRefused, Bool.or_eq_true, Bool.and_eq_true, decide_eq_true_eq]
    omega
  rw [descScratch, if_neg hin]

/-! ## Lane loads (R132 to R136, R353) -/

section Loads
variable {f : Form} {s : State} {b : Nat} {rem : Bool} {c : BitVec 4} {off : BitVec 14}
  (h : formReady s f (some (laneCount (tyOf f))) .write = true) (hb : (s.me.value f.ob).toNat = b)
include h

section Lines
include hb

/-- A line of the W buffer; the replay staging in use reads zero (R193). -/
theorem execVld_w (hoa : f.oa = .b 0 rem c off) (hpath : needPath (begin s) 0 = .ok ()) (hin : off.toNat + b ≤ 4095)
    (hland : anvilBefore (begin s) (AnvilCmd.landsOn false (off.toNat + b)) = false) :
    execVld f s = if stagingBusy (begin s).myCore (off.toNat + b) then .next (finished f.hints (loadLanes (begin s) f 0))
      else .next (finished f.hints (markTyped (begin s) f 0 (off.toNat + b)
        (loadLanes (begin s) f ((begin s).wLine (begin s).curCore (off.toNat + b))))) := by
  rw [execVld, run_ready _ _ _ _ _ h]
  simp only [hoa, hpath, lineIndex, begin_value, hb, hland, bind, Except.bind, pure, Except.pure, Nat.not_lt.mpr hin, Bool.false_eq_true, if_false]
  split_ifs <;> rfl

theorem execVld_a (hoa : f.oa = .b 1 rem c off) (hpath : needPath (begin s) 0 = .ok ()) (hin : off.toNat + b ≤ 2047)
    (hland : anvilBefore (begin s) (AnvilCmd.landsOn true (off.toNat + b)) = false) :
    execVld f s = .next (finished f.hints (markTyped (begin s) f 1 (off.toNat + b)
      (loadLanes (begin s) f ((begin s).aLine (begin s).curCore (off.toNat + b))))) := by
  rw [execVld, run_ready _ _ _ _ _ h]
  simp only [hoa, hpath, lineIndex, begin_value, hb, hland, bind, Except.bind, pure, Except.pure, Nat.not_lt.mpr hin, Bool.false_eq_true, if_false]
  rfl

theorem execVld_tile (hoa : f.oa = .b 2 rem c off) (hpath : needPath (begin s) 0 = .ok ()) (hin : b ≤ 63)
    (htile : anvilBefore (begin s) (fun a => a.tile == off.toNat % 16) = false) :
    execVld f s = .next (finished f.hints (markTyped (begin s) f 2 (off.toNat % 16 * 64 + b)
      (loadLanes (begin s) f ((begin s).cLine (begin s).curCore (off.toNat % 16) b)))) := by
  rw [execVld, run_ready _ _ _ _ _ h]
  simp only [hoa, hpath, lineIndex, begin_value, hb, htile, bind, Except.bind, pure, Except.pure, Nat.not_lt.mpr hin, Bool.false_eq_true, if_false]
  rfl

theorem execVld_scratch (hoa : f.oa = .b 3 rem c off) (hpath : needPath (begin s) 0 = .ok ()) (hin : 64 * (off.toNat + b) + 64 ≤ 0x2F000)
    {a : SAddr} (ha : a = ⟨(begin s).curCore, false, 64 * (off.toNat + b)⟩) (hneed : needScratch (begin s) a [off.toNat + b] = .ok ()) :
    execVld f s = .next (finished f.hints (markLanes (begin s) f a (lineAddrs (begin s) f a) (BitVec.ofNat 64 (64 * (off.toNat + b)))
      (loadLanes (begin s) f (seenLine (begin s) a.core (a.addr / 64))))) := by
  have hline : 64 * (off.toNat + b) / 64 = off.toNat + b := Nat.mul_div_cancel_left _ (by norm_num)
  subst ha
  rw [execVld, run_ready _ _ _ _ _ h]
  simp only [hoa, hpath, lineIndex, begin_value, hb, descScratch_ok _ hin, hline, hneed, bind, Except.bind, pure, Except.pure]
  rfl

end Lines

/-- The line at a cursor: in the own scratchpad at once, of another core as a result in flight (R52). -/
theorem execVld_cursor {k : BitVec 3} {post : Bool} {inc : BitVec 8} (hoa : f.oa = .c k post inc) (halign : cursorAligned (begin s) f.oa = .ok ())
    (hrange : cursorInRange (begin s) f.oa = .ok ()) {a : SAddr} (ha : cursorAddr (begin s) (regOf f.oa) = a)
    (hneed : needScratch (begin s) a [a.addr / 64] = .ok ()) :
    (a.remote = false → execVld f s = .next (finished f.hints (markLanes (begin s) f a (lineAddrs (begin s) f a)
      (((begin s).me.readC (regOf f.oa)).setWidth 64) (loadLanes (begin s) f (seenLine (begin s) a.core (a.addr / 64)))))) ∧
    (a.remote = true → needCredit (begin s) = .ok () → execVld f s = .next (finished f.hints ((pendV (begin s) (regOf f.od) true
      (((begin s).me.readC (regOf f.oa)).setWidth 64) (.svload a.core (laneLoads (laneBits (tyOf f)) (activeLanes (guardMask s.me f.guard)
        (laneCount (tyOf f))) (fun i => a.addr + i * (laneBits (tyOf f) / 8))))).modMe (bumpCursors f)))) := by
  rw [hoa] at halign hrange ha
  constructor
  · intro hlocal
    rw [execVld, run_ready _ _ _ _ _ h]
    simp only [hoa, halign, hrange, ha, hneed, hlocal, bind, Except.bind, pure, Except.pure, Bool.false_eq_true, if_false]
    rfl
  · intro hremote hcredit
    rw [execVld, run_ready _ _ _ _ _ h]
    simp only [hoa, halign, hrange, ha, hneed, hremote, if_true, remoteVLoad, hcredit, begin_guardMask, bind, Except.bind, pure, Except.pure]
    rfl

/-- Lanes loaded from the addresses at their offsets from a cursor (R133, R134, R136). -/
theorem lanesLoad_ready {off : State → Nat → Int} {d : Nat → Int} (hoff : off (begin s) = d) {a : SAddr}
    (ha : cursorAddr (begin s) (regOf f.oa) = a) {act : List Bool} (hact : act = activeLanes (guardMask s.me f.guard) (laneCount (tyOf f)))
    {bytes : List (Nat × Nat)} (hbytes : bytes = laneLoads (laneBits (tyOf f)) act (fun i => laneAddr a (d i)))
    (hcheck : checkLanes ((begin s).me.readC (regOf f.oa)) (laneBits (tyOf f)) act (fun i => laneAddr a (d i)) = .ok ())
    (hneed : needScratch (begin s) a (bytes.map (fun p => p.2 / 64)) = .ok ()) :
    (a.remote = false → lanesLoad f off s = .next (finished f.hints (markLanes (begin s) f a (bytes.map (·.2))
      (((begin s).me.readC (regOf f.oa)).setWidth 64)
      (lanesEnd f (3 + collisions ((bytes.map (fun p => p.2 / 64)).foldr insertUniq [])) ((bytes.map (fun p => p.2 / 64)).foldr insertUniq [])
        ((begin s).modMe (fun t => t.writeV (regOf f.od)
          (setLineBytes (s.me.readV (regOf f.od)) (bytes.map (fun p => (p.1, seenByte (begin s) a.core p.2)))))))))) ∧
    (a.remote = true → needCredit (begin s) = .ok () → lanesLoad f off s = .next (finished f.hints ((pendV (begin s) (regOf f.od) true
      (((begin s).me.readC (regOf f.oa)).setWidth 64) (.svload a.core bytes)).modMe (bumpCursors f)))) := by
  subst hact hbytes
  constructor
  · intro hlocal
    rw [lanesLoad, run_ready _ _ _ _ _ h]
    simp only [hoff, ha, begin_guardMask, begin_readV, hcheck, hneed, hlocal, List.map_map, Function.comp_def, bind, Except.bind, pure,
      Except.pure, Bool.false_eq_true, if_false]
    rfl
  · intro hremote hcredit
    rw [lanesLoad, run_ready _ _ _ _ _ h]
    simp only [hoff, ha, begin_guardMask, hcheck, hneed, hremote, if_true, remoteVLoad, hcredit, bind, Except.bind, pure, Except.pure]
    rfl

end Loads

/-! ## Lane stores (R132 to R134) -/

section Stores
variable {f : Form} {s s' : State} (h : formReady s f (some (laneCount (tyOf f))) .read = true)
include h

section Lines
variable {b : Nat} {rem : Bool} {c : BitVec 4} {off : BitVec 14} (hb : (s.me.value f.ob).toNat = b)
include hb

theorem execVst_scratch (hod : f.od = .b 3 rem c off) (hin : 64 * (off.toNat + b) + 64 ≤ 0x2F000)
    (hstore : scratchStore (begin s) ⟨(begin s).curCore, false, 64 * (off.toNat + b)⟩ (laneBytes (laneBits (tyOf f))
      (activeLanes (guardMask s.me f.guard) (laneCount (tyOf f))) (64 * (off.toNat + b)) (s.me.readV (regOf f.oa))) none = .ok s') :
    execVst f s = .next (finished f.hints s') := by
  rw [execVst, run_ready _ _ _ _ _ h]
  simp only [hod, lineIndex, begin_value, hb, begin_guardMask, begin_readV, descScratch_ok _ hin, hstore, bind, Except.bind]
  rfl

/-- A store to the A buffer lands at once; one of all lanes mends the line (log 65). -/
theorem execVst_a (hod : f.od = .b 1 rem c off) (hin : off.toNat + b ≤ 2047) (hspec : (begin s).mySpec = none)
    (hpath : needPath (begin s) 0 = .ok ()) (hanvil : anvilBefore (begin s) (fun c => c.op != .cclr) = false) {act : List Bool}
    (hact : act = activeLanes (guardMask s.me f.guard) (laneCount (tyOf f))) {n : Nat} (hn : n = (begin s).curCore * 2048 + (off.toNat + b)) :
    execVst f s = .next (finished f.hints { begin s with
      abuf := mmod 0 (begin s).abuf n (fun l => setLineBytes l (laneBytes (laneBits (tyOf f)) act 0 (s.me.readV (regOf f.oa))))
      abufBad := if act.all id then mset false (begin s).abufBad n false else (begin s).abufBad }) := by
  subst hact hn
  rw [execVst, run_ready _ _ _ _ _ h]
  simp only [hod, lineIndex, begin_value, hb, begin_guardMask, begin_readV, needOrdinary, hspec, hpath, hanvil, Nat.not_lt.mpr hin,
    bind, Except.bind, pure, Except.pure, Bool.false_eq_true, if_false, if_true, Option.isSome_none]
  split_ifs <;> rfl

end Lines

theorem execVst_cursor {k : BitVec 3} {post : Bool} {inc : BitVec 8} (hod : f.od = .c k post inc) (hcursors : checkCursors (begin s) f false = .ok ())
    {a : SAddr} (ha : cursorAddr (begin s) (regOf f.od) = a)
    (hstore : scratchStore (begin s) a (laneBytes (laneBits (tyOf f)) (activeLanes (guardMask s.me f.guard) (laneCount (tyOf f))) a.addr
      (s.me.readV (regOf f.oa))) none = .ok s') : execVst f s = .next (finished f.hints (s'.modMe (bumpCursors f))) := by
  rw [hod] at ha
  rw [execVst, run_ready _ _ _ _ _ h]
  simp only [hod, ha, hcursors, begin_guardMask, begin_readV, hstore, bind, Except.bind, pure, Except.pure]
  rfl

/-- Lanes stored to the addresses at their offsets from a cursor (R133, R134). -/
theorem lanesStore_ready {off : State → Nat → Int} {d : Nat → Int} (hoff : off (begin s) = d) {a : SAddr}
    (ha : cursorAddr (begin s) (regOf f.od) = a) {act : List Bool} (hact : act = activeLanes (guardMask s.me f.guard) (laneCount (tyOf f)))
    (hcheck : checkLanes ((begin s).me.readC (regOf f.od)) (laneBits (tyOf f)) act (fun i => laneAddr a (d i)) = .ok ())
    (hstore : scratchStore (begin s) a ((laneLoads (laneBits (tyOf f)) act (fun i => laneAddr a (d i))).map
      (fun p => (p.2, lineByte (s.me.readV (regOf f.oa)) p.1))) none = .ok s') :
    lanesStore f off s = .next (finished f.hints (s'.modMe (bumpCursors f))) := by
  subst hact
  rw [lanesStore, run_ready _ _ _ _ _ h]
  simp only [hoff, ha, hcheck, begin_guardMask, begin_readV, hstore, bind, Except.bind, pure, Except.pure]
  rfl

end Stores

/-! ## O10 -/

theorem begin_strideOff (f : Form) (s : State) : strideOff f (begin s) = fun (i : Nat) => (i : Int) * (s.me.value f.ob).toInt := by
  funext i
  rw [strideOff, begin_value]

theorem begin_gatherOff (f : Form) (s : State) :
    gatherOff f (begin s) = fun (i : Nat) => ((laneAt (lanesOf (laneBits (tyOf f)) (s.me.readV (regOf f.ob))) i : Nat) : Int) := by
  funext i
  rw [gatherOff, begin_readV]

/-- Settles O10: a lane result by the lanes of the line written (`packLanes_mergeLanes_lane`) or by the bytes queued (`writeLanes_cursor`), and
each load and store by its buffer, its cursor or its lane addresses. -/
theorem laneMemory : Obligations.LaneMemory := by
  unfold Obligations.LaneMemory
  refine ⟨fun s w act new i te c post inc hw hact hnew => ⟨⟨_, rfl, fun k hk => ?_⟩, fun s' hs hspec hopen => ?_⟩, fun f s h => ?_,
    fun f s h => ?_⟩
  · have hfits : w * k + w ≤ 512 := by obtain rfl | rfl | rfl := hw <;> omega
    rw [State.me_modMe, TSet.readV_writeV, if_pos rfl]
    exact packLanes_mergeLanes_lane hfits hact hnew hk _
  · obtain ⟨hoff, hon⟩ := writeLanes_cursor hw hact hs hspec hopen
    refine ⟨fun hmem => ?_, hoff⟩
    rw [hon hmem, queued_me]
    exact ⟨_, rfl, _, rfl, mem_laneBytes_packLanes hw act _ new⟩
  · simp only [exec_vld, exec_vlds, exec_vgth]
    refine ⟨fun rem c off hoa => execVld_w h rfl hoa, fun rem c off hoa => execVld_a h rfl hoa, fun rem c off hoa => execVld_tile h rfl hoa,
      fun rem c off hoa hpath hin => execVld_scratch h rfl hoa hpath hin rfl,
      fun k post inc hoa halign hrange => execVld_cursor h hoa halign hrange rfl, fun out off hout => ?_⟩
    rcases hout with ⟨rfl, rfl⟩ | ⟨rfl, rfl⟩
    · exact lanesLoad_ready h (begin_strideOff f s) rfl rfl rfl
    · exact lanesLoad_ready h (begin_gatherOff f s) rfl rfl rfl
  · simp only [exec_vst, exec_vsts, exec_vsct]
    refine ⟨fun rem c off s' hod => execVst_scratch h rfl hod, fun rem c off hod hin hspec hpath hanvil =>
      execVst_a h rfl hod hin hspec hpath hanvil rfl rfl, fun c post inc s' hod hcursors => execVst_cursor h hod hcursors rfl,
      fun out off hout => ?_⟩
    rcases hout with ⟨rfl, rfl⟩ | ⟨rfl, rfl⟩
    · exact fun hcheck s' => lanesStore_ready h (begin_strideOff f s) rfl rfl hcheck
    · exact fun hcheck s' => lanesStore_ready h (begin_gatherOff f s) rfl rfl hcheck

end Sys2Proof.Machine

end

/-! # The store queue of a thread set through traps and stalls (R36, R63, R279, R343, R348, R349) -/
section

namespace Sys2Proof.Machine

/-! ## Kills leave the store queues of idle thread sets (R349) -/

/-- From `s` to `t` a thread set without an activation begins none and keeps its store queue. -/
structure IdleKept (s t : State) : Prop where
  curCore : t.curCore = s.curCore
  curTs : t.curTs = s.curTs
  idle : ∀ c k, (s.tset c k).act = none → (t.tset c k).act = none ∧ (t.tset c k).storeq = (s.tset c k).storeq

theorem IdleKept.refl (s : State) : IdleKept s s := ⟨rfl, rfl, fun _ _ h => ⟨h, rfl⟩⟩

theorem IdleKept.trans {s t u : State} (h : IdleKept s t) (h' : IdleKept t u) : IdleKept s u where
  curCore := h'.curCore.trans h.curCore
  curTs := h'.curTs.trans h.curTs
  idle c k hidle := by
    obtain ⟨hact, hq⟩ := h.idle c k hidle
    obtain ⟨hact', hq'⟩ := h'.idle c k hact
    exact ⟨hact', hq'.trans hq⟩

theorem IdleKept.foldl {α : Type} {s : State} {l : List α} {f : State → α → State} (h : ∀ u x, IdleKept u (f u x)) : IdleKept s (l.foldl f s) :=
  List.foldlRecOn (motive := IdleKept s) _ _ (.refl s) fun u hu x _ => hu.trans (h u x)

theorem Aborts.idleKept {s t : State} (h : Aborts s t) : IdleKept s t :=
  ⟨h.curCore, h.curTs, fun c k hidle => by rw [h.idle c k hidle]; exact ⟨hidle, rfl⟩⟩

theorem Calm.idleKept {s t : State} (h : Calm s t) : IdleKept s t := h.aborts.idleKept

/-- A change of one thread set that neither begins an activation nor queues a store. -/
theorem Sets.idleKept {core ts : Nat} {x : TSet} {s t : State} (h : Sets core ts x s t) (hact : x.act = (s.tset core ts).act)
    (hq : x.storeq = (s.tset core ts).storeq) : IdleKept s t where
  curCore := h.curCore
  curTs := h.curTs
  idle c k hidle := by
    by_cases hkey : c * 4 + k = core * 4 + ts
    · have hsame : ∀ u : State, u.tset c k = u.tset core ts := fun u => by rw [State.tset, hkey]; rfl
      rw [hsame, h.own, hact, hq, ← hsame]
      exact ⟨hidle, rfl⟩
    · rw [h.others c k hkey]
      exact ⟨hidle, rfl⟩

theorem IdleKept.modTset (s : State) (core ts : Nat) {f : TSet → TSet} (hact : ∀ t, (f t).act = t.act) (hq : ∀ t, (f t).storeq = t.storeq) :
    IdleKept s (s.modTset core ts f) := (Sets.modTset s core ts f).idleKept (hact _) (hq _)

/-- What becomes of the slot of an activation that has ended: its message returns last, or the slot is freed (R169, R187). -/
def endSlot (s : State) (core ts : Nat) (code : EndCode) (a : Act) : State :=
  if code = 2 then
    match runningSlot s core ts with
    | some k =>
      notIdle (s.modCore core (fun c => match takeAt c.inbox k with
        | some (x, rest) =>
          { c with inbox := rest ++ [{ x with state := .eligible, age := 0, since := s.cycle core, aborts := 0, arrival := s.now }] }
        | none => c)) core
    | none =>
      match a.origin with
      | .deque => returnRecord s core ts false { state := .eligible, msg := a.msg }
      | _ => s
  else launchEnded (freeSlot s core ts) core ts a.launch false

theorem Calm.endSlot (s : State) (core ts : Nat) (code : EndCode) (a : Act) : Calm s (endSlot s core ts code a) := by
  unfold Machine.endSlot
  split_ifs
  · split
    · exact {}
    · split
      · exact .returnRecord s core ts false _
      · exact .refl s
  · exact (Calm.freeSlot s core ts).trans (Steady.launchEnded _ core ts _ false).calm

theorem finishEnd_ending {s : State} {core ts : Nat} {code : EndCode} {a : Act} (h : (s.tset core ts).ending = some (code, a)) :
    finishEnd s core ts = settleTheft (becameFree ((endSlot (releaseHolds (releaseLocks s core ts) core ts a) core ts code a).modTset core ts
      (fun t => { t with ending := none })) core) core ts := by
  unfold finishEnd
  rw [h]
  rfl

theorem IdleKept.finishEnd (s : State) (core ts : Nat) : IdleKept s (finishEnd s core ts) := by
  cases hend : (s.tset core ts).ending with
  | none =>
    unfold Machine.finishEnd
    rw [hend]
    exact .refl s
  | some e =>
    obtain ⟨code, a⟩ := e
    rw [finishEnd_ending hend]
    set u := Machine.endSlot (Machine.releaseHolds (Machine.releaseLocks s core ts) core ts a) core ts code a
    have hslot : IdleKept s u := ((Steady.releaseLocks s core ts).calm.idleKept.trans
      ((Sets.releaseHolds _ core ts a).idleKept rfl rfl)).trans (Calm.endSlot _ core ts code a).idleKept
    have hended : IdleKept u (u.modTset core ts (fun t => { t with ending := none })) := .modTset u core ts (fun _ => rfl) (fun _ => rfl)
    obtain ⟨g, htheft⟩ := Sets.settleTheft (becameFree (u.modTset core ts (fun t => { t with ending := none })) core) core ts
    exact hslot.trans (hended.trans ((Calm.becameFree _ core).idleKept.trans (htheft.idleKept rfl rfl)))

theorem TSet.withoutWork_storeq (s : State) (ctx : Nat) (t : TSet) : (t.withoutWork s ctx).storeq = t.storeq := by
  unfold TSet.withoutWork
  dsimp only
  split_ifs <;> rfl

theorem IdleKept.dropWork (s : State) (ctx : Nat) : IdleKept s (dropWork s ctx) where
  curCore := rfl
  curTs := rfl
  idle c k h := ⟨(Ends.dropWork s ctx).acts c k h,
    mget_map_keeps TSet.storeq (TSet.withoutWork_storeq s.fresh.2 ctx) TSet.reset s.tsets (c * 4 + k)⟩

theorem IdleKept.killAborted (s : State) (ctx : Nat) : IdleKept s (killAborted s ctx) :=
  IdleKept.trans (t := s.modContext ctx (fun c => { c with killed := true })) ⟨rfl, rfl, fun _ _ h => ⟨h, rfl⟩⟩
    (.foldl fun u k => (Aborts.abortActivation (k / 4) (k % 4) 0x43 0 u).idleKept)

theorem IdleKept.killEnded (s : State) (ctx : Nat) : IdleKept s (killEnded s ctx) :=
  .foldl fun u k => (IdleKept.modTset u (k / 4) (k % 4) (f := fun t => { t with releasing := [], armAfter := none }) (fun _ => rfl)
    (fun _ => rfl)).trans (.finishEnd _ (k / 4) (k % 4))

theorem IdleKept.killDropped (s : State) (ctx p reason core ts : Nat) (id : Word) : IdleKept s (killDropped s ctx p reason core ts id) := by
  have hnotice : ∀ u : State, Calm u (Machine.supervisorNotice (Machine.endBindings (u.modContext ctx
      (fun c => { c with saved := [], moved := [], events := [], bindings := [] })) ctx) p 1 reason ctx core ts 0 id) := fun u =>
    (Calm.modContext (by intro; rfl)).trans ((Calm.endBindings _ ctx).trans (Steady.supervisorNotice _ _ _ _ _ _ _ _ _).calm)
  exact (IdleKept.dropWork s ctx).trans ((Calm.scrubCores _ _).idleKept.trans (hnotice _).idleKept)

theorem IdleKept.killContext (ctx reason core ts : Nat) (s : State) : IdleKept s (killContext ctx reason core ts s) := by
  cases hctx : s.context ctx with
  | none =>
    simp only [Machine.killContext, hctx]
    exact .refl s
  | some c =>
    cases hkilled : c.killed with
    | true =>
      simp only [Machine.killContext, hctx, hkilled, if_true]
      exact .refl s
    | false =>
      rw [killContext_live reason core ts hctx hkilled]
      exact ((IdleKept.killAborted s ctx).trans (.killEnded _ ctx)).trans (.killDropped _ ctx _ reason core ts _)

/-! ## Traps queue no store (R279, R343) -/

theorem TSet.enterTrap_storeq (t : TSet) (cause : Nat) (epc tval : Word) : (t.enterTrap cause epc tval).storeq = t.storeq := by
  unfold TSet.enterTrap
  simp only [List.foldl_cons, List.foldl_nil]
  split_ifs <;> simp [TSet.fullG]

/-- The thread set under execution is one of the running ones of its context. -/
theorem me_mem_runningSets {s : State} {a : Act} (h : s.me.act = some a) : s.curCore * 4 + s.curTs ∈ runningSets s a.msg.ctx.toNat := by
  have hmem : (s.curCore * 4 + s.curTs, s.me) ∈ s.tsets := by
    refine mem_of_mget rfl fun hreset => ?_
    rw [hreset] at h
    exact absurd h (by simp [TSet.reset])
  exact List.mem_filterMap.mpr ⟨_, hmem, by simp [h]⟩

/-- The kill of the own context ends the thread set under execution, or leaves its store queue. -/
theorem killContext_me_storeq {s : State} {t : State} (reason : Nat)
    (ht : t = killContext (s.ctxOf s.curCore s.curTs) reason s.curCore s.curTs s) (hact : t.me.act.isSome = s.me.act.isSome) :
    t.me.storeq = s.me.storeq := by
  have hkept := IdleKept.killContext (s.ctxOf s.curCore s.curTs) reason s.curCore s.curTs s
  rw [← ht] at hkept
  have hme : t.me = t.tset s.curCore s.curTs := by rw [State.me, hkept.curCore, hkept.curTs]
  cases hidle : s.me.act with
  | none => rw [hme]; exact (hkept.idle _ _ hidle).2
  | some a =>
    have hown : s.ctxOf s.curCore s.curTs = a.msg.ctx.toNat := by
      have : (s.tset s.curCore s.curTs).act = some a := hidle
      simp only [State.ctxOf, this]
    rw [hown] at ht
    cases hctx : s.context a.msg.ctx.toNat with
    | none => rw [ht, killContext, hctx]
    | some c =>
      cases hkilled : c.killed with
      | true => simp only [ht, killContext, hctx, hkilled, if_true]
      | false =>
        have hended := (killContext_kills reason s.curCore s.curTs hctx hkilled).1 _ (me_mem_runningSets hidle)
        have hkey : ∀ u : State, u.tset ((s.curCore * 4 + s.curTs) / 4) ((s.curCore * 4 + s.curTs) % 4) = u.tset s.curCore s.curTs := fun u => by
          rw [State.tset, State.tset, Nat.div_add_mod']
        rw [hkey, ← ht, ← hme] at hended
        rw [hended, hidle] at hact
        exact absurd hact (by simp)

/-- A trap that leaves its thread set running, or idle, leaves its store queue. -/
theorem takeTrap_storeq {s t : State} {cause : Nat} {tval epc : Word} (ht : t = takeTrap cause tval epc s)
    (hact : t.me.act.isSome = s.me.act.isSome) : t.me.storeq = s.me.storeq := by
  unfold takeTrap at ht
  dsimp only at ht
  split at ht
  · rw [ht, State.me_modMe]
  · split_ifs at ht with htvec hlvl
    · have hab := Aborts.abortActivation s.curCore s.curTs cause tval s
      have hended := abortActivation_act s.curCore s.curTs cause tval s
      rw [← ht] at hab hended
      have hme : t.me = t.tset s.curCore s.curTs := by rw [State.me, hab.curCore, hab.curTs]
      rw [hme, hended] at hact
      have hidle : s.me.act = none := by simpa using hact.symm
      rw [hme, hab.idle _ _ hidle]
      rfl
    · have hsteady : ∀ u, Steady s u → (u.modMe (fun t => { t.enterTrap cause epc tval with readyAt := u.cycle u.curCore + 4 })).me.storeq =
          s.me.storeq := fun u hu => by
        rw [State.me_modMe, State.me, hu.curCore, hu.curTs, hu.tset]
        exact TSet.enterTrap_storeq s.me cause epc tval
      rw [ht]
      refine hsteady _ ?_
      split
      · exact .emitTrace s _ _ _
      · exact .refl s
    · exact killContext_me_storeq 1 ht hact

end Sys2Proof.Machine
end

/-! # The checks of a store leave the store queue (R36, R61, R63, R116, R138, R140) -/
section

namespace Sys2Proof.Machine

/-! ## Checks -/

/-- A part of a word's effect gives what `P` says, or stops by a trap or by a stall that leaves the store queue at `q`. -/
def Checked {α : Type} (q : List Queued) (P : α → Prop) : Except Stop α → Prop
  | .ok x => P x
  | .error (.trap _ _) => True
  | .error (.stall s) => s.me.storeq = q
  | .error (.took _) => False

section Checked
variable {α β : Type} {q : List Queued} {P P' : α → Prop} {Q : β → Prop} {r : Except Stop α}

theorem Checked.ok {x : α} (h : P x) : Checked q P (.ok x) := h

theorem Checked.trap (cause : Nat) (tval : Word) : Checked q P (.error (.trap cause tval)) := trivial

theorem Checked.stall {s : State} (h : s.me.storeq = q) : Checked q P (.error (.stall s)) := h

theorem Checked.bind {k : α → Except Stop β} (h : Checked q P r) (hk : ∀ x, P x → Checked q Q (k x)) : Checked q Q (r >>= k) := by
  rcases r with (_ | _ | _) | x
  · exact trivial
  · exact h
  · exact h.elim
  · exact hk x h

theorem Checked.mono (h : Checked q P r) (hP : ∀ x, r = .ok x → P x → P' x) : Checked q P' r := by
  rcases r with (_ | _ | _) | x
  · exact trivial
  · exact h
  · exact h
  · exact hP x rfl h

end Checked

variable {s : State} {f : Form}

theorem needPath_checked (s : State) (path : Nat) : Checked s.me.storeq (fun _ => True) (needPath s path) := by
  unfold needPath
  split_ifs
  · exact .stall rfl
  · exact .ok trivial

theorem needOrdinary_checked (s : State) : Checked s.me.storeq (fun _ => True) (needOrdinary s) := by
  unfold needOrdinary
  split_ifs
  · exact .stall rfl
  · exact .ok trivial

theorem waitAnvil_checked {P : Unit → Prop} (s : State) : Checked s.me.storeq P (waitAnvil s) :=
  .stall (by rw [State.me_modMe])

theorem checkRegs_checked (s : State) (t : TSet) (srcs : List Src) (dsts : List (Bool × Nat)) :
    Checked s.me.storeq (fun _ => True) (checkRegs s t srcs dsts) := by
  unfold checkRegs
  dsimp only
  split
  · exact .trap _ _
  · split
    · exact .stall rfl
    · split
      · exact .trap _ _
      · split
        · exact .stall rfl
        · exact .ok trivial

/-! ## Global accesses (R138) -/

theorem checkRights_checked (s : State) (ea : Word) (n : Nat) (need : BitVec 5) (fetch : Bool) :
    Checked s.me.storeq (fun _ => True) (checkRights s ea n need fetch) := by
  have hask : Checked (α := Unit) s.me.storeq (fun _ => True)
      (.error (.stall (s.modMe (fun t => { t with walk := .rights s.me.owner ea n need fetch })))) :=
    .stall (by rw [State.me_modMe])
  unfold checkRights
  dsimp only
  split_ifs
  · exact .ok trivial
  · split
    · split_ifs
      · exact .trap _ _
      · exact hask
    · exact hask

theorem checkXlat_checked (s : State) (ea : Word) : Checked s.me.storeq (fun _ => True) (checkXlat s ea) := by
  have hask : Checked (α := Xlat) s.me.storeq (fun _ => True) (.error (.stall (s.modMe (fun t => { t with walk := .page ea })))) :=
    .stall (by rw [State.me_modMe])
  unfold checkXlat
  split
  · exact .ok trivial
  · split
    · split_ifs
      · exact .trap _ _
      · exact hask
    · exact hask

theorem checkAccess_checked (s : State) (ea : Word) (n align : Nat) (need : BitVec 5) :
    Checked s.me.storeq (fun x => checkAccess s ea n align need = .ok x) (checkAccess s ea n align need) := by
  suffices Checked s.me.storeq (fun _ => True) (checkAccess s ea n align need) from this.mono fun _ h _ => h
  have heq : checkAccess s ea n align need = if ea.toNat % align ≠ 0 then .error (.trap 0x05 ea) else
      checkRights s ea n need false >>= fun _ => checkXlat s ea >>= fun x => needPath s 0 >>= fun _ => .ok x := by
    unfold checkAccess
    split_ifs
    · rfl
    · cases checkRights s ea n need false with
      | error e => rfl
      | ok _ => cases checkXlat s ea with
        | error e => rfl
        | ok x => cases needPath s 0 <;> rfl
  rw [heq]
  split_ifs
  · exact .trap _ _
  · exact (checkRights_checked s ea n need false).bind fun _ _ => (checkXlat_checked s ea).bind fun _ _ =>
      (needPath_checked s 0).bind fun _ _ => .ok trivial

/-! ## Scratchpads (R61, R116, R132 to R134, R138) -/

theorem checkScratch_checked (s : State) (ea : Word) (n : Nat) : Checked s.me.storeq (fun a => a = scratchOf s ea) (checkScratch s ea n) := by
  unfold checkScratch
  split_ifs
  · exact .trap _ _
  · exact .trap _ _
  · exact .ok rfl

theorem descScratch_checked (s : State) (off b : Nat) :
    Checked s.me.storeq (fun a => a = ⟨s.curCore, false, 64 * (off + b)⟩) (descScratch s off b) := by
  unfold descScratch
  split_ifs
  · exact .trap _ _
  · exact .ok rfl

theorem checkLanes_checked {q : List Queued} (cur : BitVec 25) (w : Nat) (act : List Bool) (addr : Nat → Nat) :
    Checked q (fun _ => True) (checkLanes cur w act addr) := by
  unfold checkLanes
  split
  · exact .trap _ _
  · split
    · exact .trap _ _
    · exact .ok trivial

theorem needScratch_checked (s : State) (a : SAddr) (lines : List Nat) : Checked s.me.storeq (fun _ => True) (needScratch s a lines) := by
  unfold needScratch
  split_ifs
  · exact .stall rfl
  · exact needPath_checked s 0

theorem askCursor_storeq (s : State) (a : SAddr) : (askCursor s a).me.storeq = s.me.storeq := by
  unfold askCursor
  split_ifs
  · rfl
  · simp only [State.me_modMe]
    rfl

theorem cursorAligned_checked {q : List Queued} (s : State) (o : Operand) : Checked q (fun _ => True) (cursorAligned s o) := by
  unfold cursorAligned
  split
  · split_ifs
    · exact .ok trivial
    · exact .trap _ _
  · exact .ok trivial

theorem cursorInRange_checked {q : List Queued} (s : State) (o : Operand) : Checked q (fun _ => True) (cursorInRange s o) := by
  unfold cursorInRange
  split
  · split_ifs
    · exact .trap _ _
    · exact .ok trivial
  · exact .ok trivial

theorem cursorReady_checked (s : State) (o : Operand) : Checked s.me.storeq (fun _ => True) (cursorReady s o) := by
  unfold cursorReady
  split
  · dsimp only
    split_ifs
    · split
      · split_ifs
        · exact .trap _ _
        · exact .ok trivial
      · have hneed := needScratch_checked s
        split
        · exact .stall (askCursor_storeq s _)
        · next e he => rw [← he]; exact hneed _ _
    · exact .trap _ _
    · exact needScratch_checked s _ _
  · exact .ok trivial

theorem checkCursors_checked (s : State) (f : Form) : Checked s.me.storeq (fun _ => True) (checkCursors s f false) :=
  (cursorAligned_checked s f.od).bind fun _ _ => (cursorAligned_checked s f.oa).bind fun _ _ => (cursorAligned_checked s f.ob).bind fun _ _ =>
    (cursorInRange_checked s f.od).bind fun _ _ => (cursorInRange_checked s f.oa).bind fun _ _ => (cursorInRange_checked s f.ob).bind fun _ _ =>
      (cursorReady_checked s f.oa).bind fun _ _ => cursorReady_checked s f.ob

/-! ## The store queue (R60, R142, R250) -/

/-- A store has changed nothing of the store queue, or has joined it. -/
def joins (s : State) (w : QWrite) (s' : State) : Prop := s'.me.storeq = s.me.storeq ∨ s' = queued s w

theorem scratchStore_checked {a : SAddr} {bs : List (Nat × Byte)} {size unlock : Option Nat} (hopen : s.me.choiceOpen = false) :
    Checked s.me.storeq (joins s (.scratch a.core bs a.remote unlock)) (scratchStore s a bs size unlock) := by
  suffices Checked s.me.storeq (fun _ => True) (scratchStore s a bs size unlock) from this.mono fun s' h _ => by
    rcases scratchStore_ok hopen h with ⟨-, -, rfl⟩ | ⟨-, hme⟩ | ⟨-, hq⟩
    · exact .inl rfl
    · exact .inl (by rw [hme])
    · exact .inr hq
  simp only [scratchStore, hopen, Bool.false_and, Bool.false_eq_true, if_false]
  split_ifs
  · exact .ok trivial
  · exact .trap _ _
  · exact .stall rfl
  · exact .stall rfl
  · exact .stall rfl
  · split
    · exact .ok trivial
    · exact .stall rfl
  · exact .ok trivial

theorem queueStore_checked {ea : Word} {x : Xlat} {bs : List (Nat × Byte)} :
    Checked s.me.storeq (joins s (.global ea x bs)) (queueStore s ea x bs) := by
  unfold queueStore
  split_ifs
  · exact .ok (.inl rfl)
  · suffices ∀ sp, Checked s.me.storeq (fun s' => s'.me.storeq = s.me.storeq) (holdBytes s sp false (ptrAddr ea / 64) ea x
        (bs.map (fun b => (ptrAddr ea % 64 + b.1, b.2)))) from (this _).mono fun _ _ h => .inl h
    intro sp
    unfold holdBytes
    dsimp only
    split
    · exact .ok rfl
    · split_ifs
      · exact .stall rfl
      · exact .ok rfl
  · exact .stall rfl
  · exact .ok (.inr (State.modMe_congr _ _ _ rfl))

/-! ## A word whose store joins the queue -/

theorem markStall_storeq (s : State) : (markStall s).me.storeq = s.me.storeq := by
  rw [markStall, State.me_modMe]

/-- A word that leaves one store more than before, and no activation begun or ended, has run its own effect to its end. -/
theorem conclude_joins {h : Hints} {s t : State} {P : State → Prop} {r : Except Stop State} (hr : conclude h s r = .next t)
    (hlen : t.me.storeq.length = s.me.storeq.length + 1) (hact : t.me.act.isSome = s.me.act.isSome) (hc : Checked s.me.storeq P r) :
    ∃ s', P s' ∧ t = finished h s' := by
  have hgrown : t.me.storeq ≠ s.me.storeq := fun e => by rw [e] at hlen; omega
  rcases r with (⟨cause, tval⟩ | u | _) | s'
  · exact absurd (takeTrap_storeq (Host.Outcome.next.inj hr).symm hact) hgrown
  · refine absurd ?_ hgrown
    rw [← Host.Outcome.next.inj hr, markStall_storeq]
    exact hc
  · exact hc.elim
  · exact ⟨s', hc, (Host.Outcome.next.inj hr).symm⟩

theorem run_joins {lanes : Option Nat} {use : OdUse} {body : State → Except Stop State} {t : State} {P : State → Prop}
    (ht : run f lanes use body s = .next t) (hlen : t.me.storeq.length = s.me.storeq.length + 1) (hact : t.me.act.isSome = s.me.act.isSome)
    (hc : Checked s.me.storeq P (body (begin s))) : ∃ s', P s' ∧ t = finished f.hints s' := by
  have hwait : Checked s.me.storeq P (.error (.stall (begin s))) := .stall (begin_me_storeq s)
  unfold run runWith at ht
  cases hp : s.powered with
  | false => rw [hp] at ht; cases ht
  | true =>
    simp only [hp] at ht
    split_ifs at ht
    · exact conclude_joins ht hlen hact hwait
    · exact conclude_joins ht hlen hact (.trap _ _)
    · exact conclude_joins ht hlen hact hwait
    · refine conclude_joins ht hlen hact ?_
      have hregs := checkRegs_checked (begin s) s.me (formSrcs s.me use f) (formDsts s.me use f)
      rw [begin_me_storeq] at hregs
      cases hr : checkRegs (begin s) s.me (formSrcs s.me use f) (formDsts s.me use f) with
      | error e => rw [hr] at hregs; exact hregs.bind (k := fun _ => body (begin s)) fun _ _ => hc
      | ok _ => exact hc
    · obtain ⟨at_, -, hme⟩ := applyHints_me f.hints (begin s)
      rw [← Host.Outcome.next.inj ht, hme] at hlen
      exact absurd hlen (by simp)

end Sys2Proof.Machine

end

/-! # The frame of the stores (R132 to R134, R137, R141, R142, R144, R145, R250, R324, R332) -/
section

namespace Sys2Proof.Machine

/-! ## What a store changes -/

/-- From `s` to `t` only these may change: the thread set under execution, the pass of a core and the order of its lookups, the
instruction's address, and the next number. -/
structure StoreChange (s t : State) : Prop where
  rest : t = { s with tsets := t.tsets, cores := t.cores, ia := t.ia, uid := t.uid }
  tsets : ∀ c k, c * 4 + k ≠ s.curCore * 4 + s.curTs → t.tset c k = s.tset c k
  cores : ∀ n, t.core n = { s.core n with pass := (t.core n).pass, plb := (t.core n).plb, tlb := (t.core n).tlb } ∧
    (t.core n).plb.Perm (s.core n).plb ∧ (t.core n).tlb.Perm (s.core n).tlb

theorem StoreChange.refl (s : State) : StoreChange s s := ⟨rfl, fun _ _ _ => rfl, fun _ => ⟨rfl, .refl _, .refl _⟩⟩

theorem StoreChange.trans {s t u : State} (h : StoreChange s t) (h' : StoreChange t u) : StoreChange s u where
  rest := h'.rest.trans (by rw [h.rest])
  tsets c k hk := by
    have hcur : t.curCore = s.curCore ∧ t.curTs = s.curTs := by rw [h.rest]; exact ⟨rfl, rfl⟩
    rw [h'.tsets c k (by rwa [hcur.1, hcur.2]), h.tsets c k hk]
  cores n := by
    obtain ⟨hrest, hplb, htlb⟩ := h.cores n
    obtain ⟨hrest', hplb', htlb'⟩ := h'.cores n
    exact ⟨hrest'.trans (by rw [hrest]), hplb'.trans hplb, htlb'.trans htlb⟩

theorem StoreChange.modMe (s : State) (f : TSet → TSet) : StoreChange s (s.modMe f) :=
  ⟨rfl, fun _ _ hk => State.tset_modTset_ne s f hk, fun _ => ⟨rfl, .refl _, .refl _⟩⟩

theorem StoreChange.begin (s : State) : StoreChange s (begin s) :=
  (StoreChange.modMe s (fun t => { t with pc := t.pc + 12, stalled := false })).trans
    ⟨rfl, fun _ _ _ => rfl, fun _ => ⟨rfl, .refl _, .refl _⟩⟩

theorem StoreChange.queued (s : State) (w : QWrite) : StoreChange s (queued s w) :=
  StoreChange.trans (t := { s with uid := s.uid + 1 }) ⟨rfl, fun _ _ _ => rfl, fun _ => ⟨rfl, .refl _, .refl _⟩⟩ (.modMe _ _)

/-- A change of the own core that keeps to its pass and to the order of its lookups. -/
theorem StoreChange.modMyCore {s : State} {f : Core → Core} (h : ∀ c, f c = { c with pass := (f c).pass, plb := (f c).plb, tlb := (f c).tlb } ∧
    (f c).plb.Perm c.plb ∧ (f c).tlb.Perm c.tlb) : StoreChange s (s.modMyCore f) where
  rest := rfl
  tsets _ _ _ := rfl
  cores n := by
    by_cases hn : n = s.curCore
    · subst hn
      rw [State.modMyCore, State.core_modCore_self]
      exact h _
    · rw [State.modMyCore, State.core_modCore_ne s f hn]
      exact ⟨rfl, .refl _, .refl _⟩

theorem touchLast_perm {α : Type} (p : α → Bool) (l : List α) : (touchLast p l).Perm l :=
  List.perm_append_comm.trans (List.filter_append_perm p l)

theorem StoreChange.used (s : State) (ea : Word) (n : Nat) (need : BitVec 5) (fetch : Bool) : StoreChange s (s.used ea n need fetch) :=
  .modMyCore fun _ => ⟨rfl, touchLast_perm _ _, touchLast_perm _ _⟩

theorem StoreChange.finished (h : Hints) (s : State) : StoreChange s (finished h s) := by
  have hpass : ∀ u : State, StoreChange u (if h.ys then u.modMyCore (fun c => { c with pass := true }) else u) := fun u => by
    split_ifs
    · exact .modMyCore fun _ => ⟨rfl, .refl _, .refl _⟩
    · exact .refl u
  refine (StoreChange.modMe s TSet.settled).trans ?_
  unfold Machine.finished Machine.applyHints
  by_cases hsd : h.sd = 0
  · simpa only [hsd, if_true] using hpass _
  · simp only [hsd, if_false]
    exact (hpass _).trans (.modMe _ _)

/-- A store leaves every memory as it is. -/
theorem StoreChange.sameMemory {s t : State} (h : StoreChange s t) : SameMemory s t where
  home _ := by rw [h.rest]; rfl
  scratch _ _ := by rw [h.rest]; rfl
  host := by rw [h.rest]
  buffers := by rw [h.rest]; exact ⟨rfl, rfl, rfl, rfl, rfl⟩
  caches _ := by rw [h.rest]; rfl

/-! ## A store that has joined the queue -/

/-- The frame of a store: the thread set is `m` but for its store queue and what the end of a word changes, and no memory changes. -/
structure StoreFrames (s : State) (m : TSet) (t : State) : Prop where
  rest : t = { s with tsets := t.tsets, cores := t.cores, ia := t.ia, uid := s.uid + 1 }
  memory : SameMemory s t
  tsets : ∀ c k, c * 4 + k ≠ s.curCore * 4 + s.curTs → t.tset c k = s.tset c k
  cores : ∀ n, t.core n = { s.core n with pass := (t.core n).pass, plb := (t.core n).plb, tlb := (t.core n).tlb } ∧
    (t.core n).plb.Perm (s.core n).plb ∧ (t.core n).tlb.Perm (s.core n).tlb
  ready : s.me.readyAt ≤ t.me.readyAt
  me : t.me = { m with storeq := t.me.storeq, pc := s.me.pc + 12, stalled := false, wait := .none, walk := .none, arrived := [], tried := none,
                       readyAt := t.me.readyAt }

/-- The effect of a word has queued `w` and left the thread set `m` but for that. -/
structure Stored (s : State) (m : TSet) (w : QWrite) (s' : State) : Prop where
  change : StoreChange (begin s) s'
  uid : s'.uid = s.uid + 1
  ready : m.readyAt = s.me.readyAt
  me : s'.me = { m with storeq := s.me.storeq ++ [⟨s.uid, w, s.me.owner⟩], pc := s.me.pc + 12, stalled := false }

/-- A write queued after lookups that have only been reordered. -/
theorem Stored.queued {s u : State} (w : QWrite) (hu : StoreChange (begin s) u) (hme : u.me = (begin s).me) (huid : u.uid = s.uid) :
    Stored s s.me w (queued u w) where
  change := hu.trans (.queued u w)
  uid := congrArg (· + 1) huid
  ready := rfl
  me := by
    rw [queued_me, hme, huid, begin_me]

theorem bumpCursors_eq (f : Form) (t : TSet) : bumpCursors f t = t.withCursors (bumpCursors f t) := bumpCursors_withCursors f t t

/-- Then the cursors move. -/
theorem Stored.bump {s s' : State} {w : QWrite} (f : Form) (h : Stored s s.me w s') :
    Stored s (bumpCursors f s.me) w (s'.modMe (bumpCursors f)) where
  change := h.change.trans (.modMe _ _)
  uid := h.uid
  ready := by rw [bumpCursors_eq]; rfl
  me := by
    set m : TSet := { s.me with storeq := s.me.storeq ++ [⟨s.uid, w, s.me.owner⟩], pc := s.me.pc + 12, stalled := false }
    have hm : bumpCursors f m = m.withCursors (bumpCursors f s.me) := bumpCursors_withCursors f m s.me
    rw [State.me_modMe, h.me, hm, bumpCursors_eq f s.me]
    rfl

/-- At the end of the word its frame stands, and its entry is the youngest of the queue. -/
theorem Stored.finished {s s' : State} {m : TSet} {w : QWrite} (hints : Hints) (h : Stored s m w s') :
    StoreFrames s m (finished hints s') ∧ (finished hints s').me.storeq = s.me.storeq ++ [⟨s.uid, w, s.me.owner⟩] := by
  have hchange : StoreChange s (Machine.finished hints s') := (StoreChange.begin s).trans (h.change.trans (.finished hints s'))
  have huid : (Machine.finished hints s').uid = s.uid + 1 := (congrArg State.uid (IssueChange.finished hints s').rest).trans h.uid
  obtain ⟨at_, hat, hend⟩ := finished_me hints s'
  rw [h.me] at hat hend
  refine ⟨⟨hchange.rest.trans (by rw [huid]), hchange.sameMemory, hchange.tsets, hchange.cores, ?_, ?_⟩, ?_⟩
  · rw [hend, ← h.ready]; exact hat
  · rw [hend]; rfl
  · rw [hend]; rfl

/-! ## The stores -/

/-- What the effect of a store may leave: the store queue as it was, or one entry `w` more with the thread set `m`. -/
def mayStore (s : State) (m : TSet) (W : QWrite → Prop) (s' : State) : Prop :=
  s'.me.storeq = s.me.storeq ∨ ∃ w, W w ∧ Stored s m w s'

/-- The frame of a word whose effect may store. -/
theorem run_stores {f : Form} {lanes : Option Nat} {use : OdUse} {body : State → Except Stop State} {s t : State} {m : TSet} {W : QWrite → Prop}
    (hlen : t.me.storeq.length = s.me.storeq.length + 1) (hact : t.me.act.isSome = s.me.act.isSome)
    (hc : Checked s.me.storeq (mayStore s m W) (body (begin s))) (ht : run f lanes use body s = .next t) :
    ∃ w, W w ∧ StoreFrames s m t ∧ t.me.storeq = s.me.storeq ++ [⟨s.uid, w, s.me.owner⟩] := by
  obtain ⟨s', hs, rfl⟩ := run_joins ht hlen hact hc
  rcases hs with hsame | ⟨w, hw, hstored⟩
  · rw [finished_me_storeq, hsame] at hlen
    omega
  · exact ⟨w, hw, hstored.finished f.hints⟩

/-- The same where only one entry can have joined. -/
theorem run_stores_one {f : Form} {lanes : Option Nat} {use : OdUse} {body : State → Except Stop State} {s t : State} {m : TSet}
    {w : QWrite} (hlen : t.me.storeq.length = s.me.storeq.length + 1) (hact : t.me.act.isSome = s.me.act.isSome)
    (hc : Checked s.me.storeq (mayStore s m (· = w)) (body (begin s))) (ht : run f lanes use body s = .next t) :
    StoreFrames s m t ∧ t.me.storeq = s.me.storeq ++ [⟨s.uid, w, s.me.owner⟩] := by
  obtain ⟨_, rfl, hstores⟩ := run_stores hlen hact hc ht
  exact hstores

theorem begin_choiceOpen (s : State) : (begin s).me.choiceOpen = s.me.choiceOpen := by rw [begin_me]; rfl

theorem begin_cursorAddr (s : State) (i : Nat) : cursorAddr (begin s) i = cursorAddr s i := by
  rw [cursorAddr, begin_readC]
  rfl

theorem scratchStore_mayStore {s : State} (hopen : s.me.choiceOpen = false) (a : SAddr) (bs : List (Nat × Byte)) (size unlock : Option Nat) :
    Checked s.me.storeq (mayStore s s.me (· = .scratch a.core bs a.remote unlock)) (scratchStore (begin s) a bs size unlock) := by
  have hstore := scratchStore_checked (s := begin s) (a := a) (bs := bs) (size := size) (unlock := unlock) ((begin_choiceOpen s).trans hopen)
  rw [begin_me_storeq] at hstore
  refine hstore.mono fun s' _ h => h.imp (fun e => e.trans (begin_me_storeq s)) fun e => ?_
  exact ⟨_, rfl, e ▸ .queued _ (.refl _) rfl rfl⟩

/-- A store of lanes whose cursors then move. -/
theorem bumped_mayStore {s : State} {W : QWrite → Prop} (f : Form) {r : Except Stop State} (h : Checked s.me.storeq (mayStore s s.me W) r) :
    Checked s.me.storeq (mayStore s (bumpCursors f s.me) W) (r >>= fun s' => pure (s'.modMe (bumpCursors f))) := by
  refine h.bind fun s' hs => .ok (hs.imp (fun e => ?_) fun ⟨w, hw, hstored⟩ => ⟨w, hw, hstored.bump f⟩)
  rw [State.me_modMe, bumpCursors_eq]
  exact e

/-- A check at the begin of a word. -/
theorem begin_checked {α : Type} {s : State} {P : α → Prop} {r : Except Stop α} (h : Checked (begin s).me.storeq P r) :
    Checked s.me.storeq P r := by
  rwa [begin_me_storeq] at h

section Stores
variable {f : Form} {s t : State} (hlen : t.me.storeq.length = s.me.storeq.length + 1) (hact : t.me.act.isSome = s.me.act.isSome)
include hlen hact

/-- A global store, of a register or of lanes. -/
theorem global_stores {lanes : Option Nat} {ea : Word} {n : Nat} {bs : List (Nat × Byte)} {body : State → Except Stop State}
    (hbody : body (begin s) = checkAccess (begin s) ea n n rightW >>= fun x => queueStore ((begin s).used ea n rightW false) ea x bs)
    (ht : run f lanes .read body s = .next t) : StoreFrames s s.me t ∧ ∃ x, checkAccess (begin s) ea n n rightW = .ok x ∧
      t.me.storeq = s.me.storeq ++ [⟨s.uid, .global ea x bs, s.me.owner⟩] := by
  have hc : Checked s.me.storeq (mayStore s s.me (fun w => ∃ x, checkAccess (begin s) ea n n rightW = .ok x ∧ w = .global ea x bs))
      (body (begin s)) := by
    rw [hbody]
    refine (begin_checked (checkAccess_checked _ ea n n rightW)).bind fun x hx => ?_
    refine (begin_checked (queueStore_checked (s := (begin s).used ea n rightW false))).mono fun s' _ h => h.imp (fun e => ?_) fun e => ?_
    · exact e.trans (begin_me_storeq s)
    · exact ⟨_, ⟨x, hx, rfl⟩, e ▸ .queued _ (.used _ _ _ _ _) rfl rfl⟩
  obtain ⟨w, ⟨x, hx, rfl⟩, hframe, hentry⟩ := run_stores hlen hact hc ht
  exact ⟨hframe, x, hx, hentry⟩

theorem execSt_stores (ht : execSt f s = .next t) {n : Nat} (hn : Machine.sizeOf f.md = n) : StoreFrames s s.me t ∧ ∃ x,
    checkAccess (begin s) (effAddr s f.od f.ob) n n rightW = .ok x ∧ t.me.storeq = s.me.storeq ++ [⟨s.uid,
      .global (effAddr s f.od f.ob) x ((List.range n).zip (bytesOf n (s.me.value f.oa).toNat)), s.me.owner⟩] :=
  global_stores hlen hact (by simp only [begin_effAddr, begin_value, hn]; rfl) ht

theorem execVgst_stores (ht : execVgst f s = .next t) : StoreFrames s s.me t ∧ ∃ x,
    checkAccess (begin s) (effAddr s f.od f.ob) 64 64 rightW = .ok x ∧ t.me.storeq = s.me.storeq ++ [⟨s.uid, .global (effAddr s f.od f.ob) x
      (laneBytes (laneBits (tyOf f)) (activeLanes (guardMask s.me f.guard) (laneCount (tyOf f))) 0 (s.me.readV (regOf f.oa))), s.me.owner⟩] :=
  global_stores hlen hact (by simp only [begin_effAddr, begin_guardMask, begin_readV]; rfl) ht

variable (hopen : s.me.choiceOpen = false)
include hopen

theorem execSst_stores (ht : execSst f s = .next t) {a : SAddr} (ha : scratchOf s (effAddr s f.od f.ob) = a) : StoreFrames s s.me t ∧
    t.me.storeq = s.me.storeq ++ [⟨s.uid, .scratch a.core (storeBytes a (Machine.sizeOf f.md) (s.me.value f.oa)) a.remote none, s.me.owner⟩] := by
  refine run_stores_one hlen hact ?_ ht
  rw [begin_value, begin_effAddr]
  refine (begin_checked (checkScratch_checked _ _ _)).bind fun b hb => ?_
  obtain rfl : b = a := hb.trans ha
  exact scratchStore_mayStore hopen b _ _ _

theorem execStu_stores (ht : execStu f s = .next t) {a : SAddr} (ha : scratchOf s (effAddr s f.od f.ob) = a) : StoreFrames s s.me t ∧
    t.me.storeq = s.me.storeq ++ [⟨s.uid, .scratch a.core (storeBytes a 8 (s.me.value f.oa)) a.remote (some (lockBit a)), s.me.owner⟩] := by
  refine run_stores_one hlen hact ?_ ht
  rw [begin_value, begin_effAddr]
  refine (begin_checked (checkScratch_checked _ _ _)).bind fun b hb => (begin_checked (needOrdinary_checked _)).bind fun _ _ => ?_
  obtain rfl : b = a := hb.trans ha
  exact scratchStore_mayStore hopen b _ _ _

theorem execUlk_stores (ht : execUlk f s = .next t) {a : SAddr} (ha : scratchOf s (effAddr s f.oa f.ob) = a) : StoreFrames s s.me t ∧
    t.me.storeq = s.me.storeq ++ [⟨s.uid, .scratch a.core [] a.remote (some (lockBit a)), s.me.owner⟩] := by
  refine run_stores_one hlen hact ?_ ht
  rw [begin_effAddr]
  refine (begin_checked (checkScratch_checked _ _ _)).bind fun b hb => (begin_checked (needOrdinary_checked _)).bind fun _ _ => ?_
  obtain rfl : b = a := hb.trans ha
  exact scratchStore_mayStore hopen b _ _ _

/-- A store to a line by its index: one of the A buffer joins no queue. -/
theorem execVst_line_stores (ht : execVst f s = .next t) {buf : BitVec 2} {rem : Bool} {core : BitVec 4} {off : BitVec 14}
    (hod : f.od = .b buf rem core off) : StoreFrames s s.me t ∧ t.me.storeq = s.me.storeq ++ [⟨s.uid, .scratch s.curCore
      (laneBytes (laneBits (tyOf f)) (activeLanes (guardMask s.me f.guard) (laneCount (tyOf f))) (64 * (off.toNat + (s.me.value f.ob).toNat))
        (s.me.readV (regOf f.oa))) false none, s.me.owner⟩] := by
  refine run_stores_one hlen hact ?_ ht
  simp only [hod, lineIndex, begin_value, begin_guardMask, begin_readV]
  split
  · split
    · exact Checked.bind (P := fun _ => False) (.trap _ _) fun _ h => h.elim
    · refine (begin_checked (needOrdinary_checked _)).bind fun _ _ => (begin_checked (needPath_checked _ 0)).bind fun _ _ => ?_
      split
      · exact (begin_checked (waitAnvil_checked (P := fun _ => False) _)).bind fun _ h => h.elim
      · split <;> exact .ok (.inl (begin_me_storeq s))
  · refine (begin_checked (descScratch_checked _ _ _)).bind fun a ha => ?_
    subst ha
    exact scratchStore_mayStore hopen _ _ _ _

/-- A store to the line at a cursor. -/
theorem execVst_cursor_stores (ht : execVst f s = .next t) (hod : ∀ buf rem core off, f.od ≠ .b buf rem core off) {a : SAddr}
    (ha : cursorAddr s (regOf f.od) = a) : StoreFrames s (bumpCursors f s.me) t ∧ t.me.storeq = s.me.storeq ++ [⟨s.uid, .scratch a.core
      (laneBytes (laneBits (tyOf f)) (activeLanes (guardMask s.me f.guard) (laneCount (tyOf f))) a.addr (s.me.readV (regOf f.oa))) a.remote none,
      s.me.owner⟩] := by
  refine run_stores_one hlen hact ?_ ht
  simp only [begin_guardMask, begin_readV, begin_cursorAddr, ha]
  exact (begin_checked (checkCursors_checked _ f)).bind fun _ _ => bumped_mayStore f (scratchStore_mayStore hopen a _ _ _)

theorem lanesStore_stores {off : State → Nat → Int} (hoff : off (begin s) = off s) (ht : lanesStore f off s = .next t) {a : SAddr}
    (ha : cursorAddr s (regOf f.od) = a) : StoreFrames s (bumpCursors f s.me) t ∧ t.me.storeq = s.me.storeq ++ [⟨s.uid, .scratch a.core
      ((laneLoads (laneBits (tyOf f)) (activeLanes (guardMask s.me f.guard) (laneCount (tyOf f))) (fun i => laneAddr a (off s i))).map
        (fun p => (p.2, lineByte (s.me.readV (regOf f.oa)) p.1))) a.remote none, s.me.owner⟩] := by
  refine run_stores_one hlen hact ?_ ht
  simp only [begin_guardMask, begin_readV, begin_cursorAddr, ha, hoff]
  exact (checkLanes_checked _ _ _ _).bind fun _ _ => bumped_mayStore f (scratchStore_mayStore hopen a _ _ _)

end Stores

/-! ## O57 -/

/-- Settles O57: a word that leaves one entry more has run its store to the end (`run_joins`), for neither a stall nor a trap queues one, and its
entry and frame are those of `Stored`; only the entry is told apart store by store. -/
theorem storeFrame : Obligations.StoreFrame := by
  unfold Obligations.StoreFrame
  intro f s t hopen hlen hact entry frame act w x v n ea a free cur scattered
  have hframe : ∀ {m : TSet}, StoreFrames s m t → frame m := fun h => ⟨h.rest, h.memory, h.tsets, h.cores, h.ready, h.me⟩
  simp only [exec_st, exec_vgst, exec_sst, exec_stu, exec_ulk, exec_vst, exec_vsts, exec_vsct]
  refine ⟨fun ht => (execSt_stores hlen hact ht rfl).imp_left hframe, fun ht => (execVgst_stores hlen hact ht).imp_left hframe,
    fun ht => (execSst_stores hlen hact hopen ht rfl).imp_left hframe, fun ht => (execStu_stores hlen hact hopen ht rfl).imp_left hframe,
    fun ht => (execUlk_stores hlen hact hopen ht rfl).imp_left hframe, fun ht => ?_,
    fun ht => (lanesStore_stores hlen hact hopen (begin_strideOff f s) ht rfl).imp_left hframe,
    fun ht => (lanesStore_stores hlen hact hopen (begin_gatherOff f s) ht rfl).imp_left hframe⟩
  split
  · next hod => exact (execVst_line_stores hlen hact hopen ht hod).imp_left hframe
  · next hod => exact (execVst_cursor_stores hlen hact hopen ht hod rfl).imp_left hframe

end Sys2Proof.Machine

end

/-! # Global loads, stores and prefetches (R141 to R143, R250, R324, R332) -/
section

namespace Sys2Proof.Machine

/-! ## Bytes of an access -/

/-- The bytes of a number, each with its place. -/
theorem range_zip_bytesOf (n x : Nat) : (List.range n).zip (bytesOf n x) = (List.range n).map (fun k => (k, BitVec.ofNat 8 (x / 2 ^ (8 * k)))) := by
  simpa [bytesOf] using zip_range n id (fun k => BitVec.ofNat 8 (x / 2 ^ (8 * k)))

theorem getD_false_eq (o : Option Bool) : o.getD false = (o == some true) := by
  rcases o with _ | _ | _ <;> rfl

theorem filterMap_ite_some {α β : Type} (p : α → Bool) (g : α → β) (l : List α) :
    l.filterMap (fun k => if p k then some (g k) else none) = (l.filter p).map g := by
  induction l with
  | nil => rfl
  | cons a l ih => by_cases h : p a <;> simp [h, ih]

/-- The bytes of the active lanes of a line, each with its place behind an address (R117). -/
theorem laneBytes_eq (w : Nat) (act : List Bool) (base : Nat) (l : Line) : laneBytes w act base l =
    ((List.range 64).filter (fun k => act[k / (w / 8)]? == some true)).map (fun k => (base + k, lineByte l k)) := by
  simp only [laneBytes, getD_false_eq, filterMap_ite_some]

/-- The places of the bytes of the active lanes. -/
theorem laneLoads_places (w : Nat) (act : List Bool) (addr : Nat → Nat) :
    (laneLoads w act addr).map (·.1) = (List.range 64).filter (fun k => act[k / (w / 8)]? == some true) := by
  simp only [laneLoads, getD_false_eq, filterMap_ite_some, List.map_map, Function.comp_def, List.map_id']

theorem ptrAddr_eq (p : Word) : ptrAddr p = p.toNat % 2 ^ 57 := by
  simp [ptrAddr]

theorem laneBits_cases (ty : Nat) : laneBits ty = 8 ∨ laneBits ty = 16 ∨ laneBits ty = 32 := by
  unfold laneBits
  split <;> simp

/-- Some lane of a word whose guard holds is active (R30). -/
theorem active_of_formReady {s : State} {f : Form} {use : OdUse} (h : formReady s f (some (laneCount (tyOf f))) use = true) : true ∈ activeOf s f := by
  simp only [formReady, Bool.and_eq_true, guardHolds, decide_eq_true_eq] at h
  obtain ⟨⟨-, hg⟩, -⟩ := h
  by_contra hoff
  refine hg (Nat.eq_of_testBit_eq fun k => ?_)
  rw [Nat.testBit_mod_two_pow, Nat.zero_testBit]
  by_cases hk : k < laneCount (tyOf f)
  · have : ¬(guardMask s.me f.guard).getLsbD k = true := fun hbit => hoff (List.mem_map.mpr ⟨k, List.mem_range.mpr hk, hbit⟩)
    simpa [hk, BitVec.testBit_toNat] using this
  · simp [hk]

/-! ## The store queue (R142, R250) -/

/-- The bytes of a store of an ordinary activation enter the queue as one entry while it has room. -/
theorem queueStore_queued {s : State} (ea : Word) (x : Xlat) {bs : List (Nat × Byte)} (hbs : bs ≠ []) (hspec : s.mySpec = none)
    (hroom : s.me.storeq.length < 16) : queueStore s ea x bs = .ok (queued s (.global ea x bs)) := by
  have hempty : bs.isEmpty = false := by simpa using hbs
  simp only [queueStore, hempty, hspec, Option.isSome_none, Config.storeEntries, Nat.not_le.mpr hroom, Bool.false_eq_true, if_false]
  exact congrArg _ (State.modMe_congr _ _ _ rfl)

section Words
variable {f : Form} {s : State} {x : Xlat} {ea : Word} {n : Nat}

theorem exec_ld_ready (h : formReady s f none .write = true) (hea : s.me.value f.oa + s.me.value f.ob = ea) (hn : 2 ^ (f.md.toNat % 4) = n)
    (hok : accessOk (begin s) ea n rightR x) (hcredit : needCredit (begin s) = .ok ()) :
    exec (.ld f) s = .next (finished f.hints (pendG ((begin s).used ea n rightR false) (regOf f.od) true ea
      (.load ea x n (decide (f.md.toNat < 4)) (forwardedTo (begin s) (ptrAddr ea) n)))) := by
  subst hea hn
  rw [exec_ld, execLd]
  refine run_ready_ok _ _ _ _ _ _ h ?_
  simp only [begin_effAddr, Machine.sizeOf, checkAccess_ok hok, hcredit, bind, Except.bind, pure, Except.pure]
  rfl

theorem exec_vgld_ready (h : formReady s f (some (laneCount (tyOf f))) .write = true) (hea : s.me.value f.oa + s.me.value f.ob = ea)
    (hok : accessOk (begin s) ea 64 rightR x) (hcredit : needCredit (begin s) = .ok ()) :
    exec (.vgld f) s = .next (finished f.hints (pendV ((begin s).used ea 64 rightR false) (regOf f.od) true ea
      (.vload ea x ((List.range 64).filter (fun k => (activeOf s f)[k / (laneBits (tyOf f) / 8)]? == some true))
        (forwardedTo (begin s) (ptrAddr ea) 64)))) := by
  subst hea
  rw [exec_vgld, execVgld]
  refine run_ready_ok _ _ _ _ _ _ h ?_
  simp only [begin_effAddr, checkAccess_ok hok, hcredit, activeOf_eq, laneLoads_places, bind, Except.bind, pure, Except.pure]

/-- A store of an ordinary activation whose access passes and whose queue has room. -/
theorem store_ready {lanes : Option Nat} {body : State → Except Stop State} {bs : List (Nat × Byte)} (h : formReady s f lanes .read = true)
    (hbody : body (begin s) = checkAccess (begin s) ea n n rightW >>= fun x => queueStore ((begin s).used ea n rightW false) ea x bs)
    (hok : accessOk (begin s) ea n rightW x) (hbs : bs ≠ []) (hspec : (begin s).mySpec = none) (hroom : s.me.storeq.length < 16) :
    run f lanes .read body s = .next (finished f.hints (queued ((begin s).used ea n rightW false) (.global ea x bs))) := by
  refine run_ready_ok _ _ _ _ _ _ h (hbody.trans ?_)
  rw [checkAccess_ok hok]
  exact queueStore_queued ea x hbs hspec (by rwa [used_me, begin_me_storeq])

theorem exec_st_ready (h : formReady s f none .read = true) (hea : s.me.value f.od + s.me.value f.ob = ea) (hn : 2 ^ (f.md.toNat % 4) = n)
    (hok : accessOk (begin s) ea n rightW x) (hspec : (begin s).mySpec = none) (hroom : s.me.storeq.length < 16) :
    exec (.st f) s = .next (finished f.hints (queued ((begin s).used ea n rightW false) (.global ea x
      ((List.range n).map (fun k => (k, BitVec.ofNat 8 ((s.me.value f.oa).toNat / 2 ^ (8 * k)))))))) := by
  rw [exec_st, execSt]
  refine store_ready h ?_ hok ?_ hspec hroom
  · simp only [begin_effAddr, begin_value, Machine.sizeOf, hea, hn, range_zip_bytesOf]
  · simp [← hn]

theorem exec_vgst_ready (h : formReady s f (some (laneCount (tyOf f))) .read = true) (hea : s.me.value f.od + s.me.value f.ob = ea)
    (hok : accessOk (begin s) ea 64 rightW x) (hspec : (begin s).mySpec = none) (hroom : s.me.storeq.length < 16) :
    exec (.vgst f) s = .next (finished f.hints (queued ((begin s).used ea 64 rightW false) (.global ea x
      (((List.range 64).filter (fun k => (activeOf s f)[k / (laneBits (tyOf f) / 8)]? == some true)).map
        (fun k => (k, lineByte (s.me.readV (regOf f.oa)) k)))))) := by
  have hbytes : laneBytes (laneBits (tyOf f)) (activeOf s f) 0 (s.me.readV (regOf f.oa)) ≠ [] := by
    rw [ne_eq, laneBytes_eq_nil_iff (laneBits_cases _) (by simp [activeOf, laneCount])]
    exact not_not_intro (active_of_formReady h)
  have heq := laneBytes_eq (laneBits (tyOf f)) (activeOf s f) 0 (s.me.readV (regOf f.oa))
  simp only [Nat.zero_add] at heq
  rw [← heq, exec_vgst, execVgst]
  exact store_ready h (by simp only [begin_effAddr, begin_readV, activeOf_eq, hea]) hok hbytes hspec hroom

/-! ## Prefetches (R143) -/

theorem begin_srcError (s : State) (y : Src) : srcError (begin s).me y = srcError s.me y := by rw [begin_me]; rfl
theorem begin_isBusy (s : State) (now : Nat) (v : Bool) (k : Nat) : (begin s).me.isBusy now v k = s.me.isBusy now v k := by rw [begin_me]; rfl

/-- What a prefetch leaves: the covers and the translation found are filled, if there are both. -/
def prefetched (u : State) (core : Nat) (covers : List PlbEntry) (e : Option TlbEntry) : State :=
  match covers, e with
  | c :: cs, some e => installXlat (fillRights u core (c :: cs)) core e
  | _, _ => u

theorem prefetched_none (u : State) (core : Nat) (covers : List PlbEntry) : prefetched u core covers none = u := by
  cases covers <;> rfl

theorem prefetched_found {covers : List PlbEntry} (h : covers ≠ []) (u : State) (core : Nat) (e : TlbEntry) :
    prefetched u core covers (some e) = installXlat (fillRights u core covers) core e := by
  obtain ⟨c, cs, rfl⟩ := List.exists_cons_of_ne_nil h
  rfl

/-- A prefetch whose registers can be read runs to its end: the fill of what it found, or nothing. -/
theorem exec_pft_ready (hp : s.powered = true) (hq : predsReady s f = true) (hg : guardHolds s.me f.guard none = true)
    (hfree : (srcOf s.me 2 f.oa ++ srcOf s.me 3 f.ob).any (fun y => s.me.isBusy (s.cycle s.curCore) y.isV y.reg) = false) :
    exec (.pft f) s = .next (finished f.hints (
      if (srcOf s.me 2 f.oa ++ srcOf s.me 3 f.ob).any (fun y => (srcError s.me y).isSome) then begin s
      else prefetched (begin s) s.curCore
        (missCovers (begin s) s.curCore s.me.owner (BitVec.ofNat 64 ((s.me.value f.oa + s.me.value f.ob).toNat % 2 ^ 57 / 64 * 64)) 64 0 true)
        (missXlat (begin s) s.curCore ((s.me.value f.oa + s.me.value f.ob).toNat % 2 ^ 57 / 64 * 64)))) := by
  simp only [predsReady, Bool.and_eq_true, Bool.not_eq_true'] at hq
  obtain ⟨⟨hlate, hfails⟩, hforms⟩ := hq
  rw [exec_pft, execPft, runWith_ready _ _ _ _ _ _ _ _ hp hlate hfails hg hforms (regsClear_nil s)]
  simp only [begin_isBusy, begin_srcError, begin_cycle, begin_curCore, hfree, Bool.false_eq_true, if_false, begin_effAddr, ptrAddr_eq, begin_me_owner]
  split_ifs
  · rfl
  · generalize missCovers _ _ _ _ _ _ _ = covers
    generalize missXlat _ _ _ = e
    match covers, e with
    | [], _ => rfl
    | _ :: _, none => rfl
    | _ :: _, some _ => rfl

end Words

/-- Settles O11: each load and store by the access that passes its checks, a prefetch by what its lookups find. -/
theorem globalAccesses : Obligations.GlobalAccesses := by
  unfold Obligations.GlobalAccesses
  intro f s x u n load store act w line named covers
  refine ⟨fun h => exec_ld_ready h rfl rfl, fun h => exec_st_ready h rfl rfl, fun h => exec_vgld_ready h rfl, fun h => exec_vgst_ready h rfl,
    fun hp hq hg hfree => ?_⟩
  rw [exec_pft_ready hp hq hg hfree]
  refine ⟨fun hnone => ?_, fun e herr hne he => ?_⟩
  · split_ifs with herr
    · rfl
    · obtain h | h | h := hnone
      · exact absurd h herr
      · exact congrArg (fun l => Host.Outcome.next (finished f.hints (prefetched u s.curCore l _))) h
      · rw [h, prefetched_none]
  · rw [if_neg (ne_true_of_eq_false herr), he]
    exact congrArg (fun t => Host.Outcome.next (finished f.hints t)) (prefetched_found hne u s.curCore e)

end Sys2Proof.Machine

end

/-! # Scratchpad loads and stores, and the lock bits (R137, R144, R145, R353) -/
section

namespace Sys2Proof.Machine

theorem gIndex_eq_zero {lvl i : Nat} : gIndex lvl i = 0 ↔ i = 0 := by
  unfold gIndex
  split_ifs <;> omega

theorem checkScratch_ok {s : State} {ea : Word} {n : Nat} (h : ea.toNat % n = 0 ∧ scratchRefused (scratchOf s ea).addr n = false) :
    checkScratch s ea n = .ok (scratchOf s ea) := by
  simp [checkScratch, h.1, h.2]

theorem needOrdinary_ok {s : State} (h : s.mySpec = none) : needOrdinary s = .ok () := by
  simp [needOrdinary, h]

theorem begin_scratchOf (s : State) (ea : Word) : scratchOf (begin s) ea = scratchOf s ea := rfl

/-- The bytes of a scalar store, each with its address. -/
theorem storeBytes_eq (a : SAddr) (n : Nat) (x : Word) :
    storeBytes a n x = (List.range n).map (fun k => (a.addr + k, BitVec.ofNat 8 (x.toNat / 2 ^ (8 * k)))) := by
  simp only [storeBytes, range_zip_bytesOf, List.map_map, Function.comp_def]

/-- A scratchpad store of an ordinary activation outside any search enters the queue as one entry while it has room. -/
theorem scratchStore_queued {s : State} {a : SAddr} {bs : List (Nat × Byte)} {size unlock : Option Nat} (hopen : s.me.choiceOpen = false)
    (hsome : ¬(bs = [] ∧ unlock = none)) (hroom : s.me.storeq.length < 16) (hpath : needPath s 0 = .ok ()) (hthefts : s.thefts = [])
    (hspec : s.mySpec = none) : scratchStore s a bs size unlock = .ok (queued s (.scratch a.core bs a.remote unlock)) := by
  have hempty : (bs.isEmpty && unlock.isNone) = false := by
    rw [Bool.eq_false_iff]
    simpa using hsome
  have hnone : ∀ c, trailBytes c [] = [] := fun _ => rfl
  simp only [scratchStore, hopen, hempty, hpath, hthefts, hspec, Config.storeEntries, Nat.not_le.mpr hroom, hnone, Bool.false_and,
    Bool.false_eq_true, if_false, List.isEmpty_nil, Bool.not_true, Bool.and_false, Except.isOk, Except.toBool, List.any_nil,
    Option.isSome_none, decide_false, Bool.or_self, List.nil_append]
  exact congrArg Except.ok (State.modMe_congr _ _ _ rfl)

section Words
variable {f : Form} {s : State} {ea : Word} {n : Nat}

theorem exec_sld_remote (h : formReady s f none .write = true) (hea : s.me.value f.oa + s.me.value f.ob = ea) (hn : 2 ^ (f.md.toNat % 4) = n)
    (hin : ea.toNat % n = 0 ∧ scratchRefused (scratchOf s ea).addr n = false)
    (hneed : needScratch (begin s) (scratchOf s ea) [(scratchOf s ea).addr / 64] = .ok ()) (hremote : (scratchOf s ea).remote = true)
    (hcredit : needCredit (begin s) = .ok ()) :
    exec (.sld f) s = .next (finished f.hints (pendG (begin s) (regOf f.od) true ea
      (.sload (scratchOf s ea).core (scratchOf s ea).addr n (decide (f.md.toNat < 4))))) := by
  subst hea hn
  rw [exec_sld, execSld]
  refine run_ready_ok _ _ _ _ _ _ h ?_
  simp only [begin_effAddr, Machine.sizeOf, checkScratch_ok (s := begin s) hin, begin_scratchOf, hneed, hremote, hcredit, if_true, bind,
    Except.bind, pure, Except.pure]
  rfl

theorem exec_sld_local (h : formReady s f none .write = true) (hea : s.me.value f.oa + s.me.value f.ob = ea) (hn : 2 ^ (f.md.toNat % 4) = n)
    (hin : ea.toNat % n = 0 ∧ scratchRefused (scratchOf s ea).addr n = false)
    (hneed : needScratch (begin s) (scratchOf s ea) [(scratchOf s ea).addr / 64] = .ok ()) (hlocal : (scratchOf s ea).remote = false) {bad : Bool}
    (hbad : (begin s).scratchBad (scratchOf s ea).core ((List.range n).map ((scratchOf s ea).addr + ·)) = bad) :
    exec (.sld f) s = .next (finished f.hints (readyIn 3 f.od ((begin s).modMe (fun t =>
      let w := t.writeG (regOf f.od)
        (extendTo n (decide (f.md.toNat < 4)) (seenRead (begin s) (scratchOf s ea).core (scratchOf s ea).addr n))
      if bad then w.markG (regOf f.od) ea else w)))) := by
  subst hea hn
  rw [exec_sld, execSld]
  refine run_ready_ok _ _ _ _ _ _ h ?_
  simp only [begin_effAddr, Machine.sizeOf, checkScratch_ok (s := begin s) hin, begin_scratchOf, hneed, hlocal, hbad, Bool.false_eq_true, if_false,
    bind, Except.bind, pure, Except.pure]
  rfl

/-- A scratchpad store of `n` bytes outside any search whose queue has room. -/
theorem scratch_store_ready {use : OdUse} {body : State → Except Stop State} {bs : List (Nat × Byte)} {size unlock : Option Nat}
    {k : SAddr → Except Stop State} (h : formReady s f none use = true) {ea' : Word} (hea : ea' = ea)
    (hbody : body (begin s) = checkScratch (begin s) ea' n >>= k)
    (hk : k (scratchOf s ea) = scratchStore (begin s) (scratchOf s ea) bs size unlock)
    (hin : ea.toNat % n = 0 ∧ scratchRefused (scratchOf s ea).addr n = false) (hsome : ¬(bs = [] ∧ unlock = none))
    (hroomy : s.me.storeq.length < 16 ∧ needPath (begin s) 0 = .ok () ∧ (begin s).thefts = [] ∧ (begin s).mySpec = none)
    (hopen : s.me.choiceOpen = false) :
    run f none use body s = .next (finished f.hints (queued (begin s) (.scratch (scratchOf s ea).core bs (scratchOf s ea).remote unlock))) := by
  subst hea
  obtain ⟨hroom, hpath, hthefts, hspec⟩ := hroomy
  refine run_ready_ok _ _ _ _ _ _ h (hbody.trans ?_)
  rw [checkScratch_ok (s := begin s) hin]
  refine hk.trans ?_
  exact scratchStore_queued (by rwa [begin_choiceOpen]) hsome (by rwa [begin_me_storeq]) hpath hthefts hspec

/-- The state in which the thread set under execution has taken a lock bit (R145). -/
def lockTaken (s : State) (b : Nat) : State := { s with locks := s.locks ++ [LockBit.mk b s.curCore s.curTs] }

/-- A lock bit that is free is taken; a local load then delivers, a remote one is on its way (R145). -/
theorem exec_ldl_free {a : SAddr} (h : formReady s f none .write = true) (hea : s.me.value f.oa + s.me.value f.ob = ea) (ha : scratchOf s ea = a)
    (hin : ea.toNat % 8 = 0 ∧ scratchRefused (scratchOf s ea).addr 8 = false) (hspec : (begin s).mySpec = none)
    (hneed : needScratch (begin s) a [a.addr / 64] = .ok ()) (hqueue : s.me.storeq = []) (hcredit : needCredit (begin s) = .ok ())
    (hwaits : s.lockWaits = []) (hfree : ∀ l ∈ s.locks, l.at_ ≠ lockBit a) (hgood : (begin s).scratchBad a.core [a.addr] = false) :
    exec (.ldl f) s = .next (finished f.hints (
      if a.remote then pendG (lockTaken (begin s) (lockBit a)) (regOf f.od) true ea (.sldl a.core a.addr)
      else readyIn 3 f.od ((lockTaken (begin s) (lockBit a)).modMe (fun t =>
        t.writeG (regOf f.od) (BitVec.ofNat 64 (s.scratchRead a.core a.addr 8)))))) := by
  subst hea
  have hunlocks : (begin s).me.unlocks (lockBit a) = false := by
    simp [TSet.unlocks, hqueue]
  have hmine : holdsLock (begin s) (lockBit a) s.curCore s.curTs = false := by
    rw [holdsLock, List.any_eq_false]
    exact fun l hl => by simp [hfree l hl]
  have hnone : (begin s).locks.any (fun l => l.at_ == lockBit a) = false := by
    rw [List.any_eq_false]
    exact fun l hl => by simpa using hfree l hl
  have hnowait : ∀ p, (begin s).lockWaits.any p = false := fun p => congrArg (fun l => List.any l p) hwaits
  rw [exec_ldl, execLdl]
  refine run_ready_ok _ _ _ _ _ _ h ?_
  simp only [begin_effAddr, checkScratch_ok (s := begin s) hin, begin_scratchOf, ha, needOrdinary, hspec, hneed, hunlocks, hcredit,
    begin_curCore, begin_curTs, hmine, hnone, hnowait, Bool.or_self, Bool.not_false, Bool.true_and, Bool.false_eq_true,
    if_false, Option.isSome_none, bind, Except.bind, pure, Except.pure]
  cases hremote : a.remote
  · simp only [Bool.false_and, Bool.false_eq_true, if_false]
    refine congrArg (fun upd => Except.ok (readyIn 3 f.od ((lockTaken (begin s) (lockBit a)).modMe upd))) (funext fun t => ?_)
    exact if_neg (ne_true_of_eq_false hgood)
  · cases (begin s).me.wait <;> rfl

end Words

/-- The time at which a result can be read leaves the registers as they are. -/
theorem readyIn_readG (n : Nat) (o : Operand) (s : State) (i : Nat) : (readyIn n o s).me.readG i = s.me.readG i := by
  unfold readyIn
  split_ifs
  · rfl
  · split
    · rw [State.me_modMe]
      unfold TSet.setLate
      split_ifs <;> rfl
    · rfl

theorem readyIn_locks (n : Nat) (o : Operand) (s : State) : (readyIn n o s).locks = s.locks := by
  rw [(IssueChange.readyIn n o s).rest]

theorem finished_locks (h : Hints) (s : State) : (finished h s).locks = s.locks := by
  rw [(IssueChange.finished h s).rest]

theorem finished_readG (h : Hints) (s : State) (i : Nat) : (finished h s).me.readG i = s.me.readG i :=
  finished_keeps (·.readG i) (fun _ _ => rfl) h s

/-- Settles O14: a local load by its bytes, a remote one by its result in flight, a store by its entry, `LDL` by its free lock bit. -/
theorem scratchAccesses : Obligations.ScratchAccesses := by
  unfold Obligations.ScratchAccesses
  intro f s u load store at_ inRange n bytes roomy
  have hn : 0 < n := Nat.two_pow_pos _
  have hbytes : ∀ ea m, storeBytes (scratchOf s ea) m ((begin s).me.value f.oa) = bytes ea m := fun ea m => by
    rw [storeBytes_eq, begin_value]
    rfl
  refine ⟨fun h hin hneed => ⟨fun hremote hcredit => exec_sld_remote h rfl rfl hin hneed hremote hcredit, fun hlocal => ?_⟩, ?_, ?_, ?_, ?_⟩
  · exact ⟨exec_sld_local h rfl rfl hin hneed hlocal, exec_sld_local h rfl rfl hin hneed hlocal⟩
  · intro h hin hspec hneed hqueue hcredit hwaits hfree hgood
    refine ⟨_, exec_ldl_free (a := at_ load) h rfl rfl hin hspec hneed hqueue hcredit hwaits hfree hgood, ?_, fun hlocal => ?_⟩
    · rw [finished_locks]
      split_ifs
      · rfl
      · rw [readyIn_locks]
        rfl
    · rw [finished_readG, if_neg (ne_true_of_eq_false hlocal), readyIn_readG, State.me_modMe, TSet.readG_writeG_self]
      exact if_congr gIndex_eq_zero rfl rfl
  · intro h hin hroomy hopen
    have hsome : ¬(bytes store n = [] ∧ (none : Option Nat) = none) := by simp [bytes, hn.ne']
    exact (exec_sst f s).trans (scratch_store_ready h (begin_effAddr s f.od f.ob) rfl
      (congrArg (scratchStore u (at_ store) · (trailSize f.md)) (hbytes store n)) hin hsome hroomy hopen)
  · intro h hin hroomy hopen
    refine (exec_stu f s).trans (scratch_store_ready h (begin_effAddr s f.od f.ob) rfl ?_ hin (by simp) hroomy hopen (size := none))
    have ⟨_, _, _, hspec⟩ := hroomy
    rw [needOrdinary_ok (s := begin s) hspec]
    exact congrArg (scratchStore u (at_ store) · none (some (lockBit (at_ store)))) (hbytes store 8)
  · intro h hin hroomy hopen
    refine (exec_ulk f s).trans (scratch_store_ready h (begin_effAddr s f.oa f.ob) rfl ?_ hin (by simp) hroomy hopen (size := none))
    have ⟨_, _, _, hspec⟩ := hroomy
    rw [needOrdinary_ok (s := begin s) hspec]
    rfl

end Sys2Proof.Machine

end

/-! # Watches (R154, R170) -/
section

namespace Sys2Proof.Machine

/-! ## Reading words at their homes -/

/-- What is read at a home is a number of as many bytes. -/
theorem State.homeRead_lt (s : State) (pa n : Nat) : s.homeRead pa n < 2 ^ (8 * n) := by
  have h := natOfBytes_lt ((List.range n).map (fun k => s.homeByte (pa + k)))
  simpa [State.homeRead] using h

/-- The homes alone decide what is read there. -/
theorem homeRead_congr {s t : State} (h : t.home = s.home) (pa n : Nat) : t.homeRead pa n = s.homeRead pa n := by
  simp only [State.homeRead, State.homeByte, h]

/-- Whether a number differs from a word, as numbers or as words. -/
theorem ofNat_bne_iff {x : Nat} {w : Word} (h : x < 2 ^ 64) : (BitVec.ofNat 64 x != w) = !decide (x = w.toNat) := by
  have : BitVec.ofNat 64 x = w ↔ x = w.toNat := by
    rw [← BitVec.toNat_inj, BitVec.toNat_ofNat, Nat.mod_eq_of_lt h]
  by_cases hx : x = w.toNat <;> simp [bne, this, hx]

/-! ## The lines of a cache (R236) -/

/-- Without the line of an address, a write-back of it does nothing. -/
theorem writeBack_none {s : State} {c va : Nat} (h : (s.cluster c).find va = none) : writeBack s c va = s := by
  simp only [writeBack, h]

theorem flushLine_none {s : State} {c va : Nat} (h : (s.cluster c).find va = none) :
    flushLine s c va = s.modCluster c (fun k => { k.drop va with purged := s.uid }) := by
  rw [flushLine, writeBack_none h]

/-! ## The steps of a watch -/

/-- A result on its way to a register leaves what the operands of its word read. -/
theorem pendG_value (s : State) (i : Nat) (credit : Bool) (addr : Word) (kind : PendKind) (o : Operand) :
    (pendG s i credit addr kind).me.value o = s.me.value o := by
  have hempty : (s.me.emptyG (gIndex s.me.tlvl i)).value o = s.me.value o := by
    unfold TSet.emptyG
    split_ifs <;> rfl
  rw [pendG_me]
  exact hempty

section Words
variable {f : Form} {s : State} {x : Xlat} {ea : Word}

/-- The entry of a `SPINW` at the home of its word. -/
def spinWatch (s : State) (x : Xlat) (ea comparand : Word) : HomeWatch :=
  HomeWatch.mk x.pa x.tier ea comparand false none (.spin s.curCore s.curTs s.uid)

theorem exec_spinw_ready (h : formReady s f none .write = true) (hea : s.me.value f.oa = ea) (hok : accessOk (begin s) ea 8 rightR x)
    (hspec : (begin s).mySpec = none) (hcredit : needCredit (begin s) = .ok ()) (hwb : x.wb = false)
    (hspins : (creditsUsed (begin s) s.curCore).2 < 16) :
    exec (.spinw f) s = .next (finished f.hints
      { pendG ((begin s).used ea 8 rightR false) (regOf f.od) true ea (.spinw ea x (s.me.value f.ob) false) with
        watches := s.watches ++ [spinWatch s x ea (s.me.value f.ob)] }) := by
  subst hea
  rw [exec_spinw, execSpinw]
  refine run_ready_ok _ _ _ _ _ _ h ?_
  simp only [begin_value, checkAccess_ok hok, needOrdinary_ok hspec, hcredit, hwb, begin_curCore, Config.spinCredits, Nat.not_le.mpr hspins,
    decide_false, Bool.or_self, Bool.false_eq_true, if_false, pendG_value, used_me, bind, Except.bind, pure, Except.pure]
  rfl

end Words

section Steps
variable {s : State} {k : Nat} {w : HomeWatch}

/-- An armed watch of an HBM word fires at once when the word differs. -/
theorem testWatch_armed (hfired : w.fired = none) (htier : w.tier = 0) : testWatch s { w with armed := true } =
    { w with armed := true, fired := if s.homeRead w.pa 8 = w.comparand.toNat then none else some (BitVec.ofNat 64 (s.homeRead w.pa 8)) } := by
  have hne := ofNat_bne_iff (w := w.comparand) (s.homeRead_lt w.pa 8)
  simp only [testWatch, hfired, htier, hne, Option.isNone_none, beq_self_eq_true, Bool.true_and]
  by_cases hx : s.homeRead w.pa 8 = w.comparand.toNat <;> simp [hx]

theorem exec_watchArm_armed (hw : s.watches[k]? = some w) (harmed : w.armed = false) (hfired : w.fired = none) (htier : w.tier = 0)
    (hroom : filterRoom s w = true) (hbehind : watchBehind s w = false) {core : Nat}
    (hcore : (match w.who with | .spin c _ _ => c | .endw v => v.core) = core)
    (hclean : (s.cluster (cacheOf core)).find (ptrAddr w.va) = none) :
    ∃ t, exec (.watchArm k) s = .next t ∧ t.watches[k]? =
      some { w with armed := true, fired := if s.homeRead w.pa 8 = w.comparand.toNat then none else some (BitVec.ofNat 64 (s.homeRead w.pa 8)) } := by
  have hat (u : State) (hhome : u.home = s.home) (hwatches : u.watches = s.watches) :
      (modAt (fun v => testWatch u { v with armed := true }) u.watches k)[k]? =
        some { w with armed := true, fired := if s.homeRead w.pa 8 = w.comparand.toNat then none else some (BitVec.ofNat 64 (s.homeRead w.pa 8)) } := by
    rw [hwatches, getElem?_modAt_self _ hw, testWatch_armed hfired htier, homeRead_congr hhome]
  have hflushed := hat (flushLine s (cacheOf core) (ptrAddr w.va)) (by rw [flushLine_none hclean]; rfl) (by rw [flushLine_none hclean]; rfl)
  have hgo : (w.armed || !filterRoom s w || watchBehind s w) = false := by rw [harmed, hroom, hbehind]; rfl
  rw [exec_watchArm, execWatchArm, hw]
  simp only [hgo, Bool.false_eq_true, if_false]
  cases hwho : w.who <;>
  · subst hcore
    rw [hwho] at hflushed
    exact ⟨_, rfl, hflushed⟩

theorem exec_spinwFire_delivers {c ts seq : Nat} {v : Word} {p : Pend} (hw : s.watches[k]? = some w) (hwho : w.who = .spin c ts seq)
    (hfired : w.fired = some v) (hp : (s.tset c ts).pend.find? (fun p => p.seq == seq) = some p) :
    exec (.spinwFire k) s = .next (({ s with watches := s.watches.eraseIdx k } : State).modTset c ts
      (fun u => deliver u p v 0 (w.tier != 3 && s.eccFails w.pa))) := by
  have hp' : (({ s with watches := dropAt s.watches k } : State).tset c ts).pend.find? (fun p => p.seq == seq) = some p := hp
  rw [exec_spinwFire, execSpinwFire, hw]
  simp only [hwho, hfired, hp']
  rw [dropAt_eq_eraseIdx]
  rfl

theorem exec_tierWatchPoll_polls {peer x : Word} (hw : s.watches[k]? = some w) (harmed : w.armed = true) (hfired : w.fired = none)
    (htier : w.tier ≠ 0) (hx : (if w.tier = 3 then peer else BitVec.ofNat 64 (s.homeRead w.pa 8)) = x) :
    ∃ t, exec (.tierWatchPoll k peer) s = .next t ∧ t.watches[k]? = some { w with fired := if x = w.comparand then none else some x } := by
  have hgo : (!w.armed || decide (w.tier = 0) || w.fired.isSome) = false := by simp [harmed, hfired, htier]
  have hcount : ∀ y, (countRequest s (ptrAddr w.va) y).watches = s.watches := fun y => by
    unfold countRequest
    split_ifs <;> rfl
  have hend (u : State) (hu : u.watches = s.watches) : ∃ t, (if x = w.comparand then (.next u : Outcome)
      else .next { u with watches := modAt (fun v => { v with fired := some x }) u.watches k }) = .next t ∧
      t.watches[k]? = some { w with fired := if x = w.comparand then none else some x } := by
    split_ifs
    · exact ⟨u, rfl, by rw [hu, hw, ← hfired]⟩
    · exact ⟨_, rfl, by rw [hu]; exact getElem?_modAt_self _ hw⟩
  rw [exec_tierWatchPoll, execTierWatchPoll, hw]
  simp only [hgo, hx, Bool.false_eq_true, if_false]
  cases xlatOf s (ptrAddr w.va) with
  | none => exact hend s rfl
  | some y => exact hend _ (hcount y)

end Steps

/-- Settles O20: a `SPINW` by its request, the steps of a watch each by what they leave of it. -/
theorem watches : Obligations.Watches := by
  unfold Obligations.Watches
  refine ⟨fun f s x => fun h hok hspec hcredit hwb hspins => exec_spinw_ready h rfl hok (by rwa [begin_mySpec]) hcredit hwb hspins,
    fun s k w hw harmed hfired htier hroom hbehind hclean => exec_watchArm_armed hw harmed hfired htier hroom hbehind rfl hclean,
    fun s k c ts seq w v p hw hwho hfired hp hv hposted hdropped hreg hgood => ?_,
    fun s k peer w hw harmed hfired htier => exec_tierWatchPoll_polls hw harmed hfired htier rfl⟩
  have hbad : (w.tier != 3 && s.eccFails w.pa) = false := by
    obtain h | h := hgood <;> simp [h]
  have hexec := exec_spinwFire_delivers hw hwho hfired hp
  rw [hbad] at hexec
  obtain ⟨hg, hfull⟩ := deliver_gRaw hposted hdropped (s.tset c ts) v 0 hv hreg
  refine ⟨_, hexec, rfl, ?_, fun _ => ?_⟩
  · rw [State.tset_modTset_self]
    exact hg
  · rw [State.tset_modTset_self]
    exact hfull

end Sys2Proof.Machine

end

/-! # Barriers (R156) -/
section

namespace Sys2Proof.Machine

/-! ## Words that stall -/

theorem markStall_me (u : State) : (markStall u).me = { u.me with pc := u.ia, stalled := true } := by
  rw [markStall, State.me_modMe]

/-- A ready word whose effect is a stall is issued again from the state it left. -/
theorem run_ready_stall {f : Form} {s u : State} {lanes : Option Nat} {use : OdUse} {body : State → Except Stop State}
    (h : formReady s f lanes use = true) (hb : body (begin s) = .error (.stall u)) : run f lanes use body s = .next (markStall u) := by
  rw [run_ready _ _ _ _ _ h, hb]
  rfl

/-- Nothing holds back a fence of the cores or the clusters once a thread set is quiet (R153). -/
theorem fenceWaits_quiet {s : State} (h : quiet s) {scope : Nat} (hscope : scope < 2) : fenceWaits (begin s) s.curCore s.curTs scope = false := by
  obtain ⟨hq, hp, hu, hr⟩ := h
  have hme : (begin s).tset s.curCore s.curTs = (begin s).me := rfl
  have hrread : rreadPending (begin s) s.curCore s.curTs s.uid = false := hr
  have hlow : ¬2 ≤ scope := Nat.not_le.mpr hscope
  simp [fenceWaits, hme, hq, hp, hu, hrread, hlow]

/-! ## The largest magnitude offered -/

/-- The magnitude of an FP32 word. -/
def magOf (x : Word) : Nat := (x.extractLsb' 0 31).toNat

theorem magOf_lt (x : Word) : magOf x < 2 ^ 31 := (x.extractLsb' 0 31).isLt

theorem magOf_ofNat {m : Nat} (h : m < 2 ^ 31) : magOf (BitVec.ofNat 64 m) = m := by
  simp only [magOf, BitVec.extractLsb'_toNat, BitVec.toNat_ofNat, Nat.shiftRight_zero]
  omega

theorem zextLow_31 (x : Word) : zextLow 31 x = BitVec.ofNat 64 (magOf x) := by
  apply BitVec.eq_of_toNat_eq
  simp only [zextLow, magOf, BitVec.toNat_setWidth, BitVec.extractLsb'_toNat, BitVec.toNat_ofNat, Nat.shiftRight_zero]

theorem magMax_nan {a b : Word} (h : 0x7F800000 < magOf a ∨ 0x7F800000 < magOf b) : magMax a b = 0x7FC00000 := by
  have hnan : (decide (0x7F800000 < magOf a) || decide (0x7F800000 < magOf b)) = true := by simpa using h
  simp only [magMax]
  exact if_pos hnan

theorem magMax_mag {a : Nat} {b : Word} (ha : a ≤ 0x7F800000) (hb : magOf b ≤ 0x7F800000) :
    magMax (BitVec.ofNat 64 a) b = BitVec.ofNat 64 (max a (magOf b)) := by
  have hmag : magOf (BitVec.ofNat 64 a) = a := magOf_ofNat (by omega)
  have hnan : (decide (0x7F800000 < magOf (BitVec.ofNat 64 a)) || decide (0x7F800000 < magOf b)) = false := by
    simp [hmag, ha, hb]
  have hlt : magMax (BitVec.ofNat 64 a) b = if magOf (BitVec.ofNat 64 a) < magOf b then zextLow 31 b else zextLow 31 (BitVec.ofNat 64 a) := by
    simp only [magMax]
    exact if_neg (ne_true_of_eq_false hnan)
  rw [hlt, zextLow_31, zextLow_31, hmag]
  split_ifs with h
  · rw [max_eq_right h.le]
  · rw [max_eq_left (Nat.not_lt.mp h)]

/-- Once a NaN has been offered, what the others offer changes nothing. -/
theorem foldl_magMax_nan {α : Type} (g : α → Word) (l : List α) : l.foldl (fun m a => magMax m (g a)) 0x7FC00000 = 0x7FC00000 := by
  induction l with
  | nil => rfl
  | cons a l ih => rw [List.foldl_cons, magMax_nan (.inl (by decide)), ih]

theorem foldl_magMax_of_nan {α : Type} (g : α → Word) {l : List α} (m : Word) (h : ∃ a ∈ l, 0x7F800000 < magOf (g a)) :
    l.foldl (fun m a => magMax m (g a)) m = 0x7FC00000 := by
  obtain ⟨a, ha, hnan⟩ := h
  obtain ⟨before, after, rfl⟩ := List.append_of_mem ha
  rw [List.foldl_append, List.foldl_cons, magMax_nan (.inr hnan), foldl_magMax_nan]

/-- Without a NaN, the fold keeps the largest magnitude. -/
theorem foldl_magMax_mag {α : Type} (g : α → Word) {l : List α} {m : Nat} (hm : m ≤ 0x7F800000) (h : ∀ a ∈ l, magOf (g a) ≤ 0x7F800000) :
    l.foldl (fun m a => magMax m (g a)) (BitVec.ofNat 64 m) = BitVec.ofNat 64 (l.foldl (fun m a => max m (magOf (g a))) m) := by
  induction l generalizing m with
  | nil => rfl
  | cons a l ih =>
    obtain ⟨ha, hl⟩ := List.forall_mem_cons.mp h
    rw [List.foldl_cons, List.foldl_cons, magMax_mag hm ha, ih (max_le hm ha) hl]

/-- The largest of some numbers is one of them, and no smaller than any. -/
theorem foldl_max_spec {α : Type} (g : α → Nat) (l : List α) (m : Nat) :
    (l.foldl (fun m a => max m (g a)) m = m ∨ ∃ a ∈ l, l.foldl (fun m a => max m (g a)) m = g a) ∧
    m ≤ l.foldl (fun m a => max m (g a)) m ∧ ∀ a ∈ l, g a ≤ l.foldl (fun m a => max m (g a)) m := by
  induction l generalizing m with
  | nil => simp
  | cons b l ih =>
    obtain ⟨hone, hmin, hall⟩ := ih (max m (g b))
    simp only [List.foldl_cons, List.mem_cons, forall_eq_or_imp, exists_eq_or_imp]
    refine ⟨?_, (le_max_left _ _).trans hmin, (le_max_right _ _).trans hmin, hall⟩
    obtain h | h := hone
    · rw [h]
      rcases max_choice m (g b) with hmax | hmax
      · exact .inl hmax
      · exact .inr (.inl hmax)
    · exact .inr (.inr h)

/-! ## The words -/

section Words
variable {f : Form} {s : State}

/-- A barrier word that has been released ends (R156). -/
theorem barrierOp_released {m : Word} (hwait : s.me.wait = .barrier (some m)) (w offer : Word) (pos : Nat) (o : Operand) (done : State → Word → State) :
    barrierOp (begin s) w offer pos o done = .ok (done (begin s) m) := by
  simp only [barrierOp, begin_me_wait, hwait]

variable {w offer : Word} {pos : Nat} {o : Operand} {done : State → Word → State}

/-- The barrier word has no reserved bit set, and its core is a member (R156). -/
def barrierWord (s : State) (w : Word) : Prop := w &&& ~~~0xFFFF000F = 0 ∧ w.getLsbD (16 + dcBit s.curCore) = true

theorem barrierOp_refused (hwait : s.me.wait = .none) (hw : w &&& ~~~0xFFFF000F ≠ 0 ∨ w.getLsbD (16 + dcBit s.curCore) = false) :
    barrierOp (begin s) w offer pos o done = .error (.trap 0x02 (posTval pos (encodeField o))) := by
  have hcheck : checkBarrier (begin s) w pos o = badOperand pos o := by
    rw [checkBarrier, begin_curCore]
    refine if_neg ?_
    rw [Bool.and_eq_true, decide_eq_true_eq]
    exact fun hgood => hw.elim (absurd hgood.1) (fun h => absurd hgood.2 (ne_true_of_eq_false h))
  simp only [barrierOp, begin_me_wait, hwait, hcheck]
  rfl

theorem barrierOp_arrives (hwait : s.me.wait = .none) (hw : barrierWord s w) (hquiet : quiet s) :
    barrierOp (begin s) w offer pos o done = (arriveBarrier (begin s) w offer pos o >>= fun u => .error (.stall u)) := by
  obtain ⟨hbits, hmember⟩ := hw
  have hcheck : checkBarrier (begin s) w pos o = .ok () := by
    rw [checkBarrier, begin_curCore]
    exact if_pos (Bool.and_eq_true _ _ ▸ ⟨decide_eq_true hbits, hmember⟩)
  simp only [barrierOp, begin_me_wait, hwait, hcheck, begin_curCore, begin_curTs, fenceWaits_quiet hquiet (by decide : 1 < 2),
    Bool.false_eq_true, if_false, bind, Except.bind]

/-- What is put at a barrier of a cluster stands there. -/
theorem barriers_modCluster (s : State) (cl b : Nat) (e : Option Barrier) :
    mget none ((s.modCluster cl (fun k => { k with barriers := mset none k.barriers b e })).cluster cl).barriers b = e := by
  simp only [State.cluster_modCluster_self, mget_mset_self]

/-- The state in which the core under execution waits at a barrier whose episode is `e`. -/
def barrierJoined (u : State) (b : Nat) (e : Barrier) : State :=
  (u.modMe (fun t => { t with wait := .barrier none })).modCluster (cacheOf u.curCore)
    (fun k => { k with barriers := mset none k.barriers b (some e) })

theorem barrierJoined_waits (s : State) (b : Nat) (e : Barrier) : let t := markStall (barrierJoined (begin s) b e)
    t.me.pc = s.me.pc ∧ t.me.wait = .barrier none ∧ mget none (t.cluster (cacheOf s.curCore)).barriers b = some e := by
  have hme : (barrierJoined (begin s) b e).me = { (begin s).me with wait := .barrier none } := by
    rw [barrierJoined, State.me_modCluster, State.me_modMe]
  refine ⟨?_, ?_, ?_⟩
  · rw [markStall_me]
    rfl
  · rw [markStall_me, hme]
  · have hcl : (markStall (barrierJoined (begin s) b e)).cluster (cacheOf s.curCore) =
        (barrierJoined (begin s) b e).cluster (cacheOf s.curCore) := rfl
    rw [hcl]
    exact barriers_modCluster _ _ b _

variable {b : Nat} (hb : w.toNat % 16 = b)
include hb

theorem arriveBarrier_opens (hfree : mget none (s.cluster (cacheOf s.curCore)).barriers b = none) :
    arriveBarrier (begin s) w offer pos o = .ok (barrierJoined (begin s) b
      (Barrier.mk (BitVec.ofNat 12 s.myCtx) (w.extractLsb' 16 16) [(dcBit s.curCore, s.curTs, offer)])) := by
  subst hb
  have hn : fieldN w 0 4 = w.toNat % 16 := by simp [fieldN]
  simp only [arriveBarrier, begin_curCore, begin_cluster, hn, hfree, begin_myCtx]
  rfl

section Open
variable {e : Barrier} (hopen : mget none (s.cluster (cacheOf s.curCore)).barriers b = some e)
include hopen

theorem arriveBarrier_joins (hctx : e.ctx.toNat = s.myCtx) (hmask : e.mask = w.extractLsb' 16 16) (hnew : ∀ a ∈ e.arrived, a.1 ≠ dcBit s.curCore) :
    arriveBarrier (begin s) w offer pos o =
      .ok (barrierJoined (begin s) b { e with arrived := e.arrived ++ [(dcBit s.curCore, s.curTs, offer)] }) := by
  subst hb
  have hn : fieldN w 0 4 = w.toNat % 16 := by simp [fieldN]
  have hnone : e.arrived.any (fun a => a.1 == dcBit s.curCore) = false := by simpa using hnew
  simp only [arriveBarrier, begin_curCore, begin_cluster, hn, hopen, begin_myCtx, hctx, hmask, hnone, ne_eq, not_true_eq_false, if_false,
    Bool.false_eq_true]
  rfl

theorem arriveBarrier_otherMask (hctx : e.ctx.toNat = s.myCtx) (hmask : e.mask ≠ w.extractLsb' 16 16) :
    arriveBarrier (begin s) w offer pos o = .error (.trap 0x02 (posTval pos (encodeField o))) := by
  subst hb
  have hn : fieldN w 0 4 = w.toNat % 16 := by simp [fieldN]
  simp only [arriveBarrier, begin_curCore, begin_cluster, hn, hopen, begin_myCtx, hctx, ne_eq, not_true_eq_false, if_false]
  exact if_pos hmask

theorem arriveBarrier_otherCtx (hctx : e.ctx.toNat ≠ s.myCtx) : arriveBarrier (begin s) w offer pos o = .error (.stall (begin s)) := by
  subst hb
  have hn : fieldN w 0 4 = w.toNat % 16 := by simp [fieldN]
  simp only [arriveBarrier, begin_curCore, begin_cluster, hn, hopen, begin_myCtx]
  exact if_pos hctx

end Open

end Words

/-- The word of a barrier with the position of its operand and what it offers (R156). -/
def barrierForm (f : Form) (s : State) (out : Outcome) (pos : Nat) (o : Operand) (offer : Word) : Prop :=
  (formReady s f none .none = true ∧ out = exec (.barsync f) s ∧ pos = 2 ∧ o = f.oa ∧ offer = 0) ∨
    (formReady s f none .write = true ∧ out = exec (.barmax f) s ∧ pos = 3 ∧ o = f.ob ∧ offer = zextLow 32 (s.me.value f.oa))

/-- What a barrier word comes to before its release. -/
theorem barrierForm_outcome {f : Form} {s : State} {out : Outcome} {pos : Nat} {o : Operand} {offer : Word} (h : barrierForm f s out pos o offer) :
    ∃ done, out = conclude f.hints s (barrierOp (begin s) (s.me.value o) offer pos o done) := by
  obtain ⟨hready, rfl, rfl, rfl, rfl⟩ | ⟨hready, rfl, rfl, rfl, rfl⟩ := h
  · exact ⟨_, by rw [exec_barsync, execBarsync, run_ready _ _ _ _ _ hready, begin_value]⟩
  · exact ⟨_, by rw [exec_barmax, execBarmax, run_ready _ _ _ _ _ hready, begin_value, begin_value]⟩

/-- An arrival at a barrier waits in its episode (R156). -/
theorem barrier_waits {f : Form} {s : State} {out : Outcome} {w offer : Word} {pos b : Nat} {o : Operand} {done : State → Word → State} {e : Barrier}
    (hout : out = conclude f.hints s (barrierOp (begin s) w offer pos o done)) (hwait : s.me.wait = .none) (hw : barrierWord s w)
    (hquiet : quiet s) (harrives : arriveBarrier (begin s) w offer pos o = .ok (barrierJoined (begin s) b e)) :
    ∃ t, out = .next t ∧ t.me.pc = s.me.pc ∧ t.me.wait = .barrier none ∧ mget none (t.cluster (cacheOf s.curCore)).barriers b = some e := by
  rw [barrierOp_arrives hwait hw hquiet, harrives] at hout
  exact ⟨_, hout, barrierJoined_waits s b e⟩

/-! ## The release -/

/-- Writes of thread sets leave the clusters as they are. -/
theorem foldl_modTset_clusters {α : Type} (c k : α → Nat) (upd : TSet → TSet) (l : List α) (s : State) :
    (l.foldl (fun s a => s.modTset (c a) (k a) upd) s).clusters = s.clusters :=
  List.foldlRecOn (motive := fun u : State => u.clusters = s.clusters) _ _ rfl fun _ hu _ _ => hu

/-- What a change gives every thread set it is made of, the thread sets of a list have once it is made of each. -/
theorem foldl_modTset_holds {α : Type} {P : TSet → Prop} (c k : α → Nat) {upd : TSet → TSet} (h : ∀ t, P (upd t)) (l : List α) (s : State) :
    (∀ x y, P (s.tset x y) → P ((l.foldl (fun s a => s.modTset (c a) (k a) upd) s).tset x y)) ∧
      ∀ a ∈ l, P ((l.foldl (fun s a => s.modTset (c a) (k a) upd) s).tset (c a) (k a)) := by
  induction l generalizing s with
  | nil => simp
  | cons b l ih =>
    obtain ⟨hkeep, hall⟩ := ih (s.modTset (c b) (k b) upd)
    have hself : P ((s.modTset (c b) (k b) upd).tset (c b) (k b)) := by rw [State.tset_modTset_self]; exact h _
    refine ⟨fun x y hxy => hkeep x y ?_, List.forall_mem_cons.mpr ⟨hkeep _ _ hself, hall⟩⟩
    by_cases hkey : x * 4 + y = c b * 4 + k b
    · rw [State.tset, hkey]
      exact hself
    · rw [State.tset_modTset_ne _ _ hkey]
      exact hxy

/-- The number of the core of a cluster (R234). -/
def coreOfCluster (cl k : Nat) : Nat := if cl < 64 then cl * 16 + k else 1024 + (cl - 64) * 4 + k

/-- The thread set of a member that a barrier has released with the magnitude `m`. -/
def TSet.released (m : Word) (t : TSet) : TSet := { t with wait := .barrier (some m), stalled := false }

/-- Each of the members that have arrived released with the magnitude `m`. -/
def membersReleased (m : Word) (cl : Nat) (l : List (Nat × Nat × Word)) (u : State) : State :=
  l.foldl (fun u a => u.modTset (coreOfCluster cl a.1) a.2.1 (TSet.released m)) u

theorem membersReleased_clusters (m : Word) (cl : Nat) (l : List (Nat × Nat × Word)) (u : State) : (membersReleased m cl l u).clusters = u.clusters :=
  foldl_modTset_clusters (fun a : Nat × Nat × Word => coreOfCluster cl a.1) (fun a => a.2.1) (TSet.released m) l u

theorem membersReleased_wait (m : Word) (cl : Nat) (l : List (Nat × Nat × Word)) (u : State) :
    ∀ a ∈ l, ((membersReleased m cl l u).tset (coreOfCluster cl a.1) a.2.1).wait = .barrier (some m) :=
  (foldl_modTset_holds (P := fun t => t.wait = .barrier (some m)) (fun a : Nat × Nat × Word => coreOfCluster cl a.1) (fun a => a.2.1) (upd := TSet.released m)
    (fun _ => rfl) l u).2

section Release
variable {s : State} {cl b : Nat} {e : Barrier} (hopen : mget none (s.cluster cl).barriers b = some e)
include hopen

theorem exec_barrierRelease_waits (hmissing : ∃ k < 16, e.mask.getLsbD k = true ∧ ∀ a ∈ e.arrived, a.1 ≠ k) :
    exec (.barrierRelease cl b) s = .next s := by
  obtain ⟨k, hk, hmask, hnone⟩ := hmissing
  rw [exec_barrierRelease, execBarrierRelease, hopen]
  refine if_neg ?_
  simp only [List.all_eq_true, List.mem_range, not_forall]
  refine ⟨k, hk, ?_⟩
  rw [hmask, Bool.not_true, Bool.false_or, List.any_eq_true]
  rintro ⟨a, ha, hak⟩
  exact hnone a ha (beq_iff_eq.mp hak)

/-- All members have come: the barrier is free, and each waits with the magnitude found. -/
theorem exec_barrierRelease_frees (hall : ∀ k < 16, e.mask.getLsbD k = true → ∃ a ∈ e.arrived, a.1 = k) :
    ∃ t, exec (.barrierRelease cl b) s = .next t ∧ mget none (t.cluster cl).barriers b = none ∧
      ∀ a ∈ e.arrived, (t.tset (coreOfCluster cl a.1) a.2.1).wait = .barrier (some (e.arrived.foldl (fun m a => magMax m a.2.2) 0)) := by
  have hgo : ((List.range 16).all (fun k => !e.mask.getLsbD k || e.arrived.any (fun a => a.1 == k))) = true := by
    rw [List.all_eq_true]
    intro k hk
    cases hmask : e.mask.getLsbD k with
    | false => rfl
    | true => simpa using hall k (List.mem_range.mp hk) hmask
  rw [exec_barrierRelease, execBarrierRelease, hopen]
  have hcore : ∀ k, (if cl < 64 then cl * 16 else 1024 + (cl - 64) * 4) + k = coreOfCluster cl k := fun k => by
    unfold coreOfCluster
    split_ifs <;> rfl
  simp only [hgo, if_true, hcore]
  refine ⟨membersReleased _ cl e.arrived (s.modCluster cl (fun u => { u with barriers := mset none u.barriers b none })), rfl, ?_,
    membersReleased_wait _ cl e.arrived _⟩
  rw [State.cluster, membersReleased_clusters]
  exact barriers_modCluster s cl b none

end Release

/-- Settles O21: an arrival by the episode it meets, a release by its fold over the offers. -/
theorem barriers : Obligations.Barriers := by
  unfold Obligations.Barriers
  refine ⟨fun f s m => ⟨fun h hwait => ?_, fun h hwait => ?_⟩, fun f s out pos o offer h => ?_,
    fun s cl b e _ hopen => ⟨fun hall hne => ?_, exec_barrierRelease_waits hopen⟩⟩
  · exact (exec_barsync f s).trans (run_ready_ok _ _ _ _ _ _ h (barrierOp_released hwait _ _ _ _ _))
  · exact (exec_barmax f s).trans (run_ready_ok _ _ _ _ _ _ h (barrierOp_released hwait _ _ _ _ _))
  · intro w cl b mask me waits hwait
    obtain ⟨done, hout⟩ := barrierForm_outcome h
    refine ⟨fun hw => ?_, fun hquiet hbits hmember => ?_⟩
    · rw [hout, barrierOp_refused hwait hw, conclude_trap]
    · have hjoins {e : Barrier} := barrier_waits (b := b) (e := e) hout hwait ⟨hbits, hmember⟩ hquiet
      rw [barrierOp_arrives hwait ⟨hbits, hmember⟩ hquiet] at hout
      refine ⟨fun hfree => hjoins (arriveBarrier_opens rfl hfree), fun e hopen =>
        ⟨fun hctx hmask hnew => hjoins (arriveBarrier_joins rfl hopen hctx hmask hnew), fun hctx hmask => ?_, fun hctx => ?_⟩⟩
      · rw [hout, arriveBarrier_otherMask rfl hopen hctx hmask]
        rfl
      · rw [arriveBarrier_otherCtx rfl hopen hctx] at hout
        refine ⟨_, hout, ?_, ?_, rfl⟩
        · rw [markStall_me]
          rfl
        · rw [markStall_me, begin_me]
          exact hwait
  · obtain ⟨t, ht, hfree, hwaits⟩ := exec_barrierRelease_frees hopen hall
    refine ⟨t, _, ht, hfree, hwaits, rfl, foldl_magMax_of_nan _ 0, fun hmags => ?_⟩
    obtain ⟨hone, -, hmax⟩ := foldl_max_spec (fun a : Nat × Nat × Word => magOf a.2.2) e.arrived 0
    have hfold : e.arrived.foldl (fun m a => magMax m a.2.2) 0 = BitVec.ofNat 64 (e.arrived.foldl (fun m a => max m (magOf a.2.2)) 0) :=
      foldl_magMax_mag (fun a : Nat × Nat × Word => a.2.2) (Nat.zero_le _) hmags
    have hlargest : ∃ a ∈ e.arrived, e.arrived.foldl (fun m a => max m (magOf a.2.2)) 0 = magOf a.2.2 := by
      obtain hzero | hsome := hone
      · obtain ⟨a, ha⟩ := List.exists_mem_of_ne_nil _ hne
        exact ⟨a, ha, by have := hmax a ha; omega⟩
      · exact hsome
    obtain ⟨a, ha, hlargest⟩ := hlargest
    refine ⟨⟨a, ha, hfold.trans (congrArg _ hlargest)⟩, fun c hc => ?_⟩
    rw [hfold, BitVec.toNat_ofNat, Nat.mod_eq_of_lt]
    · exact hmax c hc
    · exact hlargest ▸ (magOf_lt a.2.2).trans (by decide)

end Sys2Proof.Machine

end

/-! # Rights granted and checked (R157, R325, R330) -/
section

namespace Sys2Proof.Machine

/-! ## Words that answer a status -/

/-- What a result on its way leaves at the end of its word. -/
theorem finished_pendG_pend (h : Hints) (s : State) (i : Nat) (credit : Bool) (addr : Word) (kind : PendKind) :
    newPend s i credit addr kind ∈ (finished h (pendG s i credit addr kind)).me.pend := by
  rw [finished_me_pend, pendG_me]
  exact List.mem_append_right _ (List.mem_singleton_self _)

theorem finished_owners (h : Hints) (s : State) : (finished h s).owners = s.owners := by
  rw [(IssueChange.finished h s).rest]

theorem finished_nextGid (h : Hints) (s : State) : (finished h s).nextGid = s.nextGid := by
  rw [(IssueChange.finished h s).rest]

/-- A word that leaves a status on its way to its register answers it. -/
theorem answers_of_pendG {i : Instr} {f : Form} {s u : State} {credit : Bool} {addr st : Word}
    (h : exec i s = .next (finished f.hints (pendG u (regOf f.od) credit addr (.value st)))) (hlevel : u.me.tlvl = s.me.tlvl) (huid : s.uid ≤ u.uid) :
    answers i f s (finished f.hints (pendG u (regOf f.od) credit addr (.value st))) st :=
  ⟨h, _, finished_pendG_pend _ _ _ _ _ _, huid, rfl, congrArg (fun l => gIndex l (regOf f.od)) hlevel, rfl⟩

/-! ## Rights instructions -/

section Words
variable {f : Form} {s : State}

/-- What lets a rights instruction come to its effect (R157). -/
structure RangeReady (f : Form) (s : State) : Prop where
  ready : formReady s f none .write = true
  aligned : (s.me.value f.oa).toNat % 64 = 0
  length : fieldN (s.me.value f.ob) 0 32 ≠ 0
  reserved : fieldN (s.me.value f.ob) 37 7 = 0
  ordinary : s.mySpec = none
  credit : needCredit (begin s) = .ok ()
  path : needPath (begin s) 0 = .ok ()

theorem RangeReady.checkRange (h : RangeReady f s) : checkRange (begin s) f = .ok () := by
  have hspec : (begin s).mySpec = none := by rw [begin_mySpec]; exact h.ordinary
  simp only [Machine.checkRange, begin_value, h.aligned, h.length, h.reserved, needOrdinary_ok hspec, h.credit, h.path, ne_eq, not_true_eq_false,
    or_self, if_false, bind, Except.bind]

theorem rightsOp_ready (h : RangeReady f s) {effect : State → Word → Word → Word × State} {st : Word} {u : State}
    (he : effect (begin s) (s.me.value f.oa) (s.me.value f.ob) = (st, u)) :
    rightsOp f effect s = .next (finished f.hints (pendG u (regOf f.od) true (s.me.value f.oa) (.value st))) := by
  refine run_ready_ok _ _ _ _ _ _ h.ready ?_
  simp only [h.checkRange, begin_value, he, bind, Except.bind, pure, Except.pure]

/-- A rights instruction whose effect is its status alone. -/
theorem rightsOp_answers (h : RangeReady f s) {i : Instr} {effect : State → Word → Word → Word × State} (hi : ∀ s, exec i s = rightsOp f effect s)
    {st : Word} (he : effect (begin s) (s.me.value f.oa) (s.me.value f.ob) = (st, begin s)) : ∃ t, answers i f s t st ∧ t.owners = s.owners :=
  ⟨_, answers_of_pendG ((hi s).trans (rightsOp_ready h he)) (begin_me_tlvl s) le_rfl, finished_owners _ _⟩

end Words

/-! ## GRANT -/

section Grant
variable {u : State} {ptr w : Word}

/-- The covers of a grant: the owner's entries that hold its range with its rights and G (R325). -/
def grantCovers (u : State) (ptr w : Word) : List REntry :=
  (u.ownerEntries u.me.owner).filter (fun e => e.holds (rangeOf ptr w) && (e.rights &&& (rangeRt w ||| rightG)) == (rangeRt w ||| rightG))

/-- Whether a cover of a grant is live: of the pointer's generation and not quarantined (R325). -/
def REntry.liveFor (e : REntry) (ptr : Word) : Bool := !e.quar && e.gen == ptrGen ptr && ptrGen ptr != 127

theorem REntry.liveFor_iff {e : REntry} : e.liveFor ptr = true ↔ e.quar = false ∧ e.gen = ptrGen ptr ∧ ptrGen ptr ≠ 127 := by
  simp [REntry.liveFor, and_assoc]

/-- Whether a grant of the window of R330 goes to an owner that is no system owner (log 71). -/
def grantBarred (u : State) (ptr w : Word) : Prop := inWindow (rangeOf ptr w) = true ∧ systemOwner u (rangeTo w) = false

/-- Whether a grant stays in its partition or has a consent record (R325). -/
def grantMay (u : State) (ptr w : Word) : Prop :=
  (rangeTo w).extractLsb' 13 7 = u.me.owner.extractLsb' 13 7 ∨ consented u u.me.owner (rangeTo w) (rangeOf ptr w) (rangeRt w) = true

/-- The entry that a grant from a cover adds. -/
def grantEntry (u : State) (ptr w : Word) (c : REntry) : REntry :=
  { base := (rangeOf ptr w).1, len := fieldN w 0 32, gen := c.gen, rights := rangeRt w, gid := u.takeGid, pgid := c.gid, granter := u.me.owner,
    xp := (rangeTo w).extractLsb' 13 7 != u.me.owner.extractLsb' 13 7 }

/-- The state after a grant from a cover to the owner of a table. -/
def granted (u : State) (ptr w : Word) (c : REntry) (tab : OwnerTable) : State :=
  { u with nextGid := nextIdentity u.takeGid,
           owners := mset none u.owners (rangeTo w).toNat (some { tab with entries := insertEntry (grantEntry u ptr w c) tab.entries }) }

theorem grantRange_uncovered (h : grantCovers u ptr w = [] ∨ grantBarred u ptr w) : grantRange u ptr w = (1, u) := by
  have hno : ((grantCovers u ptr w).isEmpty || (inWindow (rangeOf ptr w) && !systemOwner u (rangeTo w))) = true := by
    obtain h | ⟨hwindow, hsystem⟩ := h
    · rw [h]; rfl
    · rw [hwindow, hsystem, Bool.not_false, Bool.and_self, Bool.or_true]
  exact if_pos hno

section Covered
variable (hcovers : grantCovers u ptr w ≠ []) (hfree : ¬grantBarred u ptr w)
include hcovers hfree

theorem grant_covered : ((grantCovers u ptr w).isEmpty || (inWindow (rangeOf ptr w) && !systemOwner u (rangeTo w))) = false := by
  rw [Bool.or_eq_false_iff]
  refine ⟨by simpa using hcovers, ?_⟩
  by_contra hbarred
  exact hfree (by simpa [grantBarred] using hbarred)

theorem grantRange_stale (hstale : ∀ e ∈ grantCovers u ptr w, e.liveFor ptr = false) : grantRange u ptr w = (4, u) := by
  have hnone : (grantCovers u ptr w).find? (·.liveFor ptr) = none := by
    rw [List.find?_eq_none]
    exact fun e he => ne_true_of_eq_false (hstale e he)
  refine (if_neg (ne_true_of_eq_false (grant_covered hcovers hfree))).trans ?_
  split
  · rfl
  · next c hc => cases hnone.symm.trans hc

section Live
variable {c : REntry} (hlive : (grantCovers u ptr w).find? (·.liveFor ptr) = some c)
include hlive

theorem grantRange_foreign (hmay : ¬grantMay u ptr w) : grantRange u ptr w = (2, u) := by
  refine (if_neg (ne_true_of_eq_false (grant_covered hcovers hfree))).trans ?_
  split
  · next hnone => cases hlive.symm.trans hnone
  · refine if_pos ?_
    simpa [grantMay] using hmay

/-- A grant with a live cover that may be made turns on the table of its target (R325). -/
theorem grantRange_may (hmay : grantMay u ptr w) : grantRange u ptr w = match mget none u.owners (rangeTo w).toNat with
    | none => (5, u)
    | some t => if t.capacity ≤ t.entries.length then (3, u) else (0, granted u ptr w c t) := by
  refine (if_neg (ne_true_of_eq_false (grant_covered hcovers hfree))).trans ?_
  split
  · next hnone => cases hlive.symm.trans hnone
  · next c' hc' =>
    cases hlive.symm.trans hc'
    refine (if_neg ?_).trans rfl
    simpa [grantMay, imp_iff_not_or] using hmay

end Live

end Covered

/-- An entry put into a table stands there with those it held. -/
theorem mem_insertEntry {e x : REntry} {es : List REntry} : x ∈ insertEntry e es ↔ x = e ∨ x ∈ es := by
  induction es with
  | nil => simp [insertEntry]
  | cons y r ih =>
    unfold insertEntry
    split_ifs
    · simp
    · simp only [List.mem_cons, ih]
      exact or_left_comm

theorem granted_owners (u : State) (ptr w : Word) (c : REntry) (tab : OwnerTable) : mget none (granted u ptr w c tab).owners (rangeTo w).toNat =
    some { tab with entries := insertEntry (grantEntry u ptr w c) tab.entries } := by
  simp only [granted, mget_mset_self]

end Grant

/-! ## RCHK -/

/-- The entries of an owner that a check of a range finds good: met, not quarantined, of the pointer's generation (R157). -/
def goodEntries (es : List REntry) (q : Range) (ptr : Word) : List REntry :=
  (es.filter (fun e => e.meets q)).filter (fun e => !e.quar && e.gen == ptrGen ptr && ptrGen ptr != 127)

section Report
variable {u : State} {ptr w : Word} {es : List REntry} (hes : u.ownerEntries u.me.owner = es)
include hes

/-- The bits of the report of `RCHK` (Table 8.10). -/
theorem checkReport_bit {k : Nat} (hk : k < 64) : (checkReport u ptr w).getLsbD k = (((List.range 5).map (fun k =>
    (rangeRt w).getLsbD k && spansRange ((goodEntries es (rangeOf ptr w) ptr).filter (fun e => e.rights.getLsbD k)) (rangeOf ptr w)) ++ [false, false] ++
    [(es.filter (fun e => e.meets (rangeOf ptr w))).any (fun e => !e.quar && e.gen != ptrGen ptr),
      (es.filter (fun e => e.meets (rangeOf ptr w))).any (·.quar)])[k]?).getD false := by
  subst hes
  rw [checkReport, BitVec.getLsbD_ofNat, testBit_bitsOf, decide_eq_true hk, Bool.true_and]
  rfl

theorem checkReport_right {k : Nat} (hk : k < 5) : (checkReport u ptr w).getLsbD k =
    ((rangeRt w).getLsbD k && spansRange ((goodEntries es (rangeOf ptr w) ptr).filter (fun e => e.rights.getLsbD k)) (rangeOf ptr w)) := by
  rw [checkReport_bit hes (by omega), List.append_assoc, List.getElem?_append_left (by simpa using hk), List.getElem?_map, List.getElem?_range hk]
  rfl

theorem checkReport_stale :
    (checkReport u ptr w).getLsbD 7 = es.any (fun e => e.meets (rangeOf ptr w) && (!e.quar && e.gen != ptrGen ptr)) := by
  exact (checkReport_bit hes (by decide)).trans List.any_filter

theorem checkReport_quarantined : (checkReport u ptr w).getLsbD 8 = es.any (fun e => e.meets (rangeOf ptr w) && e.quar) := by
  exact (checkReport_bit hes (by decide)).trans List.any_filter

end Report

/-- Settles O22: `GRANT` by the first reason that keeps it from its entry, `RCHK` by the bits of its report. -/
theorem rightsGranted : Obligations.RightsGranted := by
  unfold Obligations.RightsGranted
  intro f s u ptr w q owner to_ rt es covers live barred may hready haligned hlen hres hspec hcredit hpath
  have h : RangeReady f s := ⟨hready, haligned, hlen, hres, hspec, hcredit, hpath⟩
  have howner : u.me.owner = owner := begin_me_owner s
  have hes : u.ownerEntries u.me.owner = es := congrArg u.ownerEntries howner
  have hcovers : grantCovers u ptr w = covers := by rw [grantCovers, hes]
  have hmay : grantMay u ptr w ↔ may := by rw [grantMay, howner]; rfl
  refine ⟨fun hno => ?_, fun hsome hfree hstale => ?_, fun hsome hfree => ?_, ?_⟩
  · exact rightsOp_answers h (exec_grant f) (grantRange_uncovered (by rwa [hcovers]))
  · refine rightsOp_answers h (exec_grant f) (grantRange_stale (by rwa [hcovers]) hfree fun e he => ?_)
    rw [Bool.eq_false_iff, ne_eq, REntry.liveFor_iff]
    exact hstale e (hcovers ▸ he)
  · have hcovered : grantCovers u ptr w ≠ [] := by
      obtain ⟨e, he, -⟩ := hsome
      rw [hcovers]
      exact List.ne_nil_of_mem he
    obtain ⟨c, hc⟩ : ∃ c, (grantCovers u ptr w).find? (·.liveFor ptr) = some c := by
      rw [← Option.isSome_iff_exists, List.find?_isSome]
      obtain ⟨e, he, hlive⟩ := hsome
      exact ⟨e, hcovers ▸ he, REntry.liveFor_iff.mpr hlive⟩
    refine ⟨fun hno => ?_, fun hyes hnone => ?_, fun tab hyes htab => ⟨fun hfull => ?_, fun hroom => ?_⟩⟩
    · exact rightsOp_answers h (exec_grant f) (grantRange_foreign hcovered hfree hc (mt hmay.mp hno))
    · have htarget : mget none u.owners (rangeTo w).toNat = none := hnone
      exact rightsOp_answers h (exec_grant f) (by rw [grantRange_may hcovered hfree hc (hmay.mpr hyes), htarget])
    · have htarget : mget none u.owners (rangeTo w).toNat = some tab := htab
      exact rightsOp_answers h (exec_grant f) (by rw [grantRange_may hcovered hfree hc (hmay.mpr hyes), htarget]; exact if_pos hfull)
    · have htarget : mget none u.owners (rangeTo w).toNat = some tab := htab
      have hgrant : grantRange u ptr w = (0, granted u ptr w c tab) := by
        rw [grantRange_may hcovered hfree hc (hmay.mpr hyes), htarget]
        exact if_neg (Nat.not_le.mpr hroom)
      have hanswers := answers_of_pendG ((exec_grant f s).trans (rightsOp_ready h hgrant)) (begin_me_tlvl s) le_rfl
      have ⟨hquar, hgen, hbound⟩ := REntry.liveFor_iff.mp (List.find?_some (p := fun e : REntry => e.liveFor ptr) hc)
      refine ⟨_, { tab with entries := insertEntry (grantEntry u ptr w c) tab.entries }, hanswers, ?_, finished_nextGid _ _,
        fun x hx => mem_insertEntry.mpr (.inr hx), c, hcovers ▸ List.mem_of_find?_eq_some hc, ⟨hquar, hgen, hbound⟩, grantEntry u ptr w c, mem_insertEntry.mpr (.inl rfl), rfl, rfl, hgen, rfl, rfl, rfl, howner, rfl,
        rfl⟩
      rw [finished_owners]
      exact granted_owners u ptr w c tab
  · have hanswers := answers_of_pendG ((exec_rchk f s).trans (rightsOp_ready h rfl)) (begin_me_tlvl s) le_rfl
    exact ⟨_, _, hanswers, finished_owners _ _, fun k hk => checkReport_right hes hk, checkReport_stale hes, checkReport_quarantined hes⟩

end Sys2Proof.Machine

end

/-! # Rights revoked and advanced (R158, R159, R321, R326, R328, R329) -/
section

namespace Sys2Proof.Machine

/-! ## Entries of tables -/

/-- An entry stands in the table of an owner. -/
def listed (s : State) (o : Nat) (e : REntry) : Prop := ∃ tab, (o, some tab) ∈ s.owners ∧ e ∈ tab.entries

/-- An entry under other identities (R321). -/
def renamed (e e' : REntry) : Prop := e' = { e with gid := e'.gid, pgid := e'.pgid }

theorem renamed.refl (e : REntry) : renamed e e := rfl

theorem renamed.trans {a b c : REntry} (h : renamed a b) (h' : renamed b c) : renamed a c := by
  rw [renamed] at h h' ⊢
  rw [h', h]

theorem renamed.orig {e e' : REntry} (h : renamed e e') : e'.orig = e.orig := by rw [h]

theorem renamed.meets {e e' : REntry} (h : renamed e e') (q : Range) : e'.meets q = e.meets q := by rw [h]; rfl

theorem mem_allEntries {s : State} {e : REntry} : e ∈ allEntries s ↔ ∃ o, listed s o e := by
  simp only [allEntries, List.mem_flatMap, listed]
  constructor
  · rintro ⟨⟨o, _ | tab⟩, ho, he⟩
    · cases he
    · exact ⟨o, tab, ho, he⟩
  · rintro ⟨o, tab, ho, he⟩
    exact ⟨(o, some tab), ho, he⟩

/-! ## Tables whose entries change -/

/-- From `s` to `t` the entries of every table change as its owner says. -/
def tablesMapped (s t : State) (g : Nat → List REntry → List REntry) : Prop :=
  t.owners = s.owners.map (fun o => (o.1, o.2.map (fun u => { u with entries := g o.1 u.entries })))

theorem mget_map_key {α : Type} {d : α} {h : Nat → α → α} (l : List (Nat × α)) (k : Nat) (hd : h k d = d) :
    mget d (l.map (fun e => (e.1, h e.1 e.2))) k = h k (mget d l k) := by
  induction l with
  | nil => exact hd.symm
  | cons e r ih =>
    simp only [List.map_cons, mget]
    split_ifs with hk
    · rw [hk]
    · exact ih

section Mapped
variable {s t : State} {g : Nat → List REntry → List REntry} (h : tablesMapped s t g)
include h

theorem listed_tablesMapped {o : Nat} {x : REntry} : listed t o x ↔ ∃ tab, (o, some tab) ∈ s.owners ∧ x ∈ g o tab.entries := by
  rw [listed, h]
  constructor
  · rintro ⟨tab, htab, hx⟩
    obtain ⟨⟨o', _ | tab'⟩, hmem, heq⟩ := List.mem_map.mp htab
    · simp at heq
    · obtain ⟨rfl, rfl⟩ : o' = o ∧ { tab' with entries := g o' tab'.entries } = tab := by simpa using heq
      exact ⟨tab', hmem, hx⟩
  · rintro ⟨tab, htab, hx⟩
    exact ⟨_, List.mem_map.mpr ⟨_, htab, rfl⟩, hx⟩

theorem ownerEntries_tablesMapped (owner : BitVec 20) (hnil : g owner.toNat [] = []) :
    t.ownerEntries owner = g owner.toNat (s.ownerEntries owner) := by
  rw [State.ownerEntries, h, mget_map_key (h := fun o u => Option.map (fun u : OwnerTable => { u with entries := g o u.entries }) u) _ _ rfl,
    State.ownerEntries]
  cases mget none s.owners owner.toNat with
  | none => exact hnil.symm
  | some tab => rfl

end Mapped

/-! ## Entries replaced by parts (R157) -/

theorem mem_foldr_insertEntry {x : REntry} {l es : List REntry} : x ∈ l.foldr insertEntry es ↔ x ∈ l ∨ x ∈ es := by
  induction l with
  | nil => simp
  | cons y r ih => rw [List.foldr_cons, mem_insertEntry, ih, List.mem_cons, or_assoc]

/-- An entry that is left whole, or one of the parts that replace it. -/
def partOf (p : REntry → Bool) (parts : REntry → List REntry) (e x : REntry) : Prop := if p e then x ∈ parts e else x = e

theorem mem_splitTable {p : REntry → Bool} {parts : REntry → List REntry} {es : List REntry} {x : REntry} :
    x ∈ splitTable p parts es ↔ ∃ e ∈ es, partOf p parts e x := by
  induction es with
  | nil => simp [splitTable]
  | cons e r ih =>
    have hstep : splitTable p parts (e :: r) = if p e then (parts e).foldr insertEntry (splitTable p parts r) else insertEntry e (splitTable p parts r) :=
      rfl
    rw [hstep, List.exists_mem_cons_iff, ← ih, partOf]
    split_ifs
    · exact mem_foldr_insertEntry
    · exact mem_insertEntry

section Split
variable (s : State) (p : Nat → REntry → Bool) (parts : REntry → List REntry)

theorem splitTables_mapped : tablesMapped s (splitTables s p parts) (fun o => splitTable (p o) parts) := rfl

theorem listed_splitTables {o : Nat} {x : REntry} : listed (splitTables s p parts) o x ↔ ∃ e, listed s o e ∧ partOf (p o) parts e x := by
  rw [listed_tablesMapped (splitTables_mapped s p parts)]
  simp only [mem_splitTable, listed]
  constructor
  · rintro ⟨tab, htab, e, he, hx⟩
    exact ⟨e, ⟨tab, htab, he⟩, hx⟩
  · rintro ⟨e, ⟨tab, htab, he⟩, hx⟩
    exact ⟨tab, htab, e, he, hx⟩

theorem mem_ownerEntries_splitTables {owner : BitVec 20} {x : REntry} :
    x ∈ (splitTables s p parts).ownerEntries owner ↔ ∃ e ∈ s.ownerEntries owner, partOf (p owner.toNat) parts e x := by
  rw [ownerEntries_tablesMapped (splitTables_mapped s p parts) owner rfl, mem_splitTable]

end Split

/-- The parts of an entry outside a range do not meet it (R157). -/
theorem not_meets_of_mem_outside {e x : REntry} {q : Range} (h : x ∈ e.outside q) : x.meets q = false := by
  simp only [REntry.outside, List.mem_append] at h
  rw [REntry.meets, Bool.and_eq_false_iff, decide_eq_false_iff_not, decide_eq_false_iff_not]
  rcases h with h | h
  · split_ifs at h with hlow
    · cases List.mem_singleton.mp h
      right
      simp only [REntry.last]
      omega
    · cases h
  · split_ifs at h
    · cases List.mem_singleton.mp h
      left
      simp only
      omega
    · cases h

theorem orig_of_mem_outside {e x : REntry} {q : Range} (h : x ∈ e.outside q) : x.orig = e.orig := by
  simp only [REntry.outside, List.mem_append] at h
  have hpart {c : Prop} [Decidable c] {y : REntry} (hy : y.orig = e.orig) (h : x ∈ if c then [y] else []) : x.orig = e.orig := by
    split_ifs at h
    · exact List.mem_singleton.mp h ▸ hy
    · cases h
  exact h.elim (hpart rfl) (hpart rfl)

/-! ## Parts that take identities of their own (R321) -/

/-- From `s` to `t` entries change their identities alone. -/
structure Renames (s t : State) : Prop where
  rest : t = { s with nextGid := t.nextGid, owners := t.owners }
  keeps : ∀ o e, listed s o e → ∃ e', listed t o e' ∧ renamed e e'
  from_ : ∀ o e', listed t o e' → ∃ e, listed s o e ∧ renamed e e'
  owns : ∀ (owner : BitVec 20) e, e ∈ s.ownerEntries owner → ∃ e' ∈ t.ownerEntries owner, renamed e e'

theorem Renames.refl (s : State) : Renames s s :=
  ⟨rfl, fun _ e h => ⟨e, h, .refl e⟩, fun _ e h => ⟨e, h, .refl e⟩, fun _ e h => ⟨e, h, .refl e⟩⟩

theorem Renames.trans {s t u : State} (h : Renames s t) (h' : Renames t u) : Renames s u where
  rest := h'.rest.trans (by rw [h.rest])
  keeps o e he := by
    obtain ⟨e', he', hr⟩ := h.keeps o e he
    obtain ⟨e'', he'', hr'⟩ := h'.keeps o e' he'
    exact ⟨e'', he'', hr.trans hr'⟩
  from_ o e'' he'' := by
    obtain ⟨e', he', hr'⟩ := h'.from_ o e'' he''
    obtain ⟨e, he, hr⟩ := h.from_ o e' he'
    exact ⟨e, he, hr.trans hr'⟩
  owns owner e he := by
    obtain ⟨e', he', hr⟩ := h.owns owner e he
    obtain ⟨e'', he'', hr'⟩ := h'.owns owner e' he'
    exact ⟨e'', he'', hr.trans hr'⟩

/-- Entries renamed one by one. -/
theorem Renames.of_map {s t : State} {part : Nat → REntry → REntry} (hrest : t = { s with nextGid := t.nextGid, owners := t.owners })
    (h : tablesMapped s t (fun o => List.map (part o))) (hpart : ∀ o e, renamed e (part o e)) : Renames s t where
  rest := hrest
  keeps o e he := by
    obtain ⟨tab, htab, he⟩ := he
    exact ⟨part o e, (listed_tablesMapped h).mpr ⟨tab, htab, List.mem_map_of_mem he⟩, hpart o e⟩
  from_ o e' he' := by
    obtain ⟨tab, htab, he'⟩ := (listed_tablesMapped h).mp he'
    obtain ⟨e, he, rfl⟩ := List.mem_map.mp he'
    exact ⟨e, ⟨tab, htab, he⟩, hpart o e⟩
  owns owner e he := by
    rw [ownerEntries_tablesMapped h owner rfl]
    exact ⟨_, List.mem_map_of_mem he, hpart _ e⟩

/-- An entry as the renumbering of the part `e` of an owner leaves it (R321). -/
def partRenumbered (g o : Nat) (e : REntry) (k : Nat) (x : REntry) : REntry :=
  if k = o && x == e then { x with gid := g }
  else if x.pgid = e.gid && decide (e.base ≤ x.base) && decide (x.base < e.last) then { x with pgid := g } else x

theorem renamed_partRenumbered (g o : Nat) (e : REntry) (k : Nat) (x : REntry) : renamed x (partRenumbered g o e k x) := by
  unfold partRenumbered
  split_ifs <;> rfl

theorem Renames.renumberOne (s : State) : Renames s (renumberOne s) := by
  unfold Machine.renumberOne
  split
  · exact .refl s
  · next o e _ => exact .of_map (part := partRenumbered s.takeGid o e) rfl rfl fun k x => renamed_partRenumbered s.takeGid o e k x

theorem Renames.renumber (s : State) : Renames s (renumber s) :=
  List.foldlRecOn (motive := Renames s) _ _ (.refl s) fun u hu _ _ => hu.trans (.renumberOne u)

/-! ## The chain of derived entries (R326) -/

/-- An identity list holds what is derived from it inside a range. -/
def closedUnder (all : List REntry) (q : Range) (ids : List Nat) : Prop :=
  ∀ e ∈ all, e.meets q = true → e.pgid ≠ 0 → e.pgid ∈ ids → e.gid ∈ ids

theorem subset_derivedIds (all : List REntry) (q : Range) (n : Nat) (ids : List Nat) : ids ⊆ derivedIds all q n ids := by
  induction n generalizing ids with
  | zero => exact List.Subset.refl _
  | succ n ih =>
    unfold derivedIds
    dsimp only
    split_ifs
    · exact List.Subset.refl _
    · exact List.Subset.trans (List.subset_append_left _ _) (ih _)

/-- Fewer elements have the narrower of two properties, when one has the wider alone. -/
theorem countP_lt_of_imp {α : Type} {p q : α → Bool} {l : List α} {a : α} (h : ∀ x, p x = true → q x = true) (ha : a ∈ l) (hq : q a = true)
    (hp : p a = false) : l.countP p < l.countP q := by
  induction l with
  | nil => cases ha
  | cons b l ih =>
    have hle : l.countP p ≤ l.countP q := List.countP_mono_left fun x _ => h x
    rw [List.countP_cons, List.countP_cons]
    rcases List.mem_cons.mp ha with rfl | ha
    · rw [hp, hq]
      simp only [Bool.false_eq_true, if_false, if_true]
      omega
    · have hlt := ih ha
      by_cases hb : p b = true
      · rw [if_pos hb, if_pos (h b hb)]
        omega
      · rw [if_neg hb]
        split_ifs <;> omega

/-- The rounds suffice: each takes an identity that no round before took, of which there are no more than entries. -/
theorem closedUnder_derivedIds (all : List REntry) (q : Range) (n : Nat) (ids : List Nat) (hn : all.countP (fun e => !ids.contains e.gid) ≤ n) :
    closedUnder all q (derivedIds all q n ids) := by
  induction n generalizing ids with
  | zero =>
    intro e he _ _ _
    rw [derivedIds]
    simpa using List.countP_eq_zero.mp (Nat.le_zero.mp hn) e he
  | succ n ih =>
    unfold derivedIds
    dsimp only
    split_ifs with hmore
    · intro e he hq hp hmem
      by_contra hout
      rw [List.isEmpty_iff, List.filter_eq_nil_iff] at hmore
      exact hmore e he (by simp [hq, hp, hmem, hout])
    · refine ih _ ?_
      obtain ⟨e, he⟩ := List.exists_mem_of_ne_nil _ (fun h => hmore (List.isEmpty_iff.mpr h))
      refine Nat.le_of_lt_succ ((countP_lt_of_imp (fun x hx => ?_) (List.mem_of_mem_filter he) ?_ ?_).trans_le hn)
      · simp at hx ⊢
        exact hx.1
      · simp at he ⊢
        exact he.2.2
      · have hnew : e.gid ∈ ids ++ _ := List.mem_append_right ids (List.mem_map_of_mem (f := REntry.gid) he)
        rw [Bool.not_eq_false', List.contains_iff_mem]
        exact hnew

theorem derivedIds_nil (all : List REntry) (q : Range) (n : Nat) : derivedIds all q n [] = [] := by
  cases n with
  | zero => rfl
  | succ n => simp [derivedIds]

/-! ## The purge that follows (R326) -/

/-- A status waits for a purge that is on its way, or stands at once. -/
def waitsStatus (f : Form) (s t : State) (st : Word) : Prop :=
  ∃ p ∈ t.me.pend, s.uid ≤ p.seq ∧ p.reg = gIndex s.me.tlvl (regOf f.od) ∧
    (p.kind = .value st ∨ ∃ id, p.kind = .purge id st ∧ ∃ x ∈ t.purges, x.id = id)

theorem sendRightsPurge_owners (s : State) (owners : List (BitVec 20)) (q : Range) : (sendRightsPurge s owners q).2.owners = s.owners := by
  unfold sendRightsPurge
  dsimp only
  split_ifs <;> rfl

theorem sendRightsPurge_me (s : State) (owners : List (BitVec 20)) (q : Range) : (sendRightsPurge s owners q).2.me = s.me := by
  unfold sendRightsPurge
  dsimp only
  split_ifs <;> rfl

theorem sendRightsPurge_uid (s : State) (owners : List (BitVec 20)) (q : Range) : s.uid ≤ (sendRightsPurge s owners q).2.uid := by
  unfold sendRightsPurge
  dsimp only
  split_ifs
  · exact le_rfl
  · exact Nat.le_succ _

theorem sendRightsPurge_sent {s : State} {owners : List (BitVec 20)} {q : Range} {id : Nat} (h : (sendRightsPurge s owners q).1 = some id) :
    ∃ x ∈ (sendRightsPurge s owners q).2.purges, x.id = id := by
  unfold sendRightsPurge at h ⊢
  dsimp only at h ⊢
  split_ifs at h ⊢
  cases h
  exact ⟨_, List.mem_append_right _ (List.mem_singleton_self _), rfl⟩

theorem pendPurge_owners (u : State) (f : Form) (ptr : Word) (purge : Option Nat) (st : Word) : (pendPurge u f ptr purge st).owners = u.owners := by
  cases purge <;> rfl

theorem pendPurge_waits {f : Form} {s u : State} (h : Hints) {ptr : Word} {purge : Option Nat} (st : Word) (hlevel : u.me.tlvl = s.me.tlvl)
    (huid : s.uid ≤ u.uid) (hsent : ∀ id, purge = some id → ∃ x ∈ u.purges, x.id = id) :
    waitsStatus f s (finished h (pendPurge u f ptr purge st)) st := by
  have hreg : gIndex u.me.tlvl (regOf f.od) = gIndex s.me.tlvl (regOf f.od) := by rw [hlevel]
  cases purge with
  | none => exact ⟨_, finished_pendG_pend _ _ _ _ _ _, huid, hreg, .inl rfl⟩
  | some id =>
    obtain ⟨x, hx, hid⟩ := hsent id rfl
    have hpurges : ∀ v : State, (finished h v).purges = v.purges := fun v => by rw [(IssueChange.finished h v).rest]
    exact ⟨_, finished_pendG_pend _ _ _ _ _ _, huid, hreg, .inr ⟨id, rfl, x, by rw [hpurges]; exact hx, hid⟩⟩

/-! ## What a word takes along the chain (R158, R326) -/

/-- The derived entries of some identities that meet a range. -/
def inChain (q : Range) (ids : List Nat) (_ : Nat) (e : REntry) : Bool := !e.orig && ids.contains e.gid && e.meets q

/-- From `s` to `t` the derived entries of some identities are gone from a range, and nothing else of the derived ones. -/
structure ChainTaken (s t : State) (q : Range) (ids : List Nat) : Prop where
  gone : ∀ o e', listed t o e' → e'.orig = false → e'.meets q = true → ∃ e, listed s o e ∧ e.gid ∉ ids ∧ renamed e e'
  stays : ∀ o e, listed s o e → e.orig = false → (e.gid ∉ ids ∨ e.meets q = false) → ∃ e', listed t o e' ∧ renamed e e'
  parts : ∀ o e, listed s o e → e.orig = false → e.gid ∈ ids → e.meets q = true → ∀ x ∈ e.outside q, ∃ e', listed t o e' ∧ renamed x e'

section Chain
variable {s t u : State} {q : Range} {ids : List Nat}

theorem inChain_iff {o : Nat} {e : REntry} : inChain q ids o e = true ↔ e.orig = false ∧ e.gid ∈ ids ∧ e.meets q = true := by
  simp [inChain, and_assoc]

theorem ChainTaken.splitTables (s : State) (q : Range) (ids : List Nat) : ChainTaken s (splitTables s (inChain q ids) (·.outside q)) q ids where
  gone o x hx horig hmeets := by
    obtain ⟨e, he, hpart⟩ := (listed_splitTables _ _ _).mp hx
    rw [partOf] at hpart
    split_ifs at hpart with hchain
    · exact absurd hmeets (ne_true_of_eq_false (not_meets_of_mem_outside hpart))
    · subst hpart
      exact ⟨x, he, fun hid => hchain (inChain_iff.mpr ⟨horig, hid, hmeets⟩), .refl x⟩
  stays o e he horig hout := by
    refine ⟨e, (listed_splitTables _ _ _).mpr ⟨e, he, ?_⟩, .refl e⟩
    rw [partOf, if_neg]
    intro hchain
    obtain ⟨-, hid, hmeets⟩ := inChain_iff.mp hchain
    exact hout.elim (absurd hid) (fun h => absurd hmeets (ne_true_of_eq_false h))
  parts o e he horig hid hmeets x hx := by
    refine ⟨x, (listed_splitTables _ _ _).mpr ⟨e, he, ?_⟩, .refl x⟩
    rw [partOf, if_pos (inChain_iff.mpr ⟨horig, hid, hmeets⟩)]
    exact hx

/-- An entry of no chain stands where a chain is taken. -/
theorem ownerEntries_chain {owner : BitVec 20} {e : REntry} (he : e ∈ s.ownerEntries owner) (horig : e.orig = true) :
    e ∈ (splitTables s (inChain q ids) (·.outside q)).ownerEntries owner := by
  refine (mem_ownerEntries_splitTables _ _ _).mpr ⟨e, he, ?_⟩
  rw [partOf, if_neg]
  intro hchain
  rw [(inChain_iff.mp hchain).1] at horig
  cases horig

theorem listed_chain {o : Nat} {e : REntry} (he : listed s o e) (horig : e.orig = true) : listed (splitTables s (inChain q ids) (·.outside q)) o e := by
  refine (listed_splitTables _ _ _).mpr ⟨e, he, ?_⟩
  rw [partOf, if_neg]
  intro hchain
  rw [(inChain_iff.mp hchain).1] at horig
  cases horig

theorem ChainTaken.renames (h : ChainTaken s t q ids) (hr : Renames t u) : ChainTaken s u q ids where
  gone o x hx horig hmeets := by
    obtain ⟨e', he', hr'⟩ := hr.from_ o x hx
    obtain ⟨e, he, hid, hr⟩ := h.gone o e' he' (hr'.orig ▸ horig) (hr'.meets q ▸ hmeets)
    exact ⟨e, he, hid, hr.trans hr'⟩
  stays o e he horig hout := by
    obtain ⟨e', he', hr'⟩ := h.stays o e he horig hout
    obtain ⟨e'', he'', hr''⟩ := hr.keeps o e' he'
    exact ⟨e'', he'', hr'.trans hr''⟩
  parts o e he horig hid hmeets x hx := by
    obtain ⟨e', he', hr'⟩ := h.parts o e he horig hid hmeets x hx
    obtain ⟨e'', he'', hr''⟩ := hr.keeps o e' he'
    exact ⟨e'', he'', hr'.trans hr''⟩

/-- What is done to originals alone leaves the chain taken. -/
theorem ChainTaken.originals (h : ChainTaken s t q ids) {p : Nat → REntry → Bool} {parts : REntry → List REntry}
    (hp : ∀ o e, p o e = true → e.orig = true) (hparts : ∀ e, ∀ x ∈ parts e, x.orig = e.orig) :
    ChainTaken s (Machine.splitTables t p parts) q ids := by
  have hkeep : ∀ o e', listed t o e' → e'.orig = false → listed (Machine.splitTables t p parts) o e' := fun o e' he' horig => by
    refine (listed_splitTables _ _ _).mpr ⟨e', he', ?_⟩
    rw [partOf, if_neg]
    intro hpo
    rw [hp o e' hpo] at horig
    cases horig
  refine ⟨fun o x hx horig hmeets => ?_, fun o e he horig hout => ?_, fun o e he horig hid hmeets x hx => ?_⟩
  · obtain ⟨e, he, hpart⟩ := (listed_splitTables _ _ _).mp hx
    rw [partOf] at hpart
    split_ifs at hpart with hpo
    · rw [hparts e x hpart, hp o e hpo] at horig
      cases horig
    · subst hpart
      exact h.gone o x he horig hmeets
  · obtain ⟨e', he', hr⟩ := h.stays o e he horig hout
    exact ⟨e', hkeep o e' he' (hr.orig.trans horig), hr⟩
  · obtain ⟨e', he', hr⟩ := h.parts o e he horig hid hmeets x hx
    exact ⟨e', hkeep o e' he' (hr.orig.trans ((orig_of_mem_outside hx).trans horig)), hr⟩

theorem listed_congr (h : t.owners = s.owners) {o : Nat} {e : REntry} : listed t o e ↔ listed s o e := by rw [listed, listed, h]

theorem ownerEntries_congr (h : t.owners = s.owners) (owner : BitVec 20) : t.ownerEntries owner = s.ownerEntries owner := by
  rw [State.ownerEntries, State.ownerEntries, h]

theorem ChainTaken.congr (h : ChainTaken s t q ids) (howners : u.owners = t.owners) : ChainTaken s u q ids :=
  ⟨fun o e' he' => h.gone o e' ((listed_congr howners).mp he'),
    fun o e he horig hout => (h.stays o e he horig hout).imp fun _ hx => ⟨(listed_congr howners).mpr hx.1, hx.2⟩,
    fun o e he horig hid hmeets x hx => (h.parts o e he horig hid hmeets x hx).imp fun _ hx => ⟨(listed_congr howners).mpr hx.1, hx.2⟩⟩

end Chain

/-! ## REVOKE -/

section Revoke
variable {f : Form} {s : State}

/-- The state after `REVOKE` has taken the chain of some identities out of a range, before its purge. -/
def chainRevoked (s : State) (q : Range) (ids : List Nat) : State := renumber (splitTables s (inChain q ids) (·.outside q))

/-- What a word leaves that has changed the tables and sends a purge of some owners. -/
def purgeSent (f : Form) (v : State) (owners : List (BitVec 20)) (q : Range) (ptr st : Word) : State :=
  pendPurge (sendRightsPurge v owners q).2 f ptr (sendRightsPurge v owners q).1 st

theorem purgeSent_owners (f : Form) (v : State) (owners : List (BitVec 20)) (q : Range) (ptr st : Word) :
    (finished f.hints (purgeSent f v owners q ptr st)).owners = v.owners := by
  rw [finished_owners, purgeSent, pendPurge_owners, sendRightsPurge_owners]

theorem purgeSent_waits {v : State} (hlevel : v.me.tlvl = s.me.tlvl) (huid : s.uid ≤ v.uid) (owners : List (BitVec 20)) (q : Range) (ptr st : Word) :
    waitsStatus f s (finished f.hints (purgeSent f v owners q ptr st)) st :=
  pendPurge_waits f.hints st (by rw [sendRightsPurge_me]; exact hlevel) (huid.trans (sendRightsPurge_uid v owners q))
    (fun _ => sendRightsPurge_sent)

theorem Renames.me {s t : State} (h : Renames s t) : t.me = s.me := by rw [h.rest]; rfl
theorem Renames.uid {s t : State} (h : Renames s t) : t.uid = s.uid := by rw [h.rest]

/-- An entry that an owner granted and that `REVOKE` names (R326). -/
def revokes (owner to_ : BitVec 20) (q : Range) (o : Nat) (e : REntry) : Prop :=
  e.orig = false ∧ e.granter = owner ∧ e.meets q = true ∧ (to_.toNat = 0xFFFFF ∨ o = to_.toNat)

/-- The identities of the entries that `REVOKE` names itself. -/
def namedIds (s : State) (owner to_ : BitVec 20) (q : Range) : List Nat :=
  (s.owners.flatMap (fun o => if to_.toNat = Config.everyGrantee ∨ o.1 = to_.toNat then
    ((o.2.map (·.entries)).getD []).filter (fun e => !e.orig && e.granter == owner && e.meets q) else [])).map (·.gid)

theorem mem_namedIds {owner to_ : BitVec 20} {q : Range} {g : Nat} :
    g ∈ namedIds s owner to_ q ↔ ∃ o e, listed s o e ∧ revokes owner to_ q o e ∧ e.gid = g := by
  simp only [namedIds, List.mem_map, List.mem_flatMap, revokes]
  constructor
  · rintro ⟨e, ⟨⟨o, tab⟩, ho, he⟩, rfl⟩
    split_ifs at he with hto
    · obtain ⟨he, hhit⟩ := List.mem_filter.mp he
      simp only [Bool.and_eq_true, Bool.not_eq_true', beq_iff_eq] at hhit
      obtain ⟨⟨horig, hgranter⟩, hmeets⟩ := hhit
      obtain _ | tab := tab
      · cases he
      · exact ⟨o, e, ⟨tab, ho, he⟩, ⟨horig, hgranter, hmeets, hto⟩, rfl⟩
    · cases he
  · rintro ⟨o, e, ⟨tab, ho, he⟩, ⟨horig, hgranter, hmeets, hto⟩, rfl⟩
    refine ⟨e, ⟨(o, some tab), ho, ?_⟩, rfl⟩
    rw [if_pos (show to_.toNat = Config.everyGrantee ∨ (o, some tab).1 = to_.toNat from hto)]
    exact List.mem_filter.mpr ⟨he, by simp [horig, hgranter, hmeets]⟩

theorem revokedIds_eq (s : State) (owner to_ : BitVec 20) (q : Range) :
    revokedIds s owner to_ q = derivedIds (allEntries s) q (allEntries s).length (namedIds s owner to_ q) := rfl

theorem closedUnder_all (s : State) (q : Range) (ids : List Nat) :
    closedUnder (allEntries s) q (derivedIds (allEntries s) q (allEntries s).length ids) :=
  closedUnder_derivedIds _ q _ ids List.countP_le_length

variable {ptr w : Word} (hptr : s.me.value f.oa = ptr) (hw : s.me.value f.ob = w) (h : RangeReady f s)
include hptr hw h

theorem exec_revoke_none (hids : revokedIds s s.me.owner (rangeTo w) (rangeOf ptr w) = []) :
    exec (.revoke f) s = .next (finished f.hints (pendG (begin s) (regOf f.od) true ptr (.value 1))) := by
  subst hptr hw
  have hids' : revokedIds (begin s) s.me.owner (rangeTo (s.me.value f.ob)) (rangeOf (s.me.value f.oa) (s.me.value f.ob)) = [] := hids
  rw [exec_revoke, execRevoke]
  refine run_ready_ok _ _ _ _ _ _ h.ready ?_
  simp only [h.checkRange, begin_value, begin_me_owner, hids', List.isEmpty_nil, if_true, bind, Except.bind, pure, Except.pure]

theorem exec_revoke_takes {ids : List Nat} (hids : revokedIds s s.me.owner (rangeTo w) (rangeOf ptr w) = ids) (hne : ids ≠ []) :
    exec (.revoke f) s = .next (finished f.hints (purgeSent f (chainRevoked (begin s) (rangeOf ptr w) ids)
      (ownersOf (begin s) ids (rangeOf ptr w)) (rangeOf ptr w) ptr 0)) := by
  subst hptr hw
  have hids' : revokedIds (begin s) s.me.owner (rangeTo (s.me.value f.ob)) (rangeOf (s.me.value f.oa) (s.me.value f.ob)) = ids := hids
  have hempty : ids.isEmpty = false := by simpa using hne
  rw [exec_revoke, execRevoke]
  refine run_ready_ok _ _ _ _ _ _ h.ready ?_
  simp only [h.checkRange, begin_value, begin_me_owner, hids', hempty, Bool.false_eq_true, if_false, bind, Except.bind, pure, Except.pure]
  rfl

end Revoke

/-! ## GENADV -/

section Genadv
variable {f : Form} {s : State}

/-- The originals of an owner that meet a range. -/
def originalsIn (s : State) (owner : BitVec 20) (q : Range) : List REntry := (s.ownerEntries owner).filter (fun e => e.orig && e.meets q)

theorem filter_isOriginal (s : State) (owner : BitVec 20) (q : Range) :
    (s.ownerEntries owner).filter (isOriginal owner q owner.toNat) = originalsIn s owner q :=
  congrArg (fun p => List.filter p _) (funext fun e => by simp [isOriginal])

theorem mem_originalsIn {owner : BitVec 20} {q : Range} {e : REntry} :
    e ∈ originalsIn s owner q ↔ e ∈ s.ownerEntries owner ∧ e.orig = true ∧ e.meets q = true := by
  simp [originalsIn]

/-- The identities of the chain derived from the originals of an owner in a range. -/
def advancedIds (s : State) (owner : BitVec 20) (q : Range) : List Nat :=
  derivedIds (allEntries s) q (allEntries s).length ((originalsIn s owner q).map (·.gid))

theorem ChainTaken.advanceRange (s : State) (owner : BitVec 20) (q : Range) (ids : List Nat) :
    ChainTaken s (advanceRange s owner q ids) q ids := by
  refine ((ChainTaken.splitTables s q ids).originals (fun o e he => ?_) fun e x hx => ?_).renames (.renumber _)
  · simp only [isOriginal, Bool.and_eq_true] at he
    exact he.1.2
  · obtain rfl | hx := mem_insertEntry.mp hx
    · unfold REntry.advance
      split_ifs <;> rfl
    · exact orig_of_mem_outside hx

/-- An original of a range leaves its advanced part inside and its parts outside (R328). -/
theorem ownerEntries_advanceRange {owner : BitVec 20} {q : Range} (ids : List Nat) {e x : REntry} (he : e ∈ originalsIn s owner q)
    (hx : x = (e.inside q).advance ∨ x ∈ e.outside q) : ∃ e' ∈ (Machine.advanceRange s owner q ids).ownerEntries owner, renamed x e' := by
  obtain ⟨he, horig, hmeets⟩ := mem_originalsIn.mp he
  refine (Renames.renumber _).owns owner x ((mem_ownerEntries_splitTables _ _ _).mpr ⟨e, ownerEntries_chain he horig, ?_⟩)
  rw [partOf, if_pos (by simp [isOriginal, horig, hmeets])]
  exact mem_insertEntry.mpr hx

theorem advance_of_live {e : REntry} {q : Range} (hquar : e.quar = false) (hgen : e.gen.toNat < 126) :
    (e.inside q).advance = { e.inside q with gen := e.gen + 1 } :=
  (if_neg (ne_true_of_eq_false hquar)).trans (if_pos hgen)

theorem advance_of_last {e : REntry} {q : Range} (hquar : e.quar = false) (hgen : 126 ≤ e.gen.toNat) :
    (e.inside q).advance = { e.inside q with quar := true } :=
  (if_neg (ne_true_of_eq_false hquar)).trans (if_neg (Nat.not_lt.mpr hgen))

theorem advanceRange_me_uid (s : State) (owner : BitVec 20) (q : Range) (ids : List Nat) :
    (Machine.advanceRange s owner q ids).me = s.me ∧ (Machine.advanceRange s owner q ids).uid = s.uid :=
  ⟨(Renames.renumber _).me, (Renames.renumber _).uid⟩

variable {ptr w : Word} (hptr : s.me.value f.oa = ptr) (hw : s.me.value f.ob = w) (h : RangeReady f s)
include hptr hw h

theorem exec_genadv_none (hspan : spansRange (originalsIn s s.me.owner (rangeOf ptr w)) (rangeOf ptr w) = false) :
    exec (.genadv f) s = .next (finished f.hints (pendG (begin s) (regOf f.od) true ptr (.value 0x100))) := by
  subst hptr hw
  have hspan' : spansRange (originalsIn (begin s) s.me.owner (rangeOf (s.me.value f.oa) (s.me.value f.ob)))
      (rangeOf (s.me.value f.oa) (s.me.value f.ob)) = false := hspan
  rw [exec_genadv, execGenadv]
  refine run_ready_ok _ _ _ _ _ _ h.ready ?_
  simp only [h.checkRange, begin_value, begin_me_owner, filter_isOriginal, hspan', Bool.not_false, if_true, bind, Except.bind, pure, Except.pure]
  rfl

theorem exec_genadv_takes {ids : List Nat} (hids : advancedIds s s.me.owner (rangeOf ptr w) = ids)
    (hspan : spansRange (originalsIn s s.me.owner (rangeOf ptr w)) (rangeOf ptr w) = true) :
    exec (.genadv f) s = .next (finished f.hints (purgeSent f (advanceRange (begin s) s.me.owner (rangeOf ptr w) ids)
      (s.me.owner :: ownersOf (begin s) ids (rangeOf ptr w)) (rangeOf ptr w) ptr
      (advanceStatus (originalsIn (advanceRange (begin s) s.me.owner (rangeOf ptr w) ids) s.me.owner (rangeOf ptr w)) (rangeOf ptr w)))) := by
  subst hptr hw hids
  have hspan' : spansRange (originalsIn (begin s) s.me.owner (rangeOf (s.me.value f.oa) (s.me.value f.ob)))
      (rangeOf (s.me.value f.oa) (s.me.value f.ob)) = true := hspan
  rw [exec_genadv, execGenadv]
  refine run_ready_ok _ _ _ _ _ _ h.ready ?_
  simp only [h.checkRange, begin_value, begin_me_owner, filter_isOriginal, hspan', Bool.not_true, Bool.false_eq_true, if_false, bind, Except.bind,
    pure, Except.pure]
  rfl

end Genadv

/-- Settles O23: the entries that stay, that go and that are cut, each followed through the split of the tables and its renumbering. -/
theorem rightsRevoked : Obligations.RightsRevoked := by
  unfold Obligations.RightsRevoked
  intro f s u ptr w q owner to_ listed' renamed' hit mine closed takes waits hready haligned hlen hres hspec hcredit hpath
  have h : RangeReady f s := ⟨hready, haligned, hlen, hres, hspec, hcredit, hpath⟩
  have hclosed (ids : List Nat) : closed (derivedIds (allEntries s) q (allEntries s).length ids) := fun o e he =>
    closedUnder_all s q ids e (mem_allEntries.mpr ⟨o, he⟩)
  have htakes {v : State} {ids : List Nat} (hv : ChainTaken u v q ids) (owners : List (BitVec 20)) (st : Word) :
      takes ids (finished f.hints (purgeSent f v owners q ptr st)) :=
    have hv := hv.congr (purgeSent_owners f v owners q ptr st)
    ⟨hv.gone, hv.stays, hv.parts⟩
  have hlevel {v : State} (hv : v.me = u.me) : v.me.tlvl = s.me.tlvl := by rw [hv]; exact begin_me_tlvl s
  refine ⟨fun hno => ?_, fun hsome => ⟨fun o e he hhit => ?_, hclosed _, ?_⟩, fun hspan => ?_, fun hspan => ⟨fun e he => ?_, hclosed _, ?_⟩⟩
  · have hnamed : namedIds s owner to_ q = [] := List.eq_nil_iff_forall_not_mem.mpr fun g hg => by
      obtain ⟨o, e, he, hhit, -⟩ := mem_namedIds.mp hg
      exact hno o e he hhit
    have hids : revokedIds s owner to_ q = [] := by rw [revokedIds_eq, hnamed, derivedIds_nil]
    exact ⟨_, answers_of_pendG (exec_revoke_none rfl rfl h hids) (begin_me_tlvl s) le_rfl, finished_owners _ _⟩
  · exact subset_derivedIds _ _ _ _ (mem_namedIds.mpr ⟨o, e, he, hhit, rfl⟩)
  · obtain ⟨o, e, he, hhit⟩ := hsome
    have hid : e.gid ∈ revokedIds s owner to_ q := subset_derivedIds _ _ _ _ (mem_namedIds.mpr ⟨o, e, he, hhit, rfl⟩)
    have hren := Renames.renumber (splitTables u (inChain q (revokedIds s owner to_ q)) (·.outside q))
    refine ⟨_, exec_revoke_takes rfl rfl h rfl (List.ne_nil_of_mem hid), purgeSent_waits (hlevel hren.me) hren.uid.ge _ _ _ _,
      htakes ((ChainTaken.splitTables u q _).renames hren) _ _, fun o e he horig => ?_⟩
    obtain ⟨e', he', hr⟩ := hren.keeps o e (listed_chain he horig)
    exact ⟨e', (listed_congr (purgeSent_owners f _ _ q ptr 0)).mpr he', hr⟩
  · exact ⟨_, answers_of_pendG (exec_genadv_none rfl rfl h hspan) (begin_me_tlvl s) le_rfl, finished_owners _ _⟩
  · exact subset_derivedIds _ _ _ _ (List.mem_map_of_mem he)
  · obtain ⟨hme, huid⟩ := advanceRange_me_uid u owner q (advancedIds s owner q)
    have howners := purgeSent_owners f (advanceRange u owner q (advancedIds s owner q)) (owner :: ownersOf u (advancedIds s owner q) q) q ptr
      (advanceStatus (originalsIn (advanceRange u owner q (advancedIds s owner q)) owner q) q)
    have hpart {e x : REntry} (he : e ∈ mine) (hx : x = (e.inside q).advance ∨ x ∈ e.outside q) :=
      ownerEntries_congr howners owner ▸ ownerEntries_advanceRange (s := u) (advancedIds s owner q) he hx
    refine ⟨_, exec_genadv_takes rfl rfl h rfl hspan, htakes (ChainTaken.advanceRange u owner q _) _ _, ?_, fun e he hquar hgen => ?_,
      fun e he hquar hgen => ?_, fun e he x hx => hpart he (.inr hx)⟩
    · rw [ownerEntries_congr howners]
      exact purgeSent_waits (hlevel hme) huid.ge _ _ _ _
    · exact hpart he (.inl (advance_of_live hquar hgen).symm)
    · exact hpart he (.inl (advance_of_last hquar hgen).symm)

end Sys2Proof.Machine

end

/-! # Purges (R160, R172, R324, R326, R333) -/
section

namespace Sys2Proof.Machine

/-! ## TLBINV -/

section Tlbinv
variable {f : Form} {s : State} {ptr size : Word}

/-- The effect of `TLBINV` on the page of an address: it ends once its purge is done, and sends it else (R160, R333). -/
def tlbinvEffect (u : State) (ptr size : Word) : Except Stop State :=
  match u.me.wait with
  | .purge id => if purgeDone u id then .ok u else .error (.stall u)
  | _ =>
    match sendPagePurge u (invPage (ptrAddr ptr) size.toNat) with
    | (none, v) => .ok v
    | (some id, v) => .error (.stall (v.modMe (fun t => { t with wait := .purge id })))

theorem regsClear_nil_dsts {srcs : List Src} {dsts : List (Bool × Nat)} (h : regsClear s srcs dsts = true) : regsClear s srcs [] = true := by
  simp only [regsClear, Bool.and_eq_true] at h ⊢
  exact ⟨h.1, rfl⟩

theorem exec_tlbinv_refused (h : formReady s f none .none = true) (hsys : s.isSystem s.myCtx = false) :
    exec (.tlbinv f) s = traps s 0x03 (highWord (.tlbinv f)) := by
  rw [exec_tlbinv, execTlbinv]
  simp only [hsys, Bool.false_eq_true, if_false, runWith, powered_of_formReady h]
  exact conclude_trap _ _ _ _

/-- A `TLBINV` of a system context with nothing to stop it turns on its purge (R160). -/
theorem exec_tlbinv_ready (h : formReady s f none .none = true) (hsys : s.isSystem s.myCtx = true) (hptr : s.me.value f.oa = ptr)
    (hsize : s.me.value f.ob = size) (haligned : ptr.toNat % 64 = 0) (hbound : size.toNat ≤ 3) (hspec : s.mySpec = none) :
    exec (.tlbinv f) s = conclude f.hints s (tlbinvEffect (begin s) ptr size) := by
  subst hptr hsize
  have hspec' : (begin s).mySpec = none := by rwa [begin_mySpec]
  simp only [formReady, predsReady, Bool.and_eq_true, Bool.not_eq_true'] at h
  obtain ⟨⟨⟨hp, ⟨hlate, hfails⟩, hforms⟩, hg⟩, hregs⟩ := h
  rw [exec_tlbinv, execTlbinv]
  simp only [hsys, if_true]
  rw [runWith_ready _ _ _ _ _ _ _ _ hp hlate hfails hg hforms (regsClear_nil_dsts hregs)]
  simp only [begin_value, haligned, Nat.not_lt.mpr hbound, needOrdinary_ok hspec', ne_eq, not_true_eq_false, if_false, bind,
    Except.bind, pure, Except.pure]
  rfl

theorem tlbinvEffect_acked {u : State} {id : Nat} (hwait : u.me.wait = .purge id) (hdone : purgeDone u id = true) (ptr size : Word) :
    tlbinvEffect u ptr size = .ok u := by
  simp only [tlbinvEffect, hwait, hdone, if_true]

theorem tlbinvEffect_alone {u : State} (hwait : u.me.wait = .none) (hnone : (sendPagePurge u (invPage (ptrAddr ptr) size.toNat)).1 = none) :
    tlbinvEffect u ptr size = .ok (sendPagePurge u (invPage (ptrAddr ptr) size.toNat)).2 := by
  simp only [tlbinvEffect, hwait]
  split
  · next h => rw [h]
  · next id v h => rw [h] at hnone; cases hnone

theorem tlbinvEffect_sends {u : State} {id : Nat} (hwait : u.me.wait = .none)
    (hsome : (sendPagePurge u (invPage (ptrAddr ptr) size.toNat)).1 = some id) : tlbinvEffect u ptr size =
      .error (.stall ((sendPagePurge u (invPage (ptrAddr ptr) size.toNat)).2.modMe (fun t => { t with wait := .purge id }))) := by
  simp only [tlbinvEffect, hwait]
  split
  · next v h => rw [h] at hsome; cases hsome
  · next id' v h =>
    rw [h] at hsome
    cases hsome
    rw [h]

end Tlbinv

/-! ## The purge of a page (R333) -/

section PagePurge
variable {s : State} {q : Range}

/-- The clusters' TLBs without the entries of a page. -/
def pageDropped (s : State) (q : Range) : State :=
  { s with clusters := s.clusters.map (fun c => (c.1, { c.2 with tlb := c.2.tlb.filter (fun e => !e.within q.1 q.2) })) }

/-- What neither the notes of dropped entries nor a purge touches is as it was when the clusters dropped a page. -/
theorem sendPagePurge_keeps {β : Type} (p : State → β) (hnoted : ∀ u c gone, p (noteDropped u c gone) = p u)
    (hsent : ∀ (u : State) l, p { u.fresh.2 with purges := l } = p u) (s : State) (q : Range) :
    p (sendPagePurge s q).2 = p (pageDropped s q) := by
  have hfold := foldl_keeps (f := fun (u : State) (c : Nat × Cluster) => noteDropped u c.1 (c.2.tlb.filter (fun e => e.within q.1 q.2))) p
    (fun u c => hnoted u _ _) s.clusters (pageDropped s q)
  unfold sendPagePurge
  dsimp only
  split_ifs
  · exact hfold
  · exact (hsent _ _).trans hfold

theorem sendPagePurge_me (s : State) (q : Range) : (sendPagePurge s q).2.me = s.me :=
  sendPagePurge_keeps (·.me) (fun _ _ _ => rfl) (fun _ _ => rfl) s q

theorem sendPagePurge_ia (s : State) (q : Range) : (sendPagePurge s q).2.ia = s.ia :=
  sendPagePurge_keeps (·.ia) (fun _ _ _ => rfl) (fun _ _ => rfl) s q

/-- No cluster's TLB holds the page once its purge is sent. -/
theorem sendPagePurge_tlb (s : State) (q : Range) (c : Nat) : ∀ e ∈ ((sendPagePurge s q).2.cluster c).tlb, e.within q.1 q.2 = false := by
  have hclusters := sendPagePurge_keeps (·.clusters) (fun _ _ _ => rfl) (fun _ _ => rfl) s q
  have htlb : ((sendPagePurge s q).2.cluster c).tlb = (s.cluster c).tlb.filter (fun e => !e.within q.1 q.2) := by
    rw [State.cluster, hclusters]
    exact congrArg Cluster.tlb (mget_map_key (h := fun (_ : Nat) (u : Cluster) => { u with tlb := u.tlb.filter (fun e => !e.within q.1 q.2) }) s.clusters c rfl)
  intro e he
  rw [htlb] at he
  simpa using (List.mem_filter.mp he).2

theorem sendPagePurge_sent {id : Nat} (h : (sendPagePurge s q).1 = some id) : ∃ x ∈ (sendPagePurge s q).2.purges, x.id = id := by
  unfold sendPagePurge at h ⊢
  dsimp only at h ⊢
  split_ifs at h ⊢
  cases h
  exact ⟨_, List.mem_append_right _ (List.mem_singleton_self _), rfl⟩

end PagePurge

/-! ## A purge that arrives -/

section Arrival
variable {s : State} {k core : Nat} {p : Purge}

/-- A purge that a unit has acknowledged no longer waits for it (R326). -/
def purgeAcked (s : State) (p : Purge) (core : Nat) : State :=
  let rest := p.pending.filter (fun c => c != core)
  if rest.isEmpty then { s with purges := s.purges.filter (fun x => x.id != p.id) }
  else { s with purges := s.purges.map (fun x => if x.id == p.id then { x with pending := rest } else x) }

theorem purgeAcked_pending (s : State) (p : Purge) (core : Nat) : ∀ x ∈ (purgeAcked s p core).purges, x.id = p.id → core ∉ x.pending := by
  intro x hx hid
  unfold purgeAcked at hx
  dsimp only at hx
  split_ifs at hx
  · simp [hid] at hx
  · obtain ⟨y, -, rfl⟩ := List.mem_map.mp hx
    by_cases hy : y.id == p.id
    · simp [hy]
    · simp only [hy] at hid
      exact absurd hid (by simpa using hy)

theorem purgeAcked_core (s : State) (p : Purge) (core n : Nat) : (purgeAcked s p core).core n = s.core n := by
  unfold purgeAcked
  dsimp only
  split_ifs <;> rfl

variable (hp : s.purges[k]? = some p) (hpending : p.pending.contains core = true)
include hp hpending

theorem exec_purgeArrival_handler {c tag : BitVec 12} (hkind : p.kind = .handler c tag) :
    exec (.purgeArrival k core) s = .next (purgeAcked s p core) := by
  rw [exec_purgeArrival, execPurgeArrival, hp]
  simp only [hpending, hkind]
  rfl

theorem exec_purgeArrival_slot {owners : List (BitVec 20)} {base size : Nat} (hkind : p.kind = .rights owners base size) (hslot : 5000 ≤ core)
    (hpast : ∀ l ∈ s.leases, l.1 + 5000 = core → ∀ c ∈ l.2.cmds, unitPast owners (base, size) c = false) :
    exec (.purgeArrival k core) s = .next (purgeAcked s p core) := by
  have hnone : ((s.leases.filter (fun l => l.1 + 5000 == core)).any (fun l => l.2.cmds.any (unitPast owners (base, size)))) = false := by
    simp only [List.any_eq_false, List.mem_filter, beq_iff_eq, Bool.not_eq_true]
    intro l ⟨hl, hcore⟩
    exact hpast l hl hcore
  rw [exec_purgeArrival, execPurgeArrival, hp]
  simp only [hpending, hkind, hslot, hnone]
  rfl

theorem exec_purgeArrival_rights {owners : List (BitVec 20)} {base size : Nat} (hkind : p.kind = .rights owners base size) (hcore : core < 5000)
    (hstores : coreStoresIn s core (base, size) = false) : exec (.purgeArrival k core) s = .next (purgeAcked
      (countAt (s.modCore core (fun c => { c with plb := c.plb.filter (fun e => !e.purged owners (base, size)) })) core 0x5003 1) p core) := by
  have hstores' : ∀ upd, coreStoresIn (s.modCore core upd) core (base, size) = false := fun _ => hstores
  rw [exec_purgeArrival, execPurgeArrival, hp]
  simp only [hpending, hkind, Nat.not_le.mpr hcore, hstores']
  rfl

theorem exec_purgeArrival_page {base size : Nat} (hkind : p.kind = .page base size) (hstores : coreStoresIn s core (base, size) = false) :
    exec (.purgeArrival k core) s = .next (purgeAcked (writeBackIf (noteDropped
      (s.modCore core (fun c => { c with tlb := c.tlb.filter (fun e => !e.within base size) })) (cacheOf core)
        ((s.core core).tlb.filter (fun e => e.within base size))) (cacheOf core)
        (fun l => decide (base ≤ l.va) && decide (l.va < base + size))) p core) := by
  have hstores' : ∀ upd gone, coreStoresIn (noteDropped (s.modCore core upd) (cacheOf core) gone) core (base, size) = false := fun _ _ => hstores
  rw [exec_purgeArrival, execPurgeArrival, hp]
  simp only [hpending, hkind, hstores']
  rfl

end Arrival

theorem noteDropped_core (s : State) (c : Nat) (gone : List TlbEntry) (n : Nat) : (noteDropped s c gone).core n = s.core n := rfl
theorem CountsChange.core {s t : State} (h : CountsChange s t) (n : Nat) : t.core n = s.core n := by rw [h.rest]; rfl
theorem CacheChange.core {s t : State} (h : CacheChange s t) (n : Nat) : t.core n = s.core n := by rw [h.rest]; rfl

/-- Settles O24: `TLBINV` by the purge it sends, an arrival by the kind of its purge. -/
theorem purges : Obligations.Purges := by
  unfold Obligations.Purges
  refine ⟨fun f s h => ⟨exec_tlbinv_refused h, fun hsys haligned hbound hspec => ?_⟩, fun s k core p hp hpending => ⟨?_, ?_, ?_, ?_⟩⟩
  · have hexec := exec_tlbinv_ready h hsys rfl rfl haligned hbound hspec
    refine ⟨fun id hwait hdone => ?_, fun hwait hnone => ?_, fun id hwait hsome => ?_⟩
    · rw [hexec, tlbinvEffect_acked ((begin_me_wait s).trans hwait) hdone]
      rfl
    · rw [tlbinvEffect_alone ((begin_me_wait s).trans hwait) hnone] at hexec
      refine ⟨_, hexec, ?_, fun c => ?_⟩
      · exact (finished_me_pc _ _).trans (by rw [sendPagePurge_me, begin_me_pc])
      · exact (finished_cluster f.hints (sendPagePurge (begin s) _).2 c).symm ▸ sendPagePurge_tlb (begin s) _ c
    · rw [tlbinvEffect_sends ((begin_me_wait s).trans hwait) hsome] at hexec
      refine ⟨_, hexec, ?_, ?_, sendPagePurge_sent hsome⟩
      · rw [markStall_me]
        exact (sendPagePurge_ia (begin s) _).trans rfl
      · rw [markStall_me, State.me_modMe]
  · intro owners base size hkind hslot hpast
    exact ⟨_, exec_purgeArrival_slot hp hpending hkind hslot hpast, purgeAcked_pending _ _ _⟩
  · intro owners base size hkind hcore hstores
    refine ⟨_, exec_purgeArrival_rights hp hpending hkind hcore hstores, purgeAcked_pending _ _ _, fun e he => ?_⟩
    rw [purgeAcked_core, (CountsChange.countAt _ _ _ _).core, State.core_modCore_self] at he
    simpa using (List.mem_filter.mp he).2
  · intro base size hkind hstores
    refine ⟨_, exec_purgeArrival_page hp hpending hkind hstores, purgeAcked_pending _ _ _, fun e he => ?_⟩
    rw [purgeAcked_core, (CacheChange.writeBackIf _ _ _).core, noteDropped_core, State.core_modCore_self] at he
    simpa using (List.mem_filter.mp he).2
  · intro c tag hkind
    exact ⟨_, exec_purgeArrival_handler hp hpending hkind, purgeAcked_pending _ _ _⟩

end Sys2Proof.Machine

end

/-! # Numbers at their homes, and clean lines of a cache (R142, R236, R376) -/
section

namespace Sys2Proof.Machine

/-! ## Bytes and numbers at their homes -/

theorem mget_foldl_mset_self {bs : List (Nat × Byte)} (hnd : (bs.map (·.1)).Nodup) (m : Memory) {b : Nat × Byte} (hb : b ∈ bs) :
    mget unwritten (bs.foldl (fun (m : Memory) (b : Nat × Byte) => mset unwritten m b.1 b.2) m) b.1 = b.2 := by
  induction bs generalizing m with
  | nil => cases hb
  | cons c bs ih =>
    obtain ⟨hfresh, hnd⟩ := List.nodup_cons.mp hnd
    obtain rfl | hb := List.mem_cons.mp hb
    · rw [List.foldl_cons, mget_foldl_mset bs _ _ fun e he heq => hfresh (List.mem_map.mpr ⟨e, he, heq⟩), mget_mset_self]
    · exact ih hnd _ hb

/-- A byte written at its home reads as written, where each place is written once. -/
theorem State.homeByte_homeWriteBytes_self (s : State) {bs : List (Nat × Byte)} (hnd : (bs.map (·.1)).Nodup) {b : Nat × Byte} (hb : b ∈ bs) :
    (s.homeWriteBytes bs).homeByte b.1 = b.2 := mget_foldl_mset_self hnd s.home hb

theorem State.homeRead_one (s : State) (a : Nat) : s.homeRead a 1 = (s.homeByte a).toNat := by
  simp [State.homeRead, natOfBytes]

/-- The places and bytes of a number of `n` bytes. -/
def numberBytes (pa n x : Nat) : List (Nat × Byte) := (List.range n).map (fun k => (pa + k, BitVec.ofNat 8 (x / 2 ^ (8 * k))))

theorem State.homeWrite_eq (s : State) (pa n x : Nat) : s.homeWrite pa n x = s.homeWriteBytes (numberBytes pa n x) := by
  rw [State.homeWrite, range_zip_bytesOf, List.map_map]
  rfl

theorem numberBytes_nodup (pa n x : Nat) : ((numberBytes pa n x).map (·.1)).Nodup := by
  rw [numberBytes, List.map_map]
  exact List.Nodup.map (fun _ _ h => Nat.add_left_cancel h) List.nodup_range

/-- A number written at its home reads as written, at its width. -/
theorem State.homeRead_homeWrite_self (s : State) (pa n x : Nat) : (s.homeWrite pa n x).homeRead pa n = x % 2 ^ (8 * n) := by
  rw [← natOfBytes_range, State.homeRead, State.homeWrite_eq]
  refine congrArg natOfBytes (List.map_congr_left fun k hk => ?_)
  exact State.homeByte_homeWriteBytes_self s (numberBytes_nodup pa n x) (b := (pa + k, _)) (List.mem_map_of_mem hk)

theorem State.homeByte_homeWrite_other (s : State) {pa n a : Nat} (x : Nat) (h : a < pa ∨ pa + n ≤ a) :
    (s.homeWrite pa n x).homeByte a = s.homeByte a := by
  rw [State.homeWrite_eq]
  refine State.homeByte_homeWriteBytes s _ a fun b hb => ?_
  obtain ⟨k, hk, rfl⟩ := List.mem_map.mp hb
  have := List.mem_range.mp hk
  simp only
  omega

/-- A number at a home is read as before where another is written. -/
theorem State.homeRead_homeWrite_other (s : State) {pa n pa' n' : Nat} (x : Nat) (h : pa' + n' ≤ pa ∨ pa + n ≤ pa') :
    (s.homeWrite pa n x).homeRead pa' n' = s.homeRead pa' n' := by
  refine congrArg natOfBytes (List.map_congr_left fun k hk => State.homeByte_homeWrite_other s x ?_)
  have := List.mem_range.mp hk
  omega

/-! ## Units under their key (R376) -/

/-- A unit that stands under its page's key is rekeyed without a change of its bytes. -/
theorem rekeyed_home {s : State} {x : Xlat} (h : keyStands s x = true) : (s.rekeyed x).home = s.home := by
  unfold State.rekeyed
  split
  · rfl
  · dsimp only
    rw [if_pos h]

theorem putAt_eq (s : State) (x : Xlat) (n v : Nat) : s.putAt x n v = (s.rekeyed x).homeWrite x.pa n v := rfl

theorem putAt_homeRead_self (s : State) (x : Xlat) (n v : Nat) : (s.putAt x n v).homeRead x.pa n = v % 2 ^ (8 * n) := by
  rw [putAt_eq, State.homeRead_homeWrite_self]

section Stands
variable {s : State} {x : Xlat} (h : keyStands s x = true)
include h

theorem readAt_home (n : Nat) : s.readAt x n = s.homeRead x.pa n := if_pos h

theorem putAt_homeRead_other {n pa' n' : Nat} (v : Nat) (hout : pa' + n' ≤ x.pa ∨ x.pa + n ≤ pa') :
    (s.putAt x n v).homeRead pa' n' = s.homeRead pa' n' := by
  rw [putAt_eq, State.homeRead_homeWrite_other _ v hout, homeRead_congr (rekeyed_home h)]

end Stands

/-! ## Lines without dirty words (R142, R236, R237) -/

/-- A line that no core has written takes no other with it. -/
theorem withEarlier_unwritten {l : CacheLine} (h : l.wrote = []) (ls : List CacheLine) (n : Nat) : withEarlier ls n [l] = [l] := by
  cases n with
  | zero => rfl
  | succ n =>
    have hnone : ls.find? (fun m => !List.any [l] (fun k => k.va == m.va) && List.any [l] (wroteBefore m)) = none := by
      rw [List.find?_eq_none]
      intro m _
      simp [wroteBefore, h]
    rw [withEarlier, hnone]

/-- The write-back of a clean line changes nothing. -/
theorem writeBack_clean {s : State} {c va : Nat} {l : CacheLine} (hl : (s.cluster c).find va = some l) (hdw : l.dw = 0) (hwrote : l.wrote = []) :
    writeBack s c va = s := by
  simp only [writeBack, hl, withEarlier_unwritten hwrote, List.foldl_cons, List.foldl_nil]
  exact if_pos hdw

/-- A cache without one line. -/
def lineDropped (s : State) (c va : Nat) : State := s.modCluster c (fun k => { k.drop va with purged := s.uid })

theorem flushLine_clean {s : State} {c va : Nat} (h : ∀ l, (s.cluster c).find va = some l → l.dw = 0 ∧ l.wrote = []) :
    flushLine s c va = lineDropped s c va := by
  have hback : writeBack s c va = s := by
    cases hl : (s.cluster c).find va with
    | none => exact writeBack_none hl
    | some l => exact writeBack_clean hl (h l hl).1 (h l hl).2
  rw [flushLine, hback]
  rfl

theorem find_drop (k : Cluster) (va : Nat) : (k.drop va).find va = none := by
  simp [Cluster.find, Cluster.drop, List.find?_eq_none]

theorem lineDropped_find (s : State) (c va : Nat) : ((lineDropped s c va).cluster c).find va = none := by
  rw [lineDropped, State.cluster_modCluster_self]
  exact find_drop _ va

theorem CountsChange.find {s t : State} (h : CountsChange s t) (c va : Nat) : (t.cluster c).find va = (s.cluster c).find va := by
  rw [h.clusters c]
  rfl

end Sys2Proof.Machine

end

/-! # Atomics (R147, R148, Table 8.5) -/
section

namespace Sys2Proof.Machine

/-! ## The values that atomics write (Table 8.5) -/

theorem signedOf_eq_toInt {w m : Nat} (hm : m < 2 ^ w) : signedOf w m = (BitVec.ofNat w m).toInt := by
  rw [signedOf, BitVec.toInt_eq_toNat_cond, BitVec.toNat_ofNat, Nat.mod_eq_of_lt hm]
  norm_cast

theorem toBits_toInt {w m : Nat} (hm : m < 2 ^ w) : toBits w (BitVec.ofNat w m).toInt = m := by
  have hback := congrArg BitVec.toNat (BitVec.ofInt_toInt (x := BitVec.ofNat w m))
  rw [BitVec.toNat_ofInt, BitVec.toNat_ofNat, Nat.mod_eq_of_lt hm] at hback
  exact_mod_cast hback

section Values
variable {n m b : Nat} (cmp : Nat) (hm : m < 2 ^ (8 * n)) (hb : b < 2 ^ (8 * n))
include hm hb

theorem atomicNew_max : atomicNew 2 n m b cmp = if (BitVec.ofNat (8 * n) m).toInt < (BitVec.ofNat (8 * n) b).toInt then b else m := by
  simp only [atomicNew, signedOf_eq_toInt hm, signedOf_eq_toInt hb]
  split_ifs with h
  · rw [max_eq_right h.le, toBits_toInt hb, Nat.mod_eq_of_lt hb]
  · rw [max_eq_left (not_lt.mp h), toBits_toInt hm, Nat.mod_eq_of_lt hm]

theorem atomicNew_min : atomicNew 5 n m b cmp = if (BitVec.ofNat (8 * n) b).toInt < (BitVec.ofNat (8 * n) m).toInt then b else m := by
  simp only [atomicNew, signedOf_eq_toInt hm, signedOf_eq_toInt hb]
  split_ifs with h
  · rw [min_eq_right h.le, toBits_toInt hb, Nat.mod_eq_of_lt hb]
  · rw [min_eq_left (not_lt.mp h), toBits_toInt hm, Nat.mod_eq_of_lt hm]

theorem atomicNew_cas : atomicNew 10 n m b cmp = if m = cmp then b else m := by
  have hlt : (if m = cmp then b else m) < 2 ^ (8 * n) := by split_ifs; exacts [hb, hm]
  exact Nat.mod_eq_of_lt hlt

end Values

theorem atomicNew_lt (op n m b cmp : Nat) : atomicNew op n m b cmp < 2 ^ (8 * n) := Nat.mod_lt _ (Nat.two_pow_pos _)

/-! ## An atomic leaves its core (R147) -/

/-- A request for which no register waits, in flight (R147). -/
def posted (s : State) (ea : Word) (kind : PendKind) : State :=
  State.modMe { s with uid := s.uid + 1 } (fun t => { t with
    pend := t.pend ++ [{ seq := s.uid, posted := true, addr := ea, owner := t.owner, kind := kind }] })

section Words
variable {f : Form} {s : State} {x : Xlat} {n : Nat} {ea : Word} {op : Nat} {use : OdUse}
variable (hn : (if f.md.getLsbD 2 then 4 else 8) = n) (hea : s.me.value f.oa = ea) (hok : accessOk (begin s) ea n rightA x) (hwb : x.wb = false)
  (hspec : (begin s).mySpec = none) (huse : (if op = 10 then .both else .write) = use) (hready : formReady s f none use = true)
include hn hea hok hwb hspec huse hready

/-- An atomic with a destination, its access checked, leaves a request that its register waits for. -/
theorem atomicOp_pending (hod : regOf f.od ≠ 0) (hcredit : needCredit ((begin s).used ea n rightA false) = .ok ()) :
    atomicOp op f s = .next (finished f.hints (pendG ((begin s).used ea n rightA false) (regOf f.od) true ea
      (.atomic op (f.md.toNat % 4) n ea x (s.me.value f.ob) (s.me.value f.od) none))) := by
  subst huse hn hea
  refine run_ready_ok _ _ _ _ _ _ hready ?_
  simp only [begin_value, checkAccess_ok hok, needOrdinary_ok hspec, hwb, Bool.false_eq_true, if_false, if_neg hod, hcredit, bind, Except.bind,
    pure, Except.pure]

/-- An atomic with g0 as its destination leaves a posted request. -/
theorem atomicOp_posted (hod : regOf f.od = 0) :
    atomicOp op f s = .next (finished f.hints (posted ((begin s).used ea n rightA false) ea
      (.atomic op (f.md.toNat % 4) n ea x (s.me.value f.ob) (s.me.value f.od) none))) := by
  subst huse hn hea
  refine run_ready_ok _ _ _ _ _ _ hready ?_
  simp only [begin_value, checkAccess_ok hok, needOrdinary_ok hspec, hwb, Bool.false_eq_true, if_false, if_pos hod, bind, Except.bind,
    pure, Except.pure]
  rfl

end Words

/-! ## An atomic of device scope is performed at its home (R148) -/

/-- What a request to the home of an HBM page leaves of the state: the line dropped, an event counted. -/
def requested (s : State) (c va : Nat) (x : Xlat) : State := homeRequest (lineDropped s c va) c va x

theorem homeRequest_countsChange {x : Xlat} (htier : x.tier = 0) (s : State) (c va : Nat) : CountsChange s (homeRequest s c va x) := by
  have hcount : countRequest s va x = s := by simp [countRequest, htier]
  simpa only [hcount] using homeRequest_counts s c va x

theorem requested_find {x : Xlat} (htier : x.tier = 0) (s : State) (c va : Nat) : ((requested s c va x).cluster c).find va = none := by
  rw [requested, (homeRequest_countsChange htier _ c va).find, lineDropped_find]

/-- A request to a home changes nothing but the caches and counts of clusters. -/
theorem requested_rest {x : Xlat} (htier : x.tier = 0) (s : State) (c va : Nat) :
    requested s c va x = { s with clusters := (requested s c va x).clusters } := by
  rw [requested, (homeRequest_countsChange htier (lineDropped s c va) c va).rest]
  rfl

section Perform
variable {s : State} {c va : Nat} {x : Xlat} (htier : x.tier = 0) (hdirty : (currentXlat s c va x).dirty = true)
include htier hdirty

/-- An atomic of device scope on an HBM page acts at the home of its word, once the clean line of its cluster is dropped. -/
theorem performAtomic_home {ea : Word} (hva : ptrAddr ea = va) (op n : Nat) (b cmp : Word) (hecc : s.eccFails x.pa = false)
    (hkey : keyStands s x = true) (hclean : ∀ l, (s.cluster (cacheOf c)).find va = some l → l.dw = 0 ∧ l.wrote = []) :
    performAtomic s c op 1 n ea x b cmp = (s.homeRead x.pa n, false, (requested s (cacheOf c) va (dirtyNow s c va x)).putAt (dirtyNow s c va x) n
      (atomicNew op n (s.homeRead x.pa n) (b.toNat % 2 ^ (8 * n)) (cmp.toNat % 2 ^ (8 * n)))) := by
  subst hva
  have hrest := requested_rest (x := dirtyNow s c (ptrAddr ea) x) htier s (cacheOf c) (ptrAddr ea)
  have hset : setDirty s c (ptrAddr ea) (dirtyNow s c (ptrAddr ea) x) = s := if_pos hdirty
  have hscope : effScope 1 (dirtyNow s c (ptrAddr ea) x).tier = 1 := by simp [effScope, dirtyNow, htier]
  have hstands : keyStands (requested s (cacheOf c) (ptrAddr ea) (dirtyNow s c (ptrAddr ea) x)) (dirtyNow s c (ptrAddr ea) x) = true := by
    rw [hrest]; exact hkey
  have hread : (requested s (cacheOf c) (ptrAddr ea) (dirtyNow s c (ptrAddr ea) x)).readAt (dirtyNow s c (ptrAddr ea) x) n = s.homeRead x.pa n := by
    rw [readAt_home hstands, hrest]; rfl
  have hgood : (requested s (cacheOf c) (ptrAddr ea) (dirtyNow s c (ptrAddr ea) x)).eccFails (dirtyNow s c (ptrAddr ea) x).pa = false := by
    rw [hrest]; exact hecc
  simp only [performAtomic, hset, hscope, one_ne_zero, if_false, flushLine_clean hclean]
  rw [← requested, hread, hgood]
  rfl

end Perform

/-- The state after an atomic of device scope has been performed for the `k`-th result in flight, which is answered. -/
def performed (s : State) (c ts k va : Nat) (x : Xlat) (n v : Nat) (done : PendKind) : State :=
  ((requested s (cacheOf c) va x).putAt x n v).modTset c ts (fun t => { t with
    pend := modAt (fun q => { q with kind := done, bad := false }) t.pend k })

theorem performed_home (s : State) (c ts k va : Nat) (x : Xlat) (n v : Nat) (done : PendKind) (a m : Nat) :
    (performed s c ts k va x n v done).homeRead a m = ((requested s (cacheOf c) va x).putAt x n v).homeRead a m := rfl

theorem performed_homeRead_self (s : State) (c ts k va : Nat) (x : Xlat) (n v : Nat) (done : PendKind) :
    (performed s c ts k va x n v done).homeRead x.pa n = v % 2 ^ (8 * n) := by
  rw [performed_home, putAt_homeRead_self]

section Performed
variable {s : State} {c va : Nat} {x : Xlat} (htier : x.tier = 0)
include htier

theorem performed_owed (ts k n v : Nat) (done : PendKind) : (performed s c ts k va x n v done).owed = s.owed := by
  have hput : ((requested s (cacheOf c) va x).putAt x n v).owed = (requested s (cacheOf c) va x).owed := by rw [(HomeChange.putAt _ x n v).rest]
  exact hput.trans (by rw [requested_rest htier])

theorem performed_find (ts k n v : Nat) (done : PendKind) : ((performed s c ts k va x n v done).cluster (cacheOf c)).find va = none := by
  have hput : ((requested s (cacheOf c) va x).putAt x n v).cluster (cacheOf c) = (requested s (cacheOf c) va x).cluster (cacheOf c) := by
    rw [(HomeChange.putAt _ x n v).rest]; rfl
  exact (congrArg (fun k : Cluster => k.find va) hput).trans (requested_find htier s _ va)

theorem performed_pend {ts k : Nat} {p : Pend} (n v : Nat) (done : PendKind) (hp : (s.tset c ts).pend[k]? = some p) :
    ((performed s c ts k va x n v done).tset c ts).pend[k]? = some { p with kind := done, bad := false } := by
  have hput : ((requested s (cacheOf c) va x).putAt x n v).tset c ts = s.tset c ts := by
    rw [(HomeChange.putAt _ x n v).rest]
    refine (?_ : _ = (requested s (cacheOf c) va x).tset c ts).trans ?_
    · rfl
    · rw [requested_rest htier]; rfl
  rw [performed, State.tset_modTset_self, hput]
  exact getElem?_modAt_self _ hp

theorem performed_homeRead_other (hkey : keyStands s x = true) (ts k v : Nat) (done : PendKind) {n a : Nat} (hout : a < x.pa ∨ x.pa + n ≤ a) :
    (performed s c ts k va x n v done).homeRead a 1 = s.homeRead a 1 := by
  have hstands : keyStands (requested s (cacheOf c) va x) x = true := by rw [requested_rest htier]; exact hkey
  rw [performed_home, putAt_homeRead_other hstands v (by omega)]
  exact homeRead_congr (by rw [requested_rest htier]) a 1

end Performed

/-- A result in flight that is an atomic of device scope on an HBM page is performed once nothing earlier stands before it. -/
theorem execAtomicPerform_home {s : State} {c ts k : Nat} {p : Pend} {op n : Nat} {va : Word} {x : Xlat} {b cmp : Word}
    (hp : (s.tset c ts).pend[k]? = some p) (hkind : p.kind = .atomic op 1 n va x b cmp none) (hposted : p.posted = false)
    (hdropped : p.dropped = false) (htier : x.tier = 0) (hdirty : (currentXlat s c (ptrAddr va) x).dirty = true)
    (hecc : s.eccFails x.pa = false) (howes : owesNothing s c) (hatomic : earlierAtomic s (s.tset c ts) p = false)
    (hstore : earlierStore (s.tset c ts) p.seq (ptrAddr va) = false) (hheld : heldWord s c (ptrAddr va) [(0, 0)] = false)
    (hkey : keyStands s x = true) (hclean : ∀ l, (s.cluster (cacheOf c)).find (ptrAddr va) = some l → l.dw = 0 ∧ l.wrote = []) :
    exec (.atomicPerform c ts k) s = .next (performed s c ts k (ptrAddr va) (dirtyNow s c (ptrAddr va) x) n
      (atomicNew op n (s.homeRead x.pa n) (b.toNat % 2 ^ (8 * n)) (cmp.toNat % 2 ^ (8 * n)))
      (.atomic op 1 n va x b cmp (some (BitVec.ofNat 64 (s.homeRead x.pa n))))) := by
  have hsettled : ∀ v done, owesNothing (performed s c ts k (ptrAddr va) (dirtyNow s c (ptrAddr va) x) n v done) c := fun v done o ho =>
    howes o (performed_owed (x := dirtyNow s c (ptrAddr va) x) htier ts k n v done ▸ ho)
  rw [exec_atomicPerform, execAtomicPerform]
  simp only [hp, hkind, hatomic, hstore, hheld, Bool.or_self, Bool.false_eq_true, if_false, htier, hposted, hdropped,
    performAtomic_home htier hdirty rfl op n b cmp hecc hkey hclean]
  exact congrArg Host.Outcome.next (settleOwed_none (hsettled _ _))

/-- Settles O13: an atomic leaves its core as a request, its values are those of Table 8.5, and one of device scope on an HBM page acts at its
home, where the cluster's clean line is dropped first. -/
theorem atomics : Obligations.Atomics := by
  unfold Obligations.Atomics
  refine ⟨fun f s x hok hwb hspec => ?_, fun n m b cmp _ hm hb _ => ?_, ?_⟩
  · have hasks : ∀ {op use}, (if op = 10 then OdUse.both else .write) = use → formReady s f none use = true → _ ∧ _ := fun huse hready =>
      ⟨atomicOp_pending rfl rfl hok hwb hspec huse hready, atomicOp_posted rfl rfl hok hwb hspec huse hready⟩
    exact ⟨fun hready => ⟨hasks (op := 0) rfl hready, hasks (op := 1) rfl hready, hasks (op := 2) rfl hready, hasks (op := 3) rfl hready,
      hasks (op := 4) rfl hready, hasks (op := 5) rfl hready, hasks (op := 6) rfl hready, hasks (op := 7) rfl hready, hasks (op := 8) rfl hready,
      hasks (op := 9) rfl hready⟩, fun hready => hasks (op := 10) rfl hready⟩
  · refine ⟨rfl, ?_, ?_, atomicNew_max cmp hm hb, Nat.mod_eq_of_lt (max_lt hm hb), atomicNew_min cmp hm hb,
      Nat.mod_eq_of_lt (Nat.and_lt_two_pow m hb), Nat.mod_eq_of_lt (Nat.or_lt_two_pow hm hb), Nat.mod_eq_of_lt (Nat.xor_lt_two_pow hm hb),
      Nat.mod_eq_of_lt hb, atomicNew_cas cmp hm hb⟩
    · rintro rfl; rfl
    · rintro rfl; rfl
  · intro s c ts k p op n va x b cmp hp hkind hposted hdropped htier hdirty hecc howes hatomic hstore hheld hkey hclean
    refine ⟨_, execAtomicPerform_home hp hkind hposted hdropped htier hdirty hecc howes hatomic hstore hheld hkey hclean,
      ⟨_, performed_pend htier _ _ _ hp, rfl⟩, ?_, fun a hout => ?_, performed_find htier _ _ _ _ _⟩
    · exact (performed_homeRead_self _ _ _ _ _ (dirtyNow s c (ptrAddr va) x) _ _ _).trans (Nat.mod_eq_of_lt (atomicNew_lt _ _ _ _ _))
    · exact performed_homeRead_other htier hkey _ _ _ _ hout

end Sys2Proof.Machine

end

/-! # Stores into lines of a cache, and the writes that a cluster holds (R142, R236, R337) -/
section

namespace Sys2Proof.Machine

/-! ## What is held stays held -/

/-- From `s` to `t` no cluster gains or loses a held write, and no release of a hold comes to be owed or is made. -/
structure HoldKept (s t : State) : Prop where
  hold : ∀ c, (t.cluster c).hold = (s.cluster c).hold
  owed : t.owed = s.owed

theorem HoldKept.refl (s : State) : HoldKept s s := ⟨fun _ => rfl, rfl⟩

theorem HoldKept.trans {s t u : State} (h : HoldKept s t) (h' : HoldKept t u) : HoldKept s u :=
  ⟨fun c => (h'.hold c).trans (h.hold c), h'.owed.trans h.owed⟩

theorem HoldKept.fresh (s : State) : HoldKept s s.fresh.2 := ⟨fun _ => rfl, rfl⟩

theorem HoldKept.ite {s t u : State} {p : Prop} [Decidable p] (h : HoldKept s t) (h' : HoldKept s u) : HoldKept s (if p then t else u) := by
  split_ifs
  exacts [h, h']

theorem HoldKept.foldl {α : Type} {s : State} {ks : List α} {f : State → α → State} (h : ∀ u k, HoldKept u (f u k)) : HoldKept s (ks.foldl f s) :=
  List.foldlRecOn (motive := HoldKept s) _ _ (.refl s) fun u hu k _ => hu.trans (h u k)

theorem HoldKept.modCluster {s : State} {n : Nat} {f : Cluster → Cluster} (h : ∀ c, (f c).hold = c.hold) : HoldKept s (s.modCluster n f) where
  hold c := by
    by_cases hc : c = n
    · subst hc; rw [State.cluster_modCluster_self, h]
    · rw [State.cluster_modCluster_ne s f hc]
  owed := rfl

theorem CountsChange.holdKept {s t : State} (h : CountsChange s t) : HoldKept s t where
  hold c := by rw [h.clusters c]
  owed := by rw [h.rest]

theorem HomeChange.holdKept {s t : State} (h : HomeChange s t) : HoldKept s t where
  hold c := by rw [h.rest]; rfl
  owed := by rw [h.rest]

theorem Cluster.put_hold (c : Cluster) (l : CacheLine) : (c.put l).hold = c.hold := by
  unfold Cluster.put
  split_ifs <;> rfl

theorem HoldKept.put (s : State) (c : Nat) (l : CacheLine) : HoldKept s (s.modCluster c (fun k => k.put l)) := .modCluster fun k => k.put_hold l

theorem HoldKept.homeRequest (s : State) (c va : Nat) (x : Xlat) : HoldKept s (homeRequest s c va x) := by
  refine HoldKept.trans ?_ (homeRequest_counts s c va x).holdKept
  unfold Machine.countRequest
  split_ifs
  · exact ⟨fun _ => rfl, rfl⟩
  · exact .refl s

theorem HoldKept.writeHome (s : State) (c va : Nat) (x : Xlat) (bs : List (Nat × Byte)) : HoldKept s (writeHome s c va x bs) := by
  unfold Machine.writeHome
  split_ifs
  · exact ⟨fun _ => rfl, rfl⟩
  · exact (HomeChange.writeAt s x bs).holdKept.trans (.homeRequest _ c va x)

theorem HoldKept.writeBackOne (s : State) (c : Nat) (l : CacheLine) : HoldKept s (writeBackOne s c l) := by
  unfold Machine.writeBackOne
  dsimp only
  split_ifs
  · exact .refl s
  · exact .put s c _
  · exact ((CountsChange.countCache s c 0x3003).holdKept.trans (.writeHome _ c l.va l.x _)).trans (.put _ c _)

theorem HoldKept.flushLine (s : State) (c va : Nat) : HoldKept s (flushLine s c va) := by
  refine HoldKept.trans ?_ (.modCluster fun _ => rfl)
  unfold writeBack
  split
  · exact .refl s
  · exact .foldl fun u m => .writeBackOne u c m

theorem HoldKept.makeRoom (s : State) (c va : Nat) : HoldKept s (makeRoom s c va).2 := by
  unfold Machine.makeRoom
  dsimp only
  split
  · exact .refl s
  · split
    · exact .flushLine s c _
    · exact .refl s

/-! ## The line of a store -/

theorem find_va {c : Cluster} {va : Nat} {l : CacheLine} (h : c.find va = some l) : l.va = va / 64 * 64 := by simpa using List.find?_some h

/-- The line of an address after a line of that address has been put into its cache. -/
theorem Cluster.find_put_self (c : Cluster) {va : Nat} {l : CacheLine} (hva : l.va = va / 64 * 64) : (c.put l).find va = some l := by
  cases h : c.find va with
  | some m =>
    exact Cluster.find_put h (hva.trans (find_va h).symm)
  | none =>
    have hnone : ∀ m ∈ c.lines, ¬(m.va == va / 64 * 64) = true := List.find?_eq_none.mp h
    have hany : ¬c.lines.any (fun x => x.va == l.va) = true := by
      simpa [hva] using hnone
    rw [Cluster.put, if_neg hany, Cluster.find, List.find?_append, ← Cluster.find, h]
    simp [hva]

theorem CacheLine.mended_va (s : State) (l : CacheLine) : (l.mended s).va = l.va := by
  unfold CacheLine.mended
  split_ifs <;> rfl

theorem CacheLine.mended_dw (s : State) (l : CacheLine) : (l.mended s).dw = l.dw := by
  unfold CacheLine.mended
  split_ifs <;> rfl

theorem CacheLine.mended_dc (s : State) (l : CacheLine) : (l.mended s).dc = l.dc := by
  unfold CacheLine.mended
  split_ifs <;> rfl

section Fill
variable (s : State) (c core va : Nat) (x : Xlat) (byLoad : Bool)

theorem fillLine_va : (fillLine s c core va x byLoad).1.va = va / 64 * 64 := by
  unfold fillLine
  split
  · next l hl => exact (l.mended_va s).trans (find_va hl)
  · rfl

theorem HoldKept.fillLine : HoldKept s (fillLine s c core va x byLoad).2 := by
  unfold Machine.fillLine
  split
  · dsimp only
    exact .trans (.trans (.ite (.refl s) (.put s c _)) (CountsChange.countCache _ c 0x3001).holdKept) (.modCluster fun _ => rfl)
  · dsimp only
    exact .trans (.trans (CountsChange.countCache s c 0x3002).holdKept (.trans (.makeRoom _ c va) (.homeRequest _ c va _)))
      (.trans (.ite (.put _ c _) (.refl _)) (.modCluster fun _ => rfl))

/-- A line that a cache holds keeps its marks of dirty words and cores when it is used. -/
theorem fillLine_marks {l : CacheLine} (h : (s.cluster c).find va = some l) :
    (fillLine s c core va x byLoad).1.dw = l.dw ∧ (fillLine s c core va x byLoad).1.dc = l.dc := by
  unfold fillLine
  rw [h]
  exact ⟨l.mended_dw s, l.mended_dc s⟩

end Fill

theorem storeLine_eq (s : State) (core va : Nat) (x : Xlat) (bs : List (Nat × Byte)) :
    storeLine s core va x bs = (fillLine s (cacheOf core) core va x false).2.fresh.2.modCluster (cacheOf core) (fun k =>
      k.put ((fillLine s (cacheOf core) core va x false).1.written core (va % 64) x bs (fillLine s (cacheOf core) core va x false).2.fresh.1)) := rfl

theorem HoldKept.storeLine (s : State) (core va : Nat) (x : Xlat) (bs : List (Nat × Byte)) : HoldKept s (storeLine s core va x bs) := by
  rw [storeLine_eq]
  exact (HoldKept.fillLine s (cacheOf core) core va x false).trans (.trans (.fresh _) (.put _ (cacheOf core) _))

/-- The line of a store holds what has been written into the line that the cache had, or got. -/
theorem storeLine_find (s : State) (core va : Nat) (x : Xlat) (bs : List (Nat × Byte)) :
    ∃ n, ((storeLine s core va x bs).cluster (cacheOf core)).find va =
      some ((fillLine s (cacheOf core) core va x false).1.written core (va % 64) x bs n) := by
  refine ⟨(fillLine s (cacheOf core) core va x false).2.fresh.1, ?_⟩
  rw [storeLine_eq, State.cluster_modCluster_self]
  exact Cluster.find_put_self _ (fillLine_va s (cacheOf core) core va x false)

theorem dcBit_lt (core : Nat) : dcBit core < 16 := by
  unfold dcBit
  split <;> omega

theorem CacheLine.written_dc (l : CacheLine) (core off seq : Nat) (x : Xlat) (bs : List (Nat × Byte)) :
    (l.written core off x bs seq).dc.getLsbD (dcBit core) = true := by
  have hlt := dcBit_lt core
  rw [CacheLine.written, BitVec.getLsbD_or]
  simp [hlt]

/-- The marks that some stores leave on a line: the words of their bytes, and their cores (R142, R236). -/
def marked (va : Nat) (qs : List HeldStore) (l : CacheLine) : Prop :=
  (∀ q ∈ qs, ∀ b ∈ q.bytes, l.dw.getLsbD ((va % 64 + b.1) / 8) = true) ∧ ∀ q ∈ qs, l.dc.getLsbD (dcBit q.core) = true

/-- A store marks its line, and takes no mark of an earlier one from it. -/
theorem marked_written {va : Nat} {qs : List HeldStore} {l m : CacheLine} (h : marked va qs l) (hdw : m.dw = l.dw) (hdc : m.dc = l.dc)
    (q : HeldStore) (hq : ∀ b ∈ q.bytes, va % 64 + b.1 < 64) (x : Xlat) (n : Nat) :
    marked va (qs ++ [q]) (m.written q.core (va % 64) x q.bytes n) := by
  obtain ⟨hwords, hcores⟩ := h
  constructor
  · intro p hp b hb
    rcases List.mem_append.mp hp with hp | hp
    · rw [CacheLine.written, BitVec.getLsbD_or, hdw, hwords p hp b hb, Bool.true_or]
    · obtain rfl := List.mem_singleton.mp hp
      exact CacheLine.written_dw m p.core (va % 64) n x hb (hq b hb)
  · intro p hp
    rcases List.mem_append.mp hp with hp | hp
    · rw [CacheLine.written, BitVec.getLsbD_or, hdc, hcores p hp, Bool.true_or]
    · obtain rfl := List.mem_singleton.mp hp
      exact CacheLine.written_dc m p.core (va % 64) n x p.bytes

/-- Held stores of one line enter the cache one after the other. -/
theorem foldl_storeLine_marked (c va : Nat) (x : Xlat) {qs : List HeldStore} (hcore : ∀ q ∈ qs, cacheOf q.core = c)
    (hbytes : ∀ q ∈ qs, ∀ b ∈ q.bytes, va % 64 + b.1 < 64) (done : List HeldStore) (s : State)
    (h : done ≠ [] → ∃ l, (s.cluster c).find va = some l ∧ marked va done l) (hne : done ++ qs ≠ []) :
    ∃ l, ((qs.foldl (fun s q => storeLine s q.core va x q.bytes) s).cluster c).find va = some l ∧ marked va (done ++ qs) l := by
  induction qs generalizing done s with
  | nil =>
    rw [List.append_nil] at hne ⊢
    exact h hne
  | cons q qs ih =>
    obtain rfl := hcore q List.mem_cons_self
    obtain ⟨n, hfind⟩ := storeLine_find s q.core va x q.bytes
    have hq := hbytes q List.mem_cons_self
    rw [show done ++ q :: qs = (done ++ [q]) ++ qs by simp, List.foldl_cons]
    refine ih (fun p hp => hcore p (List.mem_cons_of_mem q hp)) (fun p hp => hbytes p (List.mem_cons_of_mem q hp)) (done ++ [q]) _
      (fun _ => ⟨_, hfind, ?_⟩) (by simp)
    by_cases hdone : done = []
    · subst hdone
      exact marked_written (l := (fillLine s (cacheOf q.core) q.core va x false).1) ⟨by simp, by simp⟩ rfl rfl q hq x n
    · obtain ⟨l, hl, hmarks⟩ := h hdone
      obtain ⟨hdw, hdc⟩ := fillLine_marks s (cacheOf q.core) q.core va x false hl
      exact marked_written hmarks hdw hdc q hq x n

end Sys2Proof.Machine

end

/-! # Lock bits, walks, evictions and held writes (R57, R142, R145, R236, R237, R251, R323, R324, R331, R332, R337) -/
section

namespace Sys2Proof.Machine

/-! ## Locks and acknowledgements -/

/-- A free lock bit goes to the first of its waiters. -/
theorem lockBitGrant_first {s : State} {b : Nat} {w : LockWait} {r : List LockWait} (hw : s.lockWaits = w :: r) (hat : w.at_ = b)
    (hfree : ∀ l ∈ s.locks, l.at_ ≠ b) :
    ∃ t, exec (.lockBitGrant b) s = .next t ∧ t.locks = s.locks ++ [LockBit.mk b w.core w.ts] ∧ w ∉ t.lockWaits ∧
      ∃ credit, (t.tset w.core w.ts).wait = .lock true credit := by
  have hnone : s.locks.any (fun l => l.at_ == b) = false := by
    rw [List.any_eq_false]
    intro l hl
    simpa using hfree l hl
  have hfirst : s.lockWaits.find? (fun w => w.at_ == b) = some w := by simp [hw, hat]
  rw [exec_lockBitGrant, execLockBitGrant, hnone, hfirst]
  refine ⟨_, rfl, rfl, ?_, _, congrArg TSet.wait (State.tset_modTset_self _ _ _ _)⟩
  intro hmem
  have := (List.mem_filter.mp hmem).2
  simp [hat] at this

theorem remoteWriteAck_unacked (s : State) (c ts k : Nat) :
    ∃ t, exec (.remoteWriteAck c ts k) s = .next t ∧ (t.tset c ts).unacked = (s.tset c ts).unacked.eraseIdx k := by
  refine ⟨_, rfl, ?_⟩
  rw [(Steady.settleOwed _ c).tset, State.tset_modTset_self, dropAt_eq_eraseIdx]

/-! ## Walks -/

/-- Covers that stand at the end of a cache that lists each entry once. -/
structure Installed (done l : List PlbEntry) (n : Nat) : Prop where
  nodup : l.Nodup
  last : ∃ a b, l = a ++ b ∧ b.length ≤ n ∧ ∀ e ∈ done, e ∈ b

/-- One cover installed, or used again, in a cache with room for it (R324). -/
theorem Installed.step {done l : List PlbEntry} {n : Nat} (h : Installed done l n) (hn : n < 64) (e : PlbEntry) :
    Installed (done ++ [e]) (if l.contains e then touchLast (· == e) l else installIn 64 l e) (n + 1) := by
  obtain ⟨hnd, a, b, rfl, hlen, hmem⟩ := h
  split_ifs with he
  · refine ⟨(touchLast_perm _ _).nodup_iff.mpr hnd, a.filter (fun x => !(x == e)), b.filter (fun x => !(x == e)) ++ [e], ?_, ?_, ?_⟩
    · have hone : (a ++ b).filter (· == e) = [e] := by
        rw [List.filter_beq, List.count_eq_one_of_mem hnd (List.contains_iff_mem.mp he), List.replicate_one]
      rw [touchLast, hone, List.filter_append, List.append_assoc]
    · have := List.length_filter_le (fun x => !(x == e)) b
      simp only [List.length_append, List.length_singleton]
      omega
    · intro d hd
      by_cases hde : d = e
      · simp [hde]
      · have hdone : d ∈ done := by simpa [hde] using hd
        simp [hde, hmem d hdone]
  · have hnotin : e ∉ a ++ b := fun hin => he (List.contains_iff_mem.mpr hin)
    have hall : ∀ d ∈ done ++ [e], d ∈ b ++ [e] := by
      intro d hd
      rcases List.mem_append.mp hd with hd | hd
      · exact List.mem_append_left _ (hmem d hd)
      · exact List.mem_append_right _ hd
    have hlen' : (b ++ [e]).length ≤ n + 1 := by simpa using hlen
    have hsub : ((a ++ b).drop 1).Sublist (a ++ b) := List.drop_sublist _ _
    unfold installIn
    split_ifs with hroom
    · exact ⟨List.nodup_append.mpr ⟨hnd, by simp, fun x hx y hy hxy => hnotin (List.mem_singleton.mp hy ▸ hxy ▸ hx)⟩,
        a, b ++ [e], List.append_assoc a b [e], hlen', hall⟩
    · refine ⟨List.nodup_append.mpr ⟨hsub.nodup hnd, by simp, fun x hx y hy hxy => hnotin (List.mem_singleton.mp hy ▸ hxy ▸ hsub.subset hx)⟩,
        a.drop 1, b ++ [e], ?_, hlen', hall⟩
      cases a with
      | nil => rw [List.nil_append] at hroom; omega
      | cons x a => simp

theorem foldl_installed {es : List PlbEntry} {done l : List PlbEntry} {n : Nat} (h : Installed done l n) (hn : n + es.length ≤ 64) :
    Installed (done ++ es) (installPlb 64 l es) (n + es.length) := by
  unfold installPlb
  induction es generalizing done l n with
  | nil => simpa using h
  | cons e es ih =>
    rw [List.length_cons] at hn ⊢
    have := ih (h.step (by omega) e) (by omega)
    rwa [List.append_assoc, List.singleton_append, show n + 1 + es.length = n + (es.length + 1) by omega] at this

/-- Every cover of a walk stands in the core's PLB after it, where they are no more than it holds (R324). -/
theorem mem_installPlb {l es : List PlbEntry} (hnd : l.Nodup) (hlen : es.length ≤ 64) {e : PlbEntry} (he : e ∈ es) : e ∈ installPlb 64 l es := by
  have hstart : Installed [] l 0 := ⟨hnd, l, [], by simp, by simp, by simp⟩
  obtain ⟨-, a, b, hl, -, hmem⟩ := foldl_installed hstart (by omega : 0 + es.length ≤ 64)
  rw [hl]
  exact List.mem_append_right _ (hmem e he)

theorem markHolders_core (s : State) (c : Nat) (bits : BitVec 17) (new : List PlbEntry) (n : Nat) : (markHolders s c bits new).core n = s.core n := by
  unfold markHolders
  refine List.foldlRecOn (motive := fun u : State => u.core n = s.core n) _ _ rfl fun u hu e _ => ?_
  dsimp only
  split_ifs
  · exact hu
  · exact hu

theorem fillRights_plb (s : State) (core : Nat) (new : List PlbEntry) : ((fillRights s core new).core core).plb = installPlb 64 (s.core core).plb new := by
  rw [fillRights, markHolders_core, State.core_modCluster, State.core_modCore_self]

theorem countAt_core (s : State) (core id n c : Nat) : (countAt s core id n).core c = s.core c := by
  rw [(CountsChange.countAt s core id n).rest]
  rfl

theorem walked_walk (s : State) (core ts : Nat) (w : Walk) : ((walked s core ts w).tset core ts).walk = w :=
  congrArg TSet.walk (State.tset_modTset_self _ _ _ _)

/-- How a walk for an access ends: it is over, or its retry will trap. -/
def walkEnd (ea : Word) : Option Nat → Walk
  | none => .none
  | some cause => .failed cause ea

section Rights
variable {s : State} {c ts : Nat} {owner : BitVec 20} {ea : Word} {n : Nat} {need : BitVec 5} {fetch : Bool}

/-- The state after a rights walk, its covers installed. -/
def rightsWalked (s : State) (c ts : Nat) (covers : List PlbEntry) (w : Walk) : State := walked (fillRights (countAt s c 0x5001 1) c covers) c ts w

theorem mem_rightsWalked {covers : List PlbEntry} (w : Walk) (hnd : (s.core c).plb.Nodup) (hlen : covers.length ≤ 64) :
    ∀ e ∈ covers, e ∈ ((rightsWalked s c ts covers w).core c).plb := by
  intro e he
  rw [rightsWalked, walked, State.core_modTset, fillRights_plb, countAt_core]
  exact mem_installPlb hnd hlen he

theorem exec_rightsWalk_ends (hwalk : (s.tset c ts).walk = .rights owner ea n need fetch) :
    exec (.rightsWalk c ts) s = .next (rightsWalked s c ts (missCovers s c owner ea n need fetch)
      (walkEnd ea (rightsDecision (missCovers s c owner ea n need fetch) owner (ptrGen ea) (ptrAddr ea) n need fetch))) := by
  rw [exec_rightsWalk, execRightsWalk, hwalk]
  dsimp only
  split
  · next h => rw [h]; rfl
  · next cause h => rw [h]; rfl

end Rights

theorem mem_installXlat (s : State) (core : Nat) (e : TlbEntry) : e ∈ ((installXlat s core e).core core).tlb := by
  rw [installXlat, fillTlb, State.core_modCluster, State.core_modCore_self]
  exact List.mem_append_right _ List.mem_cons_self

/-! ## Evictions and held writes -/

theorem lineEviction_clean {s : State} {c set : Nat} {l : CacheLine}
    (hfull : 16 ≤ ((s.cluster c).lines.filter (fun l => l.va / 64 % 2048 == set)).length)
    (hvictim : ((s.cluster c).lines.filter (fun l => l.va / 64 % 2048 == set)).find? (fun l => l.way == plruVictim (mget 0 (s.cluster c).plru set)) =
      some l) (hl : (s.cluster c).find l.va = some l) (hdw : l.dw = 0) (hwrote : l.wrote = []) :
    exec (.lineEviction c set) s = .next (lineDropped s c l.va) := by
  have hclean : flushLine s c l.va = lineDropped s c l.va := by
    refine flushLine_clean fun m hm => ?_
    obtain rfl : l = m := by simpa [hl] using hm
    exact ⟨hdw, hwrote⟩
  have hset : (fun l : CacheLine => setOf l.va == set) = fun l => l.va / 64 % 2048 == set := rfl
  simp only [exec_lineEviction, execLineEviction, hset, Nat.not_lt.mpr hfull, if_false, hvictim, hclean]

/-- A cluster without its oldest held write, whose page is marked dirty in its TLB. -/
def unheld (s : State) (c va : Nat) (rest : List HeldWrite) : State :=
  s.modCluster c (fun k => { k with hold := rest, tlb := dirtyEntries va k.tlb })

theorem unheld_hold (s : State) (c va : Nat) (rest : List HeldWrite) : ((unheld s c va rest).cluster c).hold = rest := by
  rw [unheld, State.cluster_modCluster_self]

/-- The stores of a held write entered into the cache, oldest first (R337). -/
def drained (s : State) (va : Nat) (x : Xlat) (stores : List HeldStore) : State :=
  stores.foldl (fun s q => storeLine s q.core va x q.bytes) s

theorem HoldKept.drained (s : State) (va : Nat) (x : Xlat) (stores : List HeldStore) : HoldKept s (drained s va x stores) :=
  .foldl fun u q => .storeLine u q.core va x q.bytes

/-- Cores that owe nothing settle nothing, one after the other. -/
theorem foldl_settleOwed_none {s : State} {qs : List HeldStore} (h : ∀ q ∈ qs, owesNothing s q.core) :
    qs.foldl (fun s q => settleOwed s q.core) s = s :=
  List.foldlRecOn (motive := fun u => u = s) qs _ rfl fun u hu q hq => by rw [hu]; exact settleOwed_none (h q hq)

/-- The oldest held write of a cluster enters the cache, where its page takes writes and its line need not come first. -/
theorem heldWriteDrain_enters {s : State} {c : Nat} {h : HeldWrite} {rest : List HeldWrite} {e : TlbEntry} {p : HeldStore} {ps : List HeldStore}
    (hhold : (s.cluster c).hold = h :: rest) (hstores : h.stores = p :: ps) (hxlat : translate s h.va = some e) (hwb : e.x.wb = false)
    (hdirty : e.x.dirty = true) (howes : ∀ q ∈ h.stores, owesNothing s q.core) (hneed : needsLine s p.core h.va (e.at_ h.va) h.bytes = false) :
    exec (.heldWriteDrain c) s =
      .next (drained (answersTaken (unheld s c h.va rest) (.store p.core p.seq)) h.va (e.at_ h.va) h.stores) := by
  have hset : ∀ u, setPteDirty u (e.at_ h.va) = u := fun u => if_pos hdirty
  have howes' : ∀ q ∈ h.stores, owesNothing (drained (answersTaken (unheld s c h.va rest) (.store p.core p.seq)) h.va (e.at_ h.va) h.stores) q.core := by
    intro q hq o ho
    rw [(HoldKept.drained _ _ _ _).owed] at ho
    exact howes q hq o ho
  rw [exec_heldWriteDrain, execHeldWriteDrain, hhold]
  simp only [hxlat, hstores, show (e.at_ h.va).wb = false from hwb, hneed, Bool.false_and, Bool.false_eq_true, if_false, hset]
  rw [← hstores]
  exact congrArg Host.Outcome.next (foldl_settleOwed_none howes')

/-- Settles O17: free lock bits, answered walks, evicted lines and held writes go where the rules say; a walk's covers all fit into the PLB, and a
held write marks its line for each of its stores. -/
theorem locksWalksCaches : Obligations.LocksWalksCaches := by
  unfold Obligations.LocksWalksCaches
  refine ⟨⟨fun s b w r => lockBitGrant_first, fun s c ts => ⟨_, rfl, ?_⟩, remoteWriteAck_unacked⟩,
    fun s c ts => ⟨?_, fun ea hwalk => ⟨?_, ?_⟩⟩, ?_, ?_⟩
  · rw [State.tset_modTset_self]
    exact ⟨rfl, rfl, rfl, rfl⟩
  · intro owner ea n need fetch hwalk
    have hends := exec_rightsWalk_ends hwalk
    exact ⟨fun hd => ⟨_, hends, by rw [hd]; exact walked_walk _ c ts _, mem_rightsWalked _⟩,
      fun cause hd => ⟨_, hends, by rw [hd]; exact walked_walk _ c ts _, mem_rightsWalked _⟩⟩
  · intro e he
    rw [exec_pageWalk, execPageWalk, hwalk]
    simp only [he]
    exact ⟨_, rfl, walked_walk _ c ts _, mem_installXlat _ c e⟩
  · intro hnone
    rw [exec_pageWalk, execPageWalk, hwalk]
    simp only [hnone]
    refine ⟨_, rfl, walked_walk _ c ts _, ?_⟩
    rw [walked, State.core_modTset, countAt_core]
  · intro s c set l inSet hfull hvictim hl hdw hwrote
    exact ⟨_, lineEviction_clean hfull hvictim hl hdw hwrote, lineDropped_find s c l.va, fun a => rfl⟩
  · intro s c h rest e p ps hhold hstores hxlat hwb hdirty hcores hbytes hneed
    have hin : ∀ q ∈ h.stores, ∀ b ∈ q.bytes, b ∈ h.bytes := fun q hq b hb => List.mem_flatMap.mpr ⟨q, hq, hb⟩
    obtain ⟨l, hfind, hwords, hmarks⟩ := foldl_storeLine_marked c h.va (e.at_ h.va) (fun q hq => (hcores q hq).1)
      (fun q hq b hb => hbytes b (hin q hq b hb)) [] (answersTaken (unheld s c h.va rest) (.store p.core p.seq)) (by simp) (by simp [hstores])
    refine ⟨_, l, heldWriteDrain_enters hhold hstores hxlat hwb hdirty (fun q hq => (hcores q hq).2) hneed, ?_, hfind, ?_, hmarks⟩
    · rw [(HoldKept.drained _ _ _ _).hold]
      exact unheld_hold s c h.va rest
    · intro b hb
      obtain ⟨q, hq, hb⟩ := List.mem_flatMap.mp hb
      exact hwords q hq b hb

end Sys2Proof.Machine

end

/-! # Fences, and what they publish (R142, R153, R155) -/
section

namespace Sys2Proof.Machine

/-! ## The lines of a cache after a write-back (R236) -/

theorem Cluster.put_lines {c : Cluster} {l : CacheLine} (h : l.va ∈ c.lines.map (·.va)) :
    (c.put l).lines = c.lines.map (fun x => if x.va == l.va then l else x) := by
  obtain ⟨m, hm, hva⟩ := List.mem_map.mp h
  have hany : c.lines.any (fun x => x.va == l.va) = true := List.any_eq_true.mpr ⟨m, hm, by simp [hva]⟩
  rw [Cluster.put, if_pos hany]

theorem CountsChange.lines {s t : State} (h : CountsChange s t) (c : Nat) : (t.cluster c).lines = (s.cluster c).lines := by rw [h.clusters c]

theorem HomeChange.cluster {s t : State} (h : HomeChange s t) (c : Nat) : t.cluster c = s.cluster c := by rw [h.rest]; rfl

theorem countRequest_cluster (s : State) (va : Nat) (x : Xlat) (c : Nat) : (countRequest s va x).cluster c = s.cluster c := by
  unfold countRequest
  split_ifs <;> rfl

theorem homeRequest_lines (s : State) (c va : Nat) (x : Xlat) (d : Nat) : ((homeRequest s c va x).cluster d).lines = (s.cluster d).lines := by
  rw [(homeRequest_counts s c va x).lines, countRequest_cluster]

theorem writeHome_lines (s : State) (c va : Nat) (x : Xlat) (bs : List (Nat × Byte)) (d : Nat) :
    ((writeHome s c va x bs).cluster d).lines = (s.cluster d).lines := by
  unfold writeHome
  split_ifs
  · rfl
  · rw [homeRequest_lines, (HomeChange.writeAt s x bs).cluster]

/-- What the write-back of a line sends to its home (R236). -/
def sentHome (s : State) (c : Nat) (l : CacheLine) : State :=
  if (dirtyBytes l).isEmpty then s else writeHome (countCache s c 0x3003) c l.va l.x (dirtyBytes l)

theorem sentHome_lines (s : State) (c : Nat) (l : CacheLine) (d : Nat) : ((sentHome s c l).cluster d).lines = (s.cluster d).lines := by
  unfold sentHome
  split_ifs
  · rfl
  · rw [writeHome_lines, (CountsChange.countCache s c 0x3003).lines]

theorem writeBackOne_clean {l : CacheLine} (h : l.dw = 0) (s : State) (c : Nat) : writeBackOne s c l = s := if_pos h

theorem writeBackOne_dirty {l : CacheLine} (h : l.dw ≠ 0) (s : State) (c : Nat) :
    writeBackOne s c l = (sentHome s c l).modCluster c (fun k => k.put l.cleaned) := if_neg h

theorem writeBackOne_lines {s : State} {c : Nat} {l : CacheLine} (h : l.dw ≠ 0) (hva : l.va ∈ (s.cluster c).lines.map (·.va)) :
    ((writeBackOne s c l).cluster c).lines = (s.cluster c).lines.map (fun x => if x.va == l.va then l.cleaned else x) := by
  rw [writeBackOne_dirty h, State.cluster_modCluster_self, Cluster.put_lines (l := l.cleaned) (by rwa [sentHome_lines]), sentHome_lines]
  rfl

/-! ## A cache in the course of its write-backs -/

/-- A state in which some lines of a cache may have been written back, and all others stand as in `s`. -/
structure Flushing (s : State) (c : Nat) (t : State) : Prop where
  vas : (t.cluster c).lines.map (·.va) = (s.cluster c).lines.map (·.va)
  lines : ∀ m ∈ (t.cluster c).lines, m.dw = 0 ∨ m ∈ (s.cluster c).lines

/-- A line that may be written back: it has no dirty word, or stands as in `s`. -/
def standing (s : State) (c : Nat) (m : CacheLine) : Prop := m.va ∈ (s.cluster c).lines.map (·.va) ∧ (m.dw = 0 ∨ m ∈ (s.cluster c).lines)

/-- Write-backs of standing lines keep a property of states. -/
def StepKeeps (s : State) (c : Nat) (P : State → Prop) : Prop := ∀ u m, Flushing s c u → standing s c m → P u → P (writeBackOne u c m)

theorem Flushing.refl (s : State) (c : Nat) : Flushing s c s := ⟨rfl, fun _ => .inr⟩

section Steps
variable {s t : State} {c : Nat}

theorem Flushing.standing (h : Flushing s c t) {m : CacheLine} (hm : m ∈ (t.cluster c).lines) : standing s c m :=
  ⟨h.vas ▸ List.mem_map_of_mem hm, h.lines m hm⟩

theorem Flushing.writeBackOne (h : Flushing s c t) {m : CacheLine} (hm : Machine.standing s c m) : Flushing s c (writeBackOne t c m) := by
  by_cases hdw : m.dw = 0
  · rwa [writeBackOne_clean hdw]
  have hlines := writeBackOne_lines (s := t) hdw (h.vas ▸ hm.1)
  constructor
  · rw [hlines, List.map_map, ← h.vas]
    refine List.map_congr_left fun x _ => ?_
    by_cases hx : x.va = m.va
    · simp [hx, CacheLine.cleaned]
    · simp [hx]
  · intro k hk
    rw [hlines] at hk
    obtain ⟨x, hx, rfl⟩ := List.mem_map.mp hk
    split_ifs
    · exact .inl rfl
    · exact h.lines x hx

/-- A property of states that a write-back of each standing line keeps, kept by those of a list of them. -/
theorem Flushing.foldl {motive : State → Prop} (hstep : StepKeeps s c motive)
    {ms : List CacheLine} (h : Flushing s c t) (hms : ∀ m ∈ ms, Machine.standing s c m) (ht : motive t) :
    Flushing s c (ms.foldl (fun s m => Machine.writeBackOne s c m) t) ∧ motive (ms.foldl (fun s m => Machine.writeBackOne s c m) t) :=
  List.foldlRecOn (motive := fun u => Flushing s c u ∧ motive u) ms _ ⟨h, ht⟩ fun u hu m hm =>
    ⟨hu.1.writeBackOne (hms m hm), hstep u m hu.1 (hms m hm) hu.2⟩

theorem Flushing.writeBack {motive : State → Prop} (hstep : StepKeeps s c motive)
    (h : Flushing s c t) (va : Nat) (ht : motive t) : Flushing s c (writeBack t c va) ∧ motive (writeBack t c va) := by
  unfold Machine.writeBack
  split
  · exact ⟨h, ht⟩
  · next l hl =>
    refine h.foldl hstep (fun m hm => h.standing ?_) ht
    rcases mem_withEarlier hm with hm | hm
    · exact List.mem_singleton.mp hm ▸ List.mem_of_find?_eq_some hl
    · exact hm

theorem Flushing.writeBackIf {motive : State → Prop} (hstep : StepKeeps s c motive)
    (h : Flushing s c t) (ls : List CacheLine) (ht : motive t) :
    Flushing s c (ls.foldl (fun s l => Machine.writeBack s c l.va) t) ∧ motive (ls.foldl (fun s l => Machine.writeBack s c l.va) t) :=
  List.foldlRecOn (motive := fun u => Flushing s c u ∧ motive u) ls _ ⟨h, ht⟩ fun _ hu l _ => hu.1.writeBack hstep l.va hu.2

end Steps

/-! ## A write-back leaves its line clean -/

theorem subset_withEarlier {ls : List CacheLine} {n : Nat} {acc : List CacheLine} {m : CacheLine} (h : m ∈ acc) : m ∈ withEarlier ls n acc := by
  induction n generalizing acc with
  | zero => exact h
  | succ n ih =>
    unfold withEarlier
    split
    · exact ih (List.mem_cons_of_mem _ h)
    · exact h

/-- The line of an address has no dirty word. -/
def cleanAt (c va : Nat) (t : State) : Prop := ∀ m ∈ (t.cluster c).lines, m.va = va → m.dw = 0

section Clean
variable {s t : State} {c : Nat}

theorem cleanAt_writeBackOne {va : Nat} (h : Flushing s c t) {m : CacheLine} (hm : standing s c m) (ht : cleanAt c va t) :
    cleanAt c va (writeBackOne t c m) := by
  by_cases hdw : m.dw = 0
  · rwa [writeBackOne_clean hdw]
  intro k hk hva
  rw [writeBackOne_lines hdw (h.vas ▸ hm.1)] at hk
  obtain ⟨x, hx, rfl⟩ := List.mem_map.mp hk
  split_ifs at hva ⊢
  · rfl
  · exact ht x hx hva

/-- The write-back of a dirty line leaves it clean. -/
theorem cleanAt_writeBackOne_self (h : Flushing s c t) {m : CacheLine} (hm : standing s c m) (hdw : m.dw ≠ 0) : cleanAt c m.va (writeBackOne t c m) := by
  intro k hk hva
  rw [writeBackOne_lines hdw (h.vas ▸ hm.1)] at hk
  obtain ⟨x, -, rfl⟩ := List.mem_map.mp hk
  split_ifs at hva ⊢ with hx
  · rfl
  · exact absurd hva (by simpa using hx)

end Clean

/-- The one line of an address among lines that stand each once. -/
theorem line_unique {ls : List CacheLine} (h : (ls.map (·.va)).Nodup) {l m : CacheLine} (hl : l ∈ ls) (hm : m ∈ ls) (hva : l.va = m.va) : l = m :=
  List.inj_on_of_nodup_map h hl hm hva

section Reaches
variable {s t : State} {c : Nat} {l : CacheLine} {P I : State → Prop} (hok : linesOk s c) (hl : l ∈ (s.cluster c).lines) (hdw : l.dw ≠ 0)
  (hkeep : StepKeeps s c P) (hself : ∀ u, Flushing s c u → P (writeBackOne u c l))
  (hstart : ∀ u, Flushing s c u → I u → cleanAt c l.va u → P u)
include hok hl hdw hkeep hself hstart

/-- What the write-back of a dirty line brings about holds once its address has been written back: it is done now, or was before. -/
theorem writeBack_reaches (h : Flushing s c t) (ht : I t) : P (writeBack t c l.va) := by
  have hnd : ((t.cluster c).lines.map (·.va)).Nodup := h.vas ▸ hok.1
  have hline : l.va = l.va / 64 * 64 := by have := hok.2 l hl; omega
  have hin : l.va ∈ (t.cluster c).lines.map (·.va) := h.vas ▸ List.mem_map_of_mem hl
  obtain ⟨x, hx, hxva⟩ := List.mem_map.mp hin
  have hfound : ((t.cluster c).find l.va).isSome = true := by
    rw [Cluster.find, List.find?_isSome]
    exact ⟨x, hx, by simp [hxva, ← hline]⟩
  obtain ⟨m, hm⟩ := Option.isSome_iff_exists.mp hfound
  have hmem := List.mem_of_find?_eq_some hm
  have hva : m.va = l.va := (find_va hm).trans hline.symm
  rcases h.lines m hmem with hclean | hold
  · refine (h.writeBack hkeep l.va (hstart t h ht fun k hk hkva => ?_)).2
    rwa [line_unique hnd hk hmem (hkva.trans hva.symm)]
  · obtain rfl := line_unique hok.1 hold hl hva
    have hlist : m ∈ withEarlier (t.cluster c).lines (t.cluster c).lines.length [m] := subset_withEarlier List.mem_cons_self
    have hall : ∀ k ∈ withEarlier (t.cluster c).lines (t.cluster c).lines.length [m], standing s c k := fun k hk =>
      h.standing ((mem_withEarlier hk).elim (fun hk => List.mem_singleton.mp hk ▸ hmem) id)
    obtain ⟨before, rest, hsplit⟩ := List.append_of_mem hlist
    rw [hsplit] at hall
    have hbefore := (h.foldl (motive := fun _ => True) (fun _ _ _ _ _ => trivial) (fun k hk => hall k (List.mem_append_left _ hk)) trivial).1
    simp only [writeBack, hm, hsplit, List.foldl_append, List.foldl_cons]
    exact ((hbefore.writeBackOne (h.standing hmem)).foldl hkeep (fun k hk => hall k (List.mem_append_right _ (List.mem_cons_of_mem _ hk)))
      (hself _ hbefore)).2

/-- The same of the write-back of some lines, that line among them. -/
theorem foldl_writeBack_reaches (hinv : StepKeeps s c I) {ls : List CacheLine} (h : Flushing s c t) (ht : I t) (hmem : l ∈ ls ∨ P t) :
    P (ls.foldl (fun s l => writeBack s c l.va) t) := by
  induction ls generalizing t with
  | nil => exact hmem.elim (fun hnil => absurd hnil List.not_mem_nil) id
  | cons m ms ih =>
    obtain ⟨hflush, hI⟩ := h.writeBack hinv m.va ht
    refine ih hflush hI ?_
    rcases hmem with hmem | hP
    · rcases List.mem_cons.mp hmem with rfl | hmem
      · exact .inr (writeBack_reaches hok hl hdw hkeep hself hstart h ht)
      · exact .inl hmem
    · exact .inr (h.writeBack hkeep m.va hP).2

end Reaches

/-! ## Publication (R153) -/

/-- After a write-back of the lines with a property no dirty line of it is left. -/
theorem writeBackIf_cleans {s : State} {c : Nat} (hok : linesOk s c) (p : CacheLine → Bool) :
    ∀ l ∈ ((writeBackIf s c p).cluster c).lines, l.dw ≠ 0 → p l = false := by
  intro l hl hdw
  have hflush := ((Flushing.refl s c).writeBackIf (motive := fun _ => True) (fun _ _ _ _ _ => trivial) ((s.cluster c).lines.filter p) trivial).1
  have hold := (hflush.lines l hl).resolve_left hdw
  by_contra hp
  have hmem : l ∈ (s.cluster c).lines.filter p := List.mem_filter.mpr ⟨hold, by simpa using hp⟩
  have hclean : cleanAt c l.va (writeBackIf s c p) :=
    foldl_writeBack_reaches (I := fun _ => True) hok hold hdw (fun u m hu hm => cleanAt_writeBackOne hu hm)
      (fun u hu => cleanAt_writeBackOne_self hu ((Flushing.refl s c).standing hold) hdw) (fun u _ _ hu => hu) (fun _ _ _ _ _ => trivial) (.refl s c)
      trivial (.inl hmem)
  exact hdw (hclean l hl rfl)

/-- A line that a drop of clean lines leaves has the marks of one before it; where the drop may take a line, it had a dirty word. -/
theorem mem_dropCleanIf {s : State} {c : Nat} {p : CacheLine → Bool} {l : CacheLine} (h : l ∈ ((dropCleanIf s c p).cluster c).lines) :
    ∃ m ∈ (s.cluster c).lines, l.dw = m.dw ∧ l.dc = m.dc ∧ l.x = m.x ∧ l.tv = m.tv ∧ (m.dw = 0 → p m = false) := by
  rw [dropCleanIf, State.cluster_modCluster_self] at h
  obtain ⟨m, hm, rfl⟩ := List.mem_map.mp h
  obtain ⟨hm, hkept⟩ := List.mem_filter.mp hm
  refine ⟨m, hm, ?_, ?_, ?_, ?_, fun hdw => by simpa [hdw] using hkept⟩
  all_goals split_ifs <;> rfl

/-- No dirty line of a core's in a tier of a scope is left in its cache. -/
def noneDirty (core : Nat) (sys : Bool) (t : State) : Prop :=
  ∀ l ∈ (t.cluster (cacheOf core)).lines, l.dw ≠ 0 → l.dc.getLsbD (dcBit core) = false ∨ scopeTier sys l.x.tier = false

/-- No clean line without a binding tag is left in a cache. -/
def noneStale (c : Nat) (t : State) : Prop := ∀ l ∈ (t.cluster c).lines, l.dw = 0 → l.tv = true

theorem noneDirty_dropCleanIf {s : State} {core : Nat} {sys : Bool} (h : noneDirty core sys s) (p : CacheLine → Bool) :
    noneDirty core sys (dropCleanIf s (cacheOf core) p) := by
  intro l hl hdw
  obtain ⟨m, hm, hmdw, hmdc, hmx, -, -⟩ := mem_dropCleanIf hl
  rw [hmdc, hmx]
  exact h m hm (hmdw ▸ hdw)

theorem publish_noneDirty {s : State} {core : Nat} (hok : linesOk s (cacheOf core)) (sys : Bool) : noneDirty core sys (publish s core sys) := by
  refine noneDirty_dropCleanIf (fun l hl hdw => ?_) _
  exact Bool.and_eq_false_iff.mp (writeBackIf_cleans hok _ l hl hdw)

theorem publish_noneStale (s : State) (core : Nat) (sys : Bool) : noneStale (cacheOf core) (publish s core sys) := by
  intro l hl hdw
  obtain ⟨m, -, hmdw, -, -, hmtv, hkept⟩ := mem_dropCleanIf hl
  rw [hmtv]
  simpa using hkept (hmdw ▸ hdw)

theorem crossPaths_noneStale (s : State) (core : Nat) : noneStale (cacheOf core) (crossPaths s core) := by
  intro l hl hdw
  obtain ⟨m, -, hmdw, -, -, -, hkept⟩ := mem_dropCleanIf hl
  exact absurd (hkept (hmdw ▸ hdw)) (by simp)

theorem CacheChange.dropCleanIf (s : State) (c : Nat) (p : CacheLine → Bool) : CacheChange s (dropCleanIf s c p) := .modCluster fun _ => rfl

theorem CacheChange.publish (s : State) (core : Nat) (sys : Bool) : CacheChange s (publish s core sys) :=
  (CacheChange.writeBackIf s (cacheOf core) _).trans (.dropCleanIf _ _ _)

theorem CacheChange.me {s t : State} (h : CacheChange s t) : t.me = s.me := by rw [h.rest]; rfl

/-! ## The bytes of a written line at their home (R142, R376) -/

theorem homeRequest_home (s : State) (c va : Nat) (x : Xlat) : (homeRequest s c va x).home = s.home := by
  rw [(homeRequest_counts s c va x).rest]
  unfold countRequest
  split_ifs <;> rfl

theorem homeByte_congr {s t : State} (h : t.home = s.home) (a : Nat) : t.homeByte a = s.homeByte a := by
  rw [State.homeByte, h]; rfl

/-- A unit rekeyed changes no byte of another. -/
theorem homeByte_rekeyed_other (s : State) {x : Xlat} {a : Nat} (h : a / 64 ≠ x.pa / 64) : (s.rekeyed x).homeByte a = s.homeByte a := by
  unfold State.rekeyed
  split
  · rfl
  · split_ifs
    · rfl
    · refine State.homeByte_homeWriteBytes s _ a fun b hb => ?_
      obtain ⟨k, hk, rfl⟩ := List.mem_map.mp hb
      have := List.mem_range.mp hk
      simp only
      omega

theorem mem_dirtyBytes {l : CacheLine} {b : Nat × Byte} : b ∈ dirtyBytes l ↔
    ∃ k < 64, (l.dw.getLsbD (k / 8) = true ∧ (lostWords l).getLsbD (k / 8) = false) ∧ b = (l.x.pa + k, lineByte l.data k) := by
  rw [dirtyBytes, List.mem_filterMap]
  refine exists_congr fun k => ?_
  rw [List.mem_range]
  refine and_congr_right fun _ => ?_
  split_ifs with h
  · obtain ⟨hdw, hlost⟩ := Bool.and_eq_true_iff.mp h
    rw [Option.some.injEq]
    exact ⟨fun hb => ⟨⟨hdw, by simpa using hlost⟩, hb.symm⟩, fun hb => hb.2.symm⟩
  · simpa using fun hdw hlost => absurd (by simp [hdw, hlost]) h

theorem dirtyBytes_nodup (l : CacheLine) : ((dirtyBytes l).map (·.1)).Nodup := by
  have hsub : ((dirtyBytes l).map (·.1)).Sublist ((List.range 64).map (l.x.pa + ·)) := by
    unfold dirtyBytes
    generalize List.range 64 = ks
    induction ks with
    | nil => simp
    | cons k ks ih =>
      rw [List.filterMap_cons]
      split_ifs
      · exact ih.cons_cons _
      · exact ih.cons _
  exact hsub.nodup (List.Nodup.map (fun _ _ h => Nat.add_left_cancel h) List.nodup_range)

theorem homeByte_sentHome_other (s : State) (c : Nat) {l : CacheLine} {a : Nat} (halign : l.x.pa % 64 = 0) (h : a / 64 ≠ l.x.pa / 64) :
    (sentHome s c l).homeByte a = s.homeByte a := by
  have hcount : (countCache s c 0x3003).homeByte a = s.homeByte a := homeByte_congr (by rw [(CountsChange.countCache s c 0x3003).rest]) a
  unfold sentHome writeHome
  split_ifs
  · rfl
  · exact hcount
  · rw [homeByte_congr (homeRequest_home _ _ _ _), State.writeAt, State.homeByte_homeWriteBytes, homeByte_rekeyed_other _ h, hcount]
    intro b hb
    obtain ⟨k, hk, -, rfl⟩ := mem_dirtyBytes.mp hb
    simp only
    omega

/-- A byte of a dirty word of a line stands at its home after the line's write-back. -/
def publishedAt (l : CacheLine) (k : Nat) (t : State) : Prop := t.homeByte (l.x.pa + k) = lineByte l.data k

theorem writeBackOne_homeByte {l : CacheLine} (hdw : l.dw ≠ 0) (s : State) (c a : Nat) :
    (writeBackOne s c l).homeByte a = (sentHome s c l).homeByte a := by
  rw [writeBackOne_dirty hdw]; rfl

section Published
variable {s : State} {c : Nat} {l : CacheLine} {k : Nat} (hk : k < 64) (hword : l.dw.getLsbD (k / 8) = true)
include hk hword

theorem publishedAt_writeBackOne_self (htier : l.x.tier = 0) (hbad : l.bad = 0) (hhole : l.hole = 0) (t : State) :
    publishedAt l k (writeBackOne t c l) := by
  have hdw : l.dw ≠ 0 := by rintro h; simp [h] at hword
  have hlost : lostWords l = 0 := by rw [lostWords, hbad, hhole]; decide
  have hmem : (l.x.pa + k, lineByte l.data k) ∈ dirtyBytes l := mem_dirtyBytes.mpr ⟨k, hk, ⟨hword, by simp [hlost]⟩, rfl⟩
  have hsome : ¬(dirtyBytes l).isEmpty = true := by
    rw [List.isEmpty_iff]
    exact List.ne_nil_of_mem hmem
  rw [publishedAt, writeBackOne_homeByte hdw, sentHome, if_neg hsome, writeHome, if_neg (by omega), homeByte_congr (homeRequest_home _ _ _ _)]
  exact State.homeByte_homeWriteBytes_self _ (dirtyBytes_nodup l) hmem

variable (htier : l.x.tier = 0) (hbad : l.bad = 0) (hhole : l.hole = 0) (hok : linesOk s c) (hl : l ∈ (s.cluster c).lines)
  (hunits : ∀ m ∈ (s.cluster c).lines, m.x.pa % 64 = 0 ∧ (m.va ≠ l.va → m.x.pa ≠ l.x.pa))
include htier hbad hhole hok hl hunits

theorem stepKeeps_publishedAt : StepKeeps s c (publishedAt l k) := by
  intro u m _ hm hu
  by_cases hdw : m.dw = 0
  · rwa [writeBackOne_clean hdw]
  have hold := hm.2.resolve_left hdw
  by_cases hva : m.va = l.va
  · rw [line_unique hok.1 hold hl hva]
    exact publishedAt_writeBackOne_self hk hword htier hbad hhole u
  · obtain ⟨halign, hother⟩ := hunits m hold
    have hlalign := (hunits l hl).1
    have hne := hother hva
    rw [publishedAt, writeBackOne_homeByte hdw, homeByte_sentHome_other u c halign (by omega)]
    exact hu

/-- The line still stands, or its byte has been published. -/
theorem stepKeeps_standsOrPublished : StepKeeps s c (fun u => l ∈ (u.cluster c).lines ∨ publishedAt l k u) := by
  intro u m hflush hm hu
  rcases hu with hstands | hpub
  · by_cases hdw : m.dw = 0
    · rw [writeBackOne_clean hdw]; exact .inl hstands
    by_cases hva : l.va = m.va
    · rw [← line_unique hok.1 hl (hm.2.resolve_left hdw) hva]
      exact .inr (publishedAt_writeBackOne_self hk hword htier hbad hhole u)
    · left
      rw [writeBackOne_lines hdw (hflush.vas ▸ hm.1)]
      exact List.mem_map.mpr ⟨l, hstands, by simp [hva]⟩
  · exact .inr (stepKeeps_publishedAt hk hword htier hbad hhole hok hl hunits u m hflush hm hpub)

/-- The bytes of the dirty words of a line stand at their home once lines with a property of it have been written back. -/
theorem writeBackIf_publishes {p : CacheLine → Bool} (hp : p l = true) : publishedAt l k (writeBackIf s c p) := by
  have hdw : l.dw ≠ 0 := by rintro h; simp [h] at hword
  refine foldl_writeBack_reaches (I := fun u => l ∈ (u.cluster c).lines ∨ publishedAt l k u) hok hl hdw
    (stepKeeps_publishedAt hk hword htier hbad hhole hok hl hunits) (fun u _ => publishedAt_writeBackOne_self hk hword htier hbad hhole u) ?_
    (stepKeeps_standsOrPublished hk hword htier hbad hhole hok hl hunits) (.refl s c) (.inl hl) (.inl (List.mem_filter.mpr ⟨hl, hp⟩))
  intro u _ hu hclean
  exact hu.resolve_left fun hstands => hdw (hclean l hstands rfl)

end Published

/-! ## The fences -/

section Words
variable {f : Form} {s : State}

/-- Nothing holds back a fence once its thread set is quiet and its cluster holds no write (R153, R337). -/
theorem fenceWaits_unheld (h : quiet s) (hhold : (s.cluster (cacheOf s.curCore)).hold = []) (scope : Nat) :
    fenceWaits (begin s) s.curCore s.curTs scope = false := by
  obtain ⟨hq, hp, hu, hr⟩ := h
  have hme : (begin s).tset s.curCore s.curTs = (begin s).me := rfl
  have hrread : rreadPending (begin s) s.curCore s.curTs s.uid = false := hr
  simp [fenceWaits, heldInScope, hme, hq, hp, hu, hrread, hhold]

theorem exec_fence_local (hready : formReady s f none .none = true) (hquiet : quiet s) (hscope : f.md.toNat % 4 < 2) :
    exec (.fence f) s = .next (finished f.hints (begin s)) := by
  rw [exec_fence, execFence]
  refine run_ready_ok _ _ _ _ _ _ hready ?_
  simp only [if_neg (Nat.not_le.mpr hscope), begin_curCore, begin_curTs, fenceWaits_quiet hquiet hscope, Bool.false_eq_true, if_false, if_pos hscope,
    bind, Except.bind, pure, Except.pure]

/-- A fence of device or system scope publishes what its core has dirtied. -/
theorem exec_fence_publishes (hready : formReady s f none .none = true) (hquiet : quiet s) (hspec : s.mySpec = none)
    (hhold : (s.cluster (cacheOf s.curCore)).hold = []) {sys : Bool} (hscope : f.md.toNat % 4 = if sys then 3 else 2)
    (haway : sys = true → storesAway (publish (begin s) s.curCore true) (cacheOf s.curCore) = false) :
    exec (.fence f) s = .next (finished f.hints (publish (begin s) s.curCore sys)) := by
  have hspec' : (begin s).mySpec = none := by rw [State.mySpec, begin_me_act]; exact hspec
  rw [exec_fence, execFence]
  refine run_ready_ok _ _ _ _ _ _ hready ?_
  have hcore : (publish (begin s) s.curCore true).curCore = s.curCore := by rw [(CacheChange.publish _ _ _).rest]; rfl
  cases sys with
  | false =>
    simp only [Bool.false_eq_true, if_false] at hscope
    simp only [hscope, needOrdinary_ok hspec', begin_curCore, begin_curTs, fenceWaits_unheld hquiet hhold, bind, Except.bind, pure, Except.pure]
    rfl
  | true =>
    simp only [if_true] at hscope
    simp only [hscope, needOrdinary_ok hspec', begin_curCore, begin_curTs, fenceWaits_unheld hquiet hhold, bind, Except.bind, pure, Except.pure,
      haway rfl, decide_true, hcore]
    rfl

theorem finished_pc_of_me {u : State} (h : u.me = (begin s).me) : (finished f.hints u).me.pc = s.me.pc + 12 := by
  rw [finished_me_pc, h, begin_me_pc]

theorem publish_pc (sys : Bool) : (finished f.hints (publish (begin s) s.curCore sys)).me.pc = s.me.pc + 12 :=
  finished_pc_of_me (CacheChange.publish _ _ _).me

end Words

/-! ## XFENCE (R155) -/

/-- The state once an `XFENCE` has taken its place among the accesses of its core. -/
def inOrder (s : State) (from_ to_ : BitVec 6) : State :=
  (s.fresh.2.modMe (fun t => { t with wait := .fence s.uid })).modMyCore (fun c => { c with
    xfences := c.xfences ++ [XFence.mk s.curTs s.uid from_ to_] })

/-- The state once it has left its place again. -/
def outOfOrder (s : State) (from_ to_ : BitVec 6) : State :=
  (inOrder s from_ to_).modMyCore (fun c => { c with xfences := c.xfences.filter (fun x => x.seq != s.uid) })

/-- What an `XFENCE` does to the cache by its masks: it publishes as `FENCE.dev` does, and drops clean lines. -/
def crossed (s : State) (from_ to_ : BitVec 6) : State :=
  let s := if from_.getLsbD 0 then publish s s.curCore false else s
  if to_.getLsbD 0 || to_.getLsbD 2 then crossPaths s s.curCore else s

theorem tset_modTset_keeps {β : Type} (p : TSet → β) {g : TSet → TSet} (hp : ∀ t, p (g t) = p t) (s : State) (c k d j : Nat) :
    p ((s.modTset c k g).tset d j) = p (s.tset d j) := by
  by_cases h : d * 4 + j = c * 4 + k
  · have hsame : ∀ u : State, u.tset d j = u.tset c k := fun u => by rw [State.tset, State.tset, h]
    rw [hsame, hsame, State.tset_modTset_self, hp]
  · rw [State.tset_modTset_ne s g h]

section Crossing
variable (s : State) (from_ to_ : BitVec 6)

/-- The place of an `XFENCE` changes no access of a thread set. -/
theorem inOrder_tset_keeps {β : Type} (p : TSet → β) (hp : ∀ t w, p { t with wait := w } = p t) (hpc : ∀ t n, p { t with pc := n, stalled := false } = p t)
    (d j : Nat) : p ((inOrder (begin s) from_ to_).tset d j) = p (s.tset d j) :=
  (tset_modTset_keeps p (fun t => hp t _) (begin s).fresh.2 s.curCore s.curTs d j).trans
    (tset_modTset_keeps p (fun t => hpc t _) s s.curCore s.curTs d j)

theorem outOfOrder_me_pc : (outOfOrder (begin s) from_ to_).me.pc = s.me.pc + 12 := by
  simp only [outOfOrder, inOrder, State.me_modMyCore, State.me_modMe]
  exact begin_me_pc s

theorem outOfOrder_xfences (h : ∀ x ∈ s.myCore.xfences, x.seq < s.uid) : ((outOfOrder (begin s) from_ to_).core s.curCore).xfences = s.myCore.xfences := by
  have hself : (outOfOrder (begin s) from_ to_).core s.curCore = _ := State.core_modCore_self _ _ _
  have hplaced : (inOrder (begin s) from_ to_).core s.curCore = _ := State.core_modCore_self _ _ _
  rw [hself]
  simp only
  rw [show (inOrder (begin s) from_ to_).curCore = s.curCore from rfl, hplaced]
  have hstay : s.myCore.xfences.filter (fun x => x.seq != s.uid) = s.myCore.xfences :=
    List.filter_eq_self.mpr fun x hx => by simpa using (h x hx).ne
  rw [List.filter_append]
  refine (congrArg₂ (· ++ ·) hstay (List.filter_eq_nil_iff.mpr fun x hx => ?_)).trans (List.append_nil _)
  rw [List.mem_singleton.mp hx]
  simp

variable (hidle : ∀ k < 4, (s.tset s.curCore k).storeq = [] ∧ (s.tset s.curCore k).pend = [] ∧ (s.tset s.curCore k).unacked = [])
  (hhold : ∀ h ∈ (s.cluster (cacheOf s.curCore)).hold, ∀ q ∈ h.stores, q.core ≠ s.curCore) (hanvil : s.myCore.anvil = [])
  (hinject : s.myCore.inject = []) (hstream : (s.cluster (cacheOf s.curCore)).stream = []) (hleases : s.leases = [])
  (haway : ∀ p ∈ s.peerStores, p.1 ≠ cacheOf s.curCore)
include hidle hhold hanvil hinject hstream hleases haway

/-- Nothing before an `XFENCE` is still to be performed where its core has no access and no command under way. -/
theorem earlierOnPaths_idle : earlierOnPaths (inOrder (begin s) from_ to_) s.curCore s.uid from_ = false := by
  have hcore : ∀ k < 4, coreEarlier ((inOrder (begin s) from_ to_).tset s.curCore k) s.uid = false := by
    intro k hk
    obtain ⟨hq, hp, hu⟩ := hidle k hk
    have hq' := (inOrder_tset_keeps s from_ to_ (·.storeq) (fun _ _ => rfl) (fun _ _ => rfl) s.curCore k).trans hq
    have hp' := (inOrder_tset_keeps s from_ to_ (·.pend) (fun _ _ => rfl) (fun _ _ => rfl) s.curCore k).trans hp
    have hu' := (inOrder_tset_keeps s from_ to_ (·.unacked) (fun _ _ => rfl) (fun _ _ => rfl) s.curCore k).trans hu
    simp [coreEarlier, hq', hp', hu']
  have hcores : (List.range 4).any (fun t => coreEarlier ((inOrder (begin s) from_ to_).tset s.curCore t) s.uid) = false :=
    List.any_eq_false.mpr fun k hk => by simp [hcore k (List.mem_range.mp hk)]
  have hheld : ((inOrder (begin s) from_ to_).cluster (cacheOf s.curCore)).hold.any (fun h => h.of s.curCore s.uid) = false := by
    refine List.any_eq_false.mpr fun h hh => ?_
    simp only [HeldWrite.of, List.any_eq_true, not_exists, not_and]
    intro q hq
    simp [hhold h hh q hq]
  have hpeers : storesAway (inOrder (begin s) from_ to_) (cacheOf s.curCore) = false :=
    List.any_eq_false.mpr fun p hp => by simpa using haway p hp
  have hplace : (inOrder (begin s) from_ to_).core s.curCore = _ := State.core_modCore_self _ _ _
  have hanvil' : ((inOrder (begin s) from_ to_).core s.curCore).anvil = [] := by rw [hplace]; exact hanvil
  have hinject' : ((inOrder (begin s) from_ to_).core s.curCore).inject = [] := by rw [hplace]; exact hinject
  have hstream' : ((inOrder (begin s) from_ to_).cluster (cacheOf s.curCore)).stream = [] := hstream
  have hleases' : (inOrder (begin s) from_ to_).leases = [] := hleases
  have hcommands : ∀ p, commandEarlier (inOrder (begin s) from_ to_) s.curCore s.uid p = false := by
    intro p
    unfold commandEarlier
    simp only [hanvil', hinject', hstream', hleases', List.any_nil, Bool.or_self]
    split <;> rfl
  simp only [earlierOnPaths, hcores, hheld, hpeers, hcommands, Bool.or_self, Bool.and_false]
  rfl

end Crossing

section Xfence
variable {f : Form} {s : State} (hready : formReady s f none .none = true) (hspec : s.mySpec = none)
include hready hspec

theorem exec_xfence_empty (h : (s.me.value f.oa).setWidth 6 = 0#6 ∨ (s.me.value f.ob).setWidth 6 = 0#6) :
    exec (.xfence f) s = .next (finished f.hints (begin s)) := by
  have hspec' : (begin s).mySpec = none := by rw [State.mySpec, begin_me_act]; exact hspec
  rw [exec_xfence, execXfence]
  refine run_ready_ok _ _ _ _ _ _ hready ?_
  simp only [needOrdinary_ok hspec', begin_value, bind, Except.bind, pure, Except.pure]
  exact if_pos h

/-- An `XFENCE` at its first issue that nothing holds back completes at once. -/
theorem exec_xfence_crosses {from_ to_ : BitVec 6} (hfrom : (s.me.value f.oa).setWidth 6 = from_) (hto : (s.me.value f.ob).setWidth 6 = to_)
    (hfrom0 : from_ ≠ 0) (hto0 : to_ ≠ 0) (hwait : s.me.wait = .none)
    (hfree : earlierOnPaths (inOrder (begin s) from_ to_) s.curCore s.uid from_ = false) :
    exec (.xfence f) s = .next (finished f.hints (crossed (outOfOrder (begin s) from_ to_) from_ to_)) := by
  have hspec' : (begin s).mySpec = none := by rw [State.mySpec, begin_me_act]; exact hspec
  rw [exec_xfence, execXfence]
  refine run_ready_ok _ _ _ _ _ _ hready ?_
  simp only [needOrdinary_ok hspec', begin_value, bind, Except.bind, pure, Except.pure, hfrom, hto, hfrom0, hto0, or_self, if_false, begin_me_wait, hwait]
  exact (if_neg (by rw [Bool.not_eq_true]; exact hfree)).trans rfl

end Xfence

section Crossed
variable {s : State} (from_ to_ : BitVec 6)

theorem CacheChange.crossed : CacheChange s (crossed s from_ to_) := by
  unfold Machine.crossed
  dsimp only
  split_ifs
  · exact (CacheChange.publish s _ _).trans (.dropCleanIf _ _ _)
  · exact .dropCleanIf _ _ _
  · exact .publish s _ _
  · exact .refl s

theorem crossed_noneDirty (hok : linesOk s (cacheOf s.curCore)) (h : from_.getLsbD 0 = true) : noneDirty s.curCore false (crossed s from_ to_) := by
  have hcore : (publish s s.curCore false).curCore = s.curCore := by rw [(CacheChange.publish _ _ _).rest]
  unfold crossed
  simp only [h, if_true, hcore]
  split_ifs
  · exact noneDirty_dropCleanIf (publish_noneDirty hok false) _
  · exact publish_noneDirty hok false

theorem crossed_noneStale (h : to_.getLsbD 0 = true ∨ to_.getLsbD 2 = true) : noneStale (cacheOf s.curCore) (crossed s from_ to_) := by
  have hcore : (publish s s.curCore false).curCore = s.curCore := by rw [(CacheChange.publish _ _ _).rest]
  unfold crossed
  simp only [Bool.or_eq_true, h, if_true]
  split_ifs
  · have := crossPaths_noneStale (publish s s.curCore false) s.curCore
    rwa [hcore]
  · exact crossPaths_noneStale s s.curCore

end Crossed

/-- Settles O18: a fence whose earlier accesses are performed completes; each dirty line of the scope is written back, whose bytes then stand at
its home, and clean lines without a tag are dropped. -/
theorem fencesPublish : Obligations.FencesPublish := by
  unfold Obligations.FencesPublish
  constructor
  · intro f s c clean fresh from_ to_ hready hok
    refine ⟨exec_fence_local hready, ?_, ?_, exec_xfence_empty hready, ?_⟩
    · intro hquiet hscope hspec hhold
      refine ⟨_, exec_fence_publishes hready hquiet hspec hhold (sys := false) hscope (by simp), publish_pc false, ?_, ?_⟩
      · intro l hl
        rw [finished_cluster] at hl
        exact publish_noneDirty (s := begin s) hok false l hl
      · intro l hl
        rw [finished_cluster] at hl
        exact publish_noneStale (begin s) s.curCore false l hl
    · intro hquiet hscope hspec hhold hpeers hown
      have haway : storesAway (publish (begin s) s.curCore true) (cacheOf s.curCore) = false := by
        have hkeep : (publish (begin s) s.curCore true).peerStores = s.peerStores := (KeepsOwn.writeBackIf (s := begin s) _ hown).peerStores
        rw [storesAway, hkeep]
        exact List.any_eq_false.mpr fun p hp => by simpa using hpeers p hp
      refine ⟨_, exec_fence_publishes hready hquiet hspec hhold (sys := true) hscope (fun _ => haway), publish_pc true, ?_, ?_⟩
      · intro l hl
        rw [finished_cluster] at hl
        exact publish_noneDirty (s := begin s) hok true l hl
      · intro l hl
        rw [finished_cluster] at hl
        exact publish_noneStale (begin s) s.curCore true l hl
    · intro hspec hfrom hto hwait hseq hhold hidle hanvil hinject hstream hleases haway
      have hcross := CacheChange.crossed (s := outOfOrder (begin s) from_ to_) from_ to_
      refine ⟨_, exec_xfence_crosses hready hspec rfl rfl hfrom hto hwait
        (earlierOnPaths_idle s from_ to_ hidle hhold hanvil hinject hstream hleases haway), ?_, ?_, ?_, ?_⟩
      · rw [finished_me_pc, hcross.me, outOfOrder_me_pc]
      · rw [State.myCore, finished_curCore, show (crossed (outOfOrder (begin s) from_ to_) from_ to_).curCore = s.curCore by rw [hcross.rest]; rfl,
          (IssueChange.finished _ _).cores, hcross.core]
        exact outOfOrder_xfences s from_ to_ hseq
      · intro h l hl
        rw [finished_cluster] at hl
        exact crossed_noneDirty (s := outOfOrder (begin s) from_ to_) from_ to_ hok h l hl
      · intro h l hl
        rw [finished_cluster] at hl
        exact crossed_noneStale (s := outOfOrder (begin s) from_ to_) from_ to_ h l hl
  · intro f s l k c hready hquiet hscope hspec hhold hok hl hdc htier hbad hhole hunits hk hword
    refine ⟨_, exec_fence_publishes hready hquiet hspec hhold (sys := false) hscope (by simp), ?_⟩
    have hp : (l.dc.getLsbD (dcBit s.curCore) && scopeTier false l.x.tier) = true := by simp [hdc, htier, scopeTier]
    have hpub := writeBackIf_publishes (s := begin s) hk hword htier hbad hhole hok hl hunits
      (p := fun l => l.dc.getLsbD (dcBit s.curCore) && scopeTier false l.x.tier) hp
    rw [State.homeRead_one, homeByte_congr (by rw [(IssueChange.finished f.hints _).rest])]
    exact congrArg BitVec.toNat hpub

end Sys2Proof.Machine

end

/-! # Sync objects: requests, releases, grants and bindings (R150 to R152, Tables 8.7, 8.8) -/
section

namespace Sys2Proof.Machine

/-! ## An object at its home (Table 8.7) -/

/-- Whether a unit stands under a key depends on its own address, key and tier alone. -/
theorem keyStands_unit {s t : State} {x y : Xlat} (hrot : t.rotations = s.rotations) (hunder : t.under = s.under) (hkey : y.key = x.key)
    (htier : y.tier = x.tier) (hpa : y.pa / 64 = x.pa / 64) : keyStands t y = keyStands s x := by
  simp only [keyStands, keyAt, hrot, hunder, hkey, htier, hpa]

/-- A unit written stands under its page's key. -/
theorem keyStands_putAt {s : State} {x y : Xlat} (hkey : y.key = x.key) (htier : y.tier = x.tier) (hpa : y.pa / 64 = x.pa / 64) (n v : Nat) :
    keyStands (s.putAt y n v) x = true := by
  have hsame : keyAt s y = keyAt s x := by simp only [keyAt, hkey, htier]
  have hat : keyAt (s.putAt y n v) x = keyAt s x := by
    have hrot : (s.putAt y n v).rotations = s.rotations := by rw [(HomeChange.putAt s y n v).rest]
    simp only [keyAt, hrot]
  cases hk : keyAt s x with
  | none => simp only [keyStands, hat, hk]
  | some k =>
    have hunder : (s.putAt y n v).under = (s.rekeyed y).under := rfl
    have hself : mget (0, 0) (s.rekeyed y).under (x.pa / 64) = k := by
      simp only [State.rekeyed, hsame, hk, hpa]
      exact mget_mset_self _ _ _ _
    simp only [keyStands, hat, hk, hunder, hself, beq_self_eq_true, Bool.true_or]

/-- From `s` to `t` the home of an object may change, and its page stands as it did for every core. -/
structure ObjectStep (pa : Nat) (x : Xlat) (s t : State) : Prop where
  home : HomeChange s t
  here : ∀ core va, objectHere s core va pa x → objectHere t core va pa x

theorem ObjectStep.trans {pa : Nat} {x : Xlat} {s t u : State} (h : ObjectStep pa x s t) (h' : ObjectStep pa x t u) : ObjectStep pa x s u :=
  ⟨h.home.trans h'.home, fun core va hu => h'.here core va (h.here core va hu)⟩

/-- The translation of an object as its core has it. -/
theorem currentXlat_tlb {s : State} {core va : Nat} {e : TlbEntry} (h : (s.core core).tlb.find? (fun e => e.holds va) = some e) (x : Xlat) :
    currentXlat s core va x = e.at_ va := by
  unfold currentXlat
  rw [h]

section Here
variable {s : State} {core va pa : Nat} {x : Xlat} (h : objectHere s core va pa x)
include h

theorem currentXlat_here : currentXlat s core va {} = x := by
  obtain ⟨-, -, -, -, -, e, he, hx⟩ := h
  rw [currentXlat_tlb he, ← hx]

theorem pageBlocked_here : pageBlocked s core va = false := by
  obtain ⟨-, -, -, hwb, -⟩ := id h
  rw [pageBlocked, currentXlat_here h]
  exact hwb

/-- A field of an object is written at its place, its page marked dirty already. -/
theorem objWrite_here (off n v : Nat) : objWrite s core va (pa + off) n v = s.putAt { x with pa := pa + off } n v := by
  obtain ⟨-, -, hdirty, -⟩ := id h
  have hset : setDirty s core va x = s := if_pos hdirty
  rw [objWrite, currentXlat_here h, hset]

theorem objWrite_self (off n v : Nat) : (objWrite s core va (pa + off) n v).homeRead (pa + off) n = v % 2 ^ (8 * n) := by
  rw [objWrite_here h]
  exact putAt_homeRead_self s { x with pa := pa + off } n v

variable {off n : Nat} (hin : off + n ≤ 16) (hn : 0 < n)
include hin hn

theorem objWrite_step (v : Nat) : ObjectStep pa x s (objWrite s core va (pa + off) n v) := by
  obtain ⟨hx, halign, -⟩ := id h
  have hunit : (pa + off) / 64 = x.pa / 64 := by omega
  rw [objWrite_here h]
  refine ⟨.putAt s _ n v, fun core' va' ⟨_, _, hdirty, hwb, _, e, he, hxe⟩ => ⟨hx, halign, hdirty, hwb, ?_, e, ?_, hxe⟩⟩
  · exact keyStands_putAt (x := x) (y := { x with pa := pa + off }) rfl rfl hunit n v
  · rw [(HomeChange.putAt s _ n v).rest]
    exact he

theorem objWrite_other (v : Nat) {off' n' : Nat} (hout : off' + n' ≤ off ∨ off + n ≤ off') :
    (objWrite s core va (pa + off) n v).homeRead (pa + off') n' = s.homeRead (pa + off') n' := by
  obtain ⟨hx, halign, -, -, hkey, -⟩ := id h
  have hstands : keyStands s { x with pa := pa + off } = true := by
    rw [keyStands_unit (s := s) (x := x) (y := { x with pa := pa + off }) rfl rfl rfl rfl (show (pa + off) / 64 = x.pa / 64 by omega)]
    exact hkey
  rw [objWrite_here h]
  exact putAt_homeRead_other hstands v (by simp only; omega)

end Here

/-- The fields of an object as a step leaves them: SHR, EXC and EPOCH. -/
structure Fields (s : State) (pa shr : Nat) (exc : Bool) (epoch : Nat) : Prop where
  shr : objShr s pa = shr
  exc : objExc s pa = exc
  epoch : s.homeRead (pa + 8) 4 = epoch

section Steps
variable {s : State} {core va pa : Nat} {x : Xlat} (h : objectHere s core va pa x)
include h

theorem stepEpoch_step : ObjectStep pa x s (stepEpoch s core va pa) := objWrite_step h (by norm_num) (by norm_num) _

theorem stepEpoch_fields :
    Fields (stepEpoch s core va pa) pa (objShr s pa) (objExc s pa) ((s.homeRead (pa + 8) 4 + 1) % 2 ^ 32) where
  shr := objWrite_other h (off := 8) (n := 4) (by norm_num) (by norm_num) _ (off' := 0) (n' := 4) (by norm_num)
  exc := congrArg (fun v : Nat => v.testBit 0)
    (objWrite_other h (off := 8) (n := 4) (by norm_num) (by norm_num) _ (off' := 4) (n' := 1) (by norm_num))
  epoch := by
    rw [stepEpoch, objWrite_self h 8 4]
    exact Nat.mod_mod _ _

variable (shr : Nat) (exc : Bool)

theorem setObj_step : ObjectStep pa x s (setObj s core va pa shr exc) := by
  have hshr : ObjectStep pa x s (objWrite s core va pa 4 shr) := objWrite_step h (off := 0) (n := 4) (by norm_num) (by norm_num) shr
  exact hshr.trans (objWrite_step (hshr.here core va h) (off := 4) (n := 1) (by norm_num) (by norm_num) _)

theorem setObj_fields (hshr : shr < 2 ^ 32) : Fields (setObj s core va pa shr exc) pa shr exc (s.homeRead (pa + 8) 4) := by
  have hstep : ObjectStep pa x s (objWrite s core va pa 4 shr) := objWrite_step h (off := 0) (n := 4) (by norm_num) (by norm_num) shr
  have hhere := hstep.here core va h
  refine ⟨?_, ?_, ?_⟩
  · have hother := objWrite_other hhere (off := 4) (n := 1) (by norm_num) (by norm_num) (if exc then 1 else 0) (off' := 0) (n' := 4) (by norm_num)
    have hself := objWrite_self h 0 4 shr
    exact hother.trans (hself.trans (Nat.mod_eq_of_lt hshr))
  · have hself := objWrite_self hhere 4 1 (if exc then 1 else 0)
    rw [objExc, setObj, hself]
    cases exc <;> rfl
  · have hother := objWrite_other hhere (off := 4) (n := 1) (by norm_num) (by norm_num) (if exc then 1 else 0) (off' := 8) (n' := 4) (by norm_num)
    exact hother.trans (objWrite_other h (off := 0) (n := 4) (by norm_num) (by norm_num) shr (off' := 8) (n' := 4) (by norm_num))

end Steps

theorem objShr_lt (s : State) (pa : Nat) : objShr s pa < 2 ^ 32 := State.homeRead_lt s pa 4

/-! ## REL at its object (R151, R152) -/

section Release
variable {s : State} {core va pa : Nat} {x : Xlat} (h : objectHere s core va pa x)
include h

/-- One release: of a shared hold SHR counts down, the last of an exclusive one clears EXC. -/
theorem giveBack_fields (exclusive last : Bool) {epoch : Nat} (hepoch : s.homeRead (pa + 8) 4 = epoch) :
    Fields (giveBack s core va pa exclusive last) pa (if exclusive then objShr s pa else objShr s pa - 1)
      (objExc s pa && !(exclusive && last)) epoch := by
  subst hepoch
  have hlt := objShr_lt s pa
  cases exclusive with
  | false =>
    simp only [giveBack, Bool.false_eq_true, if_false, Bool.false_and, Bool.not_false, Bool.and_true]
    exact setObj_fields h _ _ (by omega)
  | true =>
    cases last with
    | false => simp only [giveBack, if_true, Bool.false_eq_true, if_false, Bool.and_false, Bool.not_false, Bool.and_true]; exact ⟨rfl, rfl, rfl⟩
    | true =>
      simp only [giveBack, if_true, Bool.and_self, Bool.not_true, Bool.and_false]
      exact setObj_fields h _ _ hlt

end Release

/-- The holds of a thread set without one release of an object. -/
def unheldOnce (pa : Nat) (hold : Hold) (t : TSet) : TSet := { t with
  holds := if hold.count = 1 then t.holds.filter (fun x => x.pa != pa)
    else t.holds.map (fun x => if x.pa == pa then { x with count := x.count - 1 } else x) }

section Release
variable {s : State} {core ts va pa : Nat} (hfree : s.binding (s.ctxOf core ts) pa = none)
include hfree

theorem publishBound_free : publishBound s core (s.ctxOf core ts) pa = s := by
  rw [publishBound, hfree]

theorem relObject_unheld (hnone : (s.tset core ts).holds.find? (fun h => h.pa == pa) = none) :
    relObject s core ts va pa = stepEpoch s core va pa := by
  have hsame : (stepEpoch s core va pa).tset core ts = s.tset core ts := (Steady.objWrite s core va _ 4 _).tset core ts
  unfold relObject
  simp only [publishBound_free hfree, hsame, hnone]

theorem relObject_held {hold : Hold} (hhold : (s.tset core ts).holds.find? (fun h => h.pa == pa) = some hold) :
    relObject s core ts va pa =
      (giveBack (stepEpoch s core va pa) core va pa hold.exclusive (decide (hold.count = 1))).modTset core ts (unheldOnce pa hold) := by
  have hsame : (stepEpoch s core va pa).tset core ts = s.tset core ts := (Steady.objWrite s core va _ 4 _).tset core ts
  unfold relObject
  simp only [publishBound_free hfree, hsame, hhold]
  rfl

end Release

/-- An object that is not bound, as its page stands for one core, after its `REL` (R151, R152). -/
theorem relObject_fields {s : State} {core ts va pa : Nat} {x : Xlat} (hfree : s.binding (s.ctxOf core ts) pa = none) (h : objectHere s core va pa x)
    {hold : Hold} (hhold : (s.tset core ts).holds.find? (fun h => h.pa == pa) = some hold) :
    Fields (relObject s core ts va pa) pa (if hold.exclusive then objShr s pa else objShr s pa - 1)
      (objExc s pa && !(hold.exclusive && decide (hold.count = 1))) ((s.homeRead (pa + 8) 4 + 1) % 2 ^ 32) := by
  have hstep := stepEpoch_fields h
  have hgiven := giveBack_fields ((stepEpoch_step h).here core va h) hold.exclusive (decide (hold.count = 1)) hstep.epoch
  rw [hstep.shr, hstep.exc] at hgiven
  rw [relObject_held hfree hhold]
  exact ⟨hgiven.shr, hgiven.exc, hgiven.epoch⟩

/-- The last release of a hold takes it from its thread set. -/
theorem relObject_holds {s : State} {core ts va pa : Nat} {hold : Hold} (hfree : s.binding (s.ctxOf core ts) pa = none)
    (hhold : (s.tset core ts).holds.find? (fun h => h.pa == pa) = some hold) (hlast : hold.count = 1) :
    ∀ x ∈ ((relObject s core ts va pa).tset core ts).holds, x.pa ≠ pa := by
  intro x hx
  rw [relObject_held hfree hhold, State.tset_modTset_self, unheldOnce, if_pos hlast] at hx
  simpa using (List.mem_filter.mp hx).2

/-! ## Grants (R151) -/

/-- The thread set of a request, granted. -/
def TSet.granted (a : AcqWait) (t : TSet) : TSet := { t.addHold a.pa a.va (!a.shared) with wait := .acq a.pa true, stalled := false }

/-- The state without the requests of a thread set. -/
def dequeued (s : State) (a : AcqWait) : State := { s with acqs := s.acqs.filter (fun b => !(b.core == a.core && b.ts == a.ts)) }

theorem dequeued_here {s : State} {core va pa : Nat} {x : Xlat} (h : objectHere s core va pa x) (a : AcqWait) : objectHere (dequeued s a) core va pa x := by
  obtain ⟨hx, halign, hdirty, hwb, hkey, e, he, hxe⟩ := h
  exact ⟨hx, halign, hdirty, hwb, hkey, e, he, hxe⟩

/-- The state with a request's counts at its object, the request taken from the queue. -/
def counted (s : State) (a : AcqWait) : State :=
  setObj (dequeued s a) a.core a.va a.pa
    (if a.shared then objShr s a.pa + 1 else objShr s a.pa) (if a.shared then objExc s a.pa else true)

/-- A request that can be granted: its object is not bound, and its page stands as its core has it. -/
structure Grantable (pa : Nat) (x : Xlat) (s : State) (a : AcqWait) : Prop where
  at_ : a.pa = pa
  free : s.binding (s.ctxOf a.core a.ts) pa = none
  here : objectHere s a.core a.va pa x

/-- A granted request: its `ACQ` completes, and its thread set has a hold. -/
def isGranted (pa : Nat) (t : State) (a : AcqWait) : Prop :=
  (t.tset a.core a.ts).wait = .acq pa true ∧ ∃ h ∈ (t.tset a.core a.ts).holds, h.pa = pa

theorem TSet.addHold_holds (t : TSet) (pa va : Nat) (exclusive : Bool) : ∃ h ∈ (t.addHold pa va exclusive).holds, h.pa = pa := by
  unfold TSet.addHold
  split_ifs with h
  · obtain ⟨k, hk, hpa⟩ := List.any_eq_true.mp h
    have hpa : k.pa = pa := by simpa using hpa
    exact ⟨{ k with count := k.count + 1 }, List.mem_map.mpr ⟨k, hk, by simp [hpa]⟩, hpa⟩
  · exact ⟨⟨pa, va, exclusive, 1⟩, List.mem_append_right _ List.mem_cons_self, rfl⟩

theorem TSet.granted_wait (a : AcqWait) (t : TSet) : (t.granted a).wait = .acq a.pa true := rfl

theorem TSet.granted_holds (a : AcqWait) (t : TSet) : ∃ h ∈ (t.granted a).holds, h.pa = a.pa := t.addHold_holds a.pa a.va (!a.shared)

theorem TSet.granted_act (a : AcqWait) (t : TSet) : (t.granted a).act = t.act := by
  unfold TSet.granted TSet.addHold
  split_ifs <;> rfl

theorem binding_congr {s t : State} (h : t.contexts = s.contexts) (ctx obj : Nat) : t.binding ctx obj = s.binding ctx obj := by
  rw [State.binding, State.binding, State.context, State.context, h]

section Grant
variable {pa : Nat} {x : Xlat} {s : State} {a : AcqWait} (h : Grantable pa x s a)
include h

theorem counted_step : ObjectStep pa x (dequeued s a) (counted s a) := by
  rw [counted, h.at_]
  exact setObj_step (dequeued_here h.here a) _ _

theorem counted_fields (hroom : objShr s pa + 1 < 2 ^ 32) : Fields (counted s a) pa (if a.shared then objShr s pa + 1 else objShr s pa)
    (if a.shared then objExc s pa else true) (s.homeRead (pa + 8) 4) := by
  rw [counted, h.at_]
  refine setObj_fields (dequeued_here h.here a) _ _ ?_
  split_ifs
  · exact hroom
  · exact objShr_lt s pa

theorem grantAcq_free : grantAcq s a = (counted s a).modTset a.core a.ts (TSet.granted a) := by
  have hfree : (counted s a).binding ((counted s a).ctxOf a.core a.ts) a.pa = none := by
    rw [(counted_step h).home.rest, h.at_]
    exact h.free
  have hcount : counted s a = if a.shared then
      setObj (dequeued s a) a.core a.va a.pa (objShr s a.pa + 1) (objExc s a.pa)
    else setObj (dequeued s a) a.core a.va a.pa (objShr s a.pa) true := by
    unfold counted
    split_ifs <;> rfl
  have hshr : objShr (dequeued s a) a.pa = objShr s a.pa := rfl
  have hexc : objExc (dequeued s a) a.pa = objExc s a.pa := rfl
  unfold grantAcq
  rw [← dequeued]
  simp only [hshr, hexc, ← hcount, hfree]
  rfl

/-- A grant leaves other requests as grantable as they were. -/
theorem grantAcq_grantable {b : AcqWait} (hb : Grantable pa x s b) : Grantable pa x (grantAcq s a) b := by
  have hctx : (grantAcq s a).ctxOf b.core b.ts = s.ctxOf b.core b.ts := by
    have hact : ((grantAcq s a).tset b.core b.ts).act = (s.tset b.core b.ts).act := by
      rw [grantAcq_free h, tset_modTset_keeps (·.act) (TSet.granted_act a), (counted_step h).home.rest]
      rfl
    have hcore : (grantAcq s a).core b.core = s.core b.core := by
      rw [grantAcq_free h, State.core_modTset, (counted_step h).home.rest]
      rfl
    rw [State.ctxOf, hact, hcore]
    rfl
  refine ⟨hb.at_, ?_, ?_⟩
  · rw [hctx, grantAcq_free h]
    have hsame : (counted s a).contexts = s.contexts := by rw [(counted_step h).home.rest]; rfl
    exact (binding_congr (t := (counted s a).modTset a.core a.ts (TSet.granted a)) hsame _ _).trans hb.free
  · rw [grantAcq_free h]
    exact (counted_step h).here b.core b.va (dequeued_here hb.here a)

theorem grantAcq_fields (hroom : objShr s pa + 1 < 2 ^ 32) : Fields (grantAcq s a) pa (if a.shared then objShr s pa + 1 else objShr s pa)
    (if a.shared then objExc s pa else true) (s.homeRead (pa + 8) 4) := by
  have hcount := counted_fields h hroom
  rw [grantAcq_free h]
  exact ⟨hcount.shr, hcount.exc, hcount.epoch⟩

theorem grantAcq_granted : isGranted pa (grantAcq s a) a := by
  rw [isGranted, grantAcq_free h, State.tset_modTset_self, ← h.at_]
  exact ⟨TSet.granted_wait a _, TSet.granted_holds a _⟩

/-- A request that has been granted stays so when another of its object is. -/
theorem grantAcq_keeps {b : AcqWait} (hb : isGranted pa s b) : isGranted pa (grantAcq s a) b := by
  by_cases hsame : b.core * 4 + b.ts = a.core * 4 + a.ts
  · have hself := grantAcq_granted h
    have htset : (grantAcq s a).tset b.core b.ts = (grantAcq s a).tset a.core a.ts := by rw [State.tset, State.tset, hsame]
    rw [isGranted, htset]
    exact hself
  · have htset : (grantAcq s a).tset b.core b.ts = s.tset b.core b.ts := by
      rw [grantAcq_free h, State.tset_modTset_ne _ _ hsame, (counted_step h).home.rest]
      rfl
    rw [isGranted, htset]
    exact hb

end Grant

/-- A request for an exclusive hold at the head of the queue of a free object is granted alone. -/
theorem grantRun_exclusive {pa : Nat} {x : Xlat} {s : State} {a : AcqWait} {rest : List AcqWait} (h : Grantable pa x s a) (hexclusive : a.shared = false)
    (hexc : objExc s pa = false) (hshr : objShr s pa = 0) : grantRun s pa (a :: rest) = grantAcq s a := by
  simp [grantRun, pageBlocked_here h.here, hexclusive, hexc, hshr]

theorem grantRun_shared {pa : Nat} {x : Xlat} {s : State} {a : AcqWait} {rest : List AcqWait} (h : Grantable pa x s a) (hshared : a.shared = true)
    (hexc : objExc s pa = false) : grantRun s pa (a :: rest) = grantRun (grantAcq s a) pa rest := by
  simp [grantRun, pageBlocked_here h.here, hshared, hexc]

/-- An object held exclusive grants nothing. -/
theorem grantRun_held {pa : Nat} {s : State} (h : objExc s pa = true) (as : List AcqWait) : grantRun s pa as = s := by
  cases as with
  | nil => rfl
  | cons a rest =>
    unfold grantRun
    simp only [h, if_true, Bool.true_or]
    split_ifs <;> rfl

/-- A request for an exclusive hold waits while there are holders. -/
theorem grantRun_waits {pa : Nat} {s : State} {a : AcqWait} {rest : List AcqWait} (hexclusive : a.shared = false) (hshr : objShr s pa ≠ 0) :
    grantRun s pa (a :: rest) = s := by
  unfold grantRun
  simp [hexclusive, hshr]

/-- The run of shared requests at the head of a queue is granted together: SHR counts them (R151). -/
theorem grantRun_run {pa : Nat} {x : Xlat} (as : List AcqWait) (s : State) (hall : ∀ b ∈ as, Grantable pa x s b) (hexc : objExc s pa = false)
    (hstart : objShr s pa ≠ 0 ∨ ∀ b ∈ as.head?, b.shared = true) (hroom : objShr s pa + (as.takeWhile (·.shared)).length < 2 ^ 32) :
    (objExc (grantRun s pa as) pa = false ∧ objShr (grantRun s pa as) pa = objShr s pa + (as.takeWhile (·.shared)).length) ∧
      (∀ b ∈ as.takeWhile (·.shared), isGranted pa (grantRun s pa as) b) ∧ ∀ b, isGranted pa s b → isGranted pa (grantRun s pa as) b := by
  induction as generalizing s with
  | nil => exact ⟨⟨hexc, rfl⟩, by simp, fun _ hb => hb⟩
  | cons a rest ih =>
    have ha := hall a List.mem_cons_self
    cases hshared : a.shared with
    | false =>
      have hshr : objShr s pa ≠ 0 := hstart.resolve_right fun hhead => by simp [hshared] at hhead
      rw [grantRun_waits hshared hshr, List.takeWhile_cons_of_neg (by simp [hshared])]
      exact ⟨⟨hexc, rfl⟩, by simp, fun _ hb => hb⟩
    | true =>
      rw [List.takeWhile_cons_of_pos (p := fun b : AcqWait => b.shared) hshared, List.length_cons] at hroom ⊢
      have hfields := grantAcq_fields ha (by omega)
      rw [hshared, if_pos rfl, if_pos rfl] at hfields
      obtain ⟨⟨hexc', hshr'⟩, hrun, hkeep⟩ := ih (grantAcq s a) (fun b hb => grantAcq_grantable ha (hall b (List.mem_cons_of_mem a hb)))
        (hfields.exc.trans hexc) (.inl (by rw [hfields.shr]; omega)) (by rw [hfields.shr]; omega)
      rw [grantRun_shared ha hshared hexc]
      refine ⟨⟨hexc', by rw [hshr', hfields.shr]; omega⟩, fun b hb => ?_, fun b hb => hkeep b (grantAcq_keeps ha hb)⟩
      rcases List.mem_cons.mp hb with rfl | hb
      · exact hkeep b (grantAcq_granted ha)
      · exact hrun b hb

/-! ## ACQ and REL leave their core (R151, R152) -/

/-- The state with a request in an object's queue, for which its thread set waits. -/
def requestQueued (u : State) (pa va : Nat) (shared : Bool) : State :=
  State.modMe { u with acqs := u.acqs ++ [AcqWait.mk pa va u.curCore u.curTs shared] } (fun t => { t with wait := .acq pa false })

theorem holdCount_begin {s : State} (hroom : s.me.holdCount < 8) : ¬Config.maxHolds ≤ (begin s).me.holdCount := by
  rw [TSet.holdCount, begin_me_holds]
  exact Nat.not_le.mpr hroom

section Words
variable {f : Form} {s : State} {x : Xlat} (hready : formReady s f none .none = true)
include hready

theorem exec_acq_granted {pa : Nat} (hwait : s.me.wait = .acq pa true) : exec (.acq f) s = .next (finished f.hints (begin s)) := by
  rw [exec_acq, execAcq]
  refine run_ready_ok _ _ _ _ _ _ hready ?_
  simp only [begin_me_wait, hwait]
  rfl

variable (hok : accessOk (begin s) (s.me.value f.oa) 16 rightA x) (hwait : s.me.wait = .none)
include hok hwait

theorem exec_acq_full (hfull : 8 ≤ s.me.holdCount) : exec (.acq f) s = traps s 0x02 (posTval 2 (encodeField f.oa)) := by
  have hcount : Config.maxHolds ≤ (begin s).me.holdCount := by rw [TSet.holdCount, begin_me_holds]; exact hfull
  rw [exec_acq, execAcq]
  refine run_ready_trap hready ?_
  simp only [begin_me_wait, hwait, begin_value, checkAccess_ok hok, hcount, if_true, bind, Except.bind]
  rfl

variable (hspec : s.mySpec = none)
include hspec

section Room
variable (hroom : s.me.holdCount < 8)
include hroom

/-- A thread set that holds an object exclusive takes a further hold at once. -/
theorem exec_acq_again {h : Hold} (hheld : s.me.holds.find? (fun h => h.pa == x.pa) = some h) (hexclusive : h.exclusive = true) :
    exec (.acq f) s = .next (finished f.hints (((begin s).used (s.me.value f.oa) 16 rightA false).modMe (fun t =>
      t.addHold x.pa (ptrAddr (s.me.value f.oa)) true))) := by
  have hspec' : (begin s).mySpec = none := by rw [begin_mySpec]; exact hspec
  rw [exec_acq, execAcq]
  refine run_ready_ok _ _ _ _ _ _ hready ?_
  simp only [begin_me_wait, hwait, begin_value, checkAccess_ok hok, holdCount_begin hroom, if_false, begin_me_holds, hheld, Option.any_some,
    hexclusive, Bool.not_true, Bool.and_false, Bool.false_eq_true, needOrdinary_ok hspec', used_me, if_true, bind, Except.bind, pure, Except.pure]

/-- A request for an object that its thread set does not hold waits in the object's queue. -/
theorem exec_acq_queues (hheld : s.me.holds.find? (fun h => h.pa == x.pa) = none) :
    exec (.acq f) s = .next (markStall (requestQueued ((begin s).used (s.me.value f.oa) 16 rightA false) x.pa (ptrAddr (s.me.value f.oa))
      (f.md.getLsbD 0))) := by
  have hspec' : (begin s).mySpec = none := by rw [begin_mySpec]; exact hspec
  rw [exec_acq, execAcq]
  refine run_ready_stall hready ?_
  simp only [begin_me_wait, hwait, begin_value, checkAccess_ok hok, holdCount_begin hroom, if_false, begin_me_holds, hheld, Option.any_none,
    Bool.and_false, Bool.false_eq_true, needOrdinary_ok hspec', used_me, bind, Except.bind]
  rfl

end Room

/-- A `REL` whose earlier accesses and write-backs are done releases its object. -/
theorem exec_rel_releases (hquiet : quiet s) (hwb : x.wb = false)
    (hbefore : boundUnpublished (begin s) s.curCore s.myCtx x.pa = false)
    (hafter : boundUnpublished (publishBound (begin s) s.curCore s.myCtx x.pa) s.curCore s.myCtx x.pa = false) :
    exec (.rel f) s = .next (finished f.hints (relObject ((begin s).used (s.me.value f.oa) 16 rightA false) s.curCore s.curTs
      (ptrAddr (s.me.value f.oa)) x.pa)) := by
  have hspec' : (begin s).mySpec = none := by rw [begin_mySpec]; exact hspec
  have hctx : (begin s).ctxOf s.curCore s.curTs = s.myCtx := begin_myCtx s
  have hfence : fenceWaits (begin s) s.curCore s.curTs 1 = false := fenceWaits_quiet hquiet (by norm_num)
  have hatomic : boundAtomic (begin s) s.curCore s.curTs s.myCtx x.pa (begin s).uid = false := by
    have hpend : ((begin s).tset s.curCore s.curTs).pend = [] := (begin_me_pend s).trans hquiet.2.1
    simp [boundAtomic, hpend]
  have hblocked : pageBlocked (begin s) s.curCore (ptrAddr (s.me.value f.oa)) = false := by
    obtain ⟨-, -, -, ⟨e, he, rfl⟩, -⟩ := hok
    rw [pageBlocked, currentXlat_tlb (core := s.curCore) he]
    exact hwb
  have hwaits : relWaits (begin s) s.curCore s.curTs (ptrAddr (s.me.value f.oa)) x.pa = false := by
    simp only [relWaits, hctx, hfence, hbefore, hatomic, hblocked, Bool.or_self]
  rw [exec_rel, execRel]
  refine run_ready_ok _ _ _ _ _ _ hready ?_
  simp only [begin_me_wait, hwait, begin_value, checkAccess_ok hok, needOrdinary_ok hspec', begin_curCore, begin_curTs, hwaits, begin_myCtx, hafter,
    Bool.false_eq_true, if_false, bind, Except.bind, pure, Except.pure]

end Words

/-! ## Bindings (R150, Table 8.8) -/

theorem objWrite_uid (s : State) (core va pa n v : Nat) : (objWrite s core va pa n v).uid = s.uid := by
  have hput : ∀ (u : State) (y : Xlat), (u.putAt y n v).uid = u.uid := fun u y => by rw [(HomeChange.putAt u y n v).rest]
  have hpte : ∀ y, (setPteDirty s y).uid = s.uid := fun y => by rw [(HomeChange.setPteDirty s y).rest]
  rw [objWrite, hput, setDirty]
  split_ifs
  · rfl
  · exact hpte _

/-- BV and BTAG of an object bound under a tag, or to no range (Table 8.7). -/
def tagField : Option (BitVec 12) → Nat
  | some t => t.toNat + 2 ^ 15
  | none => 0

theorem tagField_lt (tag : Option (BitVec 12)) : tagField tag < 2 ^ (8 * 2) := by
  cases tag with
  | none => norm_num [tagField]
  | some t => have := t.isLt; simp only [tagField]; omega

theorem setBinding_eq (s : State) (va pa : Nat) (tag : Option (BitVec 12)) :
    setBinding s va pa tag = objWrite s s.curCore va (pa + 14) 2 (tagField tag) := by
  cases tag <;> rfl

theorem Steady.setBinding (s : State) (va pa : Nat) (tag : Option (BitVec 12)) : Steady s (setBinding s va pa tag) := by
  rw [setBinding_eq]
  exact .objWrite s _ _ _ _ _

/-- BV and BTAG read as they are written. -/
theorem setBinding_home (s : State) (va pa : Nat) (tag : Option (BitVec 12)) : (setBinding s va pa tag).homeRead (pa + 14) 2 = tagField tag := by
  rw [setBinding_eq]
  exact (putAt_homeRead_self (setDirty s s.curCore va (currentXlat s s.curCore va {})) { currentXlat s s.curCore va {} with pa := pa + 14 } 2
    (tagField tag)).trans (Nat.mod_eq_of_lt (tagField_lt tag))

/-- The bindings of a context with a range bound to an object under a tag. -/
def boundTo (bs : List Binding) (pa : Nat) (tag : BitVec 12) (r : Nat × Nat) : List Binding :=
  if (bs.find? (fun b => b.obj == pa)).isSome then bs.map (fun b => if b.obj == pa then { b with ranges := b.ranges ++ [r] } else b)
  else bs ++ [⟨pa, tag, [r]⟩]

/-- An object's binding once a range is bound to it. -/
theorem boundTo_find {bs : List Binding} {pa : Nat} {tag : BitVec 12} (r : Nat × Nat) (htag : ∀ b, bs.find? (fun b => b.obj == pa) = some b → b.tag = tag) :
    ∃ b, (boundTo bs pa tag r).find? (fun b => b.obj == pa) = some b ∧ b.tag = tag ∧ r ∈ b.ranges := by
  unfold boundTo
  cases h : bs.find? (fun b => b.obj == pa) with
  | none =>
    refine ⟨⟨pa, tag, [r]⟩, ?_, rfl, List.mem_singleton_self r⟩
    rw [Option.isSome_none, if_neg (by simp), List.find?_append, h]
    simp
  | some b =>
    have hobj : b.obj = pa := by simpa using List.find?_some h
    refine ⟨{ b with ranges := b.ranges ++ [r] }, ?_, htag b h, List.mem_append_right _ (List.mem_singleton_self r)⟩
    have hsame : (fun b : Binding => b.obj == pa) ∘ (fun b => if b.obj == pa then { b with ranges := b.ranges ++ [r] } else b) =
        fun b => b.obj == pa := by
      funext c
      by_cases hc : c.obj = pa
      · simp [hc]
      · simp [hc]
    rw [Option.isSome_some, if_pos rfl, List.find?_map, hsame, h]
    simp [hobj]

theorem context_modContext_self {s : State} {ctx : Nat} {g : Context → Context} : (s.modContext ctx g).context ctx = (s.context ctx).map g :=
  mget_mmod_self none s.contexts ctx _

section Bind
variable {s : State} {ctx va pa : Nat} {r : Nat × Nat} {bs : List Binding} (hbs : ((s.context ctx).map (·.bindings)).getD [] = bs)
include hbs

theorem bindRange_full {b : Binding} (hold : bs.find? (fun b => b.obj == pa) = some b) (hfull : 4 ≤ b.ranges.length) :
    bindRange s ctx va pa r = (1, s) := by
  unfold bindRange
  simp [hbs, hold, hfull]

theorem bindRange_noTag (hold : bs.find? (fun b => b.obj == pa) = none) (htag : freeTag bs = none) : bindRange s ctx va pa r = (2, s) := by
  unfold bindRange
  simp [hbs, hold, htag]

variable {tag : BitVec 12} (hroom : ∀ b, bs.find? (fun b => b.obj == pa) = some b → b.ranges.length < 4 ∧ b.tag = tag)
  (hfree : bs.find? (fun b => b.obj == pa) = none → freeTag bs = some tag)
include hroom hfree

/-- With room and a tag, a range is bound unless it meets another (Table 8.8). -/
theorem bindRange_tagged : bindRange s ctx va pa r = if bs.any (fun b => b.ranges.any (rangesMeet r)) then (3, s)
    else (0, setBinding (s.modContext ctx (fun c => { c with bindings := boundTo bs pa tag r })) va pa (some tag)) := by
  subst hbs
  unfold bindRange boundTo
  cases hold : (((s.context ctx).map (·.bindings)).getD []).find? (fun b => b.obj == pa) with
  | none => simp [hold, hfree hold]
  | some b =>
    obtain ⟨hlen, rfl⟩ := hroom b hold
    simp [hold, Nat.not_le.mpr hlen]

end Bind

theorem rangesMeet_any_iff {bs : List Binding} {r : Nat × Nat} : bs.any (fun b => b.ranges.any (rangesMeet r)) = true ↔
    ∃ b ∈ bs, ∃ k ∈ b.ranges, k.1 < r.1 + r.2 ∧ r.1 < k.1 + k.2 := by
  simp only [List.any_eq_true, rangesMeet, Bool.and_eq_true, decide_eq_true_eq, and_comm]

/-- The state in which a context's binding of an object is gone, and its tag with it from every line (Table 8.8). -/
def unboundFrom (s : State) (ctx pa : Nat) (tag : BitVec 12) : State :=
  { s.modContext ctx (fun c => { c with bindings := c.bindings.filter (fun x => x.obj != pa) }) with
    clusters := (s.modContext ctx (fun c => { c with bindings := c.bindings.filter (fun x => x.obj != pa) })).clusters.map (fun c => (c.1, { c.2 with
      lines := c.2.lines.map (fun l => if l.tv && l.btag == tag && l.bctx.toNat == ctx then { l with tv := false } else l) })) }

theorem unboundFrom_binding (s : State) (ctx pa : Nat) (tag : BitVec 12) : (unboundFrom s ctx pa tag).binding ctx pa = none := by
  have hctx : (unboundFrom s ctx pa tag).context ctx = (s.context ctx).map (fun c => { c with bindings := c.bindings.filter (fun x => x.obj != pa) }) :=
    context_modContext_self
  rw [State.binding, hctx]
  cases s.context ctx with
  | none => rfl
  | some c => simp [List.find?_eq_none]

section Unbind
variable {s : State} {ctx va pa : Nat}

theorem unbindObject_held (h : objExc s pa = true ∨ objShr s pa ≠ 0) : unbindObject s ctx va pa = (4, s) := by
  unfold unbindObject
  rw [if_pos (by simpa using h)]

variable (hexc : objExc s pa = false) (hshr : objShr s pa = 0)
include hexc hshr

theorem unbindObject_free (h : s.binding ctx pa = none) : unbindObject s ctx va pa = (5, s) := by
  unfold unbindObject
  simp [hexc, hshr, h]

theorem unbindObject_bound {b : Binding} (h : s.binding ctx pa = some b) :
    unbindObject s ctx va pa = (0, setBinding (unboundFrom s ctx pa b.tag) va pa none) := by
  unfold unbindObject
  simp only [hexc, hshr, h, Bool.false_or, bne_self_eq_false, Bool.false_eq_true, if_false]
  rfl

end Unbind

section Words
variable {f : Form} {s : State} {x : Xlat} (hok : accessOk (begin s) (s.me.value f.oa) 16 rightA x) (hspec : s.mySpec = none) (hwb : x.wb = false)
  (hcredit : needCredit (begin s) = .ok ())
include hok hspec hwb hcredit

/-- `UNBIND` answers what its effect gives. -/
theorem exec_unbind_answers (hready : formReady s f none .write = true) {st : Word} {u : State}
    (he : unbindObject ((begin s).used (s.me.value f.oa) 16 rightA false) s.myCtx (ptrAddr (s.me.value f.oa)) x.pa = (st, u)) :
    exec (.unbind f) s = .next (finished f.hints (pendG u (regOf f.od) true (s.me.value f.oa) (.value st))) := by
  have hspec' : (begin s).mySpec = none := by rw [begin_mySpec]; exact hspec
  rw [exec_unbind, execUnbind]
  refine run_ready_ok _ _ _ _ _ _ hready ?_
  simp only [begin_value, checkAccess_ok hok, needOrdinary_ok hspec', hwb, hcredit, begin_myCtx, he, Bool.false_eq_true, if_false, bind, Except.bind,
    pure, Except.pure]

/-- `BIND` of a range that passes its checks answers what its effect gives. -/
theorem exec_bind_answers (hready : formReady s f none .both = true) (hbase : (s.me.value f.ob).toNat % 64 = 0) {n : Nat}
    (hn : (s.me.value f.od).toNat = n) (hpos : 0 < n) (hlines : n % 64 = 0) (hmax : n ≤ 2 ^ 32)
    (hrights : checkRights (begin s) (s.me.value f.ob) n rightR false = .ok ()) (hxlat : ∃ y, checkXlat (begin s) (s.me.value f.ob) = .ok y)
    {st : Word} {u : State} (he : bindRange ((begin s).used (s.me.value f.oa) 16 rightA false) s.myCtx (ptrAddr (s.me.value f.oa)) x.pa
      (ptrAddr (s.me.value f.ob), n) = (st, u)) :
    exec (.bind f) s = .next (finished f.hints (pendG u (regOf f.od) true (s.me.value f.oa) (.value st))) := by
  have hspec' : (begin s).mySpec = none := by rw [begin_mySpec]; exact hspec
  obtain ⟨y, hy⟩ := hxlat
  have halign : (s.me.value f.oa).toNat % 16 = 0 := hok.1
  have hlength : ¬(n = 0 ∨ n % 64 ≠ 0 ∨ 2 ^ 32 < n) := by omega
  rw [exec_bind, execBind]
  refine run_ready_ok _ _ _ _ _ _ hready ?_
  simp only [begin_value, halign, hbase, hn, hlength, checkAccess_ok hok, hrights, hy, needOrdinary_ok hspec', hwb, hcredit, begin_myCtx, he, ne_eq,
    not_true_eq_false, Bool.false_eq_true, if_false, bind, Except.bind, pure, Except.pure]

end Words

theorem finished_pendG_contexts (h : Hints) (u : State) (i : Nat) (credit : Bool) (addr : Word) (kind : PendKind) :
    (finished h (pendG u i credit addr kind)).contexts = u.contexts := by
  rw [(IssueChange.finished h _).rest]; rfl

theorem finished_pendG_home (h : Hints) (u : State) (i : Nat) (credit : Bool) (addr : Word) (kind : PendKind) :
    (finished h (pendG u i credit addr kind)).home = u.home := by
  rw [(IssueChange.finished h _).rest]; rfl

section Bound
variable {s : State} (va pa : Nat) (tag : Option (BitVec 12))

theorem setBinding_level : (setBinding s va pa tag).me.tlvl = s.me.tlvl := by
  have hstep := Steady.setBinding s va pa tag
  rw [State.me, hstep.curCore, hstep.curTs, hstep.tset]
  rfl

theorem setBinding_uid : (setBinding s va pa tag).uid = s.uid := by rw [setBinding_eq, objWrite_uid]

/-- Where a word has written an object's binding, its context's bindings and the object read as the effect left them. -/
theorem finished_setBinding (h : Hints) (i : Nat) (credit : Bool) (addr : Word) (kind : PendKind) (ctx : Nat) :
    (finished h (pendG (setBinding s va pa tag) i credit addr kind)).binding ctx pa = s.binding ctx pa ∧
      (finished h (pendG (setBinding s va pa tag) i credit addr kind)).homeRead (pa + 14) 2 = tagField tag := by
  refine ⟨binding_congr ((finished_pendG_contexts _ _ _ _ _ _).trans (Steady.setBinding s va pa tag).contexts) ctx pa, ?_⟩
  rw [homeRead_congr (finished_pendG_home _ _ _ _ _ _), setBinding_home]

end Bound

/-- A word that writes an object's binding answers status 0. -/
theorem answers_setBinding {i : Instr} {f : Form} {s v : State} {va pa ctx : Nat} {tag : Option (BitVec 12)} {obj : Word}
    (h : exec i s = .next (finished f.hints (pendG (setBinding v va pa tag) (regOf f.od) true obj (.value 0)))) (hlevel : v.me.tlvl = s.me.tlvl)
    (huid : v.uid = s.uid) : ∃ t, answers i f s t 0 ∧ t.binding ctx pa = v.binding ctx pa ∧
      t.homeRead (pa + 14) 2 = tagField tag :=
  ⟨_, answers_of_pendG h ((setBinding_level va pa tag).trans hlevel) ((setBinding_uid va pa tag).trans huid).ge,
    finished_setBinding va pa tag f.hints (regOf f.od) true obj (.value 0) ctx⟩

/-- The object's binding after a range has been bound to it in a context that exists. -/
theorem binding_boundTo {s : State} {ctx pa : Nat} {bs : List Binding} {tag : BitVec 12} (r : Nat × Nat)
    (htag : ∀ b, bs.find? (fun b => b.obj == pa) = some b → b.tag = tag) (hctx : (s.context ctx).isSome = true) :
    ∃ b, (s.modContext ctx (fun c => { c with bindings := boundTo bs pa tag r })).binding ctx pa = some b ∧ b.tag = tag ∧ r ∈ b.ranges := by
  obtain ⟨c, hc⟩ := Option.isSome_iff_exists.mp hctx
  rw [State.binding, context_modContext_self, hc]
  exact boundTo_find r htag

/-- Settles O19: `ACQ`, `REL`, `BIND` and `UNBIND` as their words leave the core; `REL` and the grants at an object that is bound to no range, field
by field; a run of shared requests by induction on the queue. -/
theorem syncAndGrants : Obligations.SyncAndGrants := by
  unfold Obligations.SyncAndGrants
  refine ⟨?_, ?_, ?_, ?_⟩
  · intro f s x obj u base n shared held bs old hok hspec
    have hlevel : u.me.tlvl = s.me.tlvl := begin_me_tlvl s
    refine ⟨fun hready => ⟨fun pa => exec_acq_granted hready, ?_, ?_, fun hfull hwait => exec_acq_full hready hok hwait hfull, ?_⟩, ?_, ?_⟩
    · exact fun h hheld hexclusive hwait hroom => exec_acq_again hready hok hwait hspec hroom hheld hexclusive
    · intro hheld hwait hroom
      refine ⟨_, exec_acq_queues hready hok hwait hspec hroom hheld, ?_, ?_, rfl⟩
      · rw [markStall_me]; rfl
      · rw [markStall_me, requestQueued, State.me_modMe]
    · exact fun hquiet hwait hwb hbefore hafter => exec_rel_releases hready hok hwait hspec hquiet hwb hbefore hafter
    · intro hready hbase hpos hlines hmax hrights hxlat hwb hcredit
      have hanswer : ∀ {st : Word} {v : State}, bindRange u s.myCtx (ptrAddr obj) x.pa (ptrAddr base, n) = (st, v) → v.me.tlvl = s.me.tlvl →
          s.uid ≤ v.uid → answers (.bind f) f s (finished f.hints (pendG v (regOf f.od) true obj (.value st))) st := fun he hl hu =>
        answers_of_pendG (exec_bind_answers hok hspec hwb hcredit hready hbase rfl hpos hlines hmax hrights hxlat he) hl hu
      refine ⟨fun b hold hfull => ⟨_, hanswer (bindRange_full (s := u) rfl hold hfull) hlevel le_rfl⟩,
        fun hold htag => ⟨_, hanswer (bindRange_noTag (s := u) rfl hold htag) hlevel le_rfl⟩, fun tag hroom hfree => ⟨?_, ?_⟩⟩
      · intro hmeets
        have hbound := bindRange_tagged (s := u) (va := ptrAddr obj) (r := (ptrAddr base, n)) rfl hroom hfree
        rw [if_pos (rangesMeet_any_iff.mpr hmeets)] at hbound
        exact ⟨_, hanswer hbound hlevel le_rfl⟩
      · intro hapart hctx
        have hbound := bindRange_tagged (s := u) (va := ptrAddr obj) (r := (ptrAddr base, n)) rfl hroom hfree
        rw [if_neg fun hmeets => by
          obtain ⟨b, hb, k, hk, hlow, hhigh⟩ := rangesMeet_any_iff.mp hmeets
          have := hapart b hb k hk
          omega] at hbound
        obtain ⟨b, hb, htag, hmem⟩ := binding_boundTo (s := u) (ptrAddr base, n) (fun b hb => (hroom b hb).2) hctx
        obtain ⟨t, hanswers, hbinding, hhome⟩ := answers_setBinding (ctx := s.myCtx)
          (exec_bind_answers hok hspec hwb hcredit hready hbase rfl hpos hlines hmax hrights hxlat hbound) hlevel rfl
        exact ⟨t, b, hanswers, hbinding.trans hb, htag, hmem, hhome⟩
    · intro hready hwb hcredit
      have hanswer : ∀ {st : Word} {v : State}, unbindObject u s.myCtx (ptrAddr obj) x.pa = (st, v) → v.me.tlvl = s.me.tlvl → s.uid ≤ v.uid →
          answers (.unbind f) f s (finished f.hints (pendG v (regOf f.od) true obj (.value st))) st := fun he hl hu =>
        answers_of_pendG (exec_unbind_answers hok hspec hwb hcredit hready he) hl hu
      refine ⟨fun hheld => ⟨_, hanswer (unbindObject_held (s := u) hheld) hlevel le_rfl⟩,
        fun hexc hshr hnone => ⟨_, hanswer (unbindObject_free (s := u) hexc hshr hnone) hlevel le_rfl⟩, fun b hexc hshr hb => ?_⟩
      obtain ⟨t, hanswers, hbinding, hhome⟩ := answers_setBinding (ctx := s.myCtx)
        (exec_unbind_answers hok hspec hwb hcredit hready (unbindObject_bound (s := u) hexc hshr hb)) hlevel rfl
      exact ⟨t, hanswers, hbinding.trans (unboundFrom_binding _ _ _ _), hhome⟩
  · intro s core ts va pa x hfree hhere t
    refine ⟨?_, fun hold hhold => ⟨?_, ?_, relObject_holds hfree hhold⟩, fun hnone => ?_⟩
    · cases hhold : (s.tset core ts).holds.find? (fun h => h.pa == pa) with
      | none => exact (congrArg (fun u : State => u.homeRead (pa + 8) 4) (relObject_unheld hfree hhold)).trans (stepEpoch_fields hhere).epoch
      | some hold => exact (relObject_fields hfree hhere hhold).epoch
    · intro hexclusive
      have hfields := relObject_fields hfree hhere hhold
      rw [hexclusive] at hfields
      exact ⟨hfields.shr, by rw [hfields.exc]; simp [bne, beq_eq_decide]⟩
    · intro hshared
      have hfields := relObject_fields hfree hhere hhold
      rw [hshared] at hfields
      exact ⟨hfields.shr, by rw [hfields.exc]; simp⟩
    · have hhold : (s.tset core ts).holds.find? (fun h => h.pa == pa) = none := by simpa [List.find?_eq_none] using hnone
      have hfields := stepEpoch_fields hhere
      rw [← relObject_unheld hfree hhold] at hfields
      exact ⟨hfields.shr, hfields.exc⟩
  · intro s pa x a rest hqueue hexc hready
    have hpa : ∀ b ∈ a :: rest, b.pa = pa := fun b hb => by
      rw [← hqueue] at hb
      simpa using (List.mem_filter.mp hb).2
    have hall : ∀ b ∈ a :: rest, Grantable pa x s b := fun b hb => ⟨hpa b hb, (hready b hb).1, (hready b hb).2⟩
    have ha := hall a List.mem_cons_self
    have hexec : exec (.syncGrant pa) s = .next (grantRun s pa (a :: rest)) := by rw [exec_syncGrant, execSyncGrant, hqueue]
    constructor
    · intro hexclusive hshr
      have hfields := grantAcq_fields ha (by omega)
      rw [hexclusive] at hfields
      rw [grantRun_exclusive ha hexclusive hexc hshr] at hexec
      exact ⟨_, hexec, hfields.exc, hfields.shr.trans hshr, grantAcq_granted ha⟩
    · intro hshared run hroom
      obtain ⟨⟨hexc', hshr'⟩, hgranted, -⟩ := grantRun_run (a :: rest) s hall hexc (.inr (by simpa using hshared)) hroom
      exact ⟨_, hexec, hexc', hshr', hgranted⟩
  · intro s pa hexc
    rw [exec_syncGrant, execSyncGrant, grantRun_held hexc]

end Sys2Proof.Machine

end
